-- ==== Sys2Proof/Word.lean ====
section
/-! DEFINITION. The word types of the Gaolmou GM2 and their plainest arithmetic (00 R7, R14; 00 R6, R11). -/

namespace Sys2Proof

/-- A byte of memory, scratchpad or an image. -/
abbrev Byte := BitVec 8

/-- A 32-bit register (01 R18). -/
abbrev Word := BitVec 32

/-- A 64-bit register pair, handle, mask or address (01 R19). -/
abbrev DWord := BitVec 64

/-- A 96-bit instruction word (01 R14). -/
abbrev InstrWord := BitVec 96

/-- The low and the high half of a 64-bit value, low word in the even register (01 R19). -/
def loWord (x : DWord) : Word := x.setWidth 32
def hiWord (x : DWord) : Word := (x >>> 32).setWidth 32

/-- A 64-bit value from its halves. -/
def joinWords (lo hi : Word) : DWord := (hi.setWidth 64 <<< 32) ||| lo.setWidth 64

/-- Bits [hi:lo] of a number, as a number (00 R7, R11). -/
def bits (x hi lo : Nat) : Nat := x / 2 ^ lo % 2 ^ (hi + 1 - lo)

@[simp] theorem loWord_joinWords (lo hi : Word) : loWord (joinWords lo hi) = lo := by
  unfold loWord joinWords; ext i h; simp

@[simp] theorem hiWord_joinWords (lo hi : Word) : hiWord (joinWords lo hi) = hi := by
  unfold hiWord joinWords; ext i h; simp [show 32 + i < 64 by omega, show i < 64 by omega, BitVec.getLsbD_eq_getElem h]

end Sys2Proof
end

