-- ==== Sys2Proof/Syntax.lean ====
section
/-! DEFINITION. The steps of the GM2 as syntax: one constructor of Instr per row of the opcode table, 146 instructions
of the instruction set (01 R14-R38) and 108 events of the device (95), with the operand and field types they carry. -/

namespace Sys2Proof

/-- The special registers of R24, in index order. -/
inductive SReg where
  | lane | gwidth | gid | bid | nblk | bsize | role | phase | seed | det | tgen | etgen | clock | trapcause | trappc
  deriving DecidableEq, Repr

/-- The index of a special register (R24). -/
def SReg.code : SReg → BitVec 9
  | .lane => 0 | .gwidth => 1 | .gid => 2 | .bid => 3 | .nblk => 4 | .bsize => 5 | .role => 6 | .phase => 7
  | .seed => 8 | .det => 9 | .tgen => 10 | .etgen => 11 | .clock => 12 | .trapcause => 13 | .trappc => 14

/-- `sr.clock` and `sr.trappc` are 64 bits wide (R24). -/
def SReg.wide : SReg → Bool
  | .clock => true | .trappc => true | _ => false

/-- The special registers held per thread that RDSR may not read into a uniform register (R344). -/
def SReg.perThread : SReg → Bool
  | .lane => true | .trapcause => true | .trappc => true | _ => false

/-- The special registers WRSR may name (R345). -/
def SReg.writable : SReg → Bool
  | .etgen => true | .trapcause => true | .trappc => true | _ => false

/-- An operand of one 12-bit field (R18). -/
inductive Opnd where
  /-- class 0: vector register -/
  | v (i : BitVec 8)
  /-- class 1: uniform register -/
  | s (i : Fin 192)
  /-- class 2: predicate; 15 is `pt` -/
  | p (i : BitVec 4)
  /-- class 3: rejoin mask -/
  | m (i : BitVec 3)
  /-- class 3: handle -/
  | h (i : BitVec 4)
  /-- class 3: completion flag -/
  | f (i : Fin 12)
  /-- class 3: accumulator tile -/
  | a (i : BitVec 5)
  /-- class 4: special register -/
  | sr (r : SReg)
  /-- class 5: signed immediate -/
  | imm (x : BitVec 9)
  /-- class 6: the value of the C field -/
  | immC
  deriving DecidableEq, Repr

/-- The flag selection of fsel (R15): none, the clause's flag X, or its flag Y. -/
inductive FSel where
  | none | x | y
  deriving DecidableEq, Repr

/-- The fields every instruction but the two headers carries (R15). -/
structure Common where
  gneg : Bool
  guard : BitVec 4
  bnd : Bool
  fsel : FSel
  reuseA : Bool
  reuseB : Bool
  yld : Bool
  deriving DecidableEq, Repr

/-- The type codes of R34. -/
inductive Ty where
  | i8 | i16 | i32 | i64 | n8 | n16 | n32 | n64 | b32 | b64 | f32 | f16 | bf16
  deriving DecidableEq, Repr

def Ty.code : Ty → BitVec 4
  | .i8 => 0 | .i16 => 1 | .i32 => 2 | .i64 => 3 | .n8 => 4 | .n16 => 5 | .n32 => 6 | .n64 => 7
  | .b32 => 8 | .b64 => 9 | .f32 => 0xA | .f16 => 0xB | .bf16 => 0xC

/-- 64-bit types occupy a register pair (R19). -/
def Ty.wide : Ty → Bool
  | .i64 | .n64 | .b64 => true | _ => false

/-- The size of a type in bytes (R83). -/
def Ty.size : Ty → Nat
  | .i8 | .n8 => 1 | .i16 | .n16 | .f16 | .bf16 => 2 | .i64 | .n64 | .b64 => 8 | _ => 4

def Ty.isSigned : Ty → Bool
  | .i8 | .i16 | .i32 | .i64 => true | _ => false
def Ty.isInt4 : Ty → Bool
  | .i32 | .i64 | .n32 | .n64 => true | _ => false
def Ty.isInt2 : Ty → Bool
  | .i32 | .n32 => true | _ => false
def Ty.isSigned2 : Ty → Bool
  | .i32 | .i64 => true | _ => false
def Ty.isHalf : Ty → Bool
  | .f16 | .bf16 => true | _ => false
def Ty.isFloat : Ty → Bool
  | .f32 | .f16 | .bf16 => true | _ => false
/-- The bit types `.b32` and `.b64`. -/
def Ty.isBit : Ty → Bool
  | .b32 | .b64 => true | _ => false
/-- The types a load or store names: codes 0x0 to 0x9 (R88, R92). -/
def Ty.isMem : Ty → Bool
  | .f32 | .f16 | .bf16 => false | _ => true
/-- The types of GARG: 0x2, 0x6, 0xA, 0xB, 0xC (R35). -/
def Ty.isGroup : Ty → Bool
  | .i32 | .n32 | .f32 | .f16 | .bf16 => true | _ => false

/-- The rounding codes of R34. -/
inductive Rm where
  | rne | rz | rd | ru
  deriving DecidableEq, Repr

def Rm.code : Rm → BitVec 2
  | .rne => 0 | .rz => 1 | .rd => 2 | .ru => 3

/-- The comparison codes of ISETP and FSETP (R35). -/
inductive Cmp where
  | eq | ne | lt | le | gt | ge | num | nan
  deriving DecidableEq, Repr

def Cmp.code : Cmp → BitVec 3
  | .eq => 0 | .ne => 1 | .lt => 2 | .le => 3 | .gt => 4 | .ge => 5 | .num => 6 | .nan => 7
def Cmp.isRel : Cmp → Bool
  | .num => false | .nan => false | _ => true

/-- The operations of ATOM, RED and FATOM (R98). -/
inductive AtomOp where
  | add | min | max | and | or | xor | exch | cas | fadd
  deriving DecidableEq, Repr

def AtomOp.code : AtomOp → BitVec 4
  | .add => 0 | .min => 1 | .max => 2 | .and => 3 | .or => 4 | .xor => 5 | .exch => 6 | .cas => 7 | .fadd => 8
/-- RED takes every operation but exch and cas (R35). -/
def AtomOp.isRed : AtomOp → Bool
  | .exch => false | .cas => false | _ => true

/-- The operations of GRED, GSCAN and COLL (R35). -/
inductive RedOp where
  | add | min | max | and | or | xor
  deriving DecidableEq, Repr

def RedOp.code : RedOp → BitVec 3
  | .add => 0 | .min => 1 | .max => 2 | .and => 3 | .or => 4 | .xor => 5

/-- The modes of SHFL (R35). -/
inductive ShflMode where
  | idx | up | down | xor
  deriving DecidableEq, Repr

def ShflMode.code : ShflMode → BitVec 2
  | .idx => 0 | .up => 1 | .down => 2 | .xor => 3

/-- The modes of VOTE (R35). -/
inductive VoteMode where
  | all | any | uni
  deriving DecidableEq, Repr

def VoteMode.code : VoteMode → BitVec 2
  | .all => 0 | .any => 1 | .uni => 2

/-- The scopes of R35. -/
inductive Scope where
  | th | grp | blk | cl | dev | sys
  deriving DecidableEq, Repr

def Scope.code : Scope → BitVec 3
  | .th => 0 | .grp => 1 | .blk => 2 | .cl => 3 | .dev => 4 | .sys => 5

/-- The order codes of R36. -/
inductive Order where
  | weak | acquire | release | acqrel
  deriving DecidableEq, Repr

def Order.code : Order → BitVec 2
  | .weak => 0 | .acquire => 1 | .release => 2 | .acqrel => 3
def Order.isAcquire : Order → Bool
  | .acquire | .acqrel => true | _ => false
def Order.isRelease : Order → Bool
  | .release | .acqrel => true | _ => false

/-- The directions of ACOPY (R137). -/
inductive CopyDir where
  | g2sp | sp2g | g2wb | sp2sp
  deriving DecidableEq, Repr

def CopyDir.code : CopyDir → BitVec 2
  | .g2sp => 0 | .sp2g => 1 | .g2wb => 2 | .sp2sp => 3

/-- The engine classes of R130 and WAITC (R136). -/
inductive EngClass where
  | copy | matrix | coll | fabric
  deriving DecidableEq, Repr

def EngClass.code : EngClass → BitVec 2
  | .copy => 0 | .matrix => 1 | .coll => 2 | .fabric => 3

/-- The extents of WBAR (R330). -/
inductive WExt where
  | cl | dev | sys
  deriving DecidableEq, Repr

def WExt.code : WExt → BitVec 2
  | .cl => 0 | .dev => 1 | .sys => 2

/-- The kinds of COLL (R274). -/
inductive CollKind where
  | allreduce | redscat | allgather | alltoall
  deriving DecidableEq, Repr

def CollKind.code : CollKind → BitVec 2
  | .allreduce => 0 | .redscat => 1 | .allgather => 2 | .alltoall => 3

/-- The memory control word (R36). -/
structure MemCtl where
  hash : Bool
  order : Order
  rp : Bool
  scope : Scope
  offset : BitVec 24
  deriving DecidableEq, Repr

/-- A group by its logical place: an admitted launch, a block of it, and `sr.gid`. -/
structure GroupRef where
  launch : Nat
  blk : Nat
  gid : Nat
  deriving DecidableEq, Repr

/-- A host queue: its PASID and its number (R309). -/
structure QueueRef where
  pasid : BitVec 20
  qn : Nat
  deriving DecidableEq, Repr

/-- The kinds of access a walk distinguishes (R70). -/
inductive Access where
  | fetch | read | write
  deriving DecidableEq, Repr

/-- What the scrubbers read: a 64-byte half line of main memory or a 64-bit codeword of a slice, by physical address
(R58, R63). -/
inductive Codeword where
  | half (addr : Nat)
  | slice (addr : Nat)
  deriving DecidableEq, Repr

/-- What a read of a codeword finds (R58, R59). -/
inductive ErrorFound where
  | clean | corrected | uncorrectable
  deriving DecidableEq, Repr

/-- A request that the table of R374 does not support: one of the two that it names, or any other, with its bytes. -/
inductive OtherRequest where
  | bindP2pStream (bytes : List Byte) | setMmioAttribute (bytes : List Byte) | other (bytes : List Byte)
  deriving DecidableEq, Repr

/-- A firmware package in flash: its bytes with its signature, and its version (R380). -/
structure FirmwarePackage where
  bytes : List Byte
  version : BitVec 32
  deriving DecidableEq, Repr

/-- A flit: its 16-byte header and its 240 payload bytes (R249, R250). -/
structure Flit where
  hdr : BitVec 128
  payload : List Byte
  deriving DecidableEq, Repr

/-- A short flit: a header and a 16-byte body (R251). -/
structure ShortFlit where
  hdr : BitVec 128
  body : BitVec 128
  deriving DecidableEq, Repr

/-- The AtomicOps of PCI Express (R47, R370). -/
inductive HostAtomic where
  | fetchAdd | swap | cas
  deriving DecidableEq, Repr

/-- Where a register write goes: BAR 0, or configuration space (R372, R378). -/
inductive RegSpace where
  | bar0 | config
  deriving DecidableEq, Repr

/-- The steps of the part, in the order of the opcode table, the rows without arguments last (Lean's compiler numbers only
the first 245 constructors with arguments). -/
inductive Instr where
  /-- CLAUSE (R26). -/
  | clause (flagX flagY : BitVec 4) (wait : BitVec 12)
  /-- REGION (R29). -/
  | region (bnd : Bool) (off : BitVec 32)
  /-- NOP (R37). -/
  | nop (c : Common)
  /-- TRAP (R343). -/
  | trap (c : Common) (a : Opnd)
  /-- BRK (R343). -/
  | brk (c : Common)
  /-- RDSR (R344). -/
  | rdsr (c : Common) (d : Opnd) (sr : SReg)
  /-- WRSR (R345). -/
  | wrsr (c : Common) (sr : SReg) (a : Opnd) (k : BitVec 32)
  /-- MOV (R181). -/
  | mov (c : Common) (wide : Bool) (d a : Opnd) (k : BitVec 32)
  /-- MOVI (R181). -/
  | movi (c : Common) (d : Opnd) (k : BitVec 32)
  /-- MOVI_W (R181). -/
  | moviW (c : Common) (d : Opnd) (k : BitVec 32)
  /-- MOVI_HI (R181). -/
  | moviHi (c : Common) (d : Opnd) (k : BitVec 32)
  /-- UMOV (R182). -/
  | umov (c : Common) (wide : Bool) (d a : Opnd) (k : BitVec 32)
  /-- UMOV_BC (R182). -/
  | umovBc (c : Common) (wide : Bool) (d a : Opnd) (k : BitVec 32)
  /-- UMOV_LN (R182). -/
  | umovLn (c : Common) (wide : Bool) (d a b : Opnd) (k : BitVec 32)
  /-- HGET (R133). -/
  | hget (c : Common) (d a : Opnd)
  /-- HPUT (R133). -/
  | hput (c : Common) (d a : Opnd)
  /-- BRA (R292). -/
  | bra (c : Common) (off : BitVec 32)
  /-- BRA_DV (R301). -/
  | braDv (c : Common) (off : BitVec 32)
  /-- BRX (R292). -/
  | brx (c : Common) (a : Opnd)
  /-- CALL (R293). -/
  | call (c : Common) (off : BitVec 32)
  /-- CALLI (R293). -/
  | calli (c : Common) (a : Opnd)
  /-- CALLT (R295). -/
  | callt (c : Common) (a : Opnd) (k : BitVec 32)
  /-- RET (R293). -/
  | ret (c : Common)
  /-- EXIT (R296). -/
  | exit (c : Common)
  /-- REJOIN (R303). -/
  | rejoin (c : Common)
  /-- MJOIN (R299). -/
  | mjoin (c : Common) (a : Opnd)
  /-- MSET (R298). -/
  | mset (c : Common) (d a : Opnd) (k : BitVec 32)
  /-- MGET (R298). -/
  | mget (c : Common) (d a : Opnd)
  /-- YIELD (R297). -/
  | yield (c : Common)
  /-- IADD (R184). -/
  | iadd (c : Common) (ty : Ty) (sat : Bool) (d a b : Opnd) (k : BitVec 32)
  /-- IADD3 (R184). -/
  | iadd3 (c : Common) (ty : Ty) (sat : Bool) (d a b e : Opnd)
  /-- ISUB (R184). -/
  | isub (c : Common) (ty : Ty) (sat : Bool) (d a b : Opnd) (k : BitVec 32)
  /-- IMUL (R184). -/
  | imul (c : Common) (ty : Ty) (d a b : Opnd) (k : BitVec 32)
  /-- IMULH (R184). -/
  | imulh (c : Common) (ty : Ty) (d a b : Opnd) (k : BitVec 32)
  /-- IMAD (R184). -/
  | imad (c : Common) (ty : Ty) (sat : Bool) (d a b e : Opnd)
  /-- IMADW (R184). -/
  | imadw (c : Common) (ty : Ty) (d a b e : Opnd)
  /-- IABS (R184). -/
  | iabs (c : Common) (ty : Ty) (sat : Bool) (d a : Opnd) (k : BitVec 32)
  /-- INEG (R184). -/
  | ineg (c : Common) (ty : Ty) (sat : Bool) (d a : Opnd) (k : BitVec 32)
  /-- IMIN (R184). -/
  | imin (c : Common) (ty : Ty) (d a b : Opnd) (k : BitVec 32)
  /-- IMAX (R184). -/
  | imax (c : Common) (ty : Ty) (d a b : Opnd) (k : BitVec 32)
  /-- ISAD (R184). -/
  | isad (c : Common) (ty : Ty) (d a b e : Opnd)
  /-- LEA (R186). -/
  | lea (c : Common) (wide : Bool) (sh : BitVec 3) (d a b : Opnd) (k : BitVec 32)
  /-- ADDC (R185). -/
  | addc (c : Common) (wide : Bool) (d a b e : Opnd)
  /-- SUBC (R185). -/
  | subc (c : Common) (wide : Bool) (d a b e : Opnd)
  /-- AND (R188). -/
  | andb (c : Common) (wide : Bool) (d a b : Opnd) (k : BitVec 32)
  /-- OR (R188). -/
  | orb (c : Common) (wide : Bool) (d a b : Opnd) (k : BitVec 32)
  /-- XOR (R188). -/
  | xorb (c : Common) (wide : Bool) (d a b : Opnd) (k : BitVec 32)
  /-- NOT (R188). -/
  | notb (c : Common) (wide : Bool) (d a : Opnd) (k : BitVec 32)
  /-- TLOG (R188). -/
  | tlog (c : Common) (tt : BitVec 8) (d a b e : Opnd)
  /-- SHL (R189). -/
  | shl (c : Common) (wide : Bool) (d a b : Opnd) (k : BitVec 32)
  /-- SHR (R189). -/
  | shr (c : Common) (wide : Bool) (d a b : Opnd) (k : BitVec 32)
  /-- SAR (R189). -/
  | sar (c : Common) (wide : Bool) (d a b : Opnd) (k : BitVec 32)
  /-- FUNL (R189). -/
  | funl (c : Common) (d a b e : Opnd)
  /-- FUNR (R189). -/
  | funr (c : Common) (d a b e : Opnd)
  /-- ROT (R189). -/
  | rot (c : Common) (wide right : Bool) (d a b : Opnd) (k : BitVec 32)
  /-- BFE (R190). -/
  | bfe (c : Common) (ty : Ty) (d a b : Opnd) (k : BitVec 32)
  /-- BFI (R190). -/
  | bfi (c : Common) (wide : Bool) (d a b e : Opnd)
  /-- BMSK (R190). -/
  | bmsk (c : Common) (d a b : Opnd) (k : BitVec 32)
  /-- POPC (R191). -/
  | popc (c : Common) (wide : Bool) (d a : Opnd) (k : BitVec 32)
  /-- CLZ (R191). -/
  | clz (c : Common) (wide : Bool) (d a : Opnd) (k : BitVec 32)
  /-- CTZ (R191). -/
  | ctz (c : Common) (wide : Bool) (d a : Opnd) (k : BitVec 32)
  /-- BREV (R191). -/
  | brev (c : Common) (wide : Bool) (d a : Opnd) (k : BitVec 32)
  /-- BYSEL (R192). -/
  | bysel (c : Common) (d a b e : Opnd)
  /-- ISETP (R194). -/
  | isetp (c : Common) (ty : Ty) (cmp : Cmp) (d a b : Opnd) (k : BitVec 32)
  /-- FSETP (R194). -/
  | fsetp (c : Common) (cmp : Cmp) (unord : Bool) (d a b : Opnd) (k : BitVec 32)
  /-- HSETP2 (R194). -/
  | hsetp2 (c : Common) (ty : Ty) (cmp : Cmp) (unord : Bool) (d a b e : Opnd)
  /-- SEL (R195). -/
  | sel (c : Common) (wide : Bool) (d a b e : Opnd)
  /-- PSET (R195). -/
  | pset (c : Common) (tt : BitVec 8) (d a b e : Opnd)
  /-- P2V (R196). -/
  | p2v (c : Common) (d : Opnd)
  /-- V2P (R196). -/
  | v2p (c : Common) (a b : Opnd) (k : BitVec 32)
  /-- FADD (R198). -/
  | fadd (c : Common) (rm : Rm) (ftz : Bool) (d a b : Opnd) (k : BitVec 32)
  /-- FSUB (R198). -/
  | fsub (c : Common) (rm : Rm) (ftz : Bool) (d a b : Opnd) (k : BitVec 32)
  /-- FMUL (R198). -/
  | fmul (c : Common) (rm : Rm) (ftz : Bool) (d a b : Opnd) (k : BitVec 32)
  /-- FFMA (R198). -/
  | ffma (c : Common) (rm : Rm) (ftz : Bool) (d a b e : Opnd)
  /-- FMIN (R199). -/
  | fmin (c : Common) (nan ftz : Bool) (d a b : Opnd) (k : BitVec 32)
  /-- FMAX (R199). -/
  | fmax (c : Common) (nan ftz : Bool) (d a b : Opnd) (k : BitVec 32)
  /-- FDIV (R200). -/
  | fdiv (c : Common) (rm : Rm) (ftz : Bool) (d a b : Opnd) (k : BitVec 32)
  /-- FSQRT (R200). -/
  | fsqrt (c : Common) (rm : Rm) (ftz : Bool) (d a : Opnd) (k : BitVec 32)
  /-- FRCP (R200). -/
  | frcp (c : Common) (rm : Rm) (ftz : Bool) (d a : Opnd) (k : BitVec 32)
  /-- FRSQ (R200). -/
  | frsq (c : Common) (ftz : Bool) (d a : Opnd) (k : BitVec 32)
  /-- FEX2 (R200). -/
  | fex2 (c : Common) (ftz : Bool) (d a : Opnd) (k : BitVec 32)
  /-- FLG2 (R200). -/
  | flg2 (c : Common) (ftz : Bool) (d a : Opnd) (k : BitVec 32)
  /-- FSIN (R200). -/
  | fsin (c : Common) (ftz : Bool) (d a : Opnd) (k : BitVec 32)
  /-- FCOS (R200). -/
  | fcos (c : Common) (ftz : Bool) (d a : Opnd) (k : BitVec 32)
  /-- FTANH (R200). -/
  | ftanh (c : Common) (ftz : Bool) (d a : Opnd) (k : BitVec 32)
  /-- FCLASS (R201). -/
  | fclass (c : Common) (d a : Opnd) (k : BitVec 32)
  /-- HADD2 (R202). -/
  | hadd2 (c : Common) (ty : Ty) (rm : Rm) (d a b : Opnd)
  /-- HMUL2 (R202). -/
  | hmul2 (c : Common) (ty : Ty) (rm : Rm) (d a b : Opnd)
  /-- HFMA2 (R202). -/
  | hfma2 (c : Common) (ty : Ty) (rm : Rm) (d a b e : Opnd)
  /-- HMIN2 (R202). -/
  | hmin2 (c : Common) (ty : Ty) (nan : Bool) (d a b : Opnd)
  /-- HMAX2 (R202). -/
  | hmax2 (c : Common) (ty : Ty) (nan : Bool) (d a b : Opnd)
  /-- CVT (R203). -/
  | cvt (c : Common) (dty sty : Ty) (rm : Rm) (sat : Bool) (d a : Opnd)
  /-- CVTH (R204). -/
  | cvth (c : Common) (dty sty : Ty) (rm : Rm) (sat : Bool) (d a : Opnd) (b : Option Opnd)
  /-- FRND (R205). -/
  | frnd (c : Common) (ty : Ty) (rm : Rm) (d a : Opnd)
  /-- QNT (R206). -/
  | qnt (c : Common) (useB : Bool) (slot : BitVec 3) (d a b : Opnd)
  /-- DQNT (R206). -/
  | dqnt (c : Common) (useB : Bool) (slot : BitVec 3) (d a b : Opnd)
  /-- IDIV (R207). -/
  | idiv (c : Common) (ty : Ty) (d a b : Opnd) (k : BitVec 32)
  /-- IREM (R207). -/
  | irem (c : Common) (ty : Ty) (d a b : Opnd) (k : BitVec 32)
  /-- LD (R89). -/
  | ld (c : Common) (ty : Ty) (scale : BitVec 2) (d a : Opnd) (idx : Option Opnd) (mc : MemCtl)
  /-- ST (R93). -/
  | st (c : Common) (ty : Ty) (scale : BitVec 2) (d a : Opnd) (idx : Option Opnd) (mc : MemCtl)
  /-- LDSP (R90). -/
  | ldsp (c : Common) (ty : Ty) (scale : BitVec 2) (d a : Opnd) (idx : Option Opnd) (mc : MemCtl)
  /-- STSP (R94). -/
  | stsp (c : Common) (ty : Ty) (scale : BitVec 2) (d a : Opnd) (idx : Option Opnd) (mc : MemCtl)
  /-- LDC (R89). -/
  | ldc (c : Common) (ty : Ty) (lr : Bool) (scale : BitVec 2) (d a : Opnd) (idx : Option Opnd) (mc : MemCtl)
  /-- ATOM (R99). -/
  | atom (c : Common) (ty : Ty) (op : AtomOp) (d a b : Opnd) (mc : MemCtl)
  /-- RED (R99). -/
  | red (c : Common) (ty : Ty) (op : AtomOp) (a b : Opnd) (mc : MemCtl)
  /-- FENCE (R97). -/
  | fence (c : Common) (rp : Bool) (scope : Scope) (order : Order)
  /-- PREF (R95). -/
  | pref (c : Common) (slice : Bool) (a : Opnd) (idx : Option Opnd) (offset : BitVec 24)
  /-- SHFL (R217). -/
  | shfl (c : Common) (mode : ShflMode) (wide : Bool) (d a b : Opnd) (msk : Option Opnd)
  /-- VOTE (R218). -/
  | vote (c : Common) (mode : VoteMode) (d a : Opnd) (msk : Option Opnd)
  /-- BALLOT (R218). -/
  | ballot (c : Common) (d a : Opnd) (msk : Option Opnd)
  /-- GRED (R219). -/
  | gred (c : Common) (ty : Ty) (op : RedOp) (d a : Opnd) (msk : Option Opnd)
  /-- GSCAN (R220). -/
  | gscan (c : Common) (ty : Ty) (op : RedOp) (excl : Bool) (d a : Opnd) (msk : Option Opnd)
  /-- GARG (R221). -/
  | garg (c : Common) (ty : Ty) (nanwin hash isMin : Bool) (d a : Opnd) (b msk : Option Opnd)
  /-- MATCH (R218). -/
  | matchOp (c : Common) (wide all : Bool) (d a : Opnd) (msk : Option Opnd)
  /-- ELECT (R218). -/
  | elect (c : Common) (d : Opnd) (msk : Option Opnd)
  /-- BXCH (R222). -/
  | bxch (c : Common) (wide : Bool) (d a b e : Opnd)
  /-- ACOPY (R137). -/
  | acopy (c : Common) (cb : Bool) (dims : BitVec 2) (dir : CopyDir) (d a : Opnd) (b : Option Opnd)
  /-- DCMP (R145). -/
  | dcmp (c : Common) (sp : Bool) (d a : Opnd)
  /-- FWAIT (R134). -/
  | fwait (c : Common) (d a : Opnd)
  /-- FTEST (R134). -/
  | ftest (c : Common) (d a : Opnd)
  /-- FCANCEL (R134). -/
  | fcancel (c : Common) (a : Opnd)
  /-- WAITC (R136). -/
  | waitc (c : Common) (scope : Scope) (cls : EngClass) (a : Opnd)
  /-- QPUSH (R151). -/
  | qpush (c : Common) (a b : Opnd)
  /-- QPOP (R151). -/
  | qpop (c : Common) (d a : Opnd)
  /-- QTRY_PUSH (R151). -/
  | qtryPush (c : Common) (d a b : Opnd)
  /-- QTRY_POP (R151). -/
  | qtryPop (c : Common) (d a e : Opnd)
  /-- MRES (R227). -/
  | mres (c : Common) (d : Opnd)
  /-- MREL (R228). -/
  | mrel (c : Common)
  /-- MLDW (R234). -/
  | mldw (c : Common) (slot : BitVec 3) (d a : Opnd)
  /-- MZERO (R235). -/
  | mzero (c : Common) (d : Opnd)
  /-- MMA (R236). -/
  | mma (c : Common) (slot : BitVec 3) (d a b : Opnd)
  /-- MMAS (R236). -/
  | mmas (c : Common) (slot : BitVec 3) (d a b : Opnd)
  /-- MST (R239). -/
  | mst (c : Common) (ty : Ty) (bias rs : Bool) (rm : Rm) (d a b : Opnd)
  /-- MCOMMIT (R241). -/
  | mcommit (c : Common)
  /-- BAR (R328). -/
  | bar (c : Common) (a : Opnd) (b : Option Opnd) (k : BitVec 32)
  /-- BARA (R328). -/
  | bara (c : Common) (a : Opnd) (b : Option Opnd) (k : BitVec 32)
  /-- BARW (R328). -/
  | barw (c : Common) (a : Opnd)
  /-- WBAR (R330). -/
  | wbar (c : Common) (ext : WExt)
  /-- FLUSHPT (R332). -/
  | flushpt (c : Common)
  /-- DLAUNCH (R333). -/
  | dlaunch (c : Common) (d a e : Opnd)
  /-- FPUT (R270). -/
  | fput (c : Common) (d a : Opnd)
  /-- FGET (R270). -/
  | fget (c : Common) (d a : Opnd)
  /-- FATOM (R272). -/
  | fatom (c : Common) (ty : Ty) (op : AtomOp) (d a b : Opnd) (mc : MemCtl)
  /-- COLL (R274). -/
  | coll (c : Common) (ty : Ty) (op : RedOp) (kind : CollKind) (d a : Opnd)
  /-- RECONF (R279). -/
  | reconf (c : Common) (d a b : Opnd) (k : BitVec 32)
  /-- TGSET (R278). -/
  | tgset (c : Common) (a : Opnd) (k : BitVec 32)
  /-- ISSUE_ARBITRATION (R287, R325: a pipe of a core picks a group and a run and fetches its clause). -/
  | issueArbitration (core pipe : Nat)
  /-- PIP_ISSUE (R302: a pip core serves its next context for one clause). -/
  | pipIssue (cluster pip : Nat)
  /-- EJECT_SOFT_TIMEOUT (R304). -/
  | ejectSoftTimeout (g : GroupRef)
  /-- EJECT_HARD_TIMEOUT (R304). -/
  | ejectHardTimeout (g : GroupRef) (lane : Nat)
  /-- LONG_LATENCY_COMPLETE (R27, R28: one long-latency instruction in flight completes). -/
  | longLatencyComplete (op : Nat)
  /-- PAGE_WALK (R67-R71: the walker of a cluster refills its TLB). -/
  | pageWalk (cluster : Nat) (pasid : BitVec 20) (va : BitVec 57) (acc : Access)
  /-- FAULT_RESOLVED (R80: the agent resolves a logged fault). -/
  | faultResolved (entry : Nat)
  /-- FAULT_UNRESOLVABLE (R80: the agent gives a logged fault up). -/
  | faultUnresolvable (entry : Nat)
  /-- BINDING_RESOLVED (R295). -/
  | bindingResolved (launch k : Nat) (target : BitVec 32)
  /-- BINDING_FAILED (R295). -/
  | bindingFailed (launch k : Nat)
  /-- SHOOTDOWN_START (R76: the host writes the shoot-down control register with sdgo set). -/
  | shootdownStart (w : BitVec 64) (t : Bool)
  /-- SDDROP_CLEAR (R65: the host writes 1 to sddrop). -/
  | sddropClear (w : BitVec 64) (t : Bool)
  /-- SHOOTDOWN_ACK (R77). -/
  | shootdownAck (cluster : Nat)
  /-- FLUSH_COMPLETE (R104, R332). -/
  | flushComplete (launch : Nat)
  /-- FLUSH_FAULT_RESOLVED (R105). -/
  | flushFaultResolved (launch : Nat)
  /-- COPY_CHUNK_COMPLETE (R142). -/
  | copyChunkComplete (cmd chunk : Nat)
  /-- COPY_COMPLETE (R141, R144). -/
  | copyComplete (cmd : Nat)
  /-- DCMP_JOB_COMPLETE (R147). -/
  | dcmpJobComplete (cmd : Nat)
  /-- MATRIX_COMMAND_START (R229, R242). -/
  | matrixCommandStart (pair : Nat)
  /-- MATRIX_COMMAND_COMPLETE (R229, R238). -/
  | matrixCommandComplete (pair : Nat)
  /-- SCRUB_STEP (R63: one codeword is read, and its errors corrected or made poison). -/
  | scrubStep (codeword : Codeword) (err : ErrorFound)
  /-- DEVICE_RESET (R51, R380). -/
  | deviceReset (pkg : FirmwarePackage)
  /-- WATCHDOG_EXPIRY (R316). -/
  | watchdogExpiry (launch : Nat)
  /-- NOTIFY (R311: a host write to BAR 2). -/
  | notify (page off width : Nat) (w : BitVec 64) (t : Bool)
  /-- NOP_PACKET (R313). -/
  | nopPacket (q : QueueRef)
  /-- LAUNCH (R313, R321). -/
  | launchPacket (q : QueueRef)
  /-- WAIT_SIGNAL (R313). -/
  | waitSignalPacket (q : QueueRef)
  /-- SET_SIGNAL (R313). -/
  | setSignalPacket (q : QueueRef)
  /-- IMAGE_SAVE (R351). -/
  | imageSavePacket (q : QueueRef)
  /-- IMAGE_LOAD (R364). -/
  | imageLoadPacket (q : QueueRef)
  /-- DIRTY_HARVEST (R79). -/
  | dirtyHarvestPacket (q : QueueRef)
  /-- PLAN_LOAD (R258, R313). -/
  | planLoadPacket (q : QueueRef)
  /-- INVALID_PACKET (R314). -/
  | invalidPacket (q : QueueRef)
  /-- PACKET_COMPLETE (R312). -/
  | packetComplete (q : QueueRef) (idx : Nat)
  /-- BLOCK_CLAIM (R315, R322: an agent claims the next block and places it from the named core on, with the named matrix pair). -/
  | blockClaim (launch core pair : Nat)
  /-- BLOCK_MIGRATE (R323). -/
  | blockMigrate (launch blk core pair : Nat)
  /-- BLOCK_IMAGE_OUT (R331). -/
  | blockImageOut (launch blk : Nat)
  /-- BLOCK_RETIRE (R132, R228). -/
  | blockRetire (launch blk : Nat)
  /-- CHILD_ADMISSION (R334). -/
  | childAdmission (entry : Nat)
  /-- PREEMPT (R348: the next action of the Proofer on the launch). -/
  | preempt (launch : Nat)
  /-- PROOFER_CLAUSE_LIMIT (R348 step 4, R350). -/
  | prooferClauseLimit (g : GroupRef) (lane : Nat)
  /-- REMOTE_RESEND (R73). -/
  | remoteResend (txn : Nat)
  /-- FLIT_READ (R266, R267: a flit of this type is accepted at a port). -/
  | flitRead (port : Nat) (f : Flit)
  /-- FLIT_WRITE (R266, R267: a flit of this type is accepted at a port). -/
  | flitWrite (port : Nat) (f : Flit)
  /-- FLIT_ATOMIC (R273: a flit of this type is accepted at a port). -/
  | flitAtomic (port : Nat) (f : Flit)
  /-- FLIT_READ_REPLY (R267: a flit of this type is accepted at a port). -/
  | flitReadReply (port : Nat) (f : Flit)
  /-- FLIT_WRITE_ACK (R267: a flit of this type is accepted at a port). -/
  | flitWriteAck (port : Nat) (f : Flit)
  /-- FLIT_COLLECTIVE_DATA (R275: a flit of this type is accepted at a port). -/
  | flitCollectiveData (port : Nat) (f : Flit)
  /-- FLIT_ATOMIC_REPLY (R273: a flit of this type is accepted at a port). -/
  | flitAtomicReply (port : Nat) (f : Flit)
  /-- BUFFER_RELEASE (R251, R256). -/
  | bufferRelease (port : Nat) (f : ShortFlit)
  /-- BUFFER_RELEASE_FORCED (R252). -/
  | bufferReleaseForced (port : Nat)
  /-- RETRY_AFTER (R73, R251). -/
  | retryAfter (port : Nat) (f : ShortFlit)
  /-- STALE_REJECT (R265). -/
  | staleReject (port : Nat) (f : ShortFlit)
  /-- READY (R280). -/
  | ready (port : Nat) (f : ShortFlit)
  /-- GO (R280). -/
  | go (port : Nat) (f : ShortFlit)
  /-- ABORT (R281). -/
  | abort (port : Nat) (f : ShortFlit)
  /-- COLLECTIVE_RESTART (R276, R277). -/
  | collectiveRestart (port : Nat) (f : ShortFlit)
  /-- LINK_PROBE (R251, R252). -/
  | linkProbe (port : Nat) (f : ShortFlit)
  /-- LINK_FRAME (R253-R255: a frame of 320 bytes arrives at a port). -/
  | linkFrame (port : Nat) (bytes : List Byte)
  /-- REPLAY_TIMEOUT (R255 item 6). -/
  | replayTimeout (port : Nat)
  /-- TRAINING_FRAME (R256: a frame arrives while the port trains). -/
  | trainingFrame (port : Nat) (bytes : List Byte)
  /-- PORT_DOWN (R248, R249: a port loses a channel). -/
  | portDown (port : Nat)
  /-- REROUTE_TIMEOUT (R263). -/
  | rerouteTimeout (txn : Nat)
  /-- SWITCH_REPLY (R282). -/
  | switchReply (bytes : List Byte)
  /-- THROTTLE_TICK (R388: one millisecond, with the power and temperature measured). -/
  | throttleTick (pnow : BitVec 16) (tj : BitVec 8)
  /-- HOST_BAR4_READ (R371). -/
  | hostBar4Read (addr len : Nat) (t : Bool)
  /-- HOST_BAR4_WRITE (R371). -/
  | hostBar4Write (addr : Nat) (data : List Byte) (t : Bool)
  /-- HOST_ATOMICOP (R370). -/
  | hostAtomicop (op : HostAtomic) (wide : Bool) (addr : Nat) (v cmp : BitVec 64) (t : Bool)
  /-- REGISTER_WRITE (R372, R378). -/
  | registerWrite (space : RegSpace) (off : Nat) (w : BitVec 64) (t : Bool)
  /-- DEBUG_CONTROL_WRITE (R384). -/
  | debugControlWrite (w : BitVec 64) (t : Bool)
  /-- READ_REG (R385: a debug command word with this op). -/
  | readReg (w : BitVec 64) (t : Bool)
  /-- WRITE_REG (R385). -/
  | writeReg (w : BitVec 64) (t : Bool)
  /-- STEP (R385). -/
  | dbgStep (w : BitVec 64) (t : Bool)
  /-- RESUME (R385). -/
  | dbgResume (w : BitVec 64) (t : Bool)
  /-- GET_VERSION (R374: an SPDM request, its bytes after the message code). -/
  | getVersion (req : List Byte)
  /-- GET_CAPABILITIES (R374: an SPDM request, its bytes after the message code). -/
  | getCapabilities (req : List Byte)
  /-- NEGOTIATE_ALGORITHMS (R374: an SPDM request, its bytes after the message code). -/
  | negotiateAlgorithms (req : List Byte)
  /-- GET_DIGESTS (R374: an SPDM request, its bytes after the message code). -/
  | getDigests (req : List Byte)
  /-- GET_CERTIFICATE (R374: an SPDM request, its bytes after the message code). -/
  | getCertificate (req : List Byte)
  /-- CHALLENGE (R374: an SPDM request, its bytes after the message code). -/
  | challenge (req : List Byte)
  /-- GET_MEASUREMENTS (R374: an SPDM request, its bytes after the message code). -/
  | getMeasurements (req : List Byte)
  /-- KEY_EXCHANGE (R374: an SPDM request, its bytes after the message code). -/
  | keyExchange (req : List Byte)
  /-- FINISH (R374: an SPDM request, its bytes after the message code). -/
  | finish (req : List Byte)
  /-- KEY_UPDATE (R374: an SPDM request, its bytes after the message code). -/
  | keyUpdate (req : List Byte)
  /-- VENDOR_DEFINED_REQUEST (R374: an SPDM request, its bytes after the message code). -/
  | vendorDefinedRequest (req : List Byte)
  /-- QUERY (R374: an IDE_KM request). -/
  | ideQuery (req : List Byte)
  /-- KEY_PROG (R374: an IDE_KM request). -/
  | ideKeyProg (req : List Byte)
  /-- K_SET_GO (R374: an IDE_KM request). -/
  | ideKSetGo (req : List Byte)
  /-- K_SET_STOP (R374: an IDE_KM request). -/
  | ideKSetStop (req : List Byte)
  /-- LOCK_INTERFACE_REQUEST (R374, R376: a TDISP request, its bytes after the message type). -/
  | lockInterfaceRequest (req : List Byte)
  /-- GET_DEVICE_INTERFACE_REPORT (R374, R376: a TDISP request, its bytes after the message type). -/
  | getDeviceInterfaceReport (req : List Byte)
  /-- UNSUPPORTED_REQUEST (R374, R376: a TDISP request, its bytes after the message type). -/
  | unsupportedRequest (req : OtherRequest)
  /-- UNASSIGNED_OPCODE (R38: the issuing run meets a word whose opcode is unassigned). -/
  | unassignedOpcode (w : BitVec 96)
  /-- FRAME_TIME (R252: one frame time passes at a port, and one frame leaves). -/
  | frameTime (port : Nat)
  /-- CLUSTER_POWER_GATE (R77). -/
  | clusterPowerGate (cluster : Nat) (off : Bool)
  /-- RECONF_DRAIN_DONE (R280 step 2). -/
  | reconfDrainDone
  /-- RECONF_DRAIN_TIMEOUT (R281). -/
  | reconfDrainTimeout
  /-- READY_TIMEOUT (R280 step 3). -/
  | readyTimeout
  /-- RECONF_LIGHT_TIMEOUT (R281). -/
  | reconfLightTimeout
  /-- HEARTBEAT (R374: an SPDM request). -/
  | heartbeat
  /-- END_SESSION (R374: an SPDM request). -/
  | endSession
  /-- SPDM_SESSION_LOSS (R376). -/
  | spdmSessionLoss
  /-- IDE_INTEGRITY_FAILURE (R376). -/
  | ideIntegrityFailure
  /-- GET_TDISP_VERSION (R374, R376: a TDISP request). -/
  | getTdispVersion
  /-- GET_TDISP_CAPABILITIES (R374, R376: a TDISP request). -/
  | getTdispCapabilities
  /-- GET_DEVICE_INTERFACE_STATE (R374, R376: a TDISP request). -/
  | getDeviceInterfaceState
  /-- START_INTERFACE_REQUEST (R374, R376: a TDISP request). -/
  | startInterfaceRequest
  /-- STOP_INTERFACE_REQUEST (R374, R376: a TDISP request). -/
  | stopInterfaceRequest
  deriving DecidableEq, Repr

end Sys2Proof
end

