-- ==== Sys2Proof/WellFormed.lean ====
section
/-! DEFINITION. Which instructions of Instr the encodings of the spec allow: the static part of R39 rows 2 and 3 (classes,
ranges, pairs, control words). What depends on the launch (the allotment, the tiles, the region table) is checked when the
instruction issues. -/

namespace Sys2Proof

namespace Opnd

/-- A pair starts at an even index (R19). -/
def evenIf (wide : Bool) (i : Nat) : Bool := !wide || i % 2 == 0

/-- reg of R178: class 0 or 1. -/
def okReg (wide : Bool) : Opnd → Bool
  | v i => evenIf wide i.toNat
  | s i => evenIf wide i.val
  | _ => false

/-- vreg of R178: class 0. -/
def okVec (wide : Bool) : Opnd → Bool
  | v i => evenIf wide i.toNat
  | _ => false

/-- Class 1. -/
def okUni (wide : Bool) : Opnd → Bool
  | s i => evenIf wide i.val
  | _ => false

/-- val5 of R178: class 0, 1 or 5. -/
def okVal5 (wide : Bool) : Opnd → Bool
  | imm _ => true
  | o => o.okReg wide

/-- val of R178: class 0, 1, 5 or 6. -/
def okVal (wide : Bool) : Opnd → Bool
  | imm _ => true
  | immC => true
  | o => o.okReg wide

/-- Class 1, 5 or 6. -/
def okUniImm (wide : Bool) : Opnd → Bool
  | imm _ => true
  | immC => true
  | o => o.okUni wide

/-- pred of R178: class 2. -/
def okPred : Opnd → Bool
  | p _ => true
  | _ => false

def okMask : Opnd → Bool
  | m _ => true
  | _ => false

def okHandle : Opnd → Bool
  | h _ => true
  | _ => false

def okTile : Opnd → Bool
  | a _ => true
  | _ => false

/-- A count, queue, barrier or plan index: class 1, or a class 5 value that is not negative (R136, R150, R279, R327). -/
def okCount : Opnd → Bool
  | imm x => !x.msb
  | o => o.okUni false
def okQueue (o : Opnd) : Bool := o.okCount

/-- The code of TRAP: class 5 from 0, or class 1 (R343). -/
def okTrapCode (o : Opnd) : Bool := o.okCount

/-- The expected count of a barrier: class 1, class 5 from 1, or class 6 (R327). -/
def okExpected : Opnd → Bool
  | imm x => !x.msb && x != 0
  | immC => true
  | o => o.okUni false

/-- D of FWAIT: class 0 or `pt` (R133). -/
def okFwaitD : Opnd → Bool
  | p i => i == 15
  | o => o.okVec false

/-- D of ATOM: class 0 or 1, or `pt` (R98). -/
def okAtomD (wide : Bool) : Opnd → Bool
  | p i => i == 15
  | o => o.okReg wide

/-- B of ATOM, RED: class 0, 1 or 5; for cas a pair or a quad of class 0 or 1 (R98). -/
def okAtomB (ty : Ty) (op : AtomOp) (o : Opnd) : Bool :=
  if op == .cas then
    match o with
    | v i => i.toNat % (if ty.wide then 4 else 2) == 0
    | s i => i.val % (if ty.wide then 4 else 2) == 0
    | _ => false
  else o.okVal5 ty.wide

def isUni : Opnd → Bool
  | s _ => true
  | _ => false

def isVec : Opnd → Bool
  | v _ => true
  | _ => false

def isReg (o : Opnd) : Bool := o.isUni || o.isVec

end Opnd

/-- The member mask of R211: every lane, a rejoin mask, or a uniform pair. -/
def okMembers : Option Opnd → Bool
  | none => true
  | some (.m _) => true
  | some o => o.okUni true

/-- A form without an index has scale 0 (R82). -/
def okIdx (idx : Option Opnd) (scale : BitVec 2) : Bool := idx.isSome || scale == 0

/-- A uniform destination has no vector source (R23). -/
def uniOk (d : Opnd) (srcs : List Opnd) : Bool := !(d.isUni && srcs.any Opnd.isVec)
def uniOkOpt (d : Opnd) (src : Option Opnd) : Bool := uniOk d src.toList

/-- The pairings of type and operation of R98. -/
def atomTypes (ty : Ty) (op : AtomOp) : Bool :=
  match ty with
  | .i32 | .i64 | .n32 | .n64 | .b32 | .b64 => op != .fadd
  | .f32 => op == .fadd
  | _ => false

/-- The pairings of GRED and GSCAN (R35): the bitwise operations are for the integer types. -/
def redTypes (ty : Ty) (op : RedOp) : Bool :=
  ty.isGroup && (ty.isInt2 || op == .add || op == .min || op == .max)

/-- The functions of COLL (R35). -/
def collTypes (ty : Ty) (op : RedOp) (kind : CollKind) : Bool :=
  ty.isGroup && (op == .add || op == .min || op == .max)
    && (op == .add || kind == .allreduce || kind == .redscat)

/-- The functions of MST (R239): with `.n32` the low four bits are 0. -/
def mstTypes (ty : Ty) (bias rs : Bool) (rm : Rm) : Bool :=
  match ty with
  | .i8 | .f32 | .f16 | .bf16 => true
  | .n32 => !bias && !rs && rm == .rne
  | _ => false

/-- CVTH converts between FP32 and one of the half types (R204). -/
def cvthTypes (dty sty : Ty) : Bool := (dty == .f32 && sty.isHalf) || (sty == .f32 && dty.isHalf)

namespace MemCtl

/-- The combinations of R87, opcode by opcode. -/
def okOrder (mc : MemCtl) : Bool := if mc.order == .weak then mc.scope == .th else mc.scope != .th
def okLd (mc : MemCtl) : Bool :=
  !mc.hash && (mc.order == .weak || mc.order == .acquire) && mc.okOrder
    && (!mc.rp || (mc.order == .acquire && mc.scope == .dev))
def okSt (mc : MemCtl) : Bool :=
  !mc.hash && !mc.rp && (mc.order == .weak || mc.order == .release) && mc.okOrder
def okSpScope (mc : MemCtl) : Bool := mc.scope == .th || mc.scope == .grp || mc.scope == .blk
def okLdsp (mc : MemCtl) : Bool := mc.okLd && !mc.rp && mc.okSpScope
def okStsp (mc : MemCtl) : Bool := mc.okSt && mc.okSpScope
def okLdc (mc : MemCtl) : Bool := !mc.hash && !mc.rp && mc.order == .weak && mc.scope == .th
def okAtom (mc : MemCtl) : Bool := mc.scope != .th && (!mc.rp || (mc.order.isAcquire && mc.scope == .dev))
def okRed (mc : MemCtl) : Bool :=
  mc.scope != .th && !mc.rp && (mc.order == .weak || mc.order == .release)
/-- FATOM accepts every order code and scopes 1 to 5, rp and hash 0 (R272). -/
def okFatom (mc : MemCtl) : Bool := !mc.hash && !mc.rp && mc.scope != .th

end MemCtl

/-- The imm32 is zero unless some operand is class 6, and at most one is (R21). -/
def immOk (ops : List Opnd) (k : BitVec 32) : Bool :=
  match (ops.filter (· == .immC)).length with
  | 0 => k == 0
  | 1 => true
  | _ => false

/-- A branch offset is a multiple of 12 (R290). -/
def offOk (off : BitVec 32) : Bool := off.toInt % 12 == 0

/-- A flag of a clause header: 0 to 11, or 15 for none (R26). -/
def flagOk (x : BitVec 4) : Bool := x.toNat < 12 || x == 15

/-- The unassigned opcodes of R38. -/
def unassigned (op : Nat) : Bool :=
  op == 0x00 || (0x0D ≤ op && op ≤ 0x0F) || (0x1C ≤ op && op ≤ 0x1F) || op == 0x2F || (0x4A ≤ op && op ≤ 0x4F)
    || (0x6A ≤ op && op ≤ 0x6F) || (0x79 ≤ op && op ≤ 0x7F) || (0x89 ≤ op && op ≤ 0x8F) || (0x99 ≤ op && op ≤ 0x9F)
    || (0xA8 ≤ op && op ≤ 0xAF) || (0xB6 ≤ op && op ≤ 0xBF) || (0xC6 ≤ op && op ≤ 0xCF) || 0xD2 ≤ op

/-- The static well-formedness of a step: an instruction whose word the encodings allow. Events are well formed. -/
def Instr.wf : Instr → Bool
  | .clause flagX flagY _ => flagOk flagX && flagOk flagY
  | .region _ off => off.toNat % 16 == 0
  | .nop _ => true
  | .trap _ a => a.okTrapCode
  | .brk _ => true
  | .rdsr _ d sr => d.okReg sr.wide && (!(d.isUni && sr.perThread))
  | .wrsr _ sr a k => a.okVal sr.wide && immOk [a] k && (!sr.wide || a.isReg) && sr.writable
  | .mov _ wide d a k => d.okReg wide && a.okVal wide && immOk [a] k && uniOk d [a]
  | .movi _ d _ => d.okReg false
  | .moviW _ d _ => d.okReg true
  | .moviHi _ d _ => d.okReg true
  | .umov _ wide d a k => d.okUni wide && a.okUniImm wide && immOk [a] k
  | .umovBc _ wide d a k => d.okVec wide && a.okUniImm wide && immOk [a] k
  | .umovLn _ wide d a b k => d.okUni wide && a.okVec wide && b.okUniImm false && immOk [b] k
  | .hget _ d a => d.okVec true && a.okHandle
  | .hput _ d a => d.okHandle && a.okReg true
  | .bra _ off => offOk off
  | .braDv _ off => offOk off
  | .brx _ a => a.okReg false
  | .call _ off => offOk off
  | .calli _ a => a.okReg false
  | .callt _ a k => a.okVal false && immOk [a] k
  | .ret _ => true
  | .exit _ => true
  | .rejoin _ => true
  | .mjoin _ a => a.okMask
  | .mset _ d a k => d.okMask && a.okUniImm true && immOk [a] k
  | .mget _ d a => d.okReg true && a.okMask
  | .yield _ => true
  | .iadd _ ty _ d a b k => d.okReg ty.wide && a.okVal ty.wide && b.okVal ty.wide && immOk [a, b] k && ty.isInt4 && uniOk d [a, b]
  | .iadd3 _ ty _ d a b e => d.okReg ty.wide && a.okVal5 ty.wide && b.okVal5 ty.wide && e.okReg ty.wide && ty.isInt4 && uniOk d [a, b, e]
  | .isub _ ty _ d a b k => d.okReg ty.wide && a.okVal ty.wide && b.okVal ty.wide && immOk [a, b] k && ty.isInt4 && uniOk d [a, b]
  | .imul _ ty d a b k => d.okReg ty.wide && a.okVal ty.wide && b.okVal ty.wide && immOk [a, b] k && ty.isInt4 && uniOk d [a, b]
  | .imulh _ ty d a b k => d.okReg ty.wide && a.okVal ty.wide && b.okVal ty.wide && immOk [a, b] k && ty.isInt4 && uniOk d [a, b]
  | .imad _ ty _ d a b e => d.okReg ty.wide && a.okVal5 ty.wide && b.okVal5 ty.wide && e.okReg ty.wide && ty.isInt4 && uniOk d [a, b, e]
  | .imadw _ ty d a b e => d.okReg true && a.okVal5 false && b.okVal5 false && e.okReg true && ty.isInt2 && uniOk d [a, b, e]
  | .iabs _ ty _ d a k => d.okReg ty.wide && a.okVal ty.wide && immOk [a] k && ty.isSigned2 && uniOk d [a]
  | .ineg _ ty _ d a k => d.okReg ty.wide && a.okVal ty.wide && immOk [a] k && ty.isSigned2 && uniOk d [a]
  | .imin _ ty d a b k => d.okReg ty.wide && a.okVal ty.wide && b.okVal ty.wide && immOk [a, b] k && ty.isInt4 && uniOk d [a, b]
  | .imax _ ty d a b k => d.okReg ty.wide && a.okVal ty.wide && b.okVal ty.wide && immOk [a, b] k && ty.isInt4 && uniOk d [a, b]
  | .isad _ ty d a b e => d.okReg ty.wide && a.okVal5 ty.wide && b.okVal5 ty.wide && e.okReg ty.wide && ty.isInt2 && uniOk d [a, b, e]
  | .lea _ wide _ d a b k => d.okReg wide && a.okVal wide && b.okVal false && immOk [a, b] k && uniOk d [a, b]
  | .addc _ wide d a b e => d.okReg wide && a.okVal5 wide && b.okVal5 wide && e.okPred && uniOk d [a, b]
  | .subc _ wide d a b e => d.okReg wide && a.okVal5 wide && b.okVal5 wide && e.okPred && uniOk d [a, b]
  | .andb _ wide d a b k => d.okReg wide && a.okVal wide && b.okVal wide && immOk [a, b] k && uniOk d [a, b]
  | .orb _ wide d a b k => d.okReg wide && a.okVal wide && b.okVal wide && immOk [a, b] k && uniOk d [a, b]
  | .xorb _ wide d a b k => d.okReg wide && a.okVal wide && b.okVal wide && immOk [a, b] k && uniOk d [a, b]
  | .notb _ wide d a k => d.okReg wide && a.okVal wide && immOk [a] k && uniOk d [a]
  | .tlog _ _ d a b e => d.okReg false && a.okVal5 false && b.okVal5 false && e.okReg false && uniOk d [a, b, e]
  | .shl _ wide d a b k => d.okReg wide && a.okVal wide && b.okVal false && immOk [a, b] k && uniOk d [a, b]
  | .shr _ wide d a b k => d.okReg wide && a.okVal wide && b.okVal false && immOk [a, b] k && uniOk d [a, b]
  | .sar _ wide d a b k => d.okReg wide && a.okVal wide && b.okVal false && immOk [a, b] k && uniOk d [a, b]
  | .funl _ d a b e => d.okReg false && a.okVal5 false && b.okVal5 false && e.okReg false && uniOk d [a, b, e]
  | .funr _ d a b e => d.okReg false && a.okVal5 false && b.okVal5 false && e.okReg false && uniOk d [a, b, e]
  | .rot _ wide _ d a b k => d.okReg wide && a.okVal wide && b.okVal false && immOk [a, b] k && uniOk d [a, b]
  | .bfe _ ty d a b k => d.okReg ty.wide && a.okVal ty.wide && b.okVal false && immOk [a, b] k && ty.isInt4 && uniOk d [a, b]
  | .bfi _ wide d a b e => d.okReg wide && a.okVal5 wide && b.okVal5 wide && e.okReg false && uniOk d [a, b, e]
  | .bmsk _ d a b k => d.okReg false && a.okVal false && b.okVal false && immOk [a, b] k && uniOk d [a, b]
  | .popc _ wide d a k => d.okReg false && a.okVal wide && immOk [a] k && uniOk d [a]
  | .clz _ wide d a k => d.okReg false && a.okVal wide && immOk [a] k && uniOk d [a]
  | .ctz _ wide d a k => d.okReg false && a.okVal wide && immOk [a] k && uniOk d [a]
  | .brev _ wide d a k => d.okReg wide && a.okVal wide && immOk [a] k && uniOk d [a]
  | .bysel _ d a b e => d.okReg false && a.okVal5 false && b.okVal5 false && e.okReg false && uniOk d [a, b, e]
  | .isetp _ ty cmp d a b k => d.okPred && a.okVal ty.wide && b.okVal ty.wide && immOk [a, b] k && ty.isInt4 && cmp.isRel
  | .fsetp _ cmp unord d a b k => d.okPred && a.okVal false && b.okVal false && immOk [a, b] k && (cmp.isRel || !unord)
  | .hsetp2 _ ty cmp unord d a b e => d.okPred && a.okVal5 false && b.okVal5 false && e.okPred && ty.isHalf && (cmp.isRel || !unord)
  | .sel _ wide d a b e => d.okReg wide && a.okVal5 wide && b.okVal5 wide && e.okPred && uniOk d [a, b]
  | .pset _ _ d a b e => d.okPred && a.okPred && b.okPred && e.okPred
  | .p2v _ d => d.okVec false
  | .v2p _ a b k => a.okVal false && b.okVal false && immOk [a, b] k
  | .fadd _ _ _ d a b k => d.okReg false && a.okVal false && b.okVal false && immOk [a, b] k && uniOk d [a, b]
  | .fsub _ _ _ d a b k => d.okReg false && a.okVal false && b.okVal false && immOk [a, b] k && uniOk d [a, b]
  | .fmul _ _ _ d a b k => d.okReg false && a.okVal false && b.okVal false && immOk [a, b] k && uniOk d [a, b]
  | .ffma _ _ _ d a b e => d.okReg false && a.okVal5 false && b.okVal5 false && e.okReg false && uniOk d [a, b, e]
  | .fmin _ _ _ d a b k => d.okReg false && a.okVal false && b.okVal false && immOk [a, b] k && uniOk d [a, b]
  | .fmax _ _ _ d a b k => d.okReg false && a.okVal false && b.okVal false && immOk [a, b] k && uniOk d [a, b]
  | .fdiv _ _ _ d a b k => d.okReg false && a.okVal false && b.okVal false && immOk [a, b] k && uniOk d [a, b]
  | .fsqrt _ _ _ d a k => d.okReg false && a.okVal false && immOk [a] k && uniOk d [a]
  | .frcp _ _ _ d a k => d.okReg false && a.okVal false && immOk [a] k && uniOk d [a]
  | .frsq _ _ d a k => d.okReg false && a.okVal false && immOk [a] k && uniOk d [a]
  | .fex2 _ _ d a k => d.okReg false && a.okVal false && immOk [a] k && uniOk d [a]
  | .flg2 _ _ d a k => d.okReg false && a.okVal false && immOk [a] k && uniOk d [a]
  | .fsin _ _ d a k => d.okReg false && a.okVal false && immOk [a] k && uniOk d [a]
  | .fcos _ _ d a k => d.okReg false && a.okVal false && immOk [a] k && uniOk d [a]
  | .ftanh _ _ d a k => d.okReg false && a.okVal false && immOk [a] k && uniOk d [a]
  | .fclass _ d a k => d.okReg false && a.okVal false && immOk [a] k && uniOk d [a]
  | .hadd2 _ ty _ d a b => d.okReg false && a.okVal5 false && b.okVal5 false && ty.isHalf && uniOk d [a, b]
  | .hmul2 _ ty _ d a b => d.okReg false && a.okVal5 false && b.okVal5 false && ty.isHalf && uniOk d [a, b]
  | .hfma2 _ ty _ d a b e => d.okReg false && a.okVal5 false && b.okVal5 false && e.okReg false && ty.isHalf && uniOk d [a, b, e]
  | .hmin2 _ ty _ d a b => d.okReg false && a.okVal5 false && b.okVal5 false && ty.isHalf && uniOk d [a, b]
  | .hmax2 _ ty _ d a b => d.okReg false && a.okVal5 false && b.okVal5 false && ty.isHalf && uniOk d [a, b]
  | .cvt _ dty sty rm _ d a => d.okReg dty.wide && a.okVal5 sty.wide && (dty.isFloat || sty.isFloat || rm == Rm.rne) && uniOk d [a]
  | .cvth _ dty sty rm sat d a b => d.okReg (dty == Ty.f32) && a.okVal5 false && cvthTypes dty sty && (dty != Ty.f32 || (a.isReg && rm == Rm.rne && !sat)) && (b.isSome == (dty != Ty.f32)) && b.all (Opnd.okVal5 false) && uniOk d [a] && uniOkOpt d b
  | .frnd _ ty _ d a => d.okReg false && a.okVal5 false && ty.isFloat && uniOk d [a]
  | .qnt _ _ _ d a b => d.okReg false && a.okReg false && b.okReg false && uniOk d [a, b]
  | .dqnt _ _ _ d a b => d.okReg false && a.okReg false && b.okReg false && uniOk d [a, b]
  | .idiv _ ty d a b k => d.okReg ty.wide && a.okVal ty.wide && b.okVal ty.wide && immOk [a, b] k && ty.isInt4 && uniOk d [a, b]
  | .irem _ ty d a b k => d.okReg ty.wide && a.okVal ty.wide && b.okVal ty.wide && immOk [a, b] k && ty.isInt4 && uniOk d [a, b]
  | .ld _ ty scale d a idx mc => d.okReg ty.wide && a.okReg true && ty.isMem && okIdx idx scale && idx.all (Opnd.okReg false) && mc.okLd && uniOk d [a] && uniOkOpt d idx
  | .st _ ty scale d a idx mc => d.okReg ty.wide && a.okReg true && ty.isMem && okIdx idx scale && idx.all (Opnd.okReg false) && mc.okSt
  | .ldsp _ ty scale d a idx mc => d.okReg ty.wide && a.okReg false && ty.isMem && okIdx idx scale && idx.all (Opnd.okReg false) && mc.okLdsp && uniOk d [a] && uniOkOpt d idx
  | .stsp _ ty scale d a idx mc => d.okReg ty.wide && a.okReg false && ty.isMem && okIdx idx scale && idx.all (Opnd.okReg false) && mc.okStsp
  | .ldc _ ty _ scale d a idx mc => d.okReg ty.wide && a.okReg false && ty.isMem && okIdx idx scale && idx.all (Opnd.okReg false) && mc.okLdc && uniOk d [a] && uniOkOpt d idx
  | .atom _ ty op d a b mc => d.okAtomD ty.wide && a.okReg true && b.okAtomB ty op && atomTypes ty op && mc.okAtom && uniOk d [a, b]
  | .red _ ty op a b mc => a.okReg true && b.okAtomB ty op && atomTypes ty op && op.isRed && mc.okRed
  | .fence _ rp scope order => (order != Order.weak) && (!rp || (order != Order.release && scope == Scope.dev))
  | .pref _ _ a idx _ => a.okReg true && idx.all (Opnd.okReg false) && (idx != some (Opnd.v 0#8))
  | .shfl _ _ wide d a b msk => d.okVec wide && a.okReg wide && b.okVal5 false && okMembers msk
  | .vote _ _ d a msk => d.okPred && a.okPred && okMembers msk
  | .ballot _ d a msk => d.okVec true && a.okPred && okMembers msk
  | .gred _ ty op d a msk => d.okVec false && a.okVal5 false && redTypes ty op && okMembers msk
  | .gscan _ ty op _ d a msk => d.okVec false && a.okVal5 false && redTypes ty op && okMembers msk
  | .garg _ ty _ _ _ d a b msk => d.okVec true && a.okVal5 false && ty.isGroup && b.all (Opnd.okVal5 false) && (b != some (Opnd.v 0#8)) && okMembers msk
  | .matchOp _ wide _ d a msk => d.okVec true && a.okReg wide && okMembers msk
  | .elect _ d msk => d.okPred && okMembers msk
  | .bxch _ wide d a b e => d.okVec wide && a.okVec wide && b.okVal5 false && e.okReg wide
  | .acopy _ cb _ _ d a b => d.okHandle && a.okUni true && (b.isSome == cb) && b.all (Opnd.okUni true)
  | .dcmp _ sp d a => d.okHandle && a.okUni (!sp)
  | .fwait _ d a => d.okFwaitD && a.okHandle
  | .ftest _ d a => d.okPred && a.okHandle
  | .fcancel _ a => a.okHandle
  | .waitc _ _ _ a => a.okCount
  | .qpush _ a b => a.okQueue && b.okReg true
  | .qpop _ d a => d.okReg true && a.okQueue
  | .qtryPush _ d a b => d.okPred && a.okQueue && b.okReg true
  | .qtryPop _ d a e => d.okPred && a.okQueue && e.okReg true
  | .mres _ d => d.okPred
  | .mrel _ => true
  | .mldw _ _ d a => d.okHandle && a.okUni true
  | .mzero _ d => d.okTile
  | .mma _ _ d a b => d.okHandle && a.okTile && b.okUni true
  | .mmas _ _ d a b => d.okHandle && a.okTile && b.okUni true
  | .mst _ ty bias rs rm d a b => d.okHandle && a.okTile && b.okUni true && mstTypes ty bias rs rm
  | .mcommit _ => true
  | .bar _ a b k => a.okQueue && immOk (b.toList) k && b.all Opnd.okExpected
  | .bara _ a b k => a.okQueue && immOk (b.toList) k && b.all Opnd.okExpected
  | .barw _ a => a.okQueue
  | .wbar _ _ => true
  | .flushpt _ => true
  | .dlaunch _ d a e => d.okReg false && a.okUni true && e.okPred
  | .fput _ d a => d.okHandle && a.okUni true
  | .fget _ d a => d.okHandle && a.okUni true
  | .fatom _ ty op d a b mc => d.okHandle && a.okUni true && b.okUni true && atomTypes ty op && mc.okFatom
  | .coll _ ty op kind d a => d.okHandle && a.okUni true && collTypes ty op kind
  | .reconf _ d a b k => d.okHandle && a.okCount && b.okUniImm false && immOk [b] k
  | .tgset _ a k => a.okUniImm false && immOk [a] k
  | .issueArbitration _ _ => true
  | .pipIssue _ _ => true
  | .ejectSoftTimeout _ => true
  | .ejectHardTimeout _ _ => true
  | .longLatencyComplete _ => true
  | .pageWalk _ _ _ _ => true
  | .faultResolved _ => true
  | .faultUnresolvable _ => true
  | .bindingResolved _ _ _ => true
  | .bindingFailed _ _ => true
  | .shootdownStart _ _ => true
  | .sddropClear _ _ => true
  | .shootdownAck _ => true
  | .flushComplete _ => true
  | .flushFaultResolved _ => true
  | .copyChunkComplete _ _ => true
  | .copyComplete _ => true
  | .dcmpJobComplete _ => true
  | .matrixCommandStart _ => true
  | .matrixCommandComplete _ => true
  | .scrubStep _ _ => true
  | .deviceReset _ => true
  | .watchdogExpiry _ => true
  | .notify _ _ _ _ _ => true
  | .nopPacket _ => true
  | .launchPacket _ => true
  | .waitSignalPacket _ => true
  | .setSignalPacket _ => true
  | .imageSavePacket _ => true
  | .imageLoadPacket _ => true
  | .dirtyHarvestPacket _ => true
  | .planLoadPacket _ => true
  | .invalidPacket _ => true
  | .packetComplete _ _ => true
  | .blockClaim _ _ _ => true
  | .blockMigrate _ _ _ _ => true
  | .blockImageOut _ _ => true
  | .blockRetire _ _ => true
  | .childAdmission _ => true
  | .preempt _ => true
  | .prooferClauseLimit _ _ => true
  | .remoteResend _ => true
  | .flitRead _ _ => true
  | .flitWrite _ _ => true
  | .flitAtomic _ _ => true
  | .flitReadReply _ _ => true
  | .flitWriteAck _ _ => true
  | .flitCollectiveData _ _ => true
  | .flitAtomicReply _ _ => true
  | .bufferRelease _ _ => true
  | .bufferReleaseForced _ => true
  | .retryAfter _ _ => true
  | .staleReject _ _ => true
  | .ready _ _ => true
  | .go _ _ => true
  | .abort _ _ => true
  | .collectiveRestart _ _ => true
  | .linkProbe _ _ => true
  | .linkFrame _ _ => true
  | .replayTimeout _ => true
  | .trainingFrame _ _ => true
  | .portDown _ => true
  | .rerouteTimeout _ => true
  | .switchReply _ => true
  | .throttleTick _ _ => true
  | .hostBar4Read _ _ _ => true
  | .hostBar4Write _ _ _ => true
  | .hostAtomicop _ _ _ _ _ _ => true
  | .registerWrite _ _ _ _ => true
  | .debugControlWrite _ _ => true
  | .readReg _ _ => true
  | .writeReg _ _ => true
  | .dbgStep _ _ => true
  | .dbgResume _ _ => true
  | .getVersion _ => true
  | .getCapabilities _ => true
  | .negotiateAlgorithms _ => true
  | .getDigests _ => true
  | .getCertificate _ => true
  | .challenge _ => true
  | .getMeasurements _ => true
  | .keyExchange _ => true
  | .finish _ => true
  | .keyUpdate _ => true
  | .vendorDefinedRequest _ => true
  | .ideQuery _ => true
  | .ideKeyProg _ => true
  | .ideKSetGo _ => true
  | .ideKSetStop _ => true
  | .lockInterfaceRequest _ => true
  | .getDeviceInterfaceReport _ => true
  | .unsupportedRequest _ => true
  | .unassignedOpcode w => unassigned (w >>> 88).toNat
  | .frameTime _ => true
  | .clusterPowerGate _ _ => true
  | .reconfDrainDone => true
  | .reconfDrainTimeout => true
  | .readyTimeout => true
  | .reconfLightTimeout => true
  | .heartbeat => true
  | .endSession => true
  | .spdmSessionLoss => true
  | .ideIntegrityFailure => true
  | .getTdispVersion => true
  | .getTdispCapabilities => true
  | .getDeviceInterfaceState => true
  | .startInterfaceRequest => true
  | .stopInterfaceRequest => true

end Sys2Proof
end

