-- ==== Sys2Proof/Decode.lean ====
section
/-! DEFINITION. The 96-bit instruction word (01 R14, R15, R18, R26, R29, R34-R39): its fields, the decoder, total on every
word and refusing by the trap the spec names, and the encoder written from the same tables. -/

namespace Sys2Proof

/-- Why a word is refused: ILLEGAL_OP (R39 row 2), RESERVED_FIELD (R39 row 3), or CLAUSE_FORM of a header with bnd (R26). -/
inductive DecodeError where
  | illegalOp | reservedField | clauseForm
  deriving DecidableEq, Repr

/-- The fields of an instruction word (R15). -/
structure Raw where
  opcode : BitVec 8
  fn : BitVec 8
  gneg : Bool
  guard : BitVec 4
  opd : BitVec 12
  opa : BitVec 12
  opb : BitVec 12
  bnd : Bool
  fsel : BitVec 2
  reuseA : Bool
  reuseB : Bool
  yld : Bool
  res0 : Bool
  cw : BitVec 32
  deriving DecidableEq, Repr

/-- The fields of a word, read at the bit places of R15. -/
def Raw.ofWord (w : BitVec 96) : Raw where
  opcode := w.extractLsb' 88 8
  fn := w.extractLsb' 80 8
  gneg := w.getLsbD 79
  guard := w.extractLsb' 75 4
  opd := w.extractLsb' 63 12
  opa := w.extractLsb' 51 12
  opb := w.extractLsb' 39 12
  bnd := w.getLsbD 38
  fsel := w.extractLsb' 36 2
  reuseA := w.getLsbD 35
  reuseB := w.getLsbD 34
  yld := w.getLsbD 33
  res0 := w.getLsbD 32
  cw := w.extractLsb' 0 32

def bit1 (b : Bool) : BitVec 1 := if b then 1 else 0

/-- The word that holds given fields: the fields of R15 from bit 95 down to bit 0. -/
def Raw.toWord (r : Raw) : BitVec 96 :=
  (r.opcode ++ r.fn ++ bit1 r.gneg ++ r.guard ++ r.opd ++ r.opa ++ r.opb ++ bit1 r.bnd ++ r.fsel ++ bit1 r.reuseA
    ++ bit1 r.reuseB ++ bit1 r.yld ++ bit1 r.res0 ++ r.cw : BitVec 96)

abbrev Dec := Except DecodeError

/-- A function code outside its opcode's row raises ILLEGAL_OP (R35). -/
def fnNeed (b : Bool) : Dec Unit := if b then .ok () else .error .illegalOp

/-- A field value the form does not allow raises RESERVED_FIELD (R39 row 3). -/
def need (b : Bool) : Dec Unit := if b then .ok () else .error .reservedField

def hiNib (fn : BitVec 8) : BitVec 4 := fn.extractLsb' 4 4
def loNib (fn : BitVec 8) : BitVec 4 := fn.extractLsb' 0 4

/-- The type of a type code (R34). -/
def Ty.ofCode (c : BitVec 4) : Option Ty :=
  match c.toNat with
  | 0 => some .i8 | 1 => some .i16 | 2 => some .i32 | 3 => some .i64 | 4 => some .n8 | 5 => some .n16
  | 6 => some .n32 | 7 => some .n64 | 8 => some .b32 | 9 => some .b64 | 10 => some .f32 | 11 => some .f16
  | 12 => some .bf16 | _ => none

def Rm.ofCode (c : BitVec 2) : Rm :=
  match c.toNat with
  | 0 => .rne | 1 => .rz | 2 => .rd | _ => .ru

def Cmp.ofCode (c : BitVec 3) : Cmp :=
  match c.toNat with
  | 0 => .eq | 1 => .ne | 2 => .lt | 3 => .le | 4 => .gt | 5 => .ge | 6 => .num | _ => .nan

def AtomOp.ofCode (c : BitVec 4) : Option AtomOp :=
  match c.toNat with
  | 0 => some .add | 1 => some .min | 2 => some .max | 3 => some .and | 4 => some .or | 5 => some .xor
  | 6 => some .exch | 7 => some .cas | 8 => some .fadd | _ => none

def RedOp.ofCode (c : BitVec 3) : Option RedOp :=
  match c.toNat with
  | 0 => some .add | 1 => some .min | 2 => some .max | 3 => some .and | 4 => some .or | 5 => some .xor | _ => none

def ShflMode.ofCode (c : BitVec 2) : ShflMode :=
  match c.toNat with
  | 0 => .idx | 1 => .up | 2 => .down | _ => .xor

def VoteMode.ofCode (c : BitVec 2) : Option VoteMode :=
  match c.toNat with
  | 0 => some .all | 1 => some .any | 2 => some .uni | _ => none

def Scope.ofCode (c : BitVec 3) : Option Scope :=
  match c.toNat with
  | 0 => some .th | 1 => some .grp | 2 => some .blk | 3 => some .cl | 4 => some .dev | 5 => some .sys | _ => none

def Order.ofCode (c : BitVec 2) : Order :=
  match c.toNat with
  | 0 => .weak | 1 => .acquire | 2 => .release | _ => .acqrel

def CopyDir.ofCode (c : BitVec 2) : CopyDir :=
  match c.toNat with
  | 0 => .g2sp | 1 => .sp2g | 2 => .g2wb | _ => .sp2sp

def EngClass.ofCode (c : BitVec 2) : EngClass :=
  match c.toNat with
  | 0 => .copy | 1 => .matrix | 2 => .coll | _ => .fabric

def WExt.ofCode (c : BitVec 2) : Option WExt :=
  match c.toNat with
  | 0 => some .cl | 1 => some .dev | 2 => some .sys | _ => none

def CollKind.ofCode (c : BitVec 2) : CollKind :=
  match c.toNat with
  | 0 => .allreduce | 1 => .redscat | 2 => .allgather | _ => .alltoall

def SReg.ofCode (c : BitVec 9) : Option SReg :=
  match c.toNat with
  | 0 => some .lane | 1 => some .gwidth | 2 => some .gid | 3 => some .bid | 4 => some .nblk | 5 => some .bsize
  | 6 => some .role | 7 => some .phase | 8 => some .seed | 9 => some .det | 10 => some .tgen | 11 => some .etgen
  | 12 => some .clock | 13 => some .trapcause | 14 => some .trappc | _ => none

/-- The 12-bit field of an operand: the class in [11:9], the index in [8:0] (R18). -/
def Opnd.enc : Opnd → BitVec 12
  | .v i => (0#3 ++ i.setWidth 9 : BitVec 12)
  | .s i => (1#3 ++ BitVec.ofNat 9 i.val : BitVec 12)
  | .p i => (2#3 ++ i.setWidth 9 : BitVec 12)
  | .m i => (3#3 ++ i.setWidth 9 : BitVec 12)
  | .h i => (3#3 ++ (16#9 + i.setWidth 9) : BitVec 12)
  | .f i => (3#3 ++ BitVec.ofNat 9 (32 + i.val) : BitVec 12)
  | .a i => (3#3 ++ (64#9 + i.setWidth 9) : BitVec 12)
  | .sr r => (4#3 ++ r.code : BitVec 12)
  | .imm x => (5#3 ++ x : BitVec 12)
  | .immC => (6#3 ++ 0#9 : BitVec 12)

/-- The operand a field names, or none where its index is outside its class (R18). -/
def Opnd.dec (x : BitVec 12) : Option Opnd :=
  let i := x.extractLsb' 0 9
  let n := i.toNat
  match (x.extractLsb' 9 3).toNat with
  | 0 => if n < 256 then some (.v (i.setWidth 8)) else none
  | 1 => if h : n < 192 then some (.s ⟨n, h⟩) else none
  | 2 => if n < 16 then some (.p (i.setWidth 4)) else none
  | 3 =>
    if n < 8 then some (.m (i.setWidth 3))
    else if 16 ≤ n && n < 32 then some (.h (i.setWidth 4))
    else if h : 32 ≤ n ∧ n < 44 then some (.f ⟨n - 32, by omega⟩)
    else if 64 ≤ n && n < 96 then some (.a (i.setWidth 5))
    else none
  | 4 => (SReg.ofCode i).map .sr
  | 5 => some (.imm i)
  | 6 => if n == 0 then some .immC else none
  | _ => none

/-- An operand field; an index outside its class raises RESERVED_FIELD (R18). -/
def opnd (x : BitVec 12) : Dec Opnd :=
  match Opnd.dec x with
  | some o => .ok o
  | none => .error .reservedField

/-- An operand field that all-zero leaves out (R82, R211, R327). -/
def opndOpt (x : BitVec 12) : Dec (Option Opnd) := if x == 0 then .ok none else some <$> opnd x

/-- A class 4 field (R21). -/
def opndSr (x : BitVec 12) : Dec SReg :=
  match Opnd.dec x with
  | some (.sr r) => .ok r
  | _ => .error .reservedField

/-- A third operand in C[11:0] with C[31:12] res0 (R15). -/
def thirdField (cw : BitVec 32) : Dec (BitVec 12) :=
  if cw.extractLsb' 12 20 == 0 then .ok (cw.setWidth 12) else .error .reservedField

/-- The fields every instruction carries; fsel 11 and res0 raise RESERVED_FIELD (R15, R39 row 3). -/
def Raw.common (r : Raw) : Dec Common :=
  if r.res0 then .error .reservedField
  else match r.fsel.toNat with
    | 0 => .ok ⟨r.gneg, r.guard, r.bnd, .none, r.reuseA, r.reuseB, r.yld⟩
    | 1 => .ok ⟨r.gneg, r.guard, r.bnd, .x, r.reuseA, r.reuseB, r.yld⟩
    | 2 => .ok ⟨r.gneg, r.guard, r.bnd, .y, r.reuseA, r.reuseB, r.yld⟩
    | _ => .error .reservedField

/-- The memory control word (R36). -/
def MemCtl.dec (cw : BitVec 32) : Dec MemCtl :=
  if cw.getLsbD 31 then .error .reservedField
  else match Scope.ofCode (cw.extractLsb' 24 3) with
    | none => .error .reservedField
    | some sc => .ok ⟨cw.getLsbD 30, Order.ofCode (cw.extractLsb' 28 2), cw.getLsbD 27, sc, cw.extractLsb' 0 24⟩

def MemCtl.enc (m : MemCtl) : BitVec 32 :=
  (0#1 ++ bit1 m.hash ++ m.order.code ++ bit1 m.rp ++ m.scope.code ++ m.offset : BitVec 32)

/-- The last check of the decoder: the instruction read is well formed (R39 row 3). -/
def accept (i : Instr) : Dec Instr := if i.wf then .ok i else .error .reservedField

/-! The function layouts of R35. -/

def fnZero (fn : BitVec 8) : Dec Unit := fnNeed (fn == 0)
def fnIs (fn k : BitVec 8) : Dec Unit := fnNeed (fn == k)
def fnLow (fn : BitVec 8) (k : BitVec 4) : Dec Unit := fnNeed (loNib fn == k)
def fnTy (fn : BitVec 8) : Dec Ty :=
  match Ty.ofCode (hiNib fn) with
  | some t => .ok t
  | none => .error .illegalOp
def fnSat (fn : BitVec 8) : Dec Bool := do
  fnNeed (loNib fn == 0 || loNib fn == 1)
  .ok (fn.getLsbD 0)
/-- [7:4] 0x8 or 0x9 with nothing else. -/
def fnWide (fn : BitVec 8) : Dec Bool := do
  fnNeed (fn == 0x80#8 || fn == 0x90#8)
  .ok (fn.getLsbD 4)
def fnUmov (fn : BitVec 8) (k : BitVec 4) : Dec Bool := do
  fnNeed ((hiNib fn == 0 || hiNib fn == 1) && loNib fn == k)
  .ok (fn.getLsbD 4)
def fnLea (fn : BitVec 8) : Dec (Bool × BitVec 3) := do
  fnNeed ((hiNib fn == 8 || hiNib fn == 9) && !fn.getLsbD 3)
  .ok (fn.getLsbD 4, fn.setWidth 3)
def fnRot (fn : BitVec 8) : Dec (Bool × Bool) := do
  fnNeed ((hiNib fn == 8 || hiNib fn == 9) && (loNib fn == 0 || loNib fn == 1))
  .ok (fn.getLsbD 4, fn.getLsbD 0)
def fnNWide (fn : BitVec 8) : Dec Bool := do
  fnNeed (fn == 0x60#8 || fn == 0x70#8)
  .ok (fn.getLsbD 4)
def fnFp (fn : BitVec 8) : Dec (Rm × Bool) := do
  fnNeed (hiNib fn == 0xA && !fn.getLsbD 3)
  .ok (Rm.ofCode (fn.setWidth 2), fn.getLsbD 2)
def fnFminmax (fn : BitVec 8) : Dec (Bool × Bool) := do
  fnNeed (hiNib fn == 0xA && fn.setWidth 2 == 0#2)
  .ok (fn.getLsbD 3, fn.getLsbD 2)
def fnHalf (fn : BitVec 8) : Dec (Ty × Rm) := do
  let ty ← fnTy fn
  fnNeed (ty.isHalf && fn.extractLsb' 2 2 == 0#2)
  .ok (ty, Rm.ofCode (fn.setWidth 2))
def fnHalfMm (fn : BitVec 8) : Dec (Ty × Bool) := do
  let ty ← fnTy fn
  fnNeed (ty.isHalf && fn.setWidth 3 == 0#3)
  .ok (ty, fn.getLsbD 3)
def fnCvt (fn : BitVec 8) : Dec (Ty × Ty) := do
  let dty ← fnTy fn
  match Ty.ofCode (loNib fn) with
  | some sty => .ok (dty, sty)
  | none => .error .illegalOp
def fnCvth (fn : BitVec 8) : Dec (Ty × Ty) := do
  let (dty, sty) ← fnCvt fn
  fnNeed (cvthTypes dty sty)
  .ok (dty, sty)
def fnFrnd (fn : BitVec 8) : Dec (Ty × Rm) := do
  let ty ← fnTy fn
  fnNeed (ty.isFloat && fn.extractLsb' 2 2 == 0#2)
  .ok (ty, Rm.ofCode (fn.setWidth 2))
def fnQ (fn : BitVec 8) : Dec (Bool × BitVec 3) := do
  fnNeed (hiNib fn == 0)
  .ok (fn.getLsbD 3, fn.setWidth 3)
def fnMem (fn : BitVec 8) : Dec (Ty × BitVec 2) := do
  let ty ← fnTy fn
  fnNeed (ty.isMem && fn.extractLsb' 2 2 == 0#2)
  .ok (ty, fn.setWidth 2)
def fnLdc (fn : BitVec 8) : Dec (Ty × Bool × BitVec 2) := do
  let ty ← fnTy fn
  fnNeed (ty.isMem && !fn.getLsbD 2)
  .ok (ty, fn.getLsbD 3, fn.setWidth 2)
def fnAtom (fn : BitVec 8) : Dec (Ty × AtomOp) := do
  let ty ← fnTy fn
  match AtomOp.ofCode (loNib fn) with
  | some op => fnNeed (atomTypes ty op); .ok (ty, op)
  | none => .error .illegalOp
def fnFence (fn : BitVec 8) : Dec (Bool × Scope × Order) := do
  fnNeed (fn.setWidth 2 == 0#2 && fn.extractLsb' 2 2 != 0#2)
  match Scope.ofCode (fn.extractLsb' 4 3) with
  | some sc => .ok (fn.getLsbD 7, sc, Order.ofCode (fn.extractLsb' 2 2))
  | none => .error .illegalOp
def fnBit0 (fn : BitVec 8) : Dec Bool := do
  fnNeed (fn.extractLsb' 1 7 == 0#7)
  .ok (fn.getLsbD 0)
def fnShfl (fn : BitVec 8) : Dec (Bool × ShflMode) := do
  fnNeed ((hiNib fn == 8 || hiNib fn == 9) && fn.extractLsb' 2 2 == 0#2)
  .ok (fn.getLsbD 4, ShflMode.ofCode (fn.setWidth 2))
def fnVote (fn : BitVec 8) : Dec VoteMode := do
  fnNeed (fn.extractLsb' 2 6 == 0#6)
  match VoteMode.ofCode (fn.setWidth 2) with
  | some m => .ok m
  | none => .error .illegalOp
def fnRed (fn : BitVec 8) : Dec (Ty × RedOp × Bool) := do
  let ty ← fnTy fn
  match RedOp.ofCode (fn.setWidth 3) with
  | some op => fnNeed (redTypes ty op); .ok (ty, op, fn.getLsbD 3)
  | none => .error .illegalOp
def fnGarg (fn : BitVec 8) : Dec (Ty × Bool × Bool × Bool) := do
  let ty ← fnTy fn
  fnNeed (ty.isGroup && !fn.getLsbD 3)
  .ok (ty, fn.getLsbD 2, fn.getLsbD 1, fn.getLsbD 0)
def fnAcopy (fn : BitVec 8) : Dec (Bool × BitVec 2 × CopyDir) := do
  fnNeed (fn.extractLsb' 5 3 == 0#3)
  .ok (fn.getLsbD 4, fn.extractLsb' 2 2, CopyDir.ofCode (fn.setWidth 2))
def fnWaitc (fn : BitVec 8) : Dec (Scope × EngClass) := do
  fnNeed (!fn.getLsbD 7 && fn.extractLsb' 2 2 == 0#2)
  match Scope.ofCode (fn.extractLsb' 4 3) with
  | some sc => .ok (sc, EngClass.ofCode (fn.setWidth 2))
  | none => .error .illegalOp
def fnSlot (fn : BitVec 8) : Dec (BitVec 3) := do
  fnNeed (fn.extractLsb' 3 5 == 0#5)
  .ok (fn.setWidth 3)
def fnMst (fn : BitVec 8) : Dec (Ty × Bool × Bool × Rm) := do
  let ty ← fnTy fn
  let rm := Rm.ofCode (fn.setWidth 2)
  fnNeed (mstTypes ty (fn.getLsbD 3) (fn.getLsbD 2) rm)
  .ok (ty, fn.getLsbD 3, fn.getLsbD 2, rm)
def fnWbar (fn : BitVec 8) : Dec WExt := do
  fnNeed (fn.extractLsb' 2 6 == 0#6)
  match WExt.ofCode (fn.setWidth 2) with
  | some e => .ok e
  | none => .error .illegalOp
def fnColl (fn : BitVec 8) : Dec (Ty × RedOp × CollKind) := do
  let ty ← fnTy fn
  let kind := CollKind.ofCode (fn.setWidth 2)
  match RedOp.ofCode ((fn.extractLsb' 2 2).setWidth 3) with
  | some op => fnNeed (collTypes ty op kind); .ok (ty, op, kind)
  | none => .error .illegalOp
def fnCmp (fn : BitVec 8) : Cmp := Cmp.ofCode (fn.setWidth 3)

/-! The function codes an encoder writes. -/

def bit8 (b : Bool) (n : Nat) : BitVec 8 := (if b then 1#8 else 0#8) <<< n
def fnTy8 (ty : Ty) : BitVec 8 := (ty.code ++ 0#4 : BitVec 8)
def fnT (ty : Ty) (sat : Bool) : BitVec 8 := fnTy8 ty ||| bit8 sat 0
def fnW (wide : Bool) : BitVec 8 := if wide then 0x90#8 else 0x80#8
def fnN (wide : Bool) : BitVec 8 := if wide then 0x70#8 else 0x60#8
def fnU (wide : Bool) (k : BitVec 4) : BitVec 8 := ((if wide then 1#4 else 0#4) ++ k : BitVec 8)
def fnF (rm : Rm) (ftz : Bool) : BitVec 8 := 0xA0#8 ||| bit8 ftz 2 ||| rm.code.setWidth 8
def fnMm (nan ftz : Bool) : BitVec 8 := 0xA0#8 ||| bit8 nan 3 ||| bit8 ftz 2
def fnDS (dty sty : Ty) : BitVec 8 := (dty.code ++ sty.code : BitVec 8)
def fnCmpU (cmp : Cmp) (unord : Bool) : BitVec 8 := cmp.code.setWidth 8 ||| bit8 unord 3

/-- fsel of a flag selection (R15). -/
def FSel.code : FSel → BitVec 2
  | .none => 0 | .x => 1 | .y => 2

/-- The word fields of an instruction with its common fields. -/
def mkRaw (op fn : BitVec 8) (c : Common) (opd opa opb : BitVec 12) (cw : BitVec 32) : Raw :=
  ⟨op, fn, c.gneg, c.guard, opd, opa, opb, c.bnd, c.fsel.code, c.reuseA, c.reuseB, c.yld, false, cw⟩

/-- The field of an operand an instruction may leave out. -/
def encOpt (o : Option Opnd) : BitVec 12 :=
  match o with
  | none => 0
  | some o => o.enc

/-- C[11:0] as a third operand (R15). -/
def third (x : BitVec 12) : BitVec 32 := (0#20 ++ x : BitVec 32)

/-- CVT's control word: [2] sat, [1:0] rounding (R35). -/
def cvtWord (rm : Rm) (sat : Bool) : BitVec 32 := (0#29 ++ bit1 sat ++ rm.code : BitVec 32)

/-- CLAUSE (R26): gneg, the operand fields, fsel, the hints and yld are zero, the guard is 15. -/
def headerOk (r : Raw) : Bool :=
  !r.gneg && r.guard == 15 && r.opd == 0 && r.opa == 0 && r.opb == 0 && r.fsel == 0 && !r.reuseA && !r.reuseB
    && !r.yld && !r.res0

def decClause (r : Raw) : Dec Instr := do
  if r.bnd then .error .clauseForm
  fnZero r.fn
  need (headerOk r && r.cw.extractLsb' 20 12 == 0#12)
  accept (.clause (r.cw.extractLsb' 12 4) (r.cw.extractLsb' 16 4) (r.cw.setWidth 12))

def decRegion (r : Raw) : Dec Instr := do
  fnZero r.fn
  need (headerOk r)
  accept (.region r.bnd r.cw)

/-- NOP (R37). -/
def decNop (r : Raw) : Dec Instr := do
  fnZero r.fn
  let c ← r.common
  need (r.opd == 0)
  need (r.opa == 0)
  need (r.opb == 0)
  need (r.cw == 0)
  accept (.nop c)

/-- TRAP (R343). -/
def decTrap (r : Raw) : Dec Instr := do
  fnZero r.fn
  let c ← r.common
  need (r.opd == 0)
  let a ← opnd r.opa
  need (r.opb == 0)
  need (r.cw == 0)
  accept (.trap c a)

/-- BRK (R343). -/
def decBrk (r : Raw) : Dec Instr := do
  fnZero r.fn
  let c ← r.common
  need (r.opd == 0)
  need (r.opa == 0)
  need (r.opb == 0)
  need (r.cw == 0)
  accept (.brk c)

/-- RDSR (R344). -/
def decRdsr (r : Raw) : Dec Instr := do
  fnZero r.fn
  let c ← r.common
  let d ← opnd r.opd
  let sr ← opndSr r.opa
  need (r.opb == 0)
  need (r.cw == 0)
  accept (.rdsr c d sr)

/-- WRSR (R345). -/
def decWrsr (r : Raw) : Dec Instr := do
  fnZero r.fn
  let c ← r.common
  let sr ← opndSr r.opd
  let a ← opnd r.opa
  need (r.opb == 0)
  accept (.wrsr c sr a r.cw)

/-- MOV (R181). -/
def decMov (r : Raw) : Dec Instr := do
  let wide ← fnWide r.fn
  let c ← r.common
  let d ← opnd r.opd
  let a ← opnd r.opa
  need (r.opb == 0)
  accept (.mov c wide d a r.cw)

/-- MOVI (R181). -/
def decMovi (r : Raw) : Dec Instr := do
  fnIs r.fn 0x80#8
  let c ← r.common
  let d ← opnd r.opd
  need (r.opa == 0)
  need (r.opb == 0)
  accept (.movi c d r.cw)

/-- MOVI_W (R181). -/
def decMoviW (r : Raw) : Dec Instr := do
  fnIs r.fn 0x90#8
  let c ← r.common
  let d ← opnd r.opd
  need (r.opa == 0)
  need (r.opb == 0)
  accept (.moviW c d r.cw)

/-- MOVI_HI (R181). -/
def decMoviHi (r : Raw) : Dec Instr := do
  fnIs r.fn 0x91#8
  let c ← r.common
  let d ← opnd r.opd
  need (r.opa == 0)
  need (r.opb == 0)
  accept (.moviHi c d r.cw)

/-- UMOV (R182). -/
def decUmov (r : Raw) : Dec Instr := do
  let wide ← fnUmov r.fn 0#4
  let c ← r.common
  let d ← opnd r.opd
  let a ← opnd r.opa
  need (r.opb == 0)
  accept (.umov c wide d a r.cw)

/-- UMOV_BC (R182). -/
def decUmovBc (r : Raw) : Dec Instr := do
  let wide ← fnUmov r.fn 1#4
  let c ← r.common
  let d ← opnd r.opd
  let a ← opnd r.opa
  need (r.opb == 0)
  accept (.umovBc c wide d a r.cw)

/-- UMOV_LN (R182). -/
def decUmovLn (r : Raw) : Dec Instr := do
  let wide ← fnUmov r.fn 2#4
  let c ← r.common
  let d ← opnd r.opd
  let a ← opnd r.opa
  let b ← opnd r.opb
  accept (.umovLn c wide d a b r.cw)

/-- HGET (R133). -/
def decHget (r : Raw) : Dec Instr := do
  fnZero r.fn
  let c ← r.common
  let d ← opnd r.opd
  let a ← opnd r.opa
  need (r.opb == 0)
  need (r.cw == 0)
  accept (.hget c d a)

/-- HPUT (R133). -/
def decHput (r : Raw) : Dec Instr := do
  fnZero r.fn
  let c ← r.common
  let d ← opnd r.opd
  let a ← opnd r.opa
  need (r.opb == 0)
  need (r.cw == 0)
  accept (.hput c d a)

/-- BRA (R292). -/
def decBra (r : Raw) : Dec Instr := do
  fnIs r.fn 0x00#8
  let c ← r.common
  need (r.opd == 0)
  need (r.opa == 0)
  need (r.opb == 0)
  accept (.bra c r.cw)

/-- BRA_DV (R301). -/
def decBraDv (r : Raw) : Dec Instr := do
  fnIs r.fn 0x01#8
  let c ← r.common
  need (r.opd == 0)
  need (r.opa == 0)
  need (r.opb == 0)
  accept (.braDv c r.cw)

/-- BRX (R292). -/
def decBrx (r : Raw) : Dec Instr := do
  fnZero r.fn
  let c ← r.common
  need (r.opd == 0)
  let a ← opnd r.opa
  need (r.opb == 0)
  need (r.cw == 0)
  accept (.brx c a)

/-- CALL (R293). -/
def decCall (r : Raw) : Dec Instr := do
  fnZero r.fn
  let c ← r.common
  need (r.opd == 0)
  need (r.opa == 0)
  need (r.opb == 0)
  accept (.call c r.cw)

/-- CALLI (R293). -/
def decCalli (r : Raw) : Dec Instr := do
  fnZero r.fn
  let c ← r.common
  need (r.opd == 0)
  let a ← opnd r.opa
  need (r.opb == 0)
  need (r.cw == 0)
  accept (.calli c a)

/-- CALLT (R295). -/
def decCallt (r : Raw) : Dec Instr := do
  fnZero r.fn
  let c ← r.common
  need (r.opd == 0)
  let a ← opnd r.opa
  need (r.opb == 0)
  accept (.callt c a r.cw)

/-- RET (R293). -/
def decRet (r : Raw) : Dec Instr := do
  fnZero r.fn
  let c ← r.common
  need (r.opd == 0)
  need (r.opa == 0)
  need (r.opb == 0)
  need (r.cw == 0)
  accept (.ret c)

/-- EXIT (R296). -/
def decExit (r : Raw) : Dec Instr := do
  fnZero r.fn
  let c ← r.common
  need (r.opd == 0)
  need (r.opa == 0)
  need (r.opb == 0)
  need (r.cw == 0)
  accept (.exit c)

/-- REJOIN (R303). -/
def decRejoin (r : Raw) : Dec Instr := do
  fnZero r.fn
  let c ← r.common
  need (r.opd == 0)
  need (r.opa == 0)
  need (r.opb == 0)
  need (r.cw == 0)
  accept (.rejoin c)

/-- MJOIN (R299). -/
def decMjoin (r : Raw) : Dec Instr := do
  fnZero r.fn
  let c ← r.common
  need (r.opd == 0)
  let a ← opnd r.opa
  need (r.opb == 0)
  need (r.cw == 0)
  accept (.mjoin c a)

/-- MSET (R298). -/
def decMset (r : Raw) : Dec Instr := do
  fnZero r.fn
  let c ← r.common
  let d ← opnd r.opd
  let a ← opnd r.opa
  need (r.opb == 0)
  accept (.mset c d a r.cw)

/-- MGET (R298). -/
def decMget (r : Raw) : Dec Instr := do
  fnZero r.fn
  let c ← r.common
  let d ← opnd r.opd
  let a ← opnd r.opa
  need (r.opb == 0)
  need (r.cw == 0)
  accept (.mget c d a)

/-- YIELD (R297). -/
def decYield (r : Raw) : Dec Instr := do
  fnZero r.fn
  let c ← r.common
  need (r.opd == 0)
  need (r.opa == 0)
  need (r.opb == 0)
  need (r.cw == 0)
  accept (.yield c)

/-- IADD (R184). -/
def decIadd (r : Raw) : Dec Instr := do
  let ty ← fnTy r.fn
  fnNeed (ty.isInt4)
  let sat ← fnSat r.fn
  let c ← r.common
  let d ← opnd r.opd
  let a ← opnd r.opa
  let b ← opnd r.opb
  accept (.iadd c ty sat d a b r.cw)

/-- IADD3 (R184). -/
def decIadd3 (r : Raw) : Dec Instr := do
  let ty ← fnTy r.fn
  fnNeed (ty.isInt4)
  let sat ← fnSat r.fn
  let c ← r.common
  let d ← opnd r.opd
  let a ← opnd r.opa
  let b ← opnd r.opb
  let x ← thirdField r.cw
  let e ← opnd x
  accept (.iadd3 c ty sat d a b e)

/-- ISUB (R184). -/
def decIsub (r : Raw) : Dec Instr := do
  let ty ← fnTy r.fn
  fnNeed (ty.isInt4)
  let sat ← fnSat r.fn
  let c ← r.common
  let d ← opnd r.opd
  let a ← opnd r.opa
  let b ← opnd r.opb
  accept (.isub c ty sat d a b r.cw)

/-- IMUL (R184). -/
def decImul (r : Raw) : Dec Instr := do
  let ty ← fnTy r.fn
  fnNeed (ty.isInt4)
  fnLow r.fn 0#4
  let c ← r.common
  let d ← opnd r.opd
  let a ← opnd r.opa
  let b ← opnd r.opb
  accept (.imul c ty d a b r.cw)

/-- IMULH (R184). -/
def decImulh (r : Raw) : Dec Instr := do
  let ty ← fnTy r.fn
  fnNeed (ty.isInt4)
  fnLow r.fn 0#4
  let c ← r.common
  let d ← opnd r.opd
  let a ← opnd r.opa
  let b ← opnd r.opb
  accept (.imulh c ty d a b r.cw)

/-- IMAD (R184). -/
def decImad (r : Raw) : Dec Instr := do
  let ty ← fnTy r.fn
  fnNeed (ty.isInt4)
  let sat ← fnSat r.fn
  let c ← r.common
  let d ← opnd r.opd
  let a ← opnd r.opa
  let b ← opnd r.opb
  let x ← thirdField r.cw
  let e ← opnd x
  accept (.imad c ty sat d a b e)

/-- IMADW (R184). -/
def decImadw (r : Raw) : Dec Instr := do
  let ty ← fnTy r.fn
  fnNeed (ty.isInt2)
  fnLow r.fn 0#4
  let c ← r.common
  let d ← opnd r.opd
  let a ← opnd r.opa
  let b ← opnd r.opb
  let x ← thirdField r.cw
  let e ← opnd x
  accept (.imadw c ty d a b e)

/-- IABS (R184). -/
def decIabs (r : Raw) : Dec Instr := do
  let ty ← fnTy r.fn
  fnNeed (ty.isSigned2)
  let sat ← fnSat r.fn
  let c ← r.common
  let d ← opnd r.opd
  let a ← opnd r.opa
  need (r.opb == 0)
  accept (.iabs c ty sat d a r.cw)

/-- INEG (R184). -/
def decIneg (r : Raw) : Dec Instr := do
  let ty ← fnTy r.fn
  fnNeed (ty.isSigned2)
  let sat ← fnSat r.fn
  let c ← r.common
  let d ← opnd r.opd
  let a ← opnd r.opa
  need (r.opb == 0)
  accept (.ineg c ty sat d a r.cw)

/-- IMIN (R184). -/
def decImin (r : Raw) : Dec Instr := do
  let ty ← fnTy r.fn
  fnNeed (ty.isInt4)
  fnLow r.fn 0#4
  let c ← r.common
  let d ← opnd r.opd
  let a ← opnd r.opa
  let b ← opnd r.opb
  accept (.imin c ty d a b r.cw)

/-- IMAX (R184). -/
def decImax (r : Raw) : Dec Instr := do
  let ty ← fnTy r.fn
  fnNeed (ty.isInt4)
  fnLow r.fn 0#4
  let c ← r.common
  let d ← opnd r.opd
  let a ← opnd r.opa
  let b ← opnd r.opb
  accept (.imax c ty d a b r.cw)

/-- ISAD (R184). -/
def decIsad (r : Raw) : Dec Instr := do
  let ty ← fnTy r.fn
  fnNeed (ty.isInt2)
  fnLow r.fn 0#4
  let c ← r.common
  let d ← opnd r.opd
  let a ← opnd r.opa
  let b ← opnd r.opb
  let x ← thirdField r.cw
  let e ← opnd x
  accept (.isad c ty d a b e)

/-- LEA (R186). -/
def decLea (r : Raw) : Dec Instr := do
  let (wide, sh) ← fnLea r.fn
  let c ← r.common
  let d ← opnd r.opd
  let a ← opnd r.opa
  let b ← opnd r.opb
  accept (.lea c wide sh d a b r.cw)

/-- ADDC (R185). -/
def decAddc (r : Raw) : Dec Instr := do
  let wide ← fnNWide r.fn
  let c ← r.common
  let d ← opnd r.opd
  let a ← opnd r.opa
  let b ← opnd r.opb
  let x ← thirdField r.cw
  let e ← opnd x
  accept (.addc c wide d a b e)

/-- SUBC (R185). -/
def decSubc (r : Raw) : Dec Instr := do
  let wide ← fnNWide r.fn
  let c ← r.common
  let d ← opnd r.opd
  let a ← opnd r.opa
  let b ← opnd r.opb
  let x ← thirdField r.cw
  let e ← opnd x
  accept (.subc c wide d a b e)

/-- AND (R188). -/
def decAndb (r : Raw) : Dec Instr := do
  let wide ← fnWide r.fn
  let c ← r.common
  let d ← opnd r.opd
  let a ← opnd r.opa
  let b ← opnd r.opb
  accept (.andb c wide d a b r.cw)

/-- OR (R188). -/
def decOrb (r : Raw) : Dec Instr := do
  let wide ← fnWide r.fn
  let c ← r.common
  let d ← opnd r.opd
  let a ← opnd r.opa
  let b ← opnd r.opb
  accept (.orb c wide d a b r.cw)

/-- XOR (R188). -/
def decXorb (r : Raw) : Dec Instr := do
  let wide ← fnWide r.fn
  let c ← r.common
  let d ← opnd r.opd
  let a ← opnd r.opa
  let b ← opnd r.opb
  accept (.xorb c wide d a b r.cw)

/-- NOT (R188). -/
def decNotb (r : Raw) : Dec Instr := do
  let wide ← fnWide r.fn
  let c ← r.common
  let d ← opnd r.opd
  let a ← opnd r.opa
  need (r.opb == 0)
  accept (.notb c wide d a r.cw)

/-- TLOG (R188). -/
def decTlog (r : Raw) : Dec Instr := do
  let tt := r.fn
  let c ← r.common
  let d ← opnd r.opd
  let a ← opnd r.opa
  let b ← opnd r.opb
  let x ← thirdField r.cw
  let e ← opnd x
  accept (.tlog c tt d a b e)

/-- SHL (R189). -/
def decShl (r : Raw) : Dec Instr := do
  let wide ← fnWide r.fn
  let c ← r.common
  let d ← opnd r.opd
  let a ← opnd r.opa
  let b ← opnd r.opb
  accept (.shl c wide d a b r.cw)

/-- SHR (R189). -/
def decShr (r : Raw) : Dec Instr := do
  let wide ← fnWide r.fn
  let c ← r.common
  let d ← opnd r.opd
  let a ← opnd r.opa
  let b ← opnd r.opb
  accept (.shr c wide d a b r.cw)

/-- SAR (R189). -/
def decSar (r : Raw) : Dec Instr := do
  let wide ← fnWide r.fn
  let c ← r.common
  let d ← opnd r.opd
  let a ← opnd r.opa
  let b ← opnd r.opb
  accept (.sar c wide d a b r.cw)

/-- FUNL (R189). -/
def decFunl (r : Raw) : Dec Instr := do
  fnIs r.fn 0x80#8
  let c ← r.common
  let d ← opnd r.opd
  let a ← opnd r.opa
  let b ← opnd r.opb
  let x ← thirdField r.cw
  let e ← opnd x
  accept (.funl c d a b e)

/-- FUNR (R189). -/
def decFunr (r : Raw) : Dec Instr := do
  fnIs r.fn 0x80#8
  let c ← r.common
  let d ← opnd r.opd
  let a ← opnd r.opa
  let b ← opnd r.opb
  let x ← thirdField r.cw
  let e ← opnd x
  accept (.funr c d a b e)

/-- ROT (R189). -/
def decRot (r : Raw) : Dec Instr := do
  let (wide, right) ← fnRot r.fn
  let c ← r.common
  let d ← opnd r.opd
  let a ← opnd r.opa
  let b ← opnd r.opb
  accept (.rot c wide right d a b r.cw)

/-- BFE (R190). -/
def decBfe (r : Raw) : Dec Instr := do
  let ty ← fnTy r.fn
  fnNeed (ty.isInt4)
  fnLow r.fn 0#4
  let c ← r.common
  let d ← opnd r.opd
  let a ← opnd r.opa
  let b ← opnd r.opb
  accept (.bfe c ty d a b r.cw)

/-- BFI (R190). -/
def decBfi (r : Raw) : Dec Instr := do
  let wide ← fnWide r.fn
  let c ← r.common
  let d ← opnd r.opd
  let a ← opnd r.opa
  let b ← opnd r.opb
  let x ← thirdField r.cw
  let e ← opnd x
  accept (.bfi c wide d a b e)

/-- BMSK (R190). -/
def decBmsk (r : Raw) : Dec Instr := do
  fnIs r.fn 0x80#8
  let c ← r.common
  let d ← opnd r.opd
  let a ← opnd r.opa
  let b ← opnd r.opb
  accept (.bmsk c d a b r.cw)

/-- POPC (R191). -/
def decPopc (r : Raw) : Dec Instr := do
  let wide ← fnWide r.fn
  let c ← r.common
  let d ← opnd r.opd
  let a ← opnd r.opa
  need (r.opb == 0)
  accept (.popc c wide d a r.cw)

/-- CLZ (R191). -/
def decClz (r : Raw) : Dec Instr := do
  let wide ← fnWide r.fn
  let c ← r.common
  let d ← opnd r.opd
  let a ← opnd r.opa
  need (r.opb == 0)
  accept (.clz c wide d a r.cw)

/-- CTZ (R191). -/
def decCtz (r : Raw) : Dec Instr := do
  let wide ← fnWide r.fn
  let c ← r.common
  let d ← opnd r.opd
  let a ← opnd r.opa
  need (r.opb == 0)
  accept (.ctz c wide d a r.cw)

/-- BREV (R191). -/
def decBrev (r : Raw) : Dec Instr := do
  let wide ← fnWide r.fn
  let c ← r.common
  let d ← opnd r.opd
  let a ← opnd r.opa
  need (r.opb == 0)
  accept (.brev c wide d a r.cw)

/-- BYSEL (R192). -/
def decBysel (r : Raw) : Dec Instr := do
  fnIs r.fn 0x80#8
  let c ← r.common
  let d ← opnd r.opd
  let a ← opnd r.opa
  let b ← opnd r.opb
  let x ← thirdField r.cw
  let e ← opnd x
  accept (.bysel c d a b e)

/-- ISETP (R194). -/
def decIsetp (r : Raw) : Dec Instr := do
  let ty ← fnTy r.fn
  fnNeed ty.isInt4
  let cmp := fnCmp r.fn
  fnNeed cmp.isRel
  fnNeed (!r.fn.getLsbD 3)
  let c ← r.common
  let d ← opnd r.opd
  let a ← opnd r.opa
  let b ← opnd r.opb
  accept (.isetp c ty cmp d a b r.cw)

/-- FSETP (R194). -/
def decFsetp (r : Raw) : Dec Instr := do
  let ty ← fnTy r.fn
  fnNeed (ty == Ty.f32)
  let cmp := fnCmp r.fn
  let unord := r.fn.getLsbD 3
  fnNeed (cmp.isRel || !unord)
  let c ← r.common
  let d ← opnd r.opd
  let a ← opnd r.opa
  let b ← opnd r.opb
  accept (.fsetp c cmp unord d a b r.cw)

/-- HSETP2 (R194). -/
def decHsetp2 (r : Raw) : Dec Instr := do
  let ty ← fnTy r.fn
  fnNeed ty.isHalf
  let cmp := fnCmp r.fn
  let unord := r.fn.getLsbD 3
  fnNeed (cmp.isRel || !unord)
  let c ← r.common
  let d ← opnd r.opd
  let a ← opnd r.opa
  let b ← opnd r.opb
  let x ← thirdField r.cw
  let e ← opnd x
  accept (.hsetp2 c ty cmp unord d a b e)

/-- SEL (R195). -/
def decSel (r : Raw) : Dec Instr := do
  let wide ← fnWide r.fn
  let c ← r.common
  let d ← opnd r.opd
  let a ← opnd r.opa
  let b ← opnd r.opb
  let x ← thirdField r.cw
  let e ← opnd x
  accept (.sel c wide d a b e)

/-- PSET (R195). -/
def decPset (r : Raw) : Dec Instr := do
  let tt := r.fn
  let c ← r.common
  let d ← opnd r.opd
  let a ← opnd r.opa
  let b ← opnd r.opb
  let x ← thirdField r.cw
  let e ← opnd x
  accept (.pset c tt d a b e)

/-- P2V (R196). -/
def decP2v (r : Raw) : Dec Instr := do
  fnZero r.fn
  let c ← r.common
  let d ← opnd r.opd
  need (r.opa == 0)
  need (r.opb == 0)
  need (r.cw == 0)
  accept (.p2v c d)

/-- V2P (R196). -/
def decV2p (r : Raw) : Dec Instr := do
  fnZero r.fn
  let c ← r.common
  need (r.opd == 0)
  let a ← opnd r.opa
  let b ← opnd r.opb
  accept (.v2p c a b r.cw)

/-- FADD (R198). -/
def decFadd (r : Raw) : Dec Instr := do
  let (rm, ftz) ← fnFp r.fn
  let c ← r.common
  let d ← opnd r.opd
  let a ← opnd r.opa
  let b ← opnd r.opb
  accept (.fadd c rm ftz d a b r.cw)

/-- FSUB (R198). -/
def decFsub (r : Raw) : Dec Instr := do
  let (rm, ftz) ← fnFp r.fn
  let c ← r.common
  let d ← opnd r.opd
  let a ← opnd r.opa
  let b ← opnd r.opb
  accept (.fsub c rm ftz d a b r.cw)

/-- FMUL (R198). -/
def decFmul (r : Raw) : Dec Instr := do
  let (rm, ftz) ← fnFp r.fn
  let c ← r.common
  let d ← opnd r.opd
  let a ← opnd r.opa
  let b ← opnd r.opb
  accept (.fmul c rm ftz d a b r.cw)

/-- FFMA (R198). -/
def decFfma (r : Raw) : Dec Instr := do
  let (rm, ftz) ← fnFp r.fn
  let c ← r.common
  let d ← opnd r.opd
  let a ← opnd r.opa
  let b ← opnd r.opb
  let x ← thirdField r.cw
  let e ← opnd x
  accept (.ffma c rm ftz d a b e)

/-- FMIN (R199). -/
def decFmin (r : Raw) : Dec Instr := do
  let (nan, ftz) ← fnFminmax r.fn
  let c ← r.common
  let d ← opnd r.opd
  let a ← opnd r.opa
  let b ← opnd r.opb
  accept (.fmin c nan ftz d a b r.cw)

/-- FMAX (R199). -/
def decFmax (r : Raw) : Dec Instr := do
  let (nan, ftz) ← fnFminmax r.fn
  let c ← r.common
  let d ← opnd r.opd
  let a ← opnd r.opa
  let b ← opnd r.opb
  accept (.fmax c nan ftz d a b r.cw)

/-- FDIV (R200). -/
def decFdiv (r : Raw) : Dec Instr := do
  let (rm, ftz) ← fnFp r.fn
  let c ← r.common
  let d ← opnd r.opd
  let a ← opnd r.opa
  let b ← opnd r.opb
  accept (.fdiv c rm ftz d a b r.cw)

/-- FSQRT (R200). -/
def decFsqrt (r : Raw) : Dec Instr := do
  let (rm, ftz) ← fnFp r.fn
  let c ← r.common
  let d ← opnd r.opd
  let a ← opnd r.opa
  need (r.opb == 0)
  accept (.fsqrt c rm ftz d a r.cw)

/-- FRCP (R200). -/
def decFrcp (r : Raw) : Dec Instr := do
  let (rm, ftz) ← fnFp r.fn
  let c ← r.common
  let d ← opnd r.opd
  let a ← opnd r.opa
  need (r.opb == 0)
  accept (.frcp c rm ftz d a r.cw)

/-- FRSQ (R200). -/
def decFrsq (r : Raw) : Dec Instr := do
  let (rm, ftz) ← fnFp r.fn
  fnNeed (rm == Rm.rne)
  let c ← r.common
  let d ← opnd r.opd
  let a ← opnd r.opa
  need (r.opb == 0)
  accept (.frsq c ftz d a r.cw)

/-- FEX2 (R200). -/
def decFex2 (r : Raw) : Dec Instr := do
  let (rm, ftz) ← fnFp r.fn
  fnNeed (rm == Rm.rne)
  let c ← r.common
  let d ← opnd r.opd
  let a ← opnd r.opa
  need (r.opb == 0)
  accept (.fex2 c ftz d a r.cw)

/-- FLG2 (R200). -/
def decFlg2 (r : Raw) : Dec Instr := do
  let (rm, ftz) ← fnFp r.fn
  fnNeed (rm == Rm.rne)
  let c ← r.common
  let d ← opnd r.opd
  let a ← opnd r.opa
  need (r.opb == 0)
  accept (.flg2 c ftz d a r.cw)

/-- FSIN (R200). -/
def decFsin (r : Raw) : Dec Instr := do
  let (rm, ftz) ← fnFp r.fn
  fnNeed (rm == Rm.rne)
  let c ← r.common
  let d ← opnd r.opd
  let a ← opnd r.opa
  need (r.opb == 0)
  accept (.fsin c ftz d a r.cw)

/-- FCOS (R200). -/
def decFcos (r : Raw) : Dec Instr := do
  let (rm, ftz) ← fnFp r.fn
  fnNeed (rm == Rm.rne)
  let c ← r.common
  let d ← opnd r.opd
  let a ← opnd r.opa
  need (r.opb == 0)
  accept (.fcos c ftz d a r.cw)

/-- FTANH (R200). -/
def decFtanh (r : Raw) : Dec Instr := do
  let (rm, ftz) ← fnFp r.fn
  fnNeed (rm == Rm.rne)
  let c ← r.common
  let d ← opnd r.opd
  let a ← opnd r.opa
  need (r.opb == 0)
  accept (.ftanh c ftz d a r.cw)

/-- FCLASS (R201). -/
def decFclass (r : Raw) : Dec Instr := do
  fnIs r.fn 0xA0#8
  let c ← r.common
  let d ← opnd r.opd
  let a ← opnd r.opa
  need (r.opb == 0)
  accept (.fclass c d a r.cw)

/-- HADD2 (R202). -/
def decHadd2 (r : Raw) : Dec Instr := do
  let (ty, rm) ← fnHalf r.fn
  let c ← r.common
  let d ← opnd r.opd
  let a ← opnd r.opa
  let b ← opnd r.opb
  need (r.cw == 0)
  accept (.hadd2 c ty rm d a b)

/-- HMUL2 (R202). -/
def decHmul2 (r : Raw) : Dec Instr := do
  let (ty, rm) ← fnHalf r.fn
  let c ← r.common
  let d ← opnd r.opd
  let a ← opnd r.opa
  let b ← opnd r.opb
  need (r.cw == 0)
  accept (.hmul2 c ty rm d a b)

/-- HFMA2 (R202). -/
def decHfma2 (r : Raw) : Dec Instr := do
  let (ty, rm) ← fnHalf r.fn
  let c ← r.common
  let d ← opnd r.opd
  let a ← opnd r.opa
  let b ← opnd r.opb
  let x ← thirdField r.cw
  let e ← opnd x
  accept (.hfma2 c ty rm d a b e)

/-- HMIN2 (R202). -/
def decHmin2 (r : Raw) : Dec Instr := do
  let (ty, nan) ← fnHalfMm r.fn
  let c ← r.common
  let d ← opnd r.opd
  let a ← opnd r.opa
  let b ← opnd r.opb
  need (r.cw == 0)
  accept (.hmin2 c ty nan d a b)

/-- HMAX2 (R202). -/
def decHmax2 (r : Raw) : Dec Instr := do
  let (ty, nan) ← fnHalfMm r.fn
  let c ← r.common
  let d ← opnd r.opd
  let a ← opnd r.opa
  let b ← opnd r.opb
  need (r.cw == 0)
  accept (.hmax2 c ty nan d a b)

/-- CVT (R203). -/
def decCvt (r : Raw) : Dec Instr := do
  let (dty, sty) ← fnCvt r.fn
  let c ← r.common
  let d ← opnd r.opd
  let a ← opnd r.opa
  need (r.opb == 0)
  need (r.cw.extractLsb' 3 29 == 0#29)
  let rm := Rm.ofCode (r.cw.setWidth 2)
  let sat := r.cw.getLsbD 2
  accept (.cvt c dty sty rm sat d a)

/-- CVTH (R204). -/
def decCvth (r : Raw) : Dec Instr := do
  let (dty, sty) ← fnCvth r.fn
  let c ← r.common
  let d ← opnd r.opd
  let a ← opnd r.opa
  need (!(dty == Ty.f32) || r.opb == 0)
  let b ← if dty == Ty.f32 then Except.ok none else some <$> opnd r.opb
  need (r.cw.extractLsb' 3 29 == 0#29)
  let rm := Rm.ofCode (r.cw.setWidth 2)
  let sat := r.cw.getLsbD 2
  accept (.cvth c dty sty rm sat d a b)

/-- FRND (R205). -/
def decFrnd (r : Raw) : Dec Instr := do
  let (ty, rm) ← fnFrnd r.fn
  let c ← r.common
  let d ← opnd r.opd
  let a ← opnd r.opa
  need (r.opb == 0)
  need (r.cw == 0)
  accept (.frnd c ty rm d a)

/-- QNT (R206). -/
def decQnt (r : Raw) : Dec Instr := do
  let (useB, slot) ← fnQ r.fn
  let c ← r.common
  let d ← opnd r.opd
  let a ← opnd r.opa
  let b ← opnd r.opb
  need (r.cw == 0)
  accept (.qnt c useB slot d a b)

/-- DQNT (R206). -/
def decDqnt (r : Raw) : Dec Instr := do
  let (useB, slot) ← fnQ r.fn
  let c ← r.common
  let d ← opnd r.opd
  let a ← opnd r.opa
  let b ← opnd r.opb
  need (r.cw == 0)
  accept (.dqnt c useB slot d a b)

/-- IDIV (R207). -/
def decIdiv (r : Raw) : Dec Instr := do
  let ty ← fnTy r.fn
  fnNeed (ty.isInt4)
  fnLow r.fn 0#4
  let c ← r.common
  let d ← opnd r.opd
  let a ← opnd r.opa
  let b ← opnd r.opb
  accept (.idiv c ty d a b r.cw)

/-- IREM (R207). -/
def decIrem (r : Raw) : Dec Instr := do
  let ty ← fnTy r.fn
  fnNeed (ty.isInt4)
  fnLow r.fn 0#4
  let c ← r.common
  let d ← opnd r.opd
  let a ← opnd r.opa
  let b ← opnd r.opb
  accept (.irem c ty d a b r.cw)

/-- LD (R89). -/
def decLd (r : Raw) : Dec Instr := do
  let (ty, scale) ← fnMem r.fn
  let c ← r.common
  let d ← opnd r.opd
  let a ← opnd r.opa
  let idx ← opndOpt r.opb
  let mc ← MemCtl.dec r.cw
  accept (.ld c ty scale d a idx mc)

/-- ST (R93). -/
def decSt (r : Raw) : Dec Instr := do
  let (ty, scale) ← fnMem r.fn
  let c ← r.common
  let d ← opnd r.opd
  let a ← opnd r.opa
  let idx ← opndOpt r.opb
  let mc ← MemCtl.dec r.cw
  accept (.st c ty scale d a idx mc)

/-- LDSP (R90). -/
def decLdsp (r : Raw) : Dec Instr := do
  let (ty, scale) ← fnMem r.fn
  let c ← r.common
  let d ← opnd r.opd
  let a ← opnd r.opa
  let idx ← opndOpt r.opb
  let mc ← MemCtl.dec r.cw
  accept (.ldsp c ty scale d a idx mc)

/-- STSP (R94). -/
def decStsp (r : Raw) : Dec Instr := do
  let (ty, scale) ← fnMem r.fn
  let c ← r.common
  let d ← opnd r.opd
  let a ← opnd r.opa
  let idx ← opndOpt r.opb
  let mc ← MemCtl.dec r.cw
  accept (.stsp c ty scale d a idx mc)

/-- LDC (R89). -/
def decLdc (r : Raw) : Dec Instr := do
  let (ty, lr, scale) ← fnLdc r.fn
  let c ← r.common
  let d ← opnd r.opd
  let a ← opnd r.opa
  let idx ← opndOpt r.opb
  let mc ← MemCtl.dec r.cw
  accept (.ldc c ty lr scale d a idx mc)

/-- ATOM (R99). -/
def decAtom (r : Raw) : Dec Instr := do
  let (ty, op) ← fnAtom r.fn
  let c ← r.common
  let d ← opnd r.opd
  let a ← opnd r.opa
  let b ← opnd r.opb
  let mc ← MemCtl.dec r.cw
  accept (.atom c ty op d a b mc)

/-- RED (R99). -/
def decRed (r : Raw) : Dec Instr := do
  let (ty, op) ← fnAtom r.fn
  fnNeed op.isRed
  let c ← r.common
  need (r.opd == 0)
  let a ← opnd r.opa
  let b ← opnd r.opb
  let mc ← MemCtl.dec r.cw
  accept (.red c ty op a b mc)

/-- FENCE (R97). -/
def decFence (r : Raw) : Dec Instr := do
  let (rp, scope, order) ← fnFence r.fn
  let c ← r.common
  need (r.opd == 0)
  need (r.opa == 0)
  need (r.opb == 0)
  need (r.cw == 0)
  accept (.fence c rp scope order)

/-- PREF (R95). -/
def decPref (r : Raw) : Dec Instr := do
  let slice ← fnBit0 r.fn
  let c ← r.common
  need (r.opd == 0)
  let a ← opnd r.opa
  let idx ← opndOpt r.opb
  need (r.cw.extractLsb' 24 8 == 0#8)
  let offset : BitVec 24 := r.cw.setWidth 24
  accept (.pref c slice a idx offset)

/-- SHFL (R217). -/
def decShfl (r : Raw) : Dec Instr := do
  let (wide, mode) ← fnShfl r.fn
  let c ← r.common
  let d ← opnd r.opd
  let a ← opnd r.opa
  let b ← opnd r.opb
  let x ← thirdField r.cw
  let msk ← opndOpt x
  accept (.shfl c mode wide d a b msk)

/-- VOTE (R218). -/
def decVote (r : Raw) : Dec Instr := do
  let mode ← fnVote r.fn
  let c ← r.common
  let d ← opnd r.opd
  let a ← opnd r.opa
  need (r.opb == 0)
  let x ← thirdField r.cw
  let msk ← opndOpt x
  accept (.vote c mode d a msk)

/-- BALLOT (R218). -/
def decBallot (r : Raw) : Dec Instr := do
  fnZero r.fn
  let c ← r.common
  let d ← opnd r.opd
  let a ← opnd r.opa
  need (r.opb == 0)
  let x ← thirdField r.cw
  let msk ← opndOpt x
  accept (.ballot c d a msk)

/-- GRED (R219). -/
def decGred (r : Raw) : Dec Instr := do
  let (ty, op, excl) ← fnRed r.fn
  fnNeed (!excl)
  let c ← r.common
  let d ← opnd r.opd
  let a ← opnd r.opa
  need (r.opb == 0)
  let x ← thirdField r.cw
  let msk ← opndOpt x
  accept (.gred c ty op d a msk)

/-- GSCAN (R220). -/
def decGscan (r : Raw) : Dec Instr := do
  let (ty, op, excl) ← fnRed r.fn
  let c ← r.common
  let d ← opnd r.opd
  let a ← opnd r.opa
  need (r.opb == 0)
  let x ← thirdField r.cw
  let msk ← opndOpt x
  accept (.gscan c ty op excl d a msk)

/-- GARG (R221). -/
def decGarg (r : Raw) : Dec Instr := do
  let (ty, nanwin, hash, isMin) ← fnGarg r.fn
  let c ← r.common
  let d ← opnd r.opd
  let a ← opnd r.opa
  let b ← opndOpt r.opb
  let x ← thirdField r.cw
  let msk ← opndOpt x
  accept (.garg c ty nanwin hash isMin d a b msk)

/-- MATCH (R218). -/
def decMatchOp (r : Raw) : Dec Instr := do
  let (wide, all) ← fnRot r.fn
  let c ← r.common
  let d ← opnd r.opd
  let a ← opnd r.opa
  need (r.opb == 0)
  let x ← thirdField r.cw
  let msk ← opndOpt x
  accept (.matchOp c wide all d a msk)

/-- ELECT (R218). -/
def decElect (r : Raw) : Dec Instr := do
  fnZero r.fn
  let c ← r.common
  let d ← opnd r.opd
  need (r.opa == 0)
  need (r.opb == 0)
  let x ← thirdField r.cw
  let msk ← opndOpt x
  accept (.elect c d msk)

/-- BXCH (R222). -/
def decBxch (r : Raw) : Dec Instr := do
  let wide ← fnWide r.fn
  let c ← r.common
  let d ← opnd r.opd
  let a ← opnd r.opa
  let b ← opnd r.opb
  let x ← thirdField r.cw
  let e ← opnd x
  accept (.bxch c wide d a b e)

/-- ACOPY (R137). -/
def decAcopy (r : Raw) : Dec Instr := do
  let (cb, dims, dir) ← fnAcopy r.fn
  let c ← r.common
  let d ← opnd r.opd
  let a ← opnd r.opa
  need (!(!cb) || r.opb == 0)
  let b ← if !cb then Except.ok none else some <$> opnd r.opb
  need (r.cw == 0)
  accept (.acopy c cb dims dir d a b)

/-- DCMP (R145). -/
def decDcmp (r : Raw) : Dec Instr := do
  let sp ← fnBit0 r.fn
  let c ← r.common
  let d ← opnd r.opd
  let a ← opnd r.opa
  need (r.opb == 0)
  need (r.cw == 0)
  accept (.dcmp c sp d a)

/-- FWAIT (R134). -/
def decFwait (r : Raw) : Dec Instr := do
  fnZero r.fn
  let c ← r.common
  let d ← opnd r.opd
  let a ← opnd r.opa
  need (r.opb == 0)
  need (r.cw == 0)
  accept (.fwait c d a)

/-- FTEST (R134). -/
def decFtest (r : Raw) : Dec Instr := do
  fnZero r.fn
  let c ← r.common
  let d ← opnd r.opd
  let a ← opnd r.opa
  need (r.opb == 0)
  need (r.cw == 0)
  accept (.ftest c d a)

/-- FCANCEL (R134). -/
def decFcancel (r : Raw) : Dec Instr := do
  fnZero r.fn
  let c ← r.common
  need (r.opd == 0)
  let a ← opnd r.opa
  need (r.opb == 0)
  need (r.cw == 0)
  accept (.fcancel c a)

/-- WAITC (R136). -/
def decWaitc (r : Raw) : Dec Instr := do
  let (scope, cls) ← fnWaitc r.fn
  let c ← r.common
  need (r.opd == 0)
  let a ← opnd r.opa
  need (r.opb == 0)
  need (r.cw == 0)
  accept (.waitc c scope cls a)

/-- QPUSH (R151). -/
def decQpush (r : Raw) : Dec Instr := do
  fnZero r.fn
  let c ← r.common
  need (r.opd == 0)
  let a ← opnd r.opa
  let b ← opnd r.opb
  need (r.cw == 0)
  accept (.qpush c a b)

/-- QPOP (R151). -/
def decQpop (r : Raw) : Dec Instr := do
  fnZero r.fn
  let c ← r.common
  let d ← opnd r.opd
  let a ← opnd r.opa
  need (r.opb == 0)
  need (r.cw == 0)
  accept (.qpop c d a)

/-- QTRY_PUSH (R151). -/
def decQtryPush (r : Raw) : Dec Instr := do
  fnIs r.fn 0x00#8
  let c ← r.common
  let d ← opnd r.opd
  let a ← opnd r.opa
  let b ← opnd r.opb
  need (r.cw == 0)
  accept (.qtryPush c d a b)

/-- QTRY_POP (R151). -/
def decQtryPop (r : Raw) : Dec Instr := do
  fnIs r.fn 0x01#8
  let c ← r.common
  let d ← opnd r.opd
  let a ← opnd r.opa
  need (r.opb == 0)
  let x ← thirdField r.cw
  let e ← opnd x
  accept (.qtryPop c d a e)

/-- MRES (R227). -/
def decMres (r : Raw) : Dec Instr := do
  fnZero r.fn
  let c ← r.common
  let d ← opnd r.opd
  need (r.opa == 0)
  need (r.opb == 0)
  need (r.cw == 0)
  accept (.mres c d)

/-- MREL (R228). -/
def decMrel (r : Raw) : Dec Instr := do
  fnZero r.fn
  let c ← r.common
  need (r.opd == 0)
  need (r.opa == 0)
  need (r.opb == 0)
  need (r.cw == 0)
  accept (.mrel c)

/-- MLDW (R234). -/
def decMldw (r : Raw) : Dec Instr := do
  let slot ← fnSlot r.fn
  let c ← r.common
  let d ← opnd r.opd
  let a ← opnd r.opa
  need (r.opb == 0)
  need (r.cw == 0)
  accept (.mldw c slot d a)

/-- MZERO (R235). -/
def decMzero (r : Raw) : Dec Instr := do
  fnZero r.fn
  let c ← r.common
  let d ← opnd r.opd
  need (r.opa == 0)
  need (r.opb == 0)
  need (r.cw == 0)
  accept (.mzero c d)

/-- MMA (R236). -/
def decMma (r : Raw) : Dec Instr := do
  let slot ← fnSlot r.fn
  let c ← r.common
  let d ← opnd r.opd
  let a ← opnd r.opa
  let b ← opnd r.opb
  need (r.cw == 0)
  accept (.mma c slot d a b)

/-- MMAS (R236). -/
def decMmas (r : Raw) : Dec Instr := do
  let slot ← fnSlot r.fn
  let c ← r.common
  let d ← opnd r.opd
  let a ← opnd r.opa
  let b ← opnd r.opb
  need (r.cw == 0)
  accept (.mmas c slot d a b)

/-- MST (R239). -/
def decMst (r : Raw) : Dec Instr := do
  let (ty, bias, rs, rm) ← fnMst r.fn
  let c ← r.common
  let d ← opnd r.opd
  let a ← opnd r.opa
  let b ← opnd r.opb
  need (r.cw == 0)
  accept (.mst c ty bias rs rm d a b)

/-- MCOMMIT (R241). -/
def decMcommit (r : Raw) : Dec Instr := do
  fnZero r.fn
  let c ← r.common
  need (r.opd == 0)
  need (r.opa == 0)
  need (r.opb == 0)
  need (r.cw == 0)
  accept (.mcommit c)

/-- BAR (R328). -/
def decBar (r : Raw) : Dec Instr := do
  fnZero r.fn
  let c ← r.common
  need (r.opd == 0)
  let a ← opnd r.opa
  let b ← opndOpt r.opb
  accept (.bar c a b r.cw)

/-- BARA (R328). -/
def decBara (r : Raw) : Dec Instr := do
  fnZero r.fn
  let c ← r.common
  need (r.opd == 0)
  let a ← opnd r.opa
  let b ← opndOpt r.opb
  accept (.bara c a b r.cw)

/-- BARW (R328). -/
def decBarw (r : Raw) : Dec Instr := do
  fnZero r.fn
  let c ← r.common
  need (r.opd == 0)
  let a ← opnd r.opa
  need (r.opb == 0)
  need (r.cw == 0)
  accept (.barw c a)

/-- WBAR (R330). -/
def decWbar (r : Raw) : Dec Instr := do
  let ext ← fnWbar r.fn
  let c ← r.common
  need (r.opd == 0)
  need (r.opa == 0)
  need (r.opb == 0)
  need (r.cw == 0)
  accept (.wbar c ext)

/-- FLUSHPT (R332). -/
def decFlushpt (r : Raw) : Dec Instr := do
  fnZero r.fn
  let c ← r.common
  need (r.opd == 0)
  need (r.opa == 0)
  need (r.opb == 0)
  need (r.cw == 0)
  accept (.flushpt c)

/-- DLAUNCH (R333). -/
def decDlaunch (r : Raw) : Dec Instr := do
  fnZero r.fn
  let c ← r.common
  let d ← opnd r.opd
  let a ← opnd r.opa
  need (r.opb == 0)
  let x ← thirdField r.cw
  let e ← opnd x
  accept (.dlaunch c d a e)

/-- FPUT (R270). -/
def decFput (r : Raw) : Dec Instr := do
  fnZero r.fn
  let c ← r.common
  let d ← opnd r.opd
  let a ← opnd r.opa
  need (r.opb == 0)
  need (r.cw == 0)
  accept (.fput c d a)

/-- FGET (R270). -/
def decFget (r : Raw) : Dec Instr := do
  fnZero r.fn
  let c ← r.common
  let d ← opnd r.opd
  let a ← opnd r.opa
  need (r.opb == 0)
  need (r.cw == 0)
  accept (.fget c d a)

/-- FATOM (R272). -/
def decFatom (r : Raw) : Dec Instr := do
  let (ty, op) ← fnAtom r.fn
  let c ← r.common
  let d ← opnd r.opd
  let a ← opnd r.opa
  let b ← opnd r.opb
  let mc ← MemCtl.dec r.cw
  accept (.fatom c ty op d a b mc)

/-- COLL (R274). -/
def decColl (r : Raw) : Dec Instr := do
  let (ty, op, kind) ← fnColl r.fn
  let c ← r.common
  let d ← opnd r.opd
  let a ← opnd r.opa
  need (r.opb == 0)
  need (r.cw == 0)
  accept (.coll c ty op kind d a)

/-- RECONF (R279). -/
def decReconf (r : Raw) : Dec Instr := do
  fnZero r.fn
  let c ← r.common
  let d ← opnd r.opd
  let a ← opnd r.opa
  let b ← opnd r.opb
  accept (.reconf c d a b r.cw)

/-- TGSET (R278). -/
def decTgset (r : Raw) : Dec Instr := do
  fnZero r.fn
  let c ← r.common
  need (r.opd == 0)
  let a ← opnd r.opa
  need (r.opb == 0)
  accept (.tgset c a r.cw)

/-- Where one opcode carries several instructions, a function code one refuses is the next one's. -/
def orFn (x y : Dec Instr) : Dec Instr :=
  match x with
  | .error .illegalOp => y
  | r => r

/-- The instruction of a word's fields, by its opcode (R35); every other opcode is unassigned (R38). -/
def decodeRaw (r : Raw) : Dec Instr :=
  match r.opcode.toNat with
  | 0x01 => decClause r
  | 0x02 => decRegion r
  | 0x03 => decNop r
  | 0x04 => decTrap r
  | 0x05 => decBrk r
  | 0x06 => decRdsr r
  | 0x07 => decWrsr r
  | 0x08 => decMov r
  | 0x09 => orFn (decMovi r) (orFn (decMoviW r) (decMoviHi r))
  | 0x0A => orFn (decUmov r) (orFn (decUmovBc r) (decUmovLn r))
  | 0x0B => decHget r
  | 0x0C => decHput r
  | 0x10 => orFn (decBra r) (decBraDv r)
  | 0x11 => decBrx r
  | 0x12 => decCall r
  | 0x13 => decCalli r
  | 0x14 => decCallt r
  | 0x15 => decRet r
  | 0x16 => decExit r
  | 0x17 => decRejoin r
  | 0x18 => decMjoin r
  | 0x19 => decMset r
  | 0x1A => decMget r
  | 0x1B => decYield r
  | 0x20 => decIadd r
  | 0x21 => decIadd3 r
  | 0x22 => decIsub r
  | 0x23 => decImul r
  | 0x24 => decImulh r
  | 0x25 => decImad r
  | 0x26 => decImadw r
  | 0x27 => decIabs r
  | 0x28 => decIneg r
  | 0x29 => decImin r
  | 0x2A => decImax r
  | 0x2B => decIsad r
  | 0x2C => decLea r
  | 0x2D => decAddc r
  | 0x2E => decSubc r
  | 0x30 => decAndb r
  | 0x31 => decOrb r
  | 0x32 => decXorb r
  | 0x33 => decNotb r
  | 0x34 => decTlog r
  | 0x35 => decShl r
  | 0x36 => decShr r
  | 0x37 => decSar r
  | 0x38 => decFunl r
  | 0x39 => decFunr r
  | 0x3A => decRot r
  | 0x3B => decBfe r
  | 0x3C => decBfi r
  | 0x3D => decBmsk r
  | 0x3E => decPopc r
  | 0x3F => decClz r
  | 0x40 => decCtz r
  | 0x41 => decBrev r
  | 0x42 => decBysel r
  | 0x43 => decIsetp r
  | 0x44 => decFsetp r
  | 0x45 => decHsetp2 r
  | 0x46 => decSel r
  | 0x47 => decPset r
  | 0x48 => decP2v r
  | 0x49 => decV2p r
  | 0x50 => decFadd r
  | 0x51 => decFsub r
  | 0x52 => decFmul r
  | 0x53 => decFfma r
  | 0x54 => decFmin r
  | 0x55 => decFmax r
  | 0x56 => decFdiv r
  | 0x57 => decFsqrt r
  | 0x58 => decFrcp r
  | 0x59 => decFrsq r
  | 0x5A => decFex2 r
  | 0x5B => decFlg2 r
  | 0x5C => decFsin r
  | 0x5D => decFcos r
  | 0x5E => decFtanh r
  | 0x5F => decFclass r
  | 0x60 => decHadd2 r
  | 0x61 => decHmul2 r
  | 0x62 => decHfma2 r
  | 0x63 => decHmin2 r
  | 0x64 => decHmax2 r
  | 0x65 => decCvt r
  | 0x66 => decCvth r
  | 0x67 => decQnt r
  | 0x68 => decDqnt r
  | 0x69 => decFrnd r
  | 0x70 => decLd r
  | 0x71 => decSt r
  | 0x72 => decLdsp r
  | 0x73 => decStsp r
  | 0x74 => decLdc r
  | 0x75 => decAtom r
  | 0x76 => decRed r
  | 0x77 => decFence r
  | 0x78 => decPref r
  | 0x80 => decShfl r
  | 0x81 => decVote r
  | 0x82 => decBallot r
  | 0x83 => decGred r
  | 0x84 => decGscan r
  | 0x85 => decGarg r
  | 0x86 => decMatchOp r
  | 0x87 => decElect r
  | 0x88 => decBxch r
  | 0x90 => decAcopy r
  | 0x91 => decDcmp r
  | 0x92 => decFwait r
  | 0x93 => decFtest r
  | 0x94 => decFcancel r
  | 0x95 => decWaitc r
  | 0x96 => decQpush r
  | 0x97 => decQpop r
  | 0x98 => orFn (decQtryPush r) (decQtryPop r)
  | 0xA0 => decMres r
  | 0xA1 => decMrel r
  | 0xA2 => decMldw r
  | 0xA3 => decMzero r
  | 0xA4 => decMma r
  | 0xA5 => decMmas r
  | 0xA6 => decMcommit r
  | 0xA7 => decMst r
  | 0xB0 => decBar r
  | 0xB1 => decBara r
  | 0xB2 => decBarw r
  | 0xB3 => decWbar r
  | 0xB4 => decFlushpt r
  | 0xB5 => decDlaunch r
  | 0xC0 => decFput r
  | 0xC1 => decFget r
  | 0xC2 => decFatom r
  | 0xC3 => decColl r
  | 0xC4 => decReconf r
  | 0xC5 => decTgset r
  | 0xD0 => decIdiv r
  | 0xD1 => decIrem r
  | _ => .error .illegalOp

/-- The decoder: total on every 96-bit word. An unassigned opcode decodes to its own row (R38). -/
def decode (w : BitVec 96) : Dec Instr :=
  if unassigned (w >>> 88).toNat then .ok (.unassignedOpcode w) else decodeRaw (Raw.ofWord w)

/-- What the decoder reads from an instruction given as the opcode table numbers its bits. -/
def decodeTableWord (_nbits w : Nat) : Option Instr :=
  match decode (BitVec.ofNat 96 w) with
  | .ok i => some i
  | .error _ => none

/-- The word fields of an instruction; an event has none. -/
def encodeRaw : Instr → Option Raw
  | .clause fx fy wait =>
    some ⟨0x01#8, 0#8, false, 15, 0, 0, 0, false, 0, false, false, false, false, (0#12 ++ fy ++ fx ++ wait : BitVec 32)⟩
  | .region bnd off =>
    some ⟨0x02#8, 0#8, false, 15, 0, 0, 0, bnd, 0, false, false, false, false, off⟩
  | .nop c =>
    some (mkRaw 0x03 (0#8) c 0 0 0 0)
  | .trap c a =>
    some (mkRaw 0x04 (0#8) c 0 a.enc 0 0)
  | .brk c =>
    some (mkRaw 0x05 (0#8) c 0 0 0 0)
  | .rdsr c d sr =>
    some (mkRaw 0x06 (0#8) c d.enc (Opnd.sr sr).enc 0 0)
  | .wrsr c sr a k =>
    some (mkRaw 0x07 (0#8) c (Opnd.sr sr).enc a.enc 0 k)
  | .mov c wide d a k =>
    some (mkRaw 0x08 (fnW wide) c d.enc a.enc 0 k)
  | .movi c d k =>
    some (mkRaw 0x09 (0x80#8) c d.enc 0 0 k)
  | .moviW c d k =>
    some (mkRaw 0x09 (0x90#8) c d.enc 0 0 k)
  | .moviHi c d k =>
    some (mkRaw 0x09 (0x91#8) c d.enc 0 0 k)
  | .umov c wide d a k =>
    some (mkRaw 0x0A (fnU wide 0#4) c d.enc a.enc 0 k)
  | .umovBc c wide d a k =>
    some (mkRaw 0x0A (fnU wide 1#4) c d.enc a.enc 0 k)
  | .umovLn c wide d a b k =>
    some (mkRaw 0x0A (fnU wide 2#4) c d.enc a.enc b.enc k)
  | .hget c d a =>
    some (mkRaw 0x0B (0#8) c d.enc a.enc 0 0)
  | .hput c d a =>
    some (mkRaw 0x0C (0#8) c d.enc a.enc 0 0)
  | .bra c off =>
    some (mkRaw 0x10 (0#8) c 0 0 0 off)
  | .braDv c off =>
    some (mkRaw 0x10 (0x01#8) c 0 0 0 off)
  | .brx c a =>
    some (mkRaw 0x11 (0#8) c 0 a.enc 0 0)
  | .call c off =>
    some (mkRaw 0x12 (0#8) c 0 0 0 off)
  | .calli c a =>
    some (mkRaw 0x13 (0#8) c 0 a.enc 0 0)
  | .callt c a k =>
    some (mkRaw 0x14 (0#8) c 0 a.enc 0 k)
  | .ret c =>
    some (mkRaw 0x15 (0#8) c 0 0 0 0)
  | .exit c =>
    some (mkRaw 0x16 (0#8) c 0 0 0 0)
  | .rejoin c =>
    some (mkRaw 0x17 (0#8) c 0 0 0 0)
  | .mjoin c a =>
    some (mkRaw 0x18 (0#8) c 0 a.enc 0 0)
  | .mset c d a k =>
    some (mkRaw 0x19 (0#8) c d.enc a.enc 0 k)
  | .mget c d a =>
    some (mkRaw 0x1A (0#8) c d.enc a.enc 0 0)
  | .yield c =>
    some (mkRaw 0x1B (0#8) c 0 0 0 0)
  | .iadd c ty sat d a b k =>
    some (mkRaw 0x20 (fnT ty sat) c d.enc a.enc b.enc k)
  | .iadd3 c ty sat d a b e =>
    some (mkRaw 0x21 (fnT ty sat) c d.enc a.enc b.enc (third e.enc))
  | .isub c ty sat d a b k =>
    some (mkRaw 0x22 (fnT ty sat) c d.enc a.enc b.enc k)
  | .imul c ty d a b k =>
    some (mkRaw 0x23 (fnT ty false) c d.enc a.enc b.enc k)
  | .imulh c ty d a b k =>
    some (mkRaw 0x24 (fnT ty false) c d.enc a.enc b.enc k)
  | .imad c ty sat d a b e =>
    some (mkRaw 0x25 (fnT ty sat) c d.enc a.enc b.enc (third e.enc))
  | .imadw c ty d a b e =>
    some (mkRaw 0x26 (fnT ty false) c d.enc a.enc b.enc (third e.enc))
  | .iabs c ty sat d a k =>
    some (mkRaw 0x27 (fnT ty sat) c d.enc a.enc 0 k)
  | .ineg c ty sat d a k =>
    some (mkRaw 0x28 (fnT ty sat) c d.enc a.enc 0 k)
  | .imin c ty d a b k =>
    some (mkRaw 0x29 (fnT ty false) c d.enc a.enc b.enc k)
  | .imax c ty d a b k =>
    some (mkRaw 0x2A (fnT ty false) c d.enc a.enc b.enc k)
  | .isad c ty d a b e =>
    some (mkRaw 0x2B (fnT ty false) c d.enc a.enc b.enc (third e.enc))
  | .lea c wide sh d a b k =>
    some (mkRaw 0x2C (fnW wide ||| sh.setWidth 8) c d.enc a.enc b.enc k)
  | .addc c wide d a b e =>
    some (mkRaw 0x2D (fnN wide) c d.enc a.enc b.enc (third e.enc))
  | .subc c wide d a b e =>
    some (mkRaw 0x2E (fnN wide) c d.enc a.enc b.enc (third e.enc))
  | .andb c wide d a b k =>
    some (mkRaw 0x30 (fnW wide) c d.enc a.enc b.enc k)
  | .orb c wide d a b k =>
    some (mkRaw 0x31 (fnW wide) c d.enc a.enc b.enc k)
  | .xorb c wide d a b k =>
    some (mkRaw 0x32 (fnW wide) c d.enc a.enc b.enc k)
  | .notb c wide d a k =>
    some (mkRaw 0x33 (fnW wide) c d.enc a.enc 0 k)
  | .tlog c tt d a b e =>
    some (mkRaw 0x34 (tt) c d.enc a.enc b.enc (third e.enc))
  | .shl c wide d a b k =>
    some (mkRaw 0x35 (fnW wide) c d.enc a.enc b.enc k)
  | .shr c wide d a b k =>
    some (mkRaw 0x36 (fnW wide) c d.enc a.enc b.enc k)
  | .sar c wide d a b k =>
    some (mkRaw 0x37 (fnW wide) c d.enc a.enc b.enc k)
  | .funl c d a b e =>
    some (mkRaw 0x38 (0x80#8) c d.enc a.enc b.enc (third e.enc))
  | .funr c d a b e =>
    some (mkRaw 0x39 (0x80#8) c d.enc a.enc b.enc (third e.enc))
  | .rot c wide right d a b k =>
    some (mkRaw 0x3A (fnW wide ||| bit8 right 0) c d.enc a.enc b.enc k)
  | .bfe c ty d a b k =>
    some (mkRaw 0x3B (fnT ty false) c d.enc a.enc b.enc k)
  | .bfi c wide d a b e =>
    some (mkRaw 0x3C (fnW wide) c d.enc a.enc b.enc (third e.enc))
  | .bmsk c d a b k =>
    some (mkRaw 0x3D (0x80#8) c d.enc a.enc b.enc k)
  | .popc c wide d a k =>
    some (mkRaw 0x3E (fnW wide) c d.enc a.enc 0 k)
  | .clz c wide d a k =>
    some (mkRaw 0x3F (fnW wide) c d.enc a.enc 0 k)
  | .ctz c wide d a k =>
    some (mkRaw 0x40 (fnW wide) c d.enc a.enc 0 k)
  | .brev c wide d a k =>
    some (mkRaw 0x41 (fnW wide) c d.enc a.enc 0 k)
  | .bysel c d a b e =>
    some (mkRaw 0x42 (0x80#8) c d.enc a.enc b.enc (third e.enc))
  | .isetp c ty cmp d a b k =>
    some (mkRaw 0x43 (fnTy8 ty ||| cmp.code.setWidth 8) c d.enc a.enc b.enc k)
  | .fsetp c cmp unord d a b k =>
    some (mkRaw 0x44 (fnTy8 Ty.f32 ||| fnCmpU cmp unord) c d.enc a.enc b.enc k)
  | .hsetp2 c ty cmp unord d a b e =>
    some (mkRaw 0x45 (fnTy8 ty ||| fnCmpU cmp unord) c d.enc a.enc b.enc (third e.enc))
  | .sel c wide d a b e =>
    some (mkRaw 0x46 (fnW wide) c d.enc a.enc b.enc (third e.enc))
  | .pset c tt d a b e =>
    some (mkRaw 0x47 (tt) c d.enc a.enc b.enc (third e.enc))
  | .p2v c d =>
    some (mkRaw 0x48 (0#8) c d.enc 0 0 0)
  | .v2p c a b k =>
    some (mkRaw 0x49 (0#8) c 0 a.enc b.enc k)
  | .fadd c rm ftz d a b k =>
    some (mkRaw 0x50 (fnF rm ftz) c d.enc a.enc b.enc k)
  | .fsub c rm ftz d a b k =>
    some (mkRaw 0x51 (fnF rm ftz) c d.enc a.enc b.enc k)
  | .fmul c rm ftz d a b k =>
    some (mkRaw 0x52 (fnF rm ftz) c d.enc a.enc b.enc k)
  | .ffma c rm ftz d a b e =>
    some (mkRaw 0x53 (fnF rm ftz) c d.enc a.enc b.enc (third e.enc))
  | .fmin c nan ftz d a b k =>
    some (mkRaw 0x54 (fnMm nan ftz) c d.enc a.enc b.enc k)
  | .fmax c nan ftz d a b k =>
    some (mkRaw 0x55 (fnMm nan ftz) c d.enc a.enc b.enc k)
  | .fdiv c rm ftz d a b k =>
    some (mkRaw 0x56 (fnF rm ftz) c d.enc a.enc b.enc k)
  | .fsqrt c rm ftz d a k =>
    some (mkRaw 0x57 (fnF rm ftz) c d.enc a.enc 0 k)
  | .frcp c rm ftz d a k =>
    some (mkRaw 0x58 (fnF rm ftz) c d.enc a.enc 0 k)
  | .frsq c ftz d a k =>
    some (mkRaw 0x59 (fnF Rm.rne ftz) c d.enc a.enc 0 k)
  | .fex2 c ftz d a k =>
    some (mkRaw 0x5A (fnF Rm.rne ftz) c d.enc a.enc 0 k)
  | .flg2 c ftz d a k =>
    some (mkRaw 0x5B (fnF Rm.rne ftz) c d.enc a.enc 0 k)
  | .fsin c ftz d a k =>
    some (mkRaw 0x5C (fnF Rm.rne ftz) c d.enc a.enc 0 k)
  | .fcos c ftz d a k =>
    some (mkRaw 0x5D (fnF Rm.rne ftz) c d.enc a.enc 0 k)
  | .ftanh c ftz d a k =>
    some (mkRaw 0x5E (fnF Rm.rne ftz) c d.enc a.enc 0 k)
  | .fclass c d a k =>
    some (mkRaw 0x5F (0xA0#8) c d.enc a.enc 0 k)
  | .hadd2 c ty rm d a b =>
    some (mkRaw 0x60 (fnTy8 ty ||| rm.code.setWidth 8) c d.enc a.enc b.enc 0)
  | .hmul2 c ty rm d a b =>
    some (mkRaw 0x61 (fnTy8 ty ||| rm.code.setWidth 8) c d.enc a.enc b.enc 0)
  | .hfma2 c ty rm d a b e =>
    some (mkRaw 0x62 (fnTy8 ty ||| rm.code.setWidth 8) c d.enc a.enc b.enc (third e.enc))
  | .hmin2 c ty nan d a b =>
    some (mkRaw 0x63 (fnTy8 ty ||| bit8 nan 3) c d.enc a.enc b.enc 0)
  | .hmax2 c ty nan d a b =>
    some (mkRaw 0x64 (fnTy8 ty ||| bit8 nan 3) c d.enc a.enc b.enc 0)
  | .cvt c dty sty rm sat d a =>
    some (mkRaw 0x65 (fnDS dty sty) c d.enc a.enc 0 (cvtWord rm sat))
  | .cvth c dty sty rm sat d a b =>
    some (mkRaw 0x66 (fnDS dty sty) c d.enc a.enc (encOpt b) (cvtWord rm sat))
  | .frnd c ty rm d a =>
    some (mkRaw 0x69 (fnTy8 ty ||| rm.code.setWidth 8) c d.enc a.enc 0 0)
  | .qnt c useB slot d a b =>
    some (mkRaw 0x67 (bit8 useB 3 ||| slot.setWidth 8) c d.enc a.enc b.enc 0)
  | .dqnt c useB slot d a b =>
    some (mkRaw 0x68 (bit8 useB 3 ||| slot.setWidth 8) c d.enc a.enc b.enc 0)
  | .idiv c ty d a b k =>
    some (mkRaw 0xD0 (fnT ty false) c d.enc a.enc b.enc k)
  | .irem c ty d a b k =>
    some (mkRaw 0xD1 (fnT ty false) c d.enc a.enc b.enc k)
  | .ld c ty scale d a idx mc =>
    some (mkRaw 0x70 (fnTy8 ty ||| scale.setWidth 8) c d.enc a.enc (encOpt idx) mc.enc)
  | .st c ty scale d a idx mc =>
    some (mkRaw 0x71 (fnTy8 ty ||| scale.setWidth 8) c d.enc a.enc (encOpt idx) mc.enc)
  | .ldsp c ty scale d a idx mc =>
    some (mkRaw 0x72 (fnTy8 ty ||| scale.setWidth 8) c d.enc a.enc (encOpt idx) mc.enc)
  | .stsp c ty scale d a idx mc =>
    some (mkRaw 0x73 (fnTy8 ty ||| scale.setWidth 8) c d.enc a.enc (encOpt idx) mc.enc)
  | .ldc c ty lr scale d a idx mc =>
    some (mkRaw 0x74 (fnTy8 ty ||| bit8 lr 3 ||| scale.setWidth 8) c d.enc a.enc (encOpt idx) mc.enc)
  | .atom c ty op d a b mc =>
    some (mkRaw 0x75 (fnTy8 ty ||| op.code.setWidth 8) c d.enc a.enc b.enc mc.enc)
  | .red c ty op a b mc =>
    some (mkRaw 0x76 (fnTy8 ty ||| op.code.setWidth 8) c 0 a.enc b.enc mc.enc)
  | .fence c rp scope order =>
    some (mkRaw 0x77 (bit8 rp 7 ||| (scope.code.setWidth 8 <<< 4) ||| (order.code.setWidth 8 <<< 2)) c 0 0 0 0)
  | .pref c slice a idx offset =>
    some (mkRaw 0x78 (bit8 slice 0) c 0 a.enc (encOpt idx) (0#8 ++ offset : BitVec 32))
  | .shfl c mode wide d a b msk =>
    some (mkRaw 0x80 (fnW wide ||| mode.code.setWidth 8) c d.enc a.enc b.enc (third (encOpt msk)))
  | .vote c mode d a msk =>
    some (mkRaw 0x81 (mode.code.setWidth 8) c d.enc a.enc 0 (third (encOpt msk)))
  | .ballot c d a msk =>
    some (mkRaw 0x82 (0#8) c d.enc a.enc 0 (third (encOpt msk)))
  | .gred c ty op d a msk =>
    some (mkRaw 0x83 (fnTy8 ty ||| op.code.setWidth 8) c d.enc a.enc 0 (third (encOpt msk)))
  | .gscan c ty op excl d a msk =>
    some (mkRaw 0x84 (fnTy8 ty ||| op.code.setWidth 8 ||| bit8 excl 3) c d.enc a.enc 0 (third (encOpt msk)))
  | .garg c ty nanwin hash isMin d a b msk =>
    some (mkRaw 0x85 (fnTy8 ty ||| bit8 nanwin 2 ||| bit8 hash 1 ||| bit8 isMin 0) c d.enc a.enc (encOpt b) (third (encOpt msk)))
  | .matchOp c wide all d a msk =>
    some (mkRaw 0x86 (fnW wide ||| bit8 all 0) c d.enc a.enc 0 (third (encOpt msk)))
  | .elect c d msk =>
    some (mkRaw 0x87 (0#8) c d.enc 0 0 (third (encOpt msk)))
  | .bxch c wide d a b e =>
    some (mkRaw 0x88 (fnW wide) c d.enc a.enc b.enc (third e.enc))
  | .acopy c cb dims dir d a b =>
    some (mkRaw 0x90 (bit8 cb 4 ||| (dims.setWidth 8 <<< 2) ||| dir.code.setWidth 8) c d.enc a.enc (encOpt b) 0)
  | .dcmp c sp d a =>
    some (mkRaw 0x91 (bit8 sp 0) c d.enc a.enc 0 0)
  | .fwait c d a =>
    some (mkRaw 0x92 (0#8) c d.enc a.enc 0 0)
  | .ftest c d a =>
    some (mkRaw 0x93 (0#8) c d.enc a.enc 0 0)
  | .fcancel c a =>
    some (mkRaw 0x94 (0#8) c 0 a.enc 0 0)
  | .waitc c scope cls a =>
    some (mkRaw 0x95 ((scope.code.setWidth 8 <<< 4) ||| cls.code.setWidth 8) c 0 a.enc 0 0)
  | .qpush c a b =>
    some (mkRaw 0x96 (0#8) c 0 a.enc b.enc 0)
  | .qpop c d a =>
    some (mkRaw 0x97 (0#8) c d.enc a.enc 0 0)
  | .qtryPush c d a b =>
    some (mkRaw 0x98 (0#8) c d.enc a.enc b.enc 0)
  | .qtryPop c d a e =>
    some (mkRaw 0x98 (0x01#8) c d.enc a.enc 0 (third e.enc))
  | .mres c d =>
    some (mkRaw 0xA0 (0#8) c d.enc 0 0 0)
  | .mrel c =>
    some (mkRaw 0xA1 (0#8) c 0 0 0 0)
  | .mldw c slot d a =>
    some (mkRaw 0xA2 (slot.setWidth 8) c d.enc a.enc 0 0)
  | .mzero c d =>
    some (mkRaw 0xA3 (0#8) c d.enc 0 0 0)
  | .mma c slot d a b =>
    some (mkRaw 0xA4 (slot.setWidth 8) c d.enc a.enc b.enc 0)
  | .mmas c slot d a b =>
    some (mkRaw 0xA5 (slot.setWidth 8) c d.enc a.enc b.enc 0)
  | .mst c ty bias rs rm d a b =>
    some (mkRaw 0xA7 (fnTy8 ty ||| bit8 bias 3 ||| bit8 rs 2 ||| rm.code.setWidth 8) c d.enc a.enc b.enc 0)
  | .mcommit c =>
    some (mkRaw 0xA6 (0#8) c 0 0 0 0)
  | .bar c a b k =>
    some (mkRaw 0xB0 (0#8) c 0 a.enc (encOpt b) k)
  | .bara c a b k =>
    some (mkRaw 0xB1 (0#8) c 0 a.enc (encOpt b) k)
  | .barw c a =>
    some (mkRaw 0xB2 (0#8) c 0 a.enc 0 0)
  | .wbar c ext =>
    some (mkRaw 0xB3 (ext.code.setWidth 8) c 0 0 0 0)
  | .flushpt c =>
    some (mkRaw 0xB4 (0#8) c 0 0 0 0)
  | .dlaunch c d a e =>
    some (mkRaw 0xB5 (0#8) c d.enc a.enc 0 (third e.enc))
  | .fput c d a =>
    some (mkRaw 0xC0 (0#8) c d.enc a.enc 0 0)
  | .fget c d a =>
    some (mkRaw 0xC1 (0#8) c d.enc a.enc 0 0)
  | .fatom c ty op d a b mc =>
    some (mkRaw 0xC2 (fnTy8 ty ||| op.code.setWidth 8) c d.enc a.enc b.enc mc.enc)
  | .coll c ty op kind d a =>
    some (mkRaw 0xC3 (fnTy8 ty ||| (op.code.setWidth 8 <<< 2) ||| kind.code.setWidth 8) c d.enc a.enc 0 0)
  | .reconf c d a b k =>
    some (mkRaw 0xC4 (0#8) c d.enc a.enc b.enc k)
  | .tgset c a k =>
    some (mkRaw 0xC5 (0#8) c 0 a.enc 0 k)
  | .issueArbitration _ _ => none
  | .pipIssue _ _ => none
  | .ejectSoftTimeout _ => none
  | .ejectHardTimeout _ _ => none
  | .longLatencyComplete _ => none
  | .pageWalk _ _ _ _ => none
  | .faultResolved _ => none
  | .faultUnresolvable _ => none
  | .bindingResolved _ _ _ => none
  | .bindingFailed _ _ => none
  | .shootdownStart _ _ => none
  | .sddropClear _ _ => none
  | .shootdownAck _ => none
  | .flushComplete _ => none
  | .flushFaultResolved _ => none
  | .copyChunkComplete _ _ => none
  | .copyComplete _ => none
  | .dcmpJobComplete _ => none
  | .matrixCommandStart _ => none
  | .matrixCommandComplete _ => none
  | .scrubStep _ _ => none
  | .deviceReset _ => none
  | .watchdogExpiry _ => none
  | .notify _ _ _ _ _ => none
  | .nopPacket _ => none
  | .launchPacket _ => none
  | .waitSignalPacket _ => none
  | .setSignalPacket _ => none
  | .imageSavePacket _ => none
  | .imageLoadPacket _ => none
  | .dirtyHarvestPacket _ => none
  | .planLoadPacket _ => none
  | .invalidPacket _ => none
  | .packetComplete _ _ => none
  | .blockClaim _ _ _ => none
  | .blockMigrate _ _ _ _ => none
  | .blockImageOut _ _ => none
  | .blockRetire _ _ => none
  | .childAdmission _ => none
  | .preempt _ => none
  | .prooferClauseLimit _ _ => none
  | .remoteResend _ => none
  | .flitRead _ _ => none
  | .flitWrite _ _ => none
  | .flitAtomic _ _ => none
  | .flitReadReply _ _ => none
  | .flitWriteAck _ _ => none
  | .flitCollectiveData _ _ => none
  | .flitAtomicReply _ _ => none
  | .bufferRelease _ _ => none
  | .bufferReleaseForced _ => none
  | .retryAfter _ _ => none
  | .staleReject _ _ => none
  | .ready _ _ => none
  | .go _ _ => none
  | .abort _ _ => none
  | .collectiveRestart _ _ => none
  | .linkProbe _ _ => none
  | .linkFrame _ _ => none
  | .replayTimeout _ => none
  | .trainingFrame _ _ => none
  | .portDown _ => none
  | .rerouteTimeout _ => none
  | .switchReply _ => none
  | .throttleTick _ _ => none
  | .hostBar4Read _ _ _ => none
  | .hostBar4Write _ _ _ => none
  | .hostAtomicop _ _ _ _ _ _ => none
  | .registerWrite _ _ _ _ => none
  | .debugControlWrite _ _ => none
  | .readReg _ _ => none
  | .writeReg _ _ => none
  | .dbgStep _ _ => none
  | .dbgResume _ _ => none
  | .getVersion _ => none
  | .getCapabilities _ => none
  | .negotiateAlgorithms _ => none
  | .getDigests _ => none
  | .getCertificate _ => none
  | .challenge _ => none
  | .getMeasurements _ => none
  | .keyExchange _ => none
  | .finish _ => none
  | .keyUpdate _ => none
  | .vendorDefinedRequest _ => none
  | .ideQuery _ => none
  | .ideKeyProg _ => none
  | .ideKSetGo _ => none
  | .ideKSetStop _ => none
  | .lockInterfaceRequest _ => none
  | .getDeviceInterfaceReport _ => none
  | .unsupportedRequest _ => none
  | .unassignedOpcode _ => none
  | .frameTime _ => none
  | .clusterPowerGate _ _ => none
  | .reconfDrainDone => none
  | .reconfDrainTimeout => none
  | .readyTimeout => none
  | .reconfLightTimeout => none
  | .heartbeat => none
  | .endSession => none
  | .spdmSessionLoss => none
  | .ideIntegrityFailure => none
  | .getTdispVersion => none
  | .getTdispCapabilities => none
  | .getDeviceInterfaceState => none
  | .startInterfaceRequest => none
  | .stopInterfaceRequest => none

/-- The word of an instruction, from the encoding tables of the spec; an event has none. -/
def encode : Instr → Option (BitVec 96)
  | .unassignedOpcode w => some w
  | i => (encodeRaw i).map Raw.toWord

end Sys2Proof
end

