-- ==== Sys2Proof/Machine/State.lean ====
section
/-! DEFINITION. The whole state of a GM2 as plain data, its reset value, and the reasons a step can stop. -/

namespace Sys2Proof.Machine

/-- Sparse storage, in one canonical form: keys strictly rising, no value zero; an unlisted key reads zero. -/
abbrev Store (n : Nat) := List (Nat × BitVec n)

/-- Main memory: Host.Cell pairs of a physical address and its byte, in the canonical form (R46, R51). -/
abbrev Memory := Store 8

/-- The three parts of the family (R1). -/
inductive Part where
  | gm2A | gm2B | gm2E
  deriving DecidableEq, Repr

/-- The cause codes of R338. -/
inductive Cause where
  | illegalOp | reservedField | clauseForm | regionViolation | roleViolation | groupopSelf | misaligned
  | accessViolation | pageUnresolved | staleTopology | detOverflow | software | breakpoint | privilege
  | matrixNotReserved | unbound | memUncorrectable | remoteFatal | watchdog
  deriving DecidableEq, Repr

/-- The kinds of page fault (R70). -/
inductive FaultKind where
  | notPresent | permission | malformed | remoteHome
  /-- no page fault: the slow path of a write is held while a DIRTY_HARVEST of its PASID is under way (R79), or an access to the host window
  while the interface is locked (R375) -/
  | held
  deriving DecidableEq, Repr

/-- A resume point inside a clause: its header's PC and the header's flags X and Y (R288). -/
structure Resume where
  hdr : BitVec 64
  fx : BitVec 4
  fy : BitVec 4
  deriving DecidableEq, Repr

/-- Where a held thread waits (R285, R213, R299, R303, R295, R328, R330, R332, R151, R241, R296). -/
inductive Hold where
  /-- a cross-lane instruction with this member-mask operand -/
  | lanes (msk : Option Opnd)
  | mjoin (m : BitVec 3)
  /-- REJOIN at a code offset -/
  | rejoin (off : BitVec 32)
  /-- CALLT on entry k being resolved -/
  | callt (k : Nat)
  /-- BAR on barrier b, until its phase exceeds the number; here and below, whether the instruction is the last of its clause -/
  | bar (b : Nat) (phase : BitVec 32) (last : Bool)
  | barw (b : Nat) (phase : BitVec 32) (last : Bool)
  | wbar (ext : WExt) (last : Bool)
  | flushpt (last : Bool)
  /-- QPUSH, QPOP or MCOMMIT outside a region: until the instruction in flight with this number completes -/
  | inflight (id : Nat) (last : Bool)
  /-- EXIT, until the thread's long-latency work is done -/
  | exiting
  /-- an instruction fetch that faulted: until log entry id is resolved -/
  | fetch (id : Nat)
  /-- EXIT inside a region, under the Proofer: until the other threads of the region have come to its end (R348, R391) -/
  | kept
  /-- an agent's thread while the firmware issues no clause from it: what the agent does comes as events (R315) -/
  | firmware
  deriving DecidableEq, Repr

/-- The conditions of a thread (R285), with the halt of R385. -/
inductive Cond where
  | issuable
  | held (h : Hold)
  | ejected
  /-- trapped to the resolver on binding entry k (R295) -/
  | trapped (k : Nat)
  | halted
  | exited
  deriving DecidableEq, Repr

/-- An open region: its entry, the live-in sets of its record, and what a roll-back restores (R29, R30, R106, R347). -/
structure Region where
  entry : BitVec 64
  livev : BitVec 256
  lives : BitVec 192
  livep : BitVec 15
  livem : BitVec 8
  liveh : BitVec 16
  livea : BitVec 32
  d : Nat
  seq : Nat
  /-- the model's own: the number its opening took; an instruction in flight with a greater one was issued inside it -/
  serial : Nat
  deriving DecidableEq, Repr

/-- A pip context (R302): the pip core that serves it, the ejection record's sets and rejoin point, the handed-over values,
its own flag counts, and the clock of the ejection (R304). -/
structure Pip where
  pip : Nat
  joff : BitVec 32
  hov : BitVec 256
  hbv : BitVec 256
  hop : BitVec 15
  hbp : BitVec 15
  hos : BitVec 192
  vregs : Store 32
  /-- its poisoned vector registers (R59) -/
  vpoison : List Nat
  preds : BitVec 15
  sregs : Store 32
  flags : Store 16
  since : BitVec 64
  /-- it is to be recalled once what it has in flight is complete (R306) -/
  leaving : Bool
  /-- the model's own: the number of its pip core's turn that it last had (R302: the contexts are served in rotation) -/
  turn : Nat
  deriving DecidableEq, Repr

/-- One thread (R285, R337-R341) with its registers (R18). -/
structure Thread where
  ref : GroupRef
  lane : Nat
  pc : BitVec 64
  resume : Option Resume
  region : Option Region
  d : Nat
  rsbase : BitVec 64
  aging : Nat
  deferred : Bool
  cond : Cond
  vregs : Store 32
  preds : BitVec 15
  handles : Store 64
  /-- vector registers whose codeword is poisoned (R59, R179) -/
  vpoison : List Nat
  trapcause : BitVec 32
  trappc : BitVec 64
  inHandler : Bool
  trapDepth : Nat
  /-- the clause in which the thread last trapped (R341) -/
  trapClause : Option Resume
  /-- deterministic sequence number (R101) -/
  seq : Nat
  /-- the barriers this thread has arrived at in their current phase, with the phase (R328, R359) -/
  arrived : List (Nat × BitVec 32)
  /-- the thread runs on a pip core -/
  pip : Option Pip
  /-- under single-step (R385) -/
  stepping : Bool
  /-- the PC at which a debugger's RESUME let the thread go on: the breakpoint there lets it pass (R385, R389) -/
  pass : Option (BitVec 64) := none
  /-- clauses issued that include it since the Proofer's step 4 began (R348) -/
  clauses : Nat
  /-- brought to its canonical point by the Proofer (R347) -/
  canonical : Bool
  deriving DecidableEq, Repr

/-- One group: its role, its uniform registers and masks, its flag counts and outstanding counts (R18, R27, R136, R319). -/
structure Group where
  ref : GroupRef
  role : Nat
  core : Nat
  pipe : Nat
  sregs : Store 32
  spoison : List Nat
  masks : Store 64
  flags : Store 16
  /-- outstanding commands of classes copy, matrix, collective, fabric (R136) -/
  outstanding : Store 16
  /-- placed behind every other ready group of its class (R17, R297) -/
  yielded : Bool
  /-- parked on a presence event or after the soft timeout (R90, R304) -/
  parked : Bool
  /-- the clock at which the group last became ready (R325) -/
  readySince : Option (BitVec 64)
  /-- the clock at which a thread was first held at a REJOIN that waits (R304) -/
  softStart : Option (BitVec 64)
  /-- a return resumes the group at the next arbitration (R304) -/
  returned : Bool
  /-- threads that passed an MJOIN with their guards false: its PC and the lane (R299) -/
  passed : List (BitVec 64 × Nat)
  /-- threads that trapped at a cross-lane instruction or an MJOIN, until they arrive there again: its PC and the lane (R214) -/
  owing : List (BitVec 64 × Nat)
  deriving DecidableEq, Repr

/-- A barrier of a block (R328). -/
structure Barrier where
  phase : BitVec 32
  elatch : Nat
  arrivals : Nat
  deriving DecidableEq, Repr

/-- A named queue of a block (R149), with the instructions waiting on it in arrival order (R151). -/
structure Queue where
  head : Nat
  headPh : Bool
  tail : Nat
  tailPh : Bool
  allow : Nat
  /-- slots whose phase bit is clear; every other slot's is set -/
  slotClear : List Nat
  /-- numbers of the QPUSH and of the QPOP instructions in flight that wait, in arrival order -/
  pushers : List Nat
  poppers : List Nat
  deriving DecidableEq, Repr

/-- An entry of a block's future table (R131). -/
structure Future where
  idx : Nat
  gen : BitVec 24
  cls : EngClass
  pending : Bool
  status : BitVec 3
  /-- group and lane of the issuing threads still inside the region in which they issued the command (R132) -/
  region : List (Nat × Nat)
  deriving DecidableEq, Repr

/-- A held arrival of a completion barrier (R144): the object, the captured tag, and the issuing threads still in their
regions. -/
structure HeldArrival where
  /-- the number of its command, by which those due together go in issue order -/
  seq : Nat
  obj : BitVec 64
  tag : BitVec 64
  waits : List (Nat × Nat)
  due : Bool
  deriving DecidableEq, Repr

/-- An accumulator tile: 128 × 256 words by 256 m + n, its tag, its dirty state and its shadow (R226, R242). -/
structure Tile where
  words : Store 32
  isInt : Bool
  dirty : Bool
  shadow : Store 32
  shadowInt : Bool
  poison : List Nat
  deriving DecidableEq, Repr

/-- What the Proofer has done with a block (R331, R348). -/
inductive BlockPhase where
  | placed | imagedOut | waitingPair
  deriving DecidableEq, Repr

/-- One block of a grid (R319-R322, R90, R226, R260, R330). -/
structure Block where
  launch : Nat
  idx : Nat
  core : Nat
  cores : Nat
  pair : Nat
  life : BlockPhase
  phase : BitVec 32
  etgen : BitVec 32
  scratch : Store 8
  /-- poisoned scratchpad words, by byte offset -/
  spoison : List Nat
  /-- scratchpad lines whose presence bit is clear, with the number of writers still to land (R141) -/
  absent : Store 16
  bars : List Barrier
  queues : List Queue
  futures : List Future
  nextFuture : Nat
  arrivals : List HeldArrival
  /-- held-arrival entries reserved by copies not yet done (R144) -/
  reserved : Nat
  tiles : List Tile
  /-- deterministic entries placed in this epoch (R102) -/
  detUsed : Nat
  /-- barrier state frozen by the Proofer (R329) -/
  frozen : Bool
  /-- the weight buffers and their poison of a block that held a reservation when it left its pair (R243, R365) -/
  held : Option (Store 8 × Store 8 × List Nat)
  deriving DecidableEq, Repr

/-- One role's line of a launch record (R317). -/
structure RoleRec where
  sregs : Nat
  vregs : Nat
  groups : Nat
  entry : BitVec 32
  deriving DecidableEq, Repr

/-- A team declaration (R266). -/
structure Team where
  ranks : List Nat
  exppasid : BitVec 20
  expbase : BitVec 64
  expsize : BitVec 64
  deriving DecidableEq, Repr

/-- A launch record with its tables (R317, R318, R149, R166, R266). -/
structure LaunchRec where
  codeaddr : BitVec 64
  codesize : BitVec 32
  regaddr : BitVec 64
  regsize : BitVec 32
  ejcount : BitVec 32
  ejaddr : BitVec 64
  bindaddr : BitVec 64
  bindcount : BitVec 32
  constsize : BitVec 32
  constaddr : BitVec 64
  handler : BitVec 32
  nblk : Nat
  cohort : Nat
  cores : Nat
  width : Nat
  accGran : Nat
  scratchGran : Nat
  regGran : Nat
  roles : List RoleRec
  privsize : Nat
  watchdog : BitVec 32
  privbase : BitVec 64
  admitall : Bool
  det : Bool
  eject : Nat
  fladdr : BitVec 64
  flsize : BitVec 64
  soft : Nat
  hard : Nat
  etgen : BitVec 32
  seed : BitVec 32
  nbar : Nat
  /-- queues: ring offset, entries, allowance -/
  queues : List (Nat × Nat × Nat)
  /-- format slots, as their 16 bytes -/
  slots : List (BitVec 128)
  team : Option Team
  /-- the record and its tables as bytes, totlen of them -/
  bytes : List Byte
  deriving DecidableEq, Repr

/-- A flush-log entry (R103). -/
structure DetEntry where
  launch : Nat
  v : BitVec 64
  cmp : BitVec 64
  va : BitVec 57
  hash : BitVec 32
  block : Nat
  gid : Nat
  lane : Nat
  seq : Nat
  op : AtomOp
  ty : Ty
  /-- the core whose buffer holds it, or none once it stands in the flush log -/
  buf : Option Nat
  /-- its place in its block's share of the flush log, once it stands there -/
  slot : Nat
  deriving DecidableEq, Repr

/-- A flush under way: the entries still to apply, in global order, the extent that ended, and whether a fault halts it
(R104, R105). -/
structure Flush where
  left : List DetEntry
  wbar : Option WExt
  fault : Option (BitVec 57 × FaultKind)
  deriving DecidableEq, Repr

/-- Where the Proofer stands with a launch (R348): the step it performs, the blocks it works on, and what for. -/
inductive Purpose where
  /-- IMAGE_SAVE: the packet's queue and index, the buffer and its capacity -/
  | save (q : QueueRef) (idx : Nat) (buf cap : BitVec 64)
  /-- a MIGRATE move to a core and a pair -/
  | move (core pair : Nat)
  /-- an image-out at a wide meeting point -/
  | out
  deriving DecidableEq, Repr

structure Proofer where
  step : Nat
  blocks : List Nat
  purpose : Purpose
  deriving DecidableEq, Repr

/-- What IMAGE_LOAD keeps of a page of the image until it has followed (R362, R366): the page entry, and the nonce and the PASID of the
image, which the saving device asks for. -/
structure PageRec where
  va : BitVec 57
  host : Bool
  srcdev : Nat
  loc : BitVec 48
  flags : BitVec 12
  nonce : BitVec 64
  source : BitVec 20
  deriving DecidableEq, Repr

/-- A page on its way to its frame (R366): whose it is, the bytes come so far and the offsets of their poisoned words, the read of a line
that is outstanding at the saving device, whether the page cannot be had, and what waits for it: an IMAGE_LOAD that still checks its
image, or a launch that has still to start. -/
structure Fetch where
  id : Nat
  pasid : BitVec 20
  page : PageRec
  bytes : List Byte
  bad : List Nat
  txn : Option Nat
  lost : Bool
  early : Option (QueueRef × Nat)
  launch : Option Nat
  deriving DecidableEq, Repr

/-- What a saved context left in this device's memory (R362): the image's nonce and PASID, its frames and their sizes. -/
structure Saved where
  nonce : BitVec 64
  pasid : BitVec 20
  frames : List (Nat × Nat)
  deriving DecidableEq, Repr

/-- An image that an IMAGE_LOAD has read and still checks: its packet, the class of its queue, its bytes. -/
structure Load where
  q : QueueRef
  idx : Nat
  cls : Nat
  bytes : List Byte
  deriving DecidableEq, Repr

/-- An admitted launch, its context and its progress (R315, R316, R321, R334, R346). -/
structure Launch where
  id : Nat
  pasid : BitVec 20
  /-- the priority class: 0 to 2, and 3 of the agents (R315) -/
  cls : Nat
  /-- not a kernel's, but the firmware's: its groups are those of the cores' privileged slots (R2, R315) -/
  agent : Bool
  /-- the packet that admitted it: queue and index; none for a child -/
  packet : Option (QueueRef × Nat)
  parent : Option Nat
  /-- where the record stands in memory that a LAUNCH packet or a DLAUNCH named; none for one that an image has brought -/
  recAddr : Option (BitVec 64)
  lr : LaunchRec
  /-- the 64-bit ticket word (R315) -/
  ticket : Nat
  /-- retired blocks -/
  retired : List Nat
  /-- an ADMIT_ALL grid has passed its check (R324) -/
  started : Bool
  /-- placing and claiming is stopped for IMAGE_SAVE (R348) -/
  frozen : Bool
  epoch : Nat
  flush : Option Flush
  /-- collectives and `.sys` wide barriers performed (R275, R330) -/
  collseq : Nat
  wbarseq : Nat
  /-- the model's own: which of the admitted launches of one team it is -/
  teamSlot : Nat
  /-- watchdog milliseconds left (R316) -/
  wdleft : Nat
  proofer : Option Proofer
  /-- pages of a re-planted image still to follow (R366) -/
  pages : List PageRec
  /-- finished: its packet's status and aux are due -/
  done : Bool
  deriving DecidableEq, Repr

/-- A line of the shared cache at its home slice (R55): owner, owned words, poisoned words, and whether main memory is behind it.
The bytes themselves stand in State.mem, the home copy (log 43, DEDUCED, safe). -/
structure SliceLine where
  line : Nat
  owner : Option Nat
  owned : BitVec 32
  poison : BitVec 32
  dirty : Bool
  deriving DecidableEq, Repr

/-- A line of a core's L1 (R74, R93): its name, its physical line, bytes held, the per-byte dirty mask, owned words, poisoned words,
and the words of which it holds no copy but only bytes stored (R93, R60). -/
structure L1Line where
  core : Nat
  pasid : BitVec 20
  vline : Nat
  pline : Nat
  bytes : Store 8
  valid : BitVec 128
  dirty : BitVec 128
  owned : BitVec 32
  poison : BitVec 32
  part : BitVec 32
  wperm : Bool
  seen : Bool
  deriving DecidableEq, Repr

/-- A codeword of the storage that error correction protects (R49, R58): a half-line of main memory; 64 bits of a slice line or of an L1
line, by physical address; of a scratchpad, by offset; of a thread's vector registers or a group's uniform registers, by the even one of its
two registers; of a tile, by its even word; of a weight buffer, by offset (the follower's from 1,048,576 on) (log 48, DESIGN CHOICE,
unsafe). -/
inductive ErrPlace where
  | half (pa : Nat)
  | slice (pa : Nat)
  | l1 (core pa : Nat)
  | scratch (launch blk ea : Nat)
  | vreg (ref : GroupRef) (lane i : Nat)
  | sreg (ref : GroupRef) (i : Nat)
  | tile (launch blk t i : Nat)
  | weights (pair off : Nat)
  deriving DecidableEq, Repr

/-- An error that stands in a codeword and that nothing has found yet, and whether the code can correct it (R49, R58) (log 47, DESIGN
CHOICE, safe). -/
structure Damage where
  place : ErrPlace
  fixable : Bool
  deriving DecidableEq, Repr

/-- A leaf translation in a cluster TLB (R74, R78). -/
structure TlbEntry where
  cluster : Nat
  pasid : BitVec 20
  /-- first virtual address and log2 of the size -/
  va : Nat
  log : Nat
  pa : Nat
  w : Bool
  x : Bool
  u : Bool
  g : Bool
  /-- PIN of the leaf (R68, R73) -/
  pin : Bool
  seen : Bool
  deriving DecidableEq, Repr

/-- An entry of a cluster's contention predictor (R100). -/
structure Predict where
  cluster : Nat
  pline : Nat
  count : BitVec 2
  used : BitVec 64
  deriving DecidableEq, Repr

/-- The last registration of words or atomic on a line by a core (R100: the contended bit). -/
structure LineUse where
  pline : Nat
  core : Nat
  time : BitVec 64
  deriving DecidableEq, Repr

/-- One thread's access of a memory instruction, with its operands as logged (R80, R82). -/
inductive MemOp where
  | load (ty : Ty)
  | store (size : Nat)
  | atom (op : AtomOp) (ty : Ty)
  deriving DecidableEq, Repr

structure MemReq where
  lane : Nat
  va : BitVec 57
  op : MemOp
  v : BitVec 64
  cmp : BitVec 64
  deriving DecidableEq, Repr

/-- What a long-latency instruction in flight waits for. -/
inductive Wait where
  /-- nothing more: its values are bound -/
  | ready
  /-- an LDSP parked on lines: type, the lines still absent, and effective addresses by lane (R90) -/
  | ldsp (ty : Ty) (lines : List Nat) (eas : List (Nat × Nat))
  /-- an STSP waiting for presence: size, the lines still absent, and address and data by lane (R94) -/
  | stsp (size : Nat) (lines : List Nat) (data : List (Nat × Nat × BitVec 64))
  /-- FWAIT on a handle by lane (R134) -/
  | handle (hs : List (Nat × BitVec 64))
  /-- WAITC (R136) -/
  | count (cls : EngClass) (n : BitVec 32)
  /-- QPUSH: the queue and the values still to push, in lane order (R151) -/
  | push (q : Nat) (vals : List (Nat × BitVec 64))
  /-- QPOP -/
  | pop (q : Nat)
  /-- MREL: every matrix command of the pair (R228) -/
  | drain
  /-- MCOMMIT at its place in the pair's queue (R241) -/
  | commit
  /-- accesses standing in the operand log (R80) -/
  | logged (entry : Nat)
  /-- peer accesses: transactions not yet acknowledged (R267) -/
  | remote (txns : List Nat)
  deriving DecidableEq, Repr

/-- A long-latency instruction in flight (R27, R28): its threads still waiting, the flag it counts in, its destination, the
values bound for it by lane. -/
structure Inflight where
  id : Nat
  ref : GroupRef
  pip : Bool
  lanes : BitVec 64
  flag : Option (BitVec 4)
  dst : Option (Opnd × Bool)
  dst2 : Option Opnd
  vals : List (Nat × BitVec 64)
  val2 : List (Nat × Bool)
  wait : Wait
  /-- later memory instructions, engine commands, queue operations and barriers of its threads wait for it (R136) -/
  fences : Bool
  pc : BitVec 64
  clause : Option Resume
  /-- the order code whose acquire follows at completion, with its scope -/
  acq : Option Scope
  /-- it ends its threads' region when it completes (R33) -/
  ends : Bool
  /-- a RET on a return stack at a peer: its value is the offset to return to (R293, R267) -/
  isRet : Bool
  deriving DecidableEq, Repr

/-- An entry of a core's operand log (R80), or a fault reported to an agent for a fetch or an engine chunk. -/
inductive FaultSite where
  | instr (op : Nat) (reqs : List (MemReq × FaultKind))
  | fetch (ref : GroupRef) (lanes : BitVec 64)
  | chunk (cmd chunk : Nat)
  /-- a RET or a CALLT that waits at its instruction (R293, R295) -/
  | ret (ref : GroupRef) (lane : Nat)
  | signal (q : QueueRef) (idx : Nat)
  /-- a completion-barrier arrival: its object and tag, and the copy whose handle it completes, if its handle waits (R144) -/
  | arrival (launch blk : Nat) (obj tag : BitVec 64) (cmd : Option Nat)
  /-- an entry of a launch's deterministic flush (R105) -/
  | flush (launch : Nat)
  /-- an entry of a block's share of the flush log, by its place, still to be written (R79, R103) -/
  | entry (launch blk slot : Nat)
  /-- an agent's write of an entry of a launch's binding table, with the target or without (R79, R295) -/
  | binding (launch k : Nat) (target : Option (BitVec 32))
  deriving DecidableEq, Repr

structure LogEntry where
  id : Nat
  core : Nat
  pasid : BitVec 20
  kind : FaultKind
  va : BitVec 57
  site : FaultSite
  pc : BitVec 64
  clause : Option Resume
  deriving DecidableEq, Repr

/-- The engine commands other than the matrix ones (R137, R145, R268, R272, R274, R279). -/
inductive CmdKind where
  | copy (dims : BitVec 2) (dir : CopyDir) (bar : Option (BitVec 64 × BitVec 64))
  | dcmp (sp : Bool) (card : BitVec 64)
  | put | get
  | fatom (op : AtomOp) (ty : Ty) (order : Order) (scope : Scope) (ea : BitVec 57)
  | coll (ty : Ty) (op : RedOp) (kind : CollKind) (seq : Nat)
  | reconf (plan : Nat) (newgen : BitVec 32)
  deriving DecidableEq, Repr

/-- An engine command issued and not complete (R131, R132, R141, R142). -/
structure Cmd where
  id : Nat
  ref : GroupRef
  core : Nat
  kind : CmdKind
  fn : BitVec 8
  /-- the descriptor as read at issue -/
  desc : List (BitVec 32)
  handle : BitVec 64
  /-- issuing threads; whether one was inside a region at issue, and those that still are in it, with its entry (R132, R144) -/
  lanes : BitVec 64
  inside : Bool
  inRegion : List (Nat × BitVec 64)
  /-- chunks complete, and chunks held by a fault -/
  chunks : List Nat
  faulted : List Nat
  resume : Nat
  cancel : Bool
  /-- what the engine reads at issue, the object's tag or the job card, is still to be read: a page fault holds it (R80) -/
  early : Bool
  /-- the chunks of a copy in flight when its cancellation was requested (R135) -/
  flying : List Nat
  failed : Bool
  /-- destination scratchpad lines whose presence it still owes (R141) -/
  lines : List Nat
  /-- the fabric: transactions outstanding, and whether the signal was sent (R270) -/
  txns : List Nat
  signalled : Bool
  gen : BitVec 32
  deriving DecidableEq, Repr

/-- The matrix commands of a pair's queue (R229, R241). -/
inductive MatrixOp where
  | mldw (slot : BitVec 3)
  | mzero (tile : BitVec 5)
  | mma (slot : BitVec 3) (sparse : Bool) (tile : BitVec 5)
  | mst (ty : Ty) (bias rs : Bool) (rm : Rm) (tile : BitVec 5)
  /-- MCOMMIT, with the number of the instruction in flight that waits for it -/
  | mcommit (op : Nat)
  deriving DecidableEq, Repr

structure MatrixCmd where
  ref : GroupRef
  op : MatrixOp
  desc : List (BitVec 32)
  handle : BitVec 64
  lanes : BitVec 64
  inRegion : List (Nat × BitVec 64)
  lines : List Nat
  started : Bool
  deriving DecidableEq, Repr

/-- A pair of cores (R225, R227): who holds the reservation, who held it last, its command queue and both weight buffers. -/
structure Pair where
  idx : Nat
  holder : Option (Nat × Nat)
  last : Option (Nat × Nat)
  queue : List MatrixCmd
  lead : Store 8
  follow : Store 8
  /-- poisoned weight-buffer words: offsets below 1,048,576 on the leader, the rest on the follower -/
  poison : List Nat
  deriving DecidableEq, Repr

/-- A packet that has started and not completed (R312). -/
structure Packet where
  q : QueueRef
  idx : Nat
  bytes : List Byte
  /-- complete with a status and an aux value, its signal still to be written -/
  result : Option (BitVec 8 × BitVec 32)
  deriving DecidableEq, Repr

/-- An error-log entry (R386). -/
structure ErrEntry where
  time : BitVec 64
  kind : Nat
  cause : BitVec 8
  pasid : BitVec 20
  wh : BitVec 64
  count : BitVec 32
  pc : BitVec 32
  deriving DecidableEq, Repr

/-- A shoot-down or harvest being performed (R76, R77, R79): the clusters that have acknowledged, and what completes. -/
inductive Maint where
  | shootdown (kind : Nat) (pasid : BitVec 20) (addr : BitVec 57) (pages : Nat) (host : Bool)
  /-- its packet, the PASID, the new bitmap's page, the old one's once it has begun -/
  | harvest (q : QueueRef) (idx : Nat) (pasid : BitVec 20) (new : BitVec 36) (old : Option (BitVec 36))
  deriving DecidableEq, Repr

structure MaintOp where
  op : Maint
  acked : List Nat
  deriving DecidableEq, Repr

/-- A request to a peer awaiting its reply (R73, R250, R262, R263). -/
structure Txn where
  id : Nat
  dst : Nat
  flit : Flit
  /-- the instruction in flight or the command it belongs to -/
  op : Option Nat
  cmd : Option Nat
  lane : Nat
  /-- consecutive refusals, and the clock of the next re-send when refused -/
  refused : Nat
  resendAt : Option (BitVec 64)
  /-- no path since this time (R263) -/
  lost : Option Nat
  /-- the path taken: the port, pinned per line (R262) -/
  port : Option Nat
  /-- its flit has left the device in a frame (R404) -/
  sent : Bool
  deriving DecidableEq, Repr

/-- A collective as this device sees it (R275-R277): the bytes received from each rank, and what members said of fn and n. -/
structure CollState where
  launch : Nat
  seq : Nat
  cmd : Option Nat
  /-- by rank: function byte and element count -/
  heads : List (Nat × BitVec 8 × BitVec 32)
  /-- by rank: source bytes at their offsets -/
  data : List (Nat × Store 8)
  /-- poisoned source words by rank and offset -/
  poison : List (Nat × Nat)
  /-- by rank: the offset and the length of each piece received -/
  got : List (Nat × Nat × Nat)
  /-- the ranks that have been sent this device's source -/
  shared : List Nat
  /-- the devices that have restarted, and are told fn and n again when they do (R277) -/
  owes : List Nat
  failed : Bool
  deriving DecidableEq, Repr

/-- What waits to leave by a port (R252). -/
inductive OutItem where
  | flit (f : Flit)
  | short (f : ShortFlit)
  deriving DecidableEq, Repr

inductive PortState where
  | down
  /-- training: consecutive good training frames and idle frames received (R256) -/
  | training (good idle : Nat)
  | up
  deriving DecidableEq, Repr

/-- An optical port with its link layer (R248-R256). -/
structure Port where
  idx : Nat
  st : PortState
  /-- the generation its training handshake carries -/
  trainGen : BitVec 32
  fseq : Nat
  expected : Nat
  /-- frames sent and not acknowledged: number, body kind, items, times sent -/
  unacked : List (Nat × Nat × List Byte × Nat)
  /-- frames waiting to be sent again, by number (R255 item 5) -/
  replay : List Nat
  /-- frame times without an acknowledgement (R255 item 6) -/
  ackWait : Nat
  aval : Bool
  aseq : Nat
  nak : Bool
  nakWait : Nat
  credits : List Nat
  owed : List Nat
  /-- frame times since credits are owed (R252) -/
  owedWait : Nat
  slot : Nat
  out : List OutItem
  /-- queue depths the far end last reported, by its port (R251) -/
  depths : List Nat
  deriving DecidableEq, Repr

/-- A port that is down, as reset leaves it: no frame numbered, the initial credits of R256, nothing queued (log 21, DEDUCED, unsafe). -/
def Port.fresh (i : Nat) : Port where
  idx := i
  st := .down
  trainGen := 0
  fseq := 0
  expected := 0
  unacked := []
  replay := []
  ackWait := 0
  aval := false
  aseq := 0
  nak := false
  nakWait := 0
  credits := [192, 192, 96, 32]
  owed := [0, 0, 0, 0]
  owedWait := 0
  slot := 0
  out := []
  depths := []

/-- A transition of the topology (R280). -/
structure Transition where
  old : BitVec 32
  new : BitVec 32
  plan : Nat
  cmd : Nat
  /-- the step of R280 under way: 2 drain, 3 readiness, 4 switch, 6 waiting for the switch to reply, 5 light; 7 restoring after
  a failure (R281) -/
  step : Nat
  gone : Bool
  /-- the ports that retrain -/
  changed : List Nat
  since : Nat
  deriving DecidableEq, Repr

/-- The states of the TDISP interface (R376). -/
inductive Tdi where
  | unlocked | locked | run | error
  deriving DecidableEq, Repr

/-- How far the SPDM requester has come (R374): nothing, version, capabilities, algorithms, keys exchanged, in session. -/
inductive Spdm where
  | start | version | capabilities | negotiated | exchanged | session
  deriving DecidableEq, Repr

/-- What an error response of SPDM or TDISP says (R374): UNSUPPORTED_REQUEST, or an error that the standard chooses. -/
inductive TrustError where
  | unsupportedRequest | ofStandard
  deriving DecidableEq, Repr

/-- What leaves for the host or the requester, in order. -/
inductive HostMsg where
  | write (pasid : BitVec 20) (addr : BitVec 48) (bytes : List Byte)
  | atomic (pasid : BitVec 20) (op : HostAtomic) (addr : BitVec 48) (wide : Bool) (v cmp : BitVec 64)
  | read (pasid : BitVec 20) (addr : BitVec 48) (len : Nat)
  /-- the answer to a BAR 4 read or AtomicOp -/
  | completion (bytes : List Byte)
  | unsupported
  /-- an SPDM, IDE_KM or TDISP response, or its error response -/
  | response (bytes : List Byte)
  | errorResponse (e : TrustError)
  deriving DecidableEq, Repr

/-- A breakpoint register (R384). -/
structure Breakpoint where
  core : Nat
  idx : Nat
  w : BitVec 128
  deriving DecidableEq, Repr

/-- A clause being issued: the run's threads, the pipe, the PC of the next word, the header and its flags (R286, R325). -/
structure Run where
  ref : GroupRef
  core : Nat
  pipe : Nat
  /-- an ejected thread's turn on its pip core -/
  pip : Bool
  lanes : BitVec 64
  pc : BitVec 64
  hdr : BitVec 64
  fx : BitVec 4
  fy : BitVec 4
  /-- the next word is at a clause start -/
  start : Bool
  yld : Bool
  /-- the next word waits for something another step must bring -/
  stalled : Bool
  deriving DecidableEq, Repr

/-- A child launch waiting in the pending-launch store (R333, R334). -/
structure Child where
  id : Nat
  parent : Nat
  addr : BitVec 64
  bytes : List Byte
  /-- the thread that launched it, and the code offset of its DLAUNCH, as an error-log entry names them (R386) -/
  wh : BitVec 64
  pc : BitVec 32
  /-- its record stands in memory at that address: it was launched here, and no image has brought it -/
  stands : Bool
  deriving DecidableEq, Repr

/-- The state of the device. -/
structure State where
  /-- which part it is (R1); never written -/
  part : Part
  /-- `sr.clock`: arithmetic clocks since reset (R344) -/
  clock : BitVec 64
  /-- the time since reset that `clock` has counted, each clock at the rate of its throttle step (R388): in parts of a microsecond of which a
  clock at step 0 takes 252 -/
  time : Nat
  /-- the model's own: the number of free values taken so far -/
  freeCtr : Nat
  /-- the model's own: the number the next numbered entry takes -/
  nextId : Nat
  /-- the model's own: steps named to happen next, in order -/
  agenda : List Instr
  /-- clauses being issued; the first issues the next word -/
  runs : List Run
  launches : List Launch
  blocks : List Block
  groups : List Group
  threads : List Thread
  /-- by core and pipe: how many clauses of other classes have been picked since one of class 3, while fewer than three (R325) -/
  agentTurns : List (Nat × Nat × Nat)
  /-- device main memory, as the home slices give it -/
  mem : Memory
  /-- poisoned words of main memory itself, by physical address (R59); a line in its slice has its own mask (R55) -/
  poison : List Nat
  /-- errors of the storage not yet found (R49, R58): they come from outside the machine -/
  damage : List Damage
  slices : List SliceLine
  l1 : List L1Line
  tlb : List TlbEntry
  predict : List Predict
  uses : List LineUse
  oplog : List LogEntry
  inflight : List Inflight
  cmds : List Cmd
  pairs : List Pair
  det : List DetEntry
  children : List Child
  packets : List Packet
  /-- notifications latched per queue, and whether because its control block is away (R311) -/
  latched : List (QueueRef × BitVec 64 × Bool)
  /-- clusters power-gated (R77) -/
  gated : List Nat
  maint : List MaintOp
  /-- the model's own: accesses that found their slow path held for a harvest (R79) -/
  slowWaits : Nat
  /-- BAR 0: queue block 0x00 and 0x08 (R308) -/
  qtReg : BitVec 64
  capReg : BitVec 64
  /-- BAR 0: translation block 0x00, 0x08, 0x10 and the fields of 0x18 (R65) -/
  ptReg : BitVec 64
  sdAddr : BitVec 64
  sdCtl : BitVec 64
  sdDrop : Bool
  sdDone : BitVec 31
  /-- BAR 0: fabric block 0x00 (R257) -/
  fabReg : BitVec 64
  tgen : BitVec 32
  /-- plans by slot, 128 bytes each (R258) -/
  plans : List (Nat × BitVec 1024)
  plan : Option Nat
  trans : Option Transition
  /-- READY as received and not yet answered, and this device's own: device, generation, plan slot (R280 step 3) -/
  readies : List (Nat × BitVec 32 × Nat)
  ports : List Port
  txns : List Txn
  colls : List CollState
  /-- `.sys` wide barriers that members have reached: the launch's team, its sequence number, the rank (R330) -/
  wideArrivals : List (Nat × Nat × Nat)
  /-- the export that the owner's last team launch declared (R266) -/
  exported : Option Team
  /-- walks for incoming accesses that ended in a fault not yet told to their initiator: cluster, PASID, page, whether for a write (R73) -/
  walkFails : List (Nat × BitVec 20 × Nat × Bool)
  /-- flits for which there is no path, with the time since when (R263) -/
  stranded : List (OutItem × Nat)
  /-- relayed flits not yet forwarded: the port that each came by, and its header (R256) -/
  relaying : List (Nat × BitVec 128)
  /-- frames sent on the optical ports, and on the circuit-control port (R253, R282) -/
  frames : List (Nat × List Byte)
  circuit : List (List Byte)
  /-- trust block: tdi, ide, words 0x08 and 0x10, key digests (R377) -/
  tdi : Tdi
  ide : Bool
  fwcfg : BitVec 64
  nkeys : BitVec 64
  keydigs : List (Nat × BitVec 384)
  spdm : Spdm
  ideKeyed : Bool
  /-- measurement 3 as captured at lock, none before the first (R381) -/
  meas3 : Option (List Byte)
  /-- the firmware package as verified, and its version (R373, R380) -/
  firmware : List Byte
  fwver : BitVec 32
  fuseMin : BitVec 32
  ready : Bool
  /-- debug block 0x00, 0x10 and cerr (R384) -/
  dbgCtl : BitVec 64
  dbgData : BitVec 64
  dbgErr : Bool
  breaks : List Breakpoint
  /-- error log: entries written since reset, and the last 256 (R386) -/
  errHead : BitVec 64
  errLog : List (Nat × ErrEntry)
  /-- corrections so far by codeword (R58, R386) -/
  corrections : List (ErrPlace × BitVec 32)
  /-- power block (R387) -/
  plimit : BitVec 16
  throttle : BitVec 3
  tj : BitVec 8
  pnow : BitVec 16
  energy : BitVec 64
  /-- configuration space: the BAR registers, as written (R371, R378) -/
  bars : List (Nat × BitVec 64)
  /-- what was sent to the host -/
  hostOut : List HostMsg
  /-- nonces of images used so far (R352) -/
  nonces : Nat
  /-- frames kept for the devices to which contexts saved here move (R362) -/
  saved : List Saved
  /-- images being checked, and pages being fetched (R364, R366) -/
  loads : List Load
  fetches : List Fetch
  deriving DecidableEq, Repr

/-- The design power limit in watts (R1). -/
def Part.designLimit : Part → BitVec 16
  | .gm2A => 2800 | .gm2B => 2400 | .gm2E => 450

/-- The device right after reset (R9, R51, R260, R373, R377, R387): every field a rule gives a value has it. The rest are the model's:
the part (log 15), the firmware (log 16), tj and pnow (log 17), caches, predictors and marks (log 18), what exists only later (log 19), the
session, nonces and BARs (log 20), all DESIGN CHOICE, unsafe; the ports (log 21, DEDUCED, unsafe); the model's own fields (log 14, DESIGN
CHOICE, safe). -/
def State.reset : State where
  part := .gm2A
  clock := 0
  time := 0
  freeCtr := 0
  nextId := 0
  agenda := []
  runs := []
  launches := []
  blocks := []
  groups := []
  threads := []
  agentTurns := []
  mem := []
  poison := []
  damage := []
  slices := []
  l1 := []
  tlb := []
  predict := []
  uses := []
  oplog := []
  inflight := []
  cmds := []
  pairs := []
  det := []
  children := []
  packets := []
  latched := []
  gated := []
  maint := []
  slowWaits := 0
  qtReg := 0
  capReg := 0
  ptReg := 0
  sdAddr := 0
  sdCtl := 0
  sdDrop := false
  sdDone := 0
  fabReg := 0
  tgen := 0
  plans := []
  plan := none
  trans := none
  readies := []
  ports := (List.range 16).map Port.fresh
  txns := []
  colls := []
  wideArrivals := []
  exported := none
  walkFails := []
  stranded := []
  relaying := []
  frames := []
  circuit := []
  tdi := .unlocked
  ide := false
  fwcfg := 2
  nkeys := 0
  keydigs := []
  spdm := .start
  ideKeyed := false
  meas3 := none
  firmware := []
  fwver := 0
  fuseMin := 0
  ready := false
  dbgCtl := 0
  dbgData := 0
  dbgErr := false
  breaks := []
  errHead := 0
  errLog := []
  corrections := []
  plimit := Part.designLimit .gm2A
  throttle := 0
  tj := 0
  pnow := 0
  energy := 0
  bars := []
  hostOut := []
  nonces := 0
  saved := []
  loads := []
  fetches := []

/-- Why a step stops with a fault. -/
inductive Fault where
  /-- Raised by exec of an instruction of the instruction set in a state in which no run issues: there is no thread to
  perform it for. A step of the machine never raises it, since it fetches words only for an issuing run. Safe. -/
  | noIssuingRun
  deriving DecidableEq, Repr

/-- Why a step is refused. -/
inductive Refusal where
  /-- Raised by exec for an instruction that has no meaning yet. Safe. -/
  | notModelled (mnemonic : String)
  deriving DecidableEq, Repr

end Sys2Proof.Machine
end

