-- ==== Sys2Proof/Config.lean ====
section
/-! DEFINITION. What a part fixes (R1, R2) and the free values: constants without a body for what the spec leaves open. -/

namespace Sys2Proof.Config

open Sys2Proof.Machine

/-- Counts of units by part (R1, R48, R52). -/
def halves : Part → Nat
  | .gm2E => 1 | _ => 2
def clustersPerHalf : Part → Nat
  | .gm2A => 12 | .gm2B => 10 | .gm2E => 3
def clusters (p : Part) : Nat := halves p * clustersPerHalf p
def cores (p : Part) : Nat := 8 * clusters p
def pipeLanes : Part → Nat
  | .gm2E => 8 | _ => 32
def slicesPerHalf : Part → Nat
  | .gm2A => 128 | .gm2B => 104 | .gm2E => 64
def slices (p : Part) : Nat := halves p * slicesPerHalf p
def channels : Part → Nat
  | .gm2A => 96 | .gm2B => 80 | .gm2E => 16
def ports : Part → Nat
  | .gm2A => 16 | .gm2B => 12 | .gm2E => 2

/-- cap: main-memory bytes, 8 GiB a channel (R1, R48). -/
def cap (p : Part) : Nat := channels p * 2 ^ 33

/-- The size of BAR 4 (R371). -/
def bar4Size : Part → Nat
  | .gm2E => 2 ^ 37 | _ => 2 ^ 40

/-- The part's code in the identification block (R373). -/
def partCode : Part → Nat
  | .gm2A => 0 | .gm2B => 1 | .gm2E => 2

/-- Silicon stepping (R373): the spec gives no value (log 144, DESIGN CHOICE, safe). -/
opaque stepping : BitVec 8

/-- An unspecified 64-bit value (R10), the n-th taken; narrower ones are its low bits (log 7, DESIGN CHOICE, safe). -/
opaque freeBits : Nat → BitVec 64

/-- Arithmetic clocks that pass in the n-th step beyond the first (R4: elapsed time is free). -/
opaque elapsed : Nat → Nat

/-- The device's own choices: a victim line, page or entry among those present (R54, R74). -/
opaque choice : Nat → Nat

/-- The firmware's own program (R315): where the thread of a lane starts in the agent of a core, or that it waits, for a package's bytes
(log 88, DESIGN CHOICE, unsafe). -/
opaque agentPc : List Byte → Nat → Nat → Option (BitVec 64)

/-- Whether two accesses of different lines that share a set of a slice meet: the set of a line in its slice (R52) (log 44, DESIGN CHOICE,
safe). -/
opaque sliceSet : Nat → Nat

/-- The port of member q that q's own entry of the plan in a slot joins to device d, if any: the plans of other members are not
on this device (R259) (log 105, DESIGN CHOICE, safe). -/
opaque relayPort : Nat → Nat → Nat → Option Nat

/-- The trained port by which member q would forward a flit of a line to device d under the plan in a slot, at a clock, if it has one: q's
ports are not on this device (R261). -/
opaque relayUp : Nat → Nat → Nat → Nat → Nat → Option Nat

/-- The circuit-switch port that the entry at the far end of port i gives its own port, and the connections between other
members, in the plan of a slot: other members' entries are not on this device (R282). -/
opaque peerCport : Nat → Nat → BitVec 16
opaque otherConnections : Nat → List (BitVec 16 × BitVec 16)

/-- The device's own image key (R382): the secret number of its key pair, and the number that its i-th try to sign a message takes; and
what its identity key signs (R374) (log 163, DESIGN CHOICE, safe). -/
opaque imageSecret : Nat
opaque signNumber : List Byte → Nat → Nat
opaque identitySign : List Byte → List Byte

/-- The boot ROM's check of a firmware package's signature (R380), and the ROM's digest (R381) (log 143, DESIGN CHOICE, safe). -/
opaque firmwareVerifies : List Byte → Bool
opaque romDigest : BitVec 384

/-- SPDM and TDISP messages whose bytes those standards, not this spec, fix: the response to a request, by its code
(R374) (log 147, DESIGN CHOICE, safe). -/
opaque response : Nat → List Byte → Nat → List Byte

/-- Whether an SPDM, IDE_KM or TDISP request is well formed under its own standard (R374). -/
opaque requestOk : Nat → List Byte → Bool

end Sys2Proof.Config
end

