-- ==== Sys2Proof/Machine/Store.lean ====
section
/-! DEFINITION. Sparse storage in canonical form: reading and writing one cell, and little-endian values of several bytes
(R7). -/

namespace Sys2Proof.Machine

/-- The value at a key; an unlisted key reads zero. -/
def Store.get {n : Nat} : Store n → Nat → BitVec n
  | [], _ => 0
  | (a, v) :: r, k => if a = k then v else Store.get r k

/-- Write one cell: the list stays sorted by key and holds no zero. -/
def Store.set {n : Nat} : Store n → Nat → BitVec n → Store n
  | [], k, x => if x = 0 then [] else [(k, x)]
  | (a, v) :: r, k, x =>
    if k < a then (if x = 0 then (a, v) :: r else (k, x) :: (a, v) :: r)
    else if k = a then (if x = 0 then r else (k, x) :: r)
    else (a, v) :: Store.set r k x

/-- The canonical form: keys strictly rising above a bound, no zero. -/
def Store.wfFrom {n : Nat} : Option Nat → Store n → Bool
  | _, [] => true
  | lo, (a, v) :: r => (match lo with | none => true | some l => decide (l < a)) && v != 0 && Store.wfFrom (some a) r

def Store.wf {n : Nat} (s : Store n) : Bool := Store.wfFrom none s

/-- Main memory's canonical form. -/
abbrev Memory.wf (m : Memory) : Bool := Store.wf m

/-- n bytes from an address. -/
def Store.bytes (s : Store 8) (a : Nat) : Nat → List Byte
  | 0 => []
  | n + 1 => Store.get s a :: Store.bytes s (a + 1) n

/-- Write bytes from an address on. -/
def Store.setBytes : Store 8 → Nat → List Byte → Store 8
  | s, _, [] => s
  | s, a, b :: r => Store.setBytes (Store.set s a b) (a + 1) r

/-- The number little-endian bytes stand for (R7). -/
def leNat : List Byte → Nat
  | [] => 0
  | b :: r => b.toNat + 256 * leNat r

/-- The n little-endian bytes of a number (R7). -/
def leBytes (x : Nat) : Nat → List Byte
  | 0 => []
  | n + 1 => BitVec.ofNat 8 x :: leBytes (x / 256) n

/-- A little-endian value of n bytes. -/
def Store.le (s : Store 8) (a n : Nat) : Nat := leNat (s.bytes a n)
def Store.setLe (s : Store 8) (a n x : Nat) : Store 8 := s.setBytes a (leBytes x n)

/-- A number from a byte string at an offset, little-endian; bytes past the end read zero. -/
def fieldAt (bs : List Byte) (off n : Nat) : Nat := leNat ((bs.drop off).take n)

end Sys2Proof.Machine
end

