-- ==== Sys2Proof/Machine/Operands.lean ====
section
/-! DEFINITION. Operands: reading and writing registers of threads and groups (01 R18-R24), immediates (R22), the guard
(R16), and which registers an operand names (R19, R20, R28, R31). -/

namespace Sys2Proof.Machine

/-- How an immediate is widened (R22): signed integers and bits, unsigned integers, or a floating-point type given by its
exponent and fraction widths. -/
inductive Widen where
  | sint | uint | flt (eb fb : Nat)
  deriving DecidableEq, Repr

def Widen.f32 : Widen := .flt 8 23
def Widen.f16 : Widen := .flt 5 10
def Widen.bf16 : Widen := .flt 8 7

/-- The pattern of a small integer in a floating-point type; every value from −256 to 255 is exact (R22). -/
def smallFloat (eb fb : Nat) (x : Int) : Nat :=
  let m := x.natAbs
  if m = 0 then 0
  else
    let e := m.log2
    (if x < 0 then 2 ^ (eb + fb) else 0) + (2 ^ (eb - 1) - 1 + e) * 2 ^ fb + (m * 2 ^ fb / 2 ^ e - 2 ^ fb)

/-- A class 5 immediate under an operand's type (R22), as 64 bits of which the operand uses its width. -/
def imm5 (wd : Widen) (x : BitVec 9) : BitVec 64 :=
  match wd with
  | .sint => x.signExtend 64
  | .uint => x.signExtend 64
  | .flt eb fb => BitVec.ofNat 64 (smallFloat eb fb x.toInt)

/-- A class 6 value under an operand's type (R22). -/
def imm6 (wd : Widen) (k : BitVec 32) : BitVec 64 :=
  match wd with
  | .sint => k.signExtend 64
  | .uint => k.setWidth 64
  | .flt _ _ => k.setWidth 64

/-- The vector register i of a thread, in its pip context while it is ejected (R302). -/
def Thread.v (t : Thread) (i : Nat) : BitVec 32 :=
  match t.pip with
  | some p => p.vregs.get i
  | none => t.vregs.get i

def Thread.p (t : Thread) (i : Nat) : Bool :=
  if i = 15 then true
  else match t.pip with
    | some p => p.preds.getLsbD i
    | none => t.preds.getLsbD i

/-- The uniform register i as a thread of the group reads it (R302: an ejected thread reads its copy). -/
def uniReg (g : Group) (t : Thread) (i : Nat) : BitVec 32 :=
  match t.pip with
  | some p => p.sregs.get i
  | none => g.sregs.get i

/-- A source operand's value: 32 bits, or 64 bits of a pair with the low word in the even register (R19); a predicate's bit;
a handle or a mask whole. -/
def readOp (g : Group) (t : Thread) (k : BitVec 32) (wd : Widen) (wide : Bool) (o : Opnd) : BitVec 64 :=
  match o with
  | .v i => if wide then joinWords (t.v i.toNat) (t.v (i.toNat + 1)) else (t.v i.toNat).setWidth 64
  | .s i => if wide then joinWords (uniReg g t i.val) (uniReg g t (i.val + 1)) else (uniReg g t i.val).setWidth 64
  | .p i => if t.p i.toNat then 1 else 0
  | .m i => g.masks.get i.toNat
  | .h i => t.handles.get i.toNat
  | .imm x => if wide then imm5 wd x else ((imm5 wd x).setWidth 32).setWidth 64
  | .immC => if wide then imm6 wd k else ((imm6 wd k).setWidth 32).setWidth 64
  | _ => 0

/-- Write a vector register: its poison clears (R179). -/
def Thread.setV (t : Thread) (i : Nat) (x : BitVec 32) : Thread :=
  match t.pip with
  | some p => { t with pip := some { p with vregs := p.vregs.set i x, vpoison := p.vpoison.filter (· != i) } }
  | none => { t with vregs := t.vregs.set i x, vpoison := t.vpoison.filter (· != i) }

/-- Write a predicate; `pt` discards (R21). -/
def setBit {n : Nat} (x : BitVec n) (i : Nat) (b : Bool) : BitVec n :=
  if b then x ||| (BitVec.ofNat n 1 <<< i) else x &&& ~~~(BitVec.ofNat n 1 <<< i)

def Thread.setP (t : Thread) (i : Nat) (b : Bool) : Thread :=
  if i = 15 then t
  else match t.pip with
    | some p => { t with pip := some { p with preds := setBit p.preds i b } }
    | none => { t with preds := setBit t.preds i b }

def Thread.setH (t : Thread) (i : Nat) (x : BitVec 64) : Thread := { t with handles := t.handles.set i x }

/-- Write a per-thread destination: a vector register or pair, a predicate, a handle. -/
def Thread.write (t : Thread) (o : Opnd) (wide : Bool) (x : BitVec 64) : Thread :=
  match o with
  | .v i => if wide then (t.setV i.toNat (loWord x)).setV (i.toNat + 1) (hiWord x) else t.setV i.toNat (loWord x)
  | .p i => t.setP i.toNat (x.getLsbD 0)
  | .h i => t.setH i.toNat x
  | _ => t

def Group.setS (g : Group) (i : Nat) (x : BitVec 32) : Group :=
  { g with sregs := g.sregs.set i x, spoison := g.spoison.filter (· != i) }

/-- Write a per-group destination: a uniform register or pair, a mask. -/
def Group.write (g : Group) (o : Opnd) (wide : Bool) (x : BitVec 64) : Group :=
  match o with
  | .s i => if wide then (g.setS i.val (loWord x)).setS (i.val + 1) (hiWord x) else g.setS i.val (loWord x)
  | .m i => { g with masks := g.masks.set i.toNat x }
  | _ => g

/-- The guard of an instruction for a thread (R16). -/
def Thread.guard (t : Thread) (c : Common) : Bool := t.p c.guard.toNat != c.gneg

/-- An operand with the number of consecutive registers it names from its index on. -/
abbrev Names := Opnd × Nat

/-- Registers n from an operand for its width (R19). -/
def nm (o : Opnd) (wide : Bool) : Names := (o, if wide then 2 else 1)

/-- An operand or its absence. -/
def nmOpt (o : Option Opnd) (wide : Bool) : List Names := o.toList.map (nm · wide)

/-- Two operands name a common register. -/
def Names.meets (a b : Names) : Bool :=
  match a.1, b.1 with
  | .v i, .v j => i.toNat < j.toNat + b.2 && j.toNat < i.toNat + a.2
  | .s i, .s j => i.val < j.val + b.2 && j.val < i.val + a.2
  | .p i, .p j => i == j && i != 15
  | .m i, .m j => i == j
  | .h i, .h j => i == j
  | .a i, .a j => i == j
  | _, _ => false

/-- A register at or above the allotment, or a tile the launch has not allocated (R20). -/
def Names.beyond (vregs sregs tiles : Nat) (a : Names) : Bool :=
  match a.1 with
  | .v i => i.toNat + a.2 > vregs
  | .s i => i.val + a.2 > sregs
  | .a i => i.toNat ≥ tiles
  | _ => false

/-- Some bit of a mask from i on, n of them. -/
def anyBit {w : Nat} (x : BitVec w) (i : Nat) : Nat → Bool
  | 0 => false
  | n + 1 => x.getLsbD (i + n) || anyBit x i n

def allBits {w : Nat} (x : BitVec w) (i : Nat) : Nat → Bool
  | 0 => true
  | n + 1 => x.getLsbD (i + n) && allBits x i n

/-- The operand names a live-in of a region (R31). -/
def Region.names (r : Region) (a : Names) : Bool :=
  match a.1 with
  | .v i => anyBit r.livev i.toNat a.2
  | .s i => anyBit r.lives i.val a.2
  | .p i => i != 15 && r.livep.getLsbD i.toNat
  | .m i => r.livem.getLsbD i.toNat
  | .h i => r.liveh.getLsbD i.toNat
  | .a i => r.livea.getLsbD i.toNat
  | _ => false

/-- A thread's poisoned vector registers, as it reads them. -/
def Thread.badRegs (t : Thread) : List Nat :=
  match t.pip with
  | some p => p.vpoison
  | none => t.vpoison

/-- A source register whose codeword is poisoned (R179). -/
def poisoned (g : Group) (t : Thread) (a : Names) : Bool :=
  match a.1 with
  | .v i => t.badRegs.any (fun j => i.toNat ≤ j && j < i.toNat + a.2)
  | .s i => g.spoison.any (fun j => i.val ≤ j && j < i.val + a.2)
  | _ => false

/-- An ejected thread may read what was handed over to it, and nothing that names a handle, a mask or a tile (R305) (log 51, DEDUCED,
unsafe). -/
def Pip.reads (p : Pip) (a : Names) : Bool :=
  match a.1 with
  | .v i => allBits p.hov i.toNat a.2
  | .s i => allBits p.hos i.val a.2
  | .p i => i == 15 || p.hop.getLsbD i.toNat
  | .m _ | .h _ | .a _ => false
  | _ => true

/-- It may write what is handed back (R305). -/
def Pip.writes (p : Pip) (a : Names) : Bool :=
  match a.1 with
  | .v i => allBits p.hbv i.toNat a.2
  | .p i => i == 15 || p.hbp.getLsbD i.toNat
  | _ => false

end Sys2Proof.Machine
end

