-- ==== Sys2Proof/Machine/Flags.lean ====
section
/-! DEFINITION. The completion flags f0 to f11 of a group (01 R26, R27): the counts behind them, the selection of fsel, the
wait mask of a clause. An ejected thread counts in its own copy (12 R302). -/

namespace Sys2Proof.Machine

/-- The flag an instruction's fsel selects: the clause's X or Y; 15 names none (R15, R26). -/
def Run.flag (r : Run) (c : Common) : Option (BitVec 4) :=
  match c.fsel with
  | .none => none
  | .x => if r.fx = 15 then none else some r.fx
  | .y => if r.fy = 15 then none else some r.fy

/-- A flag reads as set while its count is not zero (R27). -/
def flagSet (fs : Store 16) (i : Nat) : Bool := fs.get i != 0

/-- A count holds at most 1,023 (R27). -/
def flagFull (fs : Store 16) (i : Nat) : Bool := (fs.get i).toNat ≥ 1023

def flagUp (fs : Store 16) (i : Nat) : Store 16 := fs.set i (fs.get i + 1)
def flagDown (fs : Store 16) (i : Nat) : Store 16 := fs.set i (fs.get i - 1)

/-- Every flag of a wait mask reads clear (R27). -/
def flagsClear (fs : Store 16) (wait : BitVec 12) : Nat → Bool
  | 0 => true
  | n + 1 => !(wait.getLsbD n && flagSet fs n) && flagsClear fs wait n

def waitDone (fs : Store 16) (wait : BitVec 12) : Bool := flagsClear fs wait 12

end Sys2Proof.Machine
end

