-- ==== Sys2Proof/Machine/Base.lean ====
section
/-! DEFINITION. The keyed parts of the state and their updates; numbers for entries, unspecified values and the device's own
choices (00 R10); sets of lanes. -/

namespace Sys2Proof.Machine

abbrev Out := Host.Outcome State Fault Refusal

/-! Keyed parts. -/

def Thread.is (t : Thread) (r : GroupRef) (lane : Nat) : Bool := t.ref == r && t.lane == lane
def inBlock (r : GroupRef) (launch blk : Nat) : Bool := r.launch == launch && r.blk == blk

def State.thread? (s : State) (r : GroupRef) (lane : Nat) : Option Thread := s.threads.find? (·.is r lane)
def State.group? (s : State) (r : GroupRef) : Option Group := s.groups.find? (·.ref == r)
def State.block? (s : State) (launch blk : Nat) : Option Block := s.blocks.find? (fun b => b.launch == launch && b.idx == blk)
def State.launch? (s : State) (id : Nat) : Option Launch := s.launches.find? (·.id == id)
def State.pair? (s : State) (i : Nat) : Option Pair := s.pairs.find? (·.idx == i)
def State.port? (s : State) (i : Nat) : Option Port := s.ports.find? (·.idx == i)
def State.cmd? (s : State) (id : Nat) : Option Cmd := s.cmds.find? (·.id == id)
def State.groupThreads (s : State) (r : GroupRef) : List Thread := s.threads.filter (·.ref == r)
def State.blockThreads (s : State) (launch blk : Nat) : List Thread := s.threads.filter (fun t => inBlock t.ref launch blk)

/-- Change the members of a list that meet a test. -/
def modify {α : Type} (p : α → Bool) (f : α → α) (l : List α) : List α := l.map (fun x => if p x then f x else x)

def State.modThreads (s : State) (p : Thread → Bool) (f : Thread → Thread) : State :=
  { s with threads := modify p f s.threads }
def State.modThread (s : State) (r : GroupRef) (lane : Nat) (f : Thread → Thread) : State := s.modThreads (·.is r lane) f
def State.modGroup (s : State) (r : GroupRef) (f : Group → Group) : State :=
  { s with groups := modify (·.ref == r) f s.groups }
def State.modBlock (s : State) (launch blk : Nat) (f : Block → Block) : State :=
  { s with blocks := modify (fun b => b.launch == launch && b.idx == blk) f s.blocks }
def State.modLaunch (s : State) (id : Nat) (f : Launch → Launch) : State :=
  { s with launches := modify (·.id == id) f s.launches }
def State.modPair (s : State) (i : Nat) (f : Pair → Pair) : State := { s with pairs := modify (·.idx == i) f s.pairs }
def State.modPort (s : State) (i : Nat) (f : Port → Port) : State := { s with ports := modify (·.idx == i) f s.ports }
def State.modCmd (s : State) (id : Nat) (f : Cmd → Cmd) : State := { s with cmds := modify (·.id == id) f s.cmds }

/-- A new number, for an entry that a later step names. -/
def State.fresh (s : State) : Nat × State := (s.nextId, { s with nextId := s.nextId + 1 })

/-- An unspecified value (R10), and the state that has taken it. -/
def State.free (s : State) : BitVec 64 × State := (Config.freeBits s.freeCtr, { s with freeCtr := s.freeCtr + 1 })

/-- Unspecified bytes (R10). -/
def State.freeBytes (s : State) : Nat → State × List Byte
  | 0 => (s, [])
  | n + 1 =>
    let (x, s) := s.free
    let (s, r) := s.freeBytes n
    (s, x.setWidth 8 :: r)

/-- A choice the spec leaves to the device among n things. -/
def State.choose (s : State) (n : Nat) : Nat × State :=
  (if n = 0 then 0 else Config.choice s.freeCtr % n, { s with freeCtr := s.freeCtr + 1 })

/-- A threads set as lane bits. -/
def lanesOf (l : List Nat) : BitVec 64 := l.foldl (fun m i => setBit m i true) 0
def laneList (m : BitVec 64) : List Nat := (List.range 64).filter m.getLsbD

/-- The cluster of a core (R1: eight cores each). -/
def clusterOf (core : Nat) : Nat := core / 8

end Sys2Proof.Machine
end

