-- ==== Sys2Proof/Machine/Errors.lean ====
section
/-! DEFINITION. The error log (15 R386), and the errors of the storage: what finding one does (02 R58, R59, R61). -/

namespace Sys2Proof.Machine

/-! The error log (R386). -/

/-- The kinds of error-log entries (R386). -/
inductive ErrKind where
  | corrected | deferred | poisonRead | uncorrectable | fatalContext | fatalDevice | childRefused | reconfFail | tdiError
  | fwRefused | debugStop | thermal | signalLost
  deriving DecidableEq, Repr

def ErrKind.code : ErrKind → Nat
  | .corrected => 1 | .deferred => 2 | .poisonRead => 3 | .uncorrectable => 4 | .fatalContext => 5 | .fatalDevice => 6
  | .childRefused => 7 | .reconfFail => 8 | .tdiError => 9 | .fwRefused => 10 | .debugStop => 11 | .thermal => 12
  | .signalLost => 13

/-- Write the entry at head mod 256, and add 1 to head (R386). -/
def State.log (s : State) (k : ErrKind) (cause : Nat) (pasid : BitVec 20) (wh : BitVec 64) (count : BitVec 32 := 1)
    (pc : BitVec 32 := 0) : State :=
  let j := s.errHead.toNat % 256
  let e : ErrEntry := ⟨s.clock, k.code, BitVec.ofNat 8 cause, pasid, wh, count, pc⟩
  { s with errHead := s.errHead + 1, errLog := (j, e) :: s.errLog.filter (·.1 != j) }

/-- A poisoned word has been read (R59): its physical address, 0 in the pool. -/
def State.notePoison (s : State) (pasid : BitVec 20) (pa : Nat) (p : Bool) : State :=
  if p then s.log .poisonRead 0 pasid (BitVec.ofNat 64 pa) else s

/-! Poison (R55, R59). -/

def lineOf (a : Nat) : Nat := a / 128 * 128
def wordOf (pa : Nat) : Nat := pa / 4 * 4

/-- Words of bytes written poisoned. -/
def addPoison (l : List Nat) (ws : List Nat) : List Nat := ws.foldl (fun l w => if l.contains w then l else w :: l) l

/-- The words of the 64-bit codeword of a word: the L1 and the scratchpad mark poison by codeword (R59). -/
def pairOf (w : Nat) : List Nat := [w / 8 * 8, w / 8 * 8 + 4]

/-- The words of a line that share a codeword with those of a mask. -/
def pairMask (m : BitVec 32) : BitVec 32 :=
  m ||| (m &&& 0x55555555#32) <<< 1 ||| (m &&& 0xAAAAAAAA#32) >>> 1

/-- Change a line of the shared cache. -/
def State.modSlice (s : State) (pline : Nat) (f : SliceLine → SliceLine) : State :=
  { s with slices := modify (fun x => x.line == pline) f s.slices }

/-- A word of main memory becomes poisoned where it stands: in its slice, or in main memory itself (R55, R59). -/
def State.spoil (s : State) (pa : Nat) : State :=
  if s.slices.any (·.line == lineOf pa) then
    s.modSlice (lineOf pa) (fun x => { x with poison := setBit x.poison (pa % 128 / 4) true, dirty := true })
  else { s with poison := addPoison s.poison [wordOf pa] }

def State.spoilAll (s : State) (ws : List Nat) : State := ws.foldl (fun (s : State) w => s.spoil w) s

/-! Errors of the storage (R49, R58, R59, R61). -/

/-- The physical address of a codeword; 0 in the pool (R386). -/
def ErrPlace.address : ErrPlace → Nat
  | .half a => a
  | .slice a => a
  | .l1 _ a => a
  | _ => 0

/-- Every word of a codeword becomes poisoned in the storage that holds it (R59): sixteen of main memory, two elsewhere. A slice line's poison
mask goes into memory's codes with the line (R55). -/
def State.poisonAt (s : State) : ErrPlace → State
  | .half a => { s with poison := addPoison s.poison ((List.range 16).map (fun i => a + 4 * i)) }
  | .slice a =>
    s.modSlice (lineOf a)
      (fun x => { x with poison := setBit (setBit x.poison (a % 128 / 4) true) (a % 128 / 4 + 1) true, dirty := true })
  | .l1 core a =>
    { s with
      l1 := modify (fun l => l.core == core && l.pline == lineOf a)
        (fun l => { l with poison := setBit (setBit l.poison (a % 128 / 4) true) (a % 128 / 4 + 1) true }) s.l1 }
  | .scratch l b ea => s.modBlock l b (fun x => { x with spoison := addPoison x.spoison [ea, ea + 4] })
  | .vreg r lane i => s.modThread r lane (fun x => { x with vpoison := addPoison x.vpoison [i, i + 1] })
  | .sreg r i => s.modGroup r (fun x => { x with spoison := addPoison x.spoison [i, i + 1] })
  | .tile l b t i => s.modBlock l b (fun x => { x with tiles := x.tiles.modify t (fun u => { u with poison := addPoison u.poison [i, i + 1] }) })
  | .weights p off => s.modPair p (fun x => { x with poison := addPoison x.poison [off, off + 4] })

/-- The number of corrections at a codeword so far, with one more (log 141, DESIGN CHOICE, unsafe). -/
def State.countCorrection (s : State) (at_ : ErrPlace) : BitVec 32 × State :=
  let n := ((s.corrections.find? (·.1 == at_)).map (·.2)).getD 0 + 1
  (n, { s with corrections := (at_, n) :: s.corrections.filter (·.1 != at_) })

/-- An error is found (R58, R59, R61): corrected, in the data and in the storage, and logged with its count; or its words are poisoned
and it is logged, as an entry of the kind given (log 49, DEDUCED, unsafe). -/
def State.meet (s : State) (pasid : BitVec 20) (why : ErrKind) (d : Damage) : State :=
  let s := { s with damage := s.damage.filter (· != d) }
  let at_ := BitVec.ofNat 64 d.place.address
  if d.fixable then
    let (c, s) := s.countCorrection d.place
    s.log .corrected 0 pasid at_ c
  else (s.poisonAt d.place).log why 0 pasid at_

/-- The errors in some codewords are found. -/
def State.meetAll (s : State) (pasid : BitVec 20) (why : ErrKind) (p : ErrPlace → Bool) : State :=
  (s.damage.filter (fun d => p d.place)).foldl (fun (s : State) d => s.meet pasid why d) s

/-- Codewords of the storage that holds a kind of place, under n bytes from an address or an offset. -/
def ErrPlace.inSlice (pa n : Nat) : ErrPlace → Bool
  | .slice a => a < pa + n && pa < a + 8
  | _ => false
def ErrPlace.inHalf (pline : Nat) : ErrPlace → Bool
  | .half a => lineOf a == pline
  | _ => false
def ErrPlace.inL1 (core pa n : Nat) : ErrPlace → Bool
  | .l1 c a => c == core && a < pa + n && pa < a + 8
  | _ => false
def ErrPlace.inScratch (launch blk ea n : Nat) : ErrPlace → Bool
  | .scratch l b a => l == launch && b == blk && a < ea + n && ea < a + 8
  | _ => false
def ErrPlace.inTile (launch blk t : Nat) : ErrPlace → Bool
  | .tile l b i _ => l == launch && b == blk && i == t
  | _ => false
def ErrPlace.inWeights (pair off n : Nat) : ErrPlace → Bool
  | .weights p a => p == pair && a < off + n && off < a + 8
  | _ => false

/-! Errors where something is written. -/

/-- Some codewords are written, those of the first test whole: those lose their errors with their data; in a codeword written in part, whose
check bits are computed anew, the error is found before (R58, R61) (log 50, DEDUCED, unsafe). -/
def State.writeOver (s : State) (whole touched : ErrPlace → Bool) : State :=
  if s.damage.any (fun d => touched d.place) then
    State.meetAll { s with damage := s.damage.filter (fun d => !whole d.place) } 0 .deferred touched
  else s

/-- The words of a mask meet the codeword of an offset in their line; or cover it. -/
def coversPair (ws : BitVec 32) (off : Nat) (whole : Bool) : Bool :=
  if whole then ws.getLsbD (off / 4) && ws.getLsbD (off / 4 + 1) else ws.getLsbD (off / 4) || ws.getLsbD (off / 4 + 1)

def ErrPlace.sliceWords (pline : Nat) (ws : BitVec 32) (whole : Bool) : ErrPlace → Bool
  | .slice a => lineOf a == pline && coversPair ws (a % 128) whole
  | _ => false
def ErrPlace.l1Words (core pline : Nat) (ws : BitVec 32) (whole : Bool) : ErrPlace → Bool
  | .l1 c a => c == core && lineOf a == pline && coversPair ws (a % 128) whole
  | _ => false

/-- Words of a slice line, or of a line of a core's L1, are written: those of the first mask whole, those of the second at least in part. -/
def State.overSlice (s : State) (pline : Nat) (whole touched : BitVec 32) : State :=
  s.writeOver (ErrPlace.sliceWords pline whole true) (ErrPlace.sliceWords pline touched false)
def State.overL1 (s : State) (core pline : Nat) (whole touched : BitVec 32) : State :=
  s.writeOver (ErrPlace.l1Words core pline whole true) (ErrPlace.l1Words core pline touched false)

/-- n bytes of a scratchpad, or of a pair's weight buffers, are written. -/
def State.overScratch (s : State) (launch blk ea n : Nat) : State :=
  s.writeOver (fun p => match p with
    | .scratch l b a => l == launch && b == blk && ea ≤ a && a + 8 ≤ ea + n
    | _ => false) (ErrPlace.inScratch launch blk ea n)
def State.overWeights (s : State) (pair off n : Nat) : State :=
  s.writeOver (fun p => match p with
    | .weights i a => i == pair && off ≤ a && a + 8 ≤ off + n
    | _ => false) (ErrPlace.inWeights pair off n)

/-- Registers of a mask are written: of a thread, or of a group. -/
def coversRegs {n : Nat} (m : BitVec n) (i : Nat) (whole : Bool) : Bool :=
  if whole then m.getLsbD i && m.getLsbD (i + 1) else m.getLsbD i || m.getLsbD (i + 1)
def ErrPlace.inVregs (ref : GroupRef) (lane : Nat) (m : BitVec 256) (whole : Bool) : ErrPlace → Bool
  | .vreg r l i => r == ref && l == lane && coversRegs m i whole
  | _ => false
def ErrPlace.inSregs (ref : GroupRef) (m : BitVec 192) (whole : Bool) : ErrPlace → Bool
  | .sreg r i => r == ref && coversRegs m i whole
  | _ => false
def State.overVregs (s : State) (ref : GroupRef) (lane : Nat) (m : BitVec 256) : State :=
  s.writeOver (ErrPlace.inVregs ref lane m true) (ErrPlace.inVregs ref lane m false)
def State.overSregs (s : State) (ref : GroupRef) (m : BitVec 192) : State :=
  s.writeOver (ErrPlace.inSregs ref m true) (ErrPlace.inSregs ref m false)

end Sys2Proof.Machine
end

