-- ==== Sys2Proof/Machine/Mem.lean ====
section
/-! DEFINITION. Main memory, its home slices and the L1 of each core: the physical map (02 R46), channel and home slice
(R50, R53), slice lines and ownership (R54, R55), L1 lines (03 R74, R75; 04 R93, R97), poison (R59), word by word (05 R120). -/

namespace Sys2Proof.Machine

/-! The physical map (R46). -/

def State.inMain (s : State) (pa : Nat) : Bool := pa < Config.cap s.part
def inHost (pa : Nat) : Bool := 2 ^ 47 ≤ pa && pa < 2 ^ 48

/-- The channel of an address below cap, and its offset there (R50). -/
def channelOf (p : Part) (a : Nat) : Nat :=
  let page := a / 4096
  let q := page / Config.channels p
  let m := page % Config.channels p
  (m + ((q % 4096) ^^^ (q / 4096 % 4096))) % Config.channels p
def offsetInChannel (p : Part) (a : Nat) : Nat := a / 4096 / Config.channels p * 4096 + a % 4096

/-- The hash of a page (R53). -/
def homeHash (a : Nat) : Nat :=
  let x := a / 4096
  (x / 2 ^ 24 % 4096) ^^^ (x / 2 ^ 12 % 4096) ^^^ (x % 4096)

/-- The home slice of an address (R53): on the half of its channel; of the east half for the host window. -/
def homeSlice (p : Part) (a : Nat) : Nat :=
  let n := Config.slicesPerHalf p
  let east := inHost a || Config.halves p == 1 || channelOf p a < Config.channels p / 2
  (if east then 0 else n) + homeHash a * n / 4096

/-! Poison of home words (R55, R59). -/

/-- A word is poisoned where it stands: in its slice, or in main memory itself. -/
def State.poisonedHome (s : State) (pa : Nat) : Bool :=
  match s.slices.find? (·.line == lineOf pa) with
  | some x => x.poison.getLsbD (pa % 128 / 4)
  | none => s.poison.contains (wordOf pa)

/-- The words under n bytes from an address. -/
def wordsUnder (pa n : Nat) : List Nat :=
  if n = 0 then [] else (List.range ((pa + n - 1) / 4 + 1 - pa / 4)).map (fun i => wordOf pa + 4 * i)

/-- Some 32-bit word under n bytes from an address is poisoned at home. -/
def State.poisonedRange (s : State) (pa n : Nat) : Bool := (wordsUnder pa n).any s.poisonedHome

/-- The poison left of a list of words when n bytes from an address are written: whole words lose it (R60). -/
def clearPoison (l : List Nat) (a n : Nat) : List Nat := l.filter (fun w => !(a ≤ w && w + 4 ≤ a + n))

/-- The words of a line that n bytes from an address cover whole. -/
def coveredWords (pline pa n : Nat) : BitVec 32 :=
  (List.range 32).foldl (fun m w => if pa ≤ pline + 4 * w && pline + 4 * w + 4 ≤ pa + n then setBit m w true else m) 0

/-! L1 lines. -/

def L1Line.is (l : L1Line) (core : Nat) (pasid : BitVec 20) (va : Nat) : Bool :=
  l.core == core && l.pasid == pasid && l.vline == lineOf va

def State.l1? (s : State) (core : Nat) (pasid : BitVec 20) (va : Nat) : Option L1Line := s.l1.find? (·.is core pasid va)

/-- n bits from i on, set. -/
def maskBits (w i n : Nat) : BitVec w := BitVec.ofNat w ((2 ^ n - 1) * 2 ^ i)

/-- The words of a line under n bytes from an offset in it. -/
def lineWords (off n : Nat) : BitVec 32 := maskBits 32 (off / 4) ((off % 4 + n + 3) / 4)

/-- A copy of every byte of a range, and of its words, is held. -/
def L1Line.holds (l : L1Line) (off n : Nat) : Bool := allBits l.valid off n && l.part &&& lineWords off n == 0

/-- A word of a line with some dirty byte. -/
def L1Line.dirtyWord (l : L1Line) (w : Nat) : Bool := anyBit l.dirty (4 * w) 4

/-! Words at the home slice. -/

/-- Write bytes at home and mark the slice line dirty (R54); whole words lose their poison (R60). What the errors come to of the codewords
written, `State.overSlice` says. -/
def State.putHome (s : State) (pa : Nat) (bs : List Byte) : State :=
  { s with
    mem := s.mem.setBytes pa bs
    poison := s.poison.filter (fun w => !(pa ≤ w && w + 4 ≤ pa + bs.length) || s.slices.any (·.line == lineOf w))
    slices := modify (fun x => x.line < pa + bs.length && pa < x.line + 128)
      (fun x => { x with dirty := true, poison := x.poison &&& ~~~coveredWords x.line pa bs.length }) s.slices }

/-- Write one word of an L1 line home: whole where the line holds a copy of it, its dirty bytes alone otherwise (R93, R117).
Its poison goes with it (R59) (log 50, DEDUCED, unsafe). -/
def State.wordHome (s : State) (l : L1Line) (w : Nat) : State :=
  let pa := l.pline + 4 * w
  if l.holds (4 * w) 4 then
    let s := s.putHome pa (l.bytes.bytes (4 * w) 4)
    if l.poison.getLsbD w then s.spoil pa else s
  else
    (List.range 4).foldl (fun s j =>
      if l.dirty.getLsbD (4 * w + j) then s.putHome (pa + j) [l.bytes.get (4 * w + j)] else s) s

def State.modL1 (s : State) (core : Nat) (pline : Nat) (f : L1Line → L1Line) : State :=
  { s with l1 := modify (fun l => l.core == core && l.pline == pline) f s.l1 }

/-- A core reads n bytes of a line of its L1, for itself or to write them home: errors in them are found (R58), deferred where nothing
consumes what is read (R61). -/
def State.visitL1 (s : State) (core pline off n : Nat) (pasid : BitVec 20) (why : ErrKind) : State :=
  s.meetAll pasid why (ErrPlace.inL1 core (pline + off) n)

/-- The words of a mask that an L1 line holds whole. -/
def L1Line.wholeWords (l : L1Line) (ws : BitVec 32) : BitVec 32 :=
  (List.range 32).foldl (fun m w => if ws.getLsbD w && l.holds (4 * w) 4 then setBit m w true else m) 0

/-- The words of a mask of an L1 line reach home (R93, R97). -/
def State.wordsHome (s : State) (l : L1Line) (ws : BitVec 32) : State :=
  (List.range 32).foldl (fun (s : State) w => if ws.getLsbD w then s.wordHome l w else s)
    (s.overSlice l.pline (l.wholeWords ws) ws)

/-- Recall the owner's words of a line, those of a mask (R55): the owner writes their current values to the slice, and keeps
them as unowned clean words. -/
def State.recallWords (s : State) (pline : Nat) (ws : BitVec 32) : State :=
  match s.slices.find? (·.line == pline) with
  | none => s
  | some sl =>
    match sl.owner with
    | none => s
    | some o =>
      let hit := sl.owned &&& ws
      if hit = 0 then s
      else
        let s := s.visitL1 o pline 0 128 0 .deferred
        let s := match s.l1.find? (fun l => l.core == o && l.pline == pline) with
          | none => s
          | some l =>
            (s.wordsHome l hit).modL1 o pline (fun l =>
              { l with
                owned := l.owned &&& ~~~hit
                dirty := (List.range 32).foldl (fun d w => if hit.getLsbD w then d &&& ~~~maskBits 128 (4 * w) 4 else d)
                  l.dirty })
        s.modSlice pline (fun x =>
          { x with owned := x.owned &&& ~~~hit, owner := if x.owned &&& ~~~hit = 0 then none else x.owner })

/-- The line leaves its slice: its owned words are recalled first (R54, R55), and errors in it are found (R61). A dirty line, poisoned data
among them, is written to main memory with its poison (R55, R59). -/
def State.evictSlice (s : State) (pline : Nat) : State :=
  let s := (s.recallWords pline (BitVec.allOnes 32)).meetAll 0 .deferred (ErrPlace.inSlice pline 128)
  match s.slices.find? (·.line == pline) with
  | none => s
  | some x =>
    let ws := (wordsUnder pline 128).filter s.poisonedHome
    { s with
      slices := s.slices.filter (·.line != pline)
      poison := if x.dirty then s.poison.filter (fun w => lineOf w != pline) ++ ws else s.poison
      damage := s.damage.filter (fun d => match d.place with
        | .half a => lineOf a != pline || !x.dirty
        | _ => true) }

/-- The line is brought into its home slice; a set holds 16 ways of 8,192 sets, and the victim is the slice's choice (R52, R54). Its
poison comes with it (R59), and errors of its half-lines are found (R49, R58), deferred where nothing reads what comes (R61). -/
def State.touchSlice (s : State) (pline : Nat) (pasid : BitVec 20 := 0) (why : ErrKind := .deferred) : State :=
  if s.slices.any (·.line == pline) then s
  else
    let mates := s.slices.filter (fun x => homeSlice s.part x.line == homeSlice s.part pline)
    let s :=
      if mates.length < 16 then s
      else
        let same := mates.filter (fun x => Config.sliceSet x.line % 8192 == Config.sliceSet pline % 8192)
        if same.length < 16 then s
        else
          let (i, s) := s.choose same.length
          match same[i]? with
          | some x => s.evictSlice x.line
          | none => s
    let s := s.meetAll pasid why (ErrPlace.inHalf pline)
    let bad := (List.range 32).foldl (fun m w => if s.poison.contains (pline + 4 * w) then setBit m w true else m) 0
    { s with slices := ⟨pline, none, 0, if s.poison.isEmpty then 0 else bad, false⟩ :: s.slices }

/-- A read of n bytes at their home slices, line by line: what it brings in, and the errors it finds (R54, R58). -/
def State.visitLines (s : State) (pasid : BitVec 20) (why : ErrKind) : Nat → Nat → Nat → State
  | 0, _, _ => s
  | lines + 1, pa, n =>
    if n = 0 then s
    else
      let k := min n (128 - pa % 128)
      let s := (s.touchSlice (lineOf pa) pasid why).meetAll pasid why (ErrPlace.inSlice pa k)
      s.visitLines pasid why lines (pa + k) (n - k)
def State.visit (s : State) (pa n : Nat) (pasid : BitVec 20 := 0) (why : ErrKind := .uncorrectable) : State :=
  s.visitLines pasid why (n / 128 + 2) pa n

/-- The codewords of main memory under n bytes, where they stand: in a slice, or in memory itself. -/
def State.underBytes (s : State) (pa n : Nat) : ErrPlace → Bool
  | .slice a => a < pa + n && pa < a + 8
  | .half a => a < pa + n && pa < a + 64 && !s.slices.any (·.line == lineOf a)
  | _ => false

/-- A unit of the device reads n bytes of a table in main memory: errors in them are found (R58). -/
def State.inspect (s : State) (pa n : Nat) : State := s.meetAll 0 .uncorrectable (s.underBytes pa n)

/-- A read of n bytes performed at their home slices (R119, R120, R129): every other core's words as of their owners' last releases. The
bytes, and whether a word among them is poisoned. -/
def State.readHome (s : State) (pa n : Nat) (pasid : BitVec 20 := 0) : State × List Byte × Bool :=
  let s := s.visit pa n pasid
  (s, s.mem.bytes pa n, s.poisonedRange pa n)

/-! The contention predictors (R100). -/

/-- Another core registered words of the line, or performed an atomic on it, within the last 1,024 clocks (R100). -/
def State.contended (s : State) (core pline : Nat) : Bool :=
  s.uses.any (fun u => u.pline == pline && u.core != core && (s.clock - u.time).toNat < 1024)

/-- An entry's count moved by a reply's contended bit (R100). -/
def bump (c : BitVec 2) (contended : Bool) : BitVec 2 :=
  if contended then (if c = 3 then 3 else c + 1) else (if c = 0 then 0 else c - 1)

/-- The least recently used entry of a cluster's predictor. -/
def oldest : List Predict → Option Predict
  | [] => none
  | p :: ps => match oldest ps with
    | some q => if q.used.toNat < p.used.toNat then some q else some p
    | none => some p

/-- A reply or a grant reaches the predictor of a cluster: the line's entry, new at 0, moves (R100) (log 46, DESIGN CHOICE, safe). -/
def State.predicted (s : State) (cluster pline : Nat) (contended : Bool) : State :=
  match s.predict.find? (fun p => p.cluster == cluster && p.pline == pline) with
  | some _ =>
    { s with
      predict := modify (fun p => p.cluster == cluster && p.pline == pline)
        (fun p => { p with count := bump p.count contended, used := s.clock }) s.predict }
  | none =>
    let mine := s.predict.filter (·.cluster == cluster)
    let s := if mine.length < 2048 then s
      else match oldest mine with
        | some v => { s with predict := s.predict.filter (· != v) }
        | none => s
    { s with predict := ⟨cluster, pline, bump 0 contended, s.clock⟩ :: s.predict }

/-- A core registers words of a line, or performs an atomic on it (R100). -/
def State.noteUse (s : State) (core pline : Nat) : State :=
  { s with uses := ⟨pline, core, s.clock⟩ :: s.uses.filter (fun u => !(u.pline == pline && u.core == core)) }

/-- Recall what another core than this one owns of a line (R55). -/
def State.recallOther (s : State) (core pline : Nat) (ws : BitVec 32) : State :=
  match s.slices.find? (·.line == pline) with
  | some sl => if sl.owner.isSome && sl.owner != some core then s.recallWords pline ws else s
  | none => s

/-- Register ownership of words of a line for a core (R55, R120): another owner's words of the line are recalled first. The grant
carries the contended bit to the predictor of the core's cluster (R100). -/
def State.register (s : State) (core pline : Nat) (ws : BitVec 32) : State :=
  let c := s.contended core pline
  let s := (s.touchSlice pline).recallOther core pline (BitVec.allOnes 32)
  let s := (s.modSlice pline (fun x => { x with owner := some core, owned := x.owned ||| ws })).noteUse core pline
  (s.modL1 core pline (fun l => { l with owned := l.owned ||| ws })).predicted (clusterOf core) pline c

/-- The words of a line with some dirty byte. -/
def L1Line.dirtyWords (l : L1Line) : BitVec 32 :=
  (List.range 32).foldl (fun m w => if l.dirtyWord w then setBit m w true else m) 0

/-- The bytes of a mask's words. -/
def byteMask (ws : BitVec 32) : BitVec 128 :=
  (List.range 32).foldl (fun m w => if ws.getLsbD w then m ||| maskBits 128 (4 * w) 4 else m) 0

/-- The poison of an L1 line when some of its words come from home: those words have what they have there, and the whole codeword of one
that comes poisoned is marked (R59), but for words written here since. -/
def State.brought (s : State) (pline : Nat) (ws dirty poison : BitVec 32) : BitVec 32 :=
  let bad := (List.range 32).foldl (fun m w => if ws.getLsbD w && s.poisonedHome (pline + 4 * w) then setBit m w true else m) 0
  (poison &&& ~~~ws) ||| (pairMask bad &&& ~~~(dirty &&& ~~~ws))

/-- The words of a mask stand in the core's L1 line as they do at home, clean. -/
def State.copyWords (s : State) (core pline : Nat) (ws : BitVec 32) : State :=
  s.modL1 core pline (fun l =>
    { l with
      bytes := (List.range 32).foldl (fun b w =>
        if ws.getLsbD w then b.setBytes (4 * w) (s.mem.bytes (pline + 4 * w) 4) else b) l.bytes
      valid := l.valid ||| byteMask ws
      dirty := l.dirty &&& ~~~byteMask ws
      part := l.part &&& ~~~ws
      poison := s.brought pline ws l.dirtyWords l.poison })

/-- Write a core's dirty words of one line home, registering each as owned; the slice answers with the whole word (R93,
R97, R120). -/
def State.cleanLine (s : State) (l : L1Line) : State :=
  if !(List.range 32).any l.dirtyWord then s
  else
    let s := ((s.touchSlice l.pline).recallOther l.core l.pline (BitVec.allOnes 32)).visitL1 l.core l.pline 0 128 0 .deferred
    match s.l1.find? (fun x => x.core == l.core && x.pline == l.pline) with
    | none => s
    | some l =>
      let ws := l.dirtyWords
      (((s.wordsHome l ws).register l.core l.pline ws).overL1 l.core l.pline ws ws).copyWords l.core l.pline ws

/-- What a core owns of a line is given back before the line goes. -/
def State.giveBack (s : State) (l : L1Line) : State :=
  match s.slices.find? (·.line == l.pline) with
  | some sl => if sl.owner == some l.core then s.recallWords l.pline (BitVec.allOnes 32) else s
  | none => s

/-- A line leaves a core's L1: its dirty words have reached home and are registered, then dropped with the line (R74-R76,
R93). -/
def State.dropLine (s : State) (l : L1Line) : State :=
  let s := s.cleanLine l
  let s := s.giveBack l
  { s with
    l1 := s.l1.filter (fun x => !(x.core == l.core && x.pline == l.pline))
    damage := s.damage.filter (fun d => !ErrPlace.inL1 l.core l.pline 128 d.place) }

/-- A release wider than the core (R97): every dirty word of the core's L1 is written home and registered. -/
def State.releaseCore (s : State) (core : Nat) : State :=
  (s.l1.filter (·.core == core)).foldl (fun s l => s.cleanLine l) s

/-- The words an acquire wider than the core keeps: dirty ones and owned ones (R97). -/
def L1Line.keep (l : L1Line) : BitVec 32 :=
  (List.range 32).foldl (fun m w => if l.dirtyWord w || l.owned.getLsbD w then setBit m w true else m) 0

/-- A line without some of its words. -/
def L1Line.without (l : L1Line) (ws : BitVec 32) : L1Line :=
  { l with
    valid := l.valid &&& ~~~byteMask ws, dirty := l.dirty &&& ~~~byteMask ws, owned := l.owned &&& ~~~ws
    poison := l.poison &&& ~~~ws, part := l.part &&& ~~~ws }

/-- An acquire wider than the core (R97): the core's L1 discards every clean word that it does not own. -/
def State.acquireCore (s : State) (core : Nat) : State :=
  { s with
    l1 := (modify (fun l => l.core == core) (fun l => l.without (~~~l.keep)) s.l1).filter
      (fun l => !(l.core == core && l.valid == 0)) }

/-- Room for one more line in a core's L1 of 1,536 lines (R2); the victim is the core's choice (log 45, DESIGN CHOICE, safe). -/
def State.roomL1 (s : State) (core : Nat) : State :=
  let ls := s.l1.filter (·.core == core)
  if ls.length < 1536 then s
  else
    let (i, s) := s.choose ls.length
    match ls[i]? with
    | some l => s.dropLine l
    | none => s

/-- A core's L1 gets a line under a name, empty, if it has none; an older alias of the physical line goes first (R75). -/
def State.nameLine (s : State) (core : Nat) (pasid : BitVec 20) (va pa : Nat) (wperm seen : Bool) : State :=
  match s.l1? core pasid va with
  | some l =>
    s.modL1 core l.pline (fun x => if x.is core pasid va then { x with wperm := x.wperm || wperm, seen := x.seen || seen } else x)
  | none =>
    let s := match s.l1.find? (fun l => l.core == core && l.pline == lineOf pa) with
      | some old => s.dropLine old
      | none => s
    let s := s.roomL1 core
    { s with l1 := ⟨core, pasid, lineOf va, lineOf pa, [], 0, 0, 0, 0, 0, wperm, seen⟩ :: s.l1 }

/-- The words of which an L1 line holds no byte, or not a whole copy. -/
def L1Line.missing (l : L1Line) (all : Bool) : BitVec 32 :=
  (List.range 32).foldl (fun m w =>
    setBit m w (if all then !anyBit l.valid (4 * w) 4 else anyBit (~~~l.valid) (4 * w) 4 || l.part.getLsbD w)) 0

/-- The bytes of a line that the L1 does not hold come from the home slice, with their poison (R74); so does what stands beside the
bytes stored of a word. -/
def State.fillLine (s : State) (core : Nat) (pasid : BitVec 20) (va : Nat) (why : ErrKind := .uncorrectable) : State :=
  match s.l1? core pasid va with
  | none => s
  | some l =>
    let s := (s.visit l.pline 128 pasid why).overL1 core l.pline (l.missing true) (l.missing false)
    s.modL1 core l.pline (fun x =>
      let gone := (List.range 128).filter (fun i => !x.valid.getLsbD i)
      { x with
        bytes := gone.foldl (fun b i => b.set i (s.mem.get (l.pline + i))) x.bytes
        valid := BitVec.allOnes 128
        part := 0
        poison := s.brought l.pline (x.missing false) x.dirtyWords x.poison })

/-- A core's load of n bytes that translated to a physical address: from its L1, filled if needed (R74, R91). The bytes, and
whether a word among them is poisoned. -/
def State.loadL1 (s : State) (core : Nat) (pasid : BitVec 20) (va pa n : Nat) (wperm seen : Bool) : State × List Byte × Bool :=
  let off := va % 128
  let s := match s.l1? core pasid va with
    | some l => if l.holds off n then s else s.fillLine core pasid va
    | none => (s.nameLine core pasid va pa wperm seen).fillLine core pasid va
  let s := s.visitL1 core (lineOf pa) off n pasid .uncorrectable
  match s.l1? core pasid va with
  | some l => (s, l.bytes.bytes off n, l.poison &&& lineWords off n != 0)
  | none => (s, s.mem.bytes pa n, s.poisonedRange pa n)

/-- Bytes stored into an L1 line (R93): whole words lose their poison; of a word that the line holds no copy of, a store of 8 or 16 bits
leaves bytes alone (R60, R117). -/
def L1Line.store (l : L1Line) (off : Nat) (bs : List Byte) : L1Line :=
  let n := bs.length
  let ws := lineWords off n
  let whole := decide (n ≥ 4)
  { l with
    bytes := l.bytes.setBytes off bs
    valid := l.valid ||| maskBits 128 off n
    dirty := l.dirty ||| maskBits 128 off n
    poison := if whole then l.poison &&& ~~~ws else l.poison
    part := if whole then l.part &&& ~~~ws else if l.holds (off / 4 * 4) 4 then l.part else l.part ||| ws }

/-- A core's store: into its L1 under the dirty mask, no line fetched (R93) (log 63, DEDUCED, safe). -/
def State.storeL1 (s : State) (core : Nat) (pasid : BitVec 20) (va pa : Nat) (bs : List Byte) : State :=
  ((s.nameLine core pasid va pa true true).overL1 core (lineOf pa) (coveredWords 0 (va % 128) bs.length)
    (lineWords (va % 128) bs.length)).modL1 core (lineOf pa) (fun l =>
      if l.is core pasid va then l.store (va % 128) bs else l)

/-- The mask of the words of a line under n bytes. -/
def wordMask (pa n : Nat) : BitVec 32 := maskBits 32 (pa % 128 / 4) ((pa % 4 + n + 3) / 4)

/-- A write performed at the home slice by an engine, the host, a peer or a pip core: a word that a core owns is recalled
first (R54, R120). -/
def State.writeHome (s : State) (pa : Nat) (bs : List Byte) : State :=
  (((s.touchSlice (lineOf pa)).recallWords (lineOf pa) (wordMask pa bs.length)).overSlice (lineOf pa)
    (coveredWords (lineOf pa) pa bs.length) (wordMask pa bs.length)).putHome pa bs

/-- Bytes written at their home slices, line by line; at most as many lines as the first number. -/
def State.writeLines (s : State) : Nat → Nat → List Byte → State
  | 0, _, _ => s
  | lines + 1, a, bs =>
    if bs.isEmpty then s
    else
      let n := 128 - a % 128
      (s.writeHome a (bs.take n)).writeLines lines (a + n) (bs.drop n)

/-- A read at the words' current place (R100, R127): what a core owns is recalled, and stands at home from then on (log 39, DEDUCED, safe).
-/
def State.readPlace (s : State) (pa n : Nat) (pasid : BitVec 20 := 0) : State × List Byte × Bool :=
  ((s.touchSlice (lineOf pa) pasid .uncorrectable).recallWords (lineOf pa) (wordMask pa n)).readHome pa n pasid

/-- Every line of a list of cores' L1s that meets a test leaves (R76). -/
def State.dropLines (s : State) (p : L1Line → Bool) : State := (s.l1.filter p).foldl (fun s l => s.dropLine l) s

end Sys2Proof.Machine
end

