-- ==== Sys2Proof/Machine/Translate.lean ====
section
/-! DEFINITION. Translation (03): the PASID table (R65, R66), the five-level walk with its A and D bits (R67-R71), peer
apertures (R72), the cluster TLB (R74), dirty-page tracking (R78), the address checks of 02 R46. -/

namespace Sys2Proof.Machine

/-- A PASID-table entry (R66). -/
structure PasidEntry where
  v : Bool
  dt : Bool
  dg : Bool
  root : Nat
  bitmap : Nat
  tbase : Nat
  tend : Nat
  deriving DecidableEq, Repr

def ptBase (s : State) : Nat := s.ptReg.toNat / 4096 % 2 ^ 36 * 4096
def ptLog (s : State) : Nat := min 20 (s.ptReg.toNat % 32)

/-- The fields of an entry's 256 bits; one that breaks a res0 rule, or whose tend is not above tbase while DT is set, reads
as V clear (R66). -/
def PasidEntry.ofNat (x : Nat) : PasidEntry :=
  let res0 := bits x 255 249 + bits x 212 185 + bits x 148 112 + bits x 75 48 + bits x 11 4 + bits x 1 1
  let dt := bits x 2 2 == 1
  let tb := bits x 184 149
  let te := bits x 248 213
  { v := bits x 0 0 == 1 && res0 == 0 && !(dt && te ≤ tb)
    dt := dt, dg := bits x 3 3 == 1, root := bits x 47 12 * 4096, bitmap := bits x 111 76 * 4096, tbase := tb, tend := te }

/-- A PASID's entry; none at or above 2^ptlog, or where V is clear (R65, R66). -/
def State.pasidEntry (s : State) (pasid : BitVec 20) : Option PasidEntry :=
  if pasid.toNat ≥ 2 ^ ptLog s then none
  else
    let e := PasidEntry.ofNat (s.mem.le (ptBase s + 32 * pasid.toNat) 32)
    if e.v then some e else none

/-- The index of a virtual address at a level (R67). -/
def levelIndex (va level : Nat) : Nat := va / 2 ^ (12 + 9 * level) % 512

/-- log2 of the size a leaf at a level maps; level 0 with C maps 64 KiB (R67). -/
def leafLog (level : Nat) (c : Bool) : Nat := if level = 0 ∧ c then 16 else 12 + 9 * level

/-- A leaf found by a walk: its entry's address and value, its level, whether it heads a 64 KiB page. -/
structure Leaf where
  at_ : Nat
  e : Nat
  level : Nat
  c : Bool
  deriving DecidableEq, Repr

def pteV (e : Nat) : Bool := bits e 0 0 == 1
def pteRh (e : Nat) : Bool := bits e 59 59 == 1
def pteC (e : Nat) : Bool := bits e 9 9 == 1
def pteP (e : Nat) : Bool := bits e 8 8 == 1
def pteAddr (e : Nat) : Nat := bits e 47 12 * 4096

/-- The malformed entries of R70, at a level, as a leaf or a table entry. -/
def malformed (e level cap : Nat) (leaf : Bool) (c : Bool) : Bool :=
  bits e 63 60 != 0 || bits e 57 48 != 0 || bits e 11 10 != 0 || bits e 1 1 != 0
    || (pteP e && level != 1 && level != 2) || (pteC e && level != 0)
    || (bits e 58 58 == 1 && pteRh e)
    || (if leaf then !pteRh e && pteAddr e % 2 ^ leafLog level c != 0
        else e != pteAddr e + bits e 0 0 || pteAddr e ≥ cap)

/-- What an entry read at a level says (R70): a leaf, the next table, or a fault. Where V and RH are clear and the entry is malformed
besides, two kinds apply and the spec gives no order: NOT_PRESENT is taken (log 55, DESIGN CHOICE, unsafe). -/
inductive Entry where
  | leaf
  | table (base : Nat)
  | fault (k : FaultKind)
  deriving DecidableEq, Repr

def readEntry (e level cap : Nat) (c : Bool) : Entry :=
  let leaf := level == 0 || pteP e
  if !pteV e && !pteRh e then .fault .notPresent
  else if malformed e level cap leaf c then .fault .malformed
  else if leaf then (if pteRh e then .fault .remoteHome else .leaf)
  else .table (pteAddr e)

/-- The walk from a table at a level down (R67-R70): the leaf that serves, or the kind of fault. Entries are read at their home slices
(R71); poison in them is not looked at (log 52, DESIGN CHOICE, unsafe) (log 57, DESIGN CHOICE, safe). -/
def State.walk (s : State) (va : Nat) : Nat → Nat → State × Except FaultKind Leaf
  | base, 0 =>
    let head := base + 8 * (va / 2 ^ 16 % 32 * 16)
    let s := s.visit head 8
    let h := s.mem.le head 8
    if pteC h && (pteV h || pteRh h) then
      match readEntry h 0 (Config.cap s.part) true with
      | .leaf => (s, .ok ⟨head, h, 0, true⟩)
      | .fault k => (s, .error k)
      | .table _ => (s, .error .malformed)
    else
      let a := base + 8 * levelIndex va 0
      let s := s.visit a 8
      let e := s.mem.le a 8
      match readEntry e 0 (Config.cap s.part) false with
      | .leaf => (s, .ok ⟨a, e, 0, false⟩)
      | .fault k => (s, .error k)
      | .table _ => (s, .error .malformed)
  | base, level + 1 =>
    let a := base + 8 * levelIndex va (level + 1)
    let s := s.visit a 8
    let e := s.mem.le a 8
    match readEntry e (level + 1) (Config.cap s.part) false with
    | .leaf => (s, .ok ⟨a, e, level + 1, false⟩)
    | .fault k => (s, .error k)
    | .table b => s.walk va b level

/-- The walk of a PASID's entry from its root, which lies below cap (R70). -/
def State.walkFrom (s : State) (p : PasidEntry) (va : Nat) : State × Except FaultKind Leaf :=
  if p.root ≥ Config.cap s.part then (s, .error .malformed) else s.walk va p.root 4

/-- A leaf that does not allow the access (R70): W on a write, X on a fetch, U for a kernel. -/
def permits (e : Nat) (acc : Access) (kernel : Bool) : Bool :=
  (match acc with
    | .write => bits e 2 2 == 1
    | .fetch => bits e 3 3 == 1
    | .read => true) && (!kernel || bits e 4 4 == 1)

/-- The dirty-bitmap bit of a tracked address: its byte address and its place (R78). -/
def dirtyBit (p : PasidEntry) (va : Nat) : Option (Nat × Nat) :=
  if p.dt && p.tbase * 2 ^ 21 ≤ va && va < p.tend * 2 ^ 21 then
    let i := (va - p.tbase * 2 ^ 21) / 2 ^ (if p.dg then 12 else 16)
    some (p.bitmap + i / 8, i % 8)
  else none

/-- Set the bitmap bit of a write by a PASID (R78): an OR at the home slice of the bitmap's word, whatever a core owns of it having been
recalled. A bitmap at or above cap, which R66 rules out, has no bits (log 56, DEDUCED, safe). -/
def State.markDirty (s : State) (p : PasidEntry) (va : Nat) : State :=
  match dirtyBit p va with
  | none => s
  | some (a, b) =>
    if !s.inMain a then s
    else
      let s := (s.touchSlice (lineOf a)).recallWords (lineOf a) (wordMask a 1)
      s.writeHome a [s.mem.get a ||| (1#8 <<< b)]

/-- The outcome of a translation. -/
inductive Xlat where
  /-- a physical address; whether the page may be written; dirty-seen (R78) -/
  | ok (pa : Nat) (w seen : Bool)
  | fault (k : FaultKind)
  /-- the empty range of R46, or the host window while it may not be used (R377): ACCESS_VIOLATION -/
  | bad
  deriving DecidableEq, Repr

/-- The physical address an access uses, or ACCESS_VIOLATION (R46, R377). -/
def State.place? (s : State) (pa : Nat) (w seen : Bool) : Xlat :=
  if s.inMain pa then .ok pa w seen
  else if inHost pa && s.fwcfg.getLsbD 1 then .ok pa w seen
  else .bad

def TlbEntry.covers (e : TlbEntry) (cluster : Nat) (pasid : BitVec 20) (va : Nat) : Bool :=
  e.cluster == cluster && e.pasid == pasid && e.va ≤ va && va < e.va + 2 ^ e.log

/-- Install a translation; the TLB holds 8,192 (R2, R74), the victim is the cluster's choice. A tracked PASID's pages are held
in pieces of its granule (R78). -/
def State.installTlb (s : State) (e : TlbEntry) : State :=
  let s := { s with tlb := s.tlb.filter (fun x => !x.covers e.cluster e.pasid e.va) }
  let mine : List TlbEntry := s.tlb.filter (·.cluster == e.cluster)
  let s :=
    if mine.length < 8192 then s
    else
      let (i, s) := s.choose mine.length
      match mine[i]? with
      | some v => { s with tlb := s.tlb.filter (· != v) }
      | none => s
  { s with tlb := e :: s.tlb }

/-- A harvest of a PASID's dirty-seen states is under way: slow-path completions of the PASID are held (R79). -/
def State.harvesting (s : State) (pasid : BitVec 20) : Bool :=
  s.maint.any (fun m => match m.op with
    | .harvest _ _ p _ _ => p == pasid
    | _ => false)

/-- An access found that it has to wait: for a harvest (R79), or, in the host window, for the interface to be unlocked (15 R375). -/
def State.holdSlow (s : State) : State := { s with slowWaits := s.slowWaits + 1 }

/-- The A and D bits of a leaf that serves an access (R71): set in the whole entry where it stands as it was read, once what a core owns of
it has been recalled; none where it has changed. -/
def State.setAD (s : State) (l : Leaf) (wr : Bool) : State × Bool :=
  let e := (l.e ||| 32) ||| (if wr then 64 else 0)
  if e == l.e then (s, true)
  else
    let s := s.recallWords (lineOf l.at_) (wordMask l.at_ 8)
    if s.mem.le l.at_ 8 == l.e then (s.writeHome l.at_ (leBytes e 8), true) else (s, false)

/-- A walk by a cluster's walker (R66-R71, R78): the entry is found afresh, A is set on first use, D and the bitmap bit on a
write, the translation is installed; a walk whose leaf changed under it starts again, at most as often as the number says. An absent
PASID entry faults NOT_PRESENT. A slow path held for a harvest is counted, and its access waits (R79). -/
def State.walkTry (s : State) (cluster : Nat) (pasid : BitVec 20) (va : Nat) (acc : Access) (kernel : Bool) : Nat → State × Xlat
  | 0 => (s, .fault .notPresent)
  | n + 1 =>
    let s := if pasid.toNat < 2 ^ ptLog s then s.visit (ptBase s + 32 * pasid.toNat) 32 else s
    match s.pasidEntry pasid with
    | none => (s, .fault .notPresent)
    | some p =>
      match s.walkFrom p va with
      | (s, .error k) => (s, .fault k)
      | (s, .ok l) =>
        if !permits l.e acc kernel then (s, .fault .permission)
        else
          let wr := acc == .write
          if wr && s.harvesting pasid then (s.holdSlow, .fault .held)
          else
            match s.setAD l wr with
            | (s, false) => s.walkTry cluster pasid va acc kernel n
            | (s, true) =>
              let s := if wr then s.markDirty p va else s
              let log := leafLog l.level l.c
              let gran := if p.dt then min log (if p.dg then 12 else 16) else log
              let pa := pteAddr l.e + va % 2 ^ log
              let e : TlbEntry :=
                { cluster := cluster, pasid := pasid, va := va / 2 ^ gran * 2 ^ gran, log := gran,
                  pa := pa / 2 ^ gran * 2 ^ gran, w := bits l.e 2 2 == 1, x := bits l.e 3 3 == 1, u := bits l.e 4 4 == 1,
                  g := bits l.e 7 7 == 1, pin := bits l.e 58 58 == 1, seen := wr }
              (s.installTlb e, s.place? pa e.w wr)

/-- As many walks as owned lines can change under them. -/
def State.walkFor (s : State) (cluster : Nat) (pasid : BitVec 20) (va : Nat) (acc : Access) (kernel : Bool) : State × Xlat :=
  s.walkTry cluster pasid va acc kernel (16 * s.l1.length + 1)

/-- Translate an access of a PASID in a cluster: a TLB hit with the rights it needs, and dirty-seen for a write, or a walk
(R74, R78). -/
def State.translate (s : State) (cluster : Nat) (pasid : BitVec 20) (va : Nat) (acc : Access) (kernel : Bool) : State × Xlat :=
  match s.tlb.find? (·.covers cluster pasid va) with
  | some e =>
    let ok := (match acc with
      | .write => e.w && e.seen
      | .fetch => e.x
      | .read => true) && (!kernel || e.u)
    if ok then (s, s.place? (e.pa + (va - e.va)) e.w e.seen) else s.walkFor cluster pasid va acc kernel
  | none => s.walkFor cluster pasid va acc kernel

/-- The peer apertures (R72): the window and the 40-bit offset of an address in them. -/
def aperture (va : Nat) : Option (Nat × Nat) :=
  if 0x1FF000000000000 ≤ va && va < 0x1FF100000000000 then
    some ((va - 0x1FF000000000000) / 2 ^ 40, va % 2 ^ 40)
  else none

end Sys2Proof.Machine
end

