-- ==== Sys2Proof/Machine/Ops.lean ====
section
/-! DEFINITION. The shared operations of the device: the codes of the error log (15 R386), the stop of a context (14 R346), taking a trap
and returning from a handler (14 R337-R342), recall (12 R305, R306), and how an instruction issues (01 R39, R27, R28, R31, R33) and its run
advances (12 R287). -/

namespace Sys2Proof.Machine

/-! What the error log says (R386, R338). -/

def Cause.code : Cause → Nat
  | .illegalOp => 0x01 | .reservedField => 0x02 | .clauseForm => 0x03 | .regionViolation => 0x04
  | .roleViolation => 0x05 | .groupopSelf => 0x06 | .misaligned => 0x07 | .accessViolation => 0x08
  | .pageUnresolved => 0x09 | .staleTopology => 0x0A | .detOverflow => 0x0B | .software => 0x0C
  | .breakpoint => 0x0D | .privilege => 0x0E | .matrixNotReserved => 0x0F | .unbound => 0x10
  | .memUncorrectable => 0x11 | .remoteFatal => 0x12 | .watchdog => 0x13

def FaultKind.code : FaultKind → Nat
  | .notPresent => 1 | .permission => 2 | .malformed => 3 | .remoteHome => 4
  | .held => 0

/-- Where of an entry that names a thread: block [63:40], gid [39:31], lane [30:25] (R386). -/
def whereThread (r : GroupRef) (lane : Nat) : BitVec 64 :=
  BitVec.ofNat 64 (r.blk % 2 ^ 24 * 2 ^ 40 + r.gid % 512 * 2 ^ 31 + lane % 64 * 2 ^ 25)

/-! The issuing run and what it stands in. -/

structure Ctx where
  run : Run
  launch : Launch
  block : Block
  group : Group
  /-- the run's threads, in lane order -/
  threads : List Thread

def State.ctxOf (s : State) (r : Run) : Option Ctx := do
  let launch ← s.launch? r.ref.launch
  let block ← s.block? r.ref.launch r.ref.blk
  let group ← s.group? r.ref
  some ⟨r, launch, block, group, (s.groupThreads r.ref).filter (fun t => r.lanes.getLsbD t.lane)⟩

def State.ctx? (s : State) : Option Ctx :=
  match s.runs with
  | [] => none
  | r :: _ => s.ctxOf r

/-- The role's line of the launch record for a group (R317, R319). -/
def Launch.role (l : Launch) (g : Group) : RoleRec := l.lr.roles.getD g.role ⟨0, 0, 0, 0⟩
def Ctx.vregs (c : Ctx) : Nat := (c.launch.role c.group).vregs
def Ctx.sregs (c : Ctx) : Nat := (c.launch.role c.group).sregs
/-- Tiles of a block: half the accumulator granules (R226). -/
def LaunchRec.tiles (l : LaunchRec) : Nat := l.accGran / 2
/-- Scratchpad bytes of a block (R86). -/
def LaunchRec.scratchBytes (l : LaunchRec) : Nat := l.scratchGran * 65536 * l.cores
/-- Groups and threads of a block (R319). -/
def LaunchRec.groups (l : LaunchRec) : Nat := (l.roles.map (·.groups)).sum
def LaunchRec.bsize (l : LaunchRec) : Nat := l.groups * l.width

def Run.resume (r : Run) : Option Resume := if r.start then none else some ⟨r.hdr, r.fx, r.fy⟩

/-- Drop the issuing run. -/
def State.dropRun (s : State) : State := { s with runs := s.runs.drop 1 }
/-- Change the issuing run. -/
def State.modRun (s : State) (f : Run → Run) : State :=
  match s.runs with
  | [] => s
  | r :: rs => { s with runs := f r :: rs }
/-- The issuing run lets the other pipes' runs issue before its next word. -/
def State.rotate (s : State) : State :=
  match s.runs with
  | [] => s
  | r :: rs => { s with runs := rs ++ [r] }

/-! Stopping a context (R346). -/

/-- The root launch of a context: the launch no `DLAUNCH` made. -/
def rootOf (ls : List Launch) : Nat → Nat → Nat
  | 0, id => id
  | n + 1, id =>
    match ls.find? (·.id == id) with
    | some l => match l.parent with
      | some p => rootOf ls n p
      | none => id
    | none => id

def State.root (s : State) (id : Nat) : Nat := rootOf s.launches s.launches.length id

/-- The launches of the context of a launch. -/
def State.context (s : State) (id : Nat) : List Nat :=
  let r := s.root id
  (s.launches.map (·.id)).filter (fun i => s.root i == r)

/-- What tells a launch's team messages from another's: its members, and which of the admitted launches of that team it is (R275; the
spec says nothing of several, log 100, DESIGN CHOICE, unsafe). -/
def Launch.teamTag (l : Launch) : Nat :=
  match l.lr.team with
  | some t => l.teamSlot % 2 ^ 24 * 65536 + (t.ranks.map (2 ^ ·)).sum
  | none => 0

/-- Everything of some launches leaves the device: threads, engine commands, buffered entries, reservations, pending
children, arrivals of other members at their wide barriers (R346, R351, R330). -/
def State.removeLaunches (s : State) (ids : List Nat) : State :=
  { s with
    runs := s.runs.filter (fun r => !ids.contains r.ref.launch)
    launches := s.launches.filter (fun l => !ids.contains l.id)
    blocks := s.blocks.filter (fun b => !ids.contains b.launch)
    groups := s.groups.filter (fun g => !ids.contains g.ref.launch)
    threads := s.threads.filter (fun t => !ids.contains t.ref.launch)
    inflight := s.inflight.filter (fun i => !ids.contains i.ref.launch)
    cmds := s.cmds.filter (fun c => !ids.contains c.ref.launch)
    oplog := s.oplog.filter (fun e => match e.site with
      | .instr op _ => !(s.inflight.any (fun i => i.id == op && ids.contains i.ref.launch))
      | .fetch r _ => !ids.contains r.launch
      | .chunk c _ => !(s.cmds.any (fun x => x.id == c && ids.contains x.ref.launch))
      | .ret r _ => !ids.contains r.launch
      | .signal _ _ => true
      | .arrival l _ _ _ _ => !ids.contains l
      | .flush l => !ids.contains l
      | .entry l _ _ => !ids.contains l
      | .binding l _ _ => !ids.contains l)
    det := s.det.filter (fun e => !ids.contains e.launch)
    children := s.children.filter (fun c => !ids.contains c.parent)
    colls := s.colls.filter (fun c => !ids.contains c.launch)
    wideArrivals := s.wideArrivals.filter (fun x => !s.launches.any (fun l => ids.contains l.id && l.lr.team.isSome && l.teamTag == x.1))
    pairs := s.pairs.map (fun p =>
      { p with
        holder := p.holder.filter (fun h => !ids.contains h.1)
        last := (match p.holder with
          | some h => if ids.contains h.1 then some h else p.last
          | none => p.last)
        queue := p.queue.filter (fun c => !ids.contains c.ref.launch) }) }

/-- A packet's work is over, with a status and an aux value (R312). -/
def State.packetDone (s : State) (q : QueueRef) (idx : Nat) (status : Nat) (aux : Nat) : State :=
  { s with
    packets := modify (fun p => p.q == q && p.idx == idx && p.result.isNone)
      (fun p => { p with result := some (BitVec.ofNat 8 status, BitVec.ofNat 32 aux) }) s.packets }

/-- A packet is an IMAGE_SAVE not completed. -/
def Packet.saving (p : Packet) : Bool := fieldAt p.bytes 0 1 == 4 && p.result.isNone

/-- The buffers of IMAGE_SAVE packets that are cut short hold unspecified bytes (R346, R389) (log 123, DESIGN CHOICE, safe). -/
def State.spoilBuffers (s : State) (ps : List Packet) : State :=
  ps.foldl (fun (s : State) p =>
    let a := fieldAt p.bytes 16 8
    let n := fieldAt p.bytes 24 8
    if p.saving && s.inMain a && a + n ≤ Config.cap s.part then
      let (s, bs) := s.freeBytes n
      { s with mem := s.mem.setBytes a bs }
    else s) s

/-- The IMAGE_SAVE packets that act on a launch's packet, the oldest of its queue not completed (R351), are over with it, and in vain
where they are STOPPED. -/
def State.endSaves (s : State) (q : QueueRef) (idx status aux : Nat) : State :=
  let op (p : Packet) : Nat := fieldAt p.bytes 0 1
  let open_ (p : Packet) : Bool := p.q == q && p.result.isNone
  if s.packets.any (fun p => open_ p && p.idx < idx && (op p == 1 || op p == 5)) then s
  else
    let s := if status = 2 then s.spoilBuffers (s.packets.filter (·.q == q)) else s
    { s with
      packets := modify (fun p => p.q == q && p.saving)
        (fun p => { p with result := some (BitVec.ofNat 8 status, BitVec.ofNat 32 aux) }) s.packets }

/-- The context of a launch stops with a cause (R346): everything of it in flight is discarded, its packet and an IMAGE_SAVE
of it complete STOPPED, an entry is made in the error log (log 72, DEDUCED, unsafe). -/
def State.stopContext (s : State) (id : Nat) (k : ErrKind) (cause : Cause) (wh : BitVec 64) (pc : BitVec 32) : State :=
  match s.launch? (s.root id) with
  | none => s
  | some l =>
    let s' := s.removeLaunches (s.context id)
    let s' := match l.packet with
      | some (q, i) => (s'.endSaves q i 2 cause.code).packetDone q i 2 cause.code
      | none => s'
    s'.log k cause.code l.pasid wh 1 pc

/-! The arrival of a copy on its completion barrier (06 R144). -/

/-- What an arrival comes to. -/
inductive Arrival where
  | counted | stale | poison | bad
  | fault (k : FaultKind)
  deriving DecidableEq, Repr

/-- Arrive on an object for a captured tag, at its home slice (R144, R143): the count word is the object's first, the tag its
upper half. The poison of the tag is not looked at here, that of the count word is (log 53, DESIGN CHOICE, unsafe). -/
def State.arriveAt (s : State) (cluster : Nat) (pasid : BitVec 20) (obj tag : BitVec 64) : State × Arrival :=
  let va := obj.toNat % 2 ^ 57
  match s.translate cluster pasid va .read true with
  | (s, .fault k) => (s, .fault k)
  | (s, .bad) => (s, .bad)
  | (s, .ok pa _ _) =>
    let s := (s.visit pa 16 pasid).recallWords (lineOf pa) (wordMask pa 16)
    if tag = 0 || s.mem.le (pa + 8) 8 != tag.toNat then (s, .stale)
    else
      match s.translate cluster pasid va .write true with
      | (s, .fault k) => (s, .fault k)
      | (s, .bad) => (s, .bad)
      | (s, .ok pa _ _) =>
        if s.poisonedRange pa 4 then (s, .poison)
        else (s.writeHome pa (leBytes (s.mem.le pa 4 + 1) 4), .counted)

/-- Perform a held arrival that is due (R144): counted or discarded, its entry leaves; a page fault is reported and held; an
arrival on a poisoned word stops the context (R60). One whose object lies in the empty range by then is discarded, its handle being
complete already (log 54, DEDUCED, unsafe). -/
def State.arriveHeld (s : State) (launch blk : Nat) (h : HeldArrival) : State :=
  match s.launch? launch, s.block? launch blk with
  | some l, some b =>
    match s.arriveAt (clusterOf b.core) l.pasid h.obj h.tag with
    | (s, .fault k) =>
      let (e, s) := s.fresh
      { s with
        oplog := s.oplog ++ [⟨e, b.core, l.pasid, k, h.obj.setWidth 57, .arrival launch blk h.obj h.tag none, 0, none⟩] }
    | (s, .poison) => s.stopContext launch .fatalDevice .memUncorrectable (whereThread ⟨launch, blk, 0⟩ 0) 0
    | (s, _) => s.modBlock launch blk (fun b => { b with reserved := b.reserved - 1 })
  | _, _ => s

/-- Held arrivals of a block that have become due are performed, in issue order (R144). -/
def State.arriveDue (s : State) (launch blk : Nat) : State :=
  match s.block? launch blk with
  | none => s
  | some b =>
    let s := s.modBlock launch blk (fun b => { b with arrivals := b.arrivals.filter (!·.due) })
    (b.arrivals.filter (·.due)).foldl (fun (s : State) h => s.arriveHeld launch blk h) s

/-! Taking a trap (R337-R342). -/

/-- A trap of one thread: the cause, the kind for causes 0x08 and 0x09 (R339), the code of SOFTWARE. -/
structure Trap where
  cause : Cause
  kind : Nat := 0
  code : Nat := 0
  deriving DecidableEq, Repr

/-- `sr.trapcause` of a trap (R339). -/
def Trap.word (t : Trap) : BitVec 32 :=
  BitVec.ofNat 32 (t.code % 65536 * 65536 + t.kind % 16 * 256 + t.cause.code)

/-- The precise causes (R338): all but the two fatal context errors. -/
def Cause.precise : Cause → Bool
  | .remoteFatal => false
  | .watchdog => false
  | _ => true

/-- A debugger is attached to a PASID, and may be (R384, R385). -/
def State.attached (s : State) (pasid : BitVec 20) : Bool :=
  s.dbgCtl.getLsbD 63 && s.dbgCtl.extractLsb' 20 20 == pasid
    && !((s.tdi == .locked || s.tdi == .run) && !s.fwcfg.getLsbD 0)

/-- The trap registers of a thread that traps at a PC (R337). -/
def Thread.trapRegs (t : Thread) (tr : Trap) (pc : BitVec 64) (clause : Option Resume) : Thread :=
  { t with trapcause := tr.word, trappc := pc, trapClause := clause }

/-- A thread under single-step that has halted before its next instruction takes the breakpoint trap of R383 there, and a DEBUG_STOP
entry names it (R385) (log 151, DEDUCED, safe). -/
def State.stepStop (s : State) (t : Thread) : State :=
  match s.launch? t.ref.launch with
  | some l =>
    (s.modThread t.ref t.lane (fun t => { t.trapRegs ⟨.breakpoint, 0, 0⟩ t.pc t.resume with stepping := false })).log .debugStop
      Cause.breakpoint.code l.pasid (whereThread t.ref t.lane) 1 ((t.pc - l.lr.codeaddr).setWidth 32)
  | none => s

/-- The same of every thread that has halted so. -/
def State.stepStops (s : State) : State :=
  (s.threads.filter (fun t => t.stepping && t.cond == .halted)).foldl (fun (s : State) t => s.stepStop t) s

/-- Entry to the kernel's handler (R340); a thread under single-step halts before its first instruction (R385). -/
def Thread.enterHandler (t : Thread) (entry : BitVec 64) : Thread :=
  { t with
    inHandler := true, trapDepth := t.d, pc := entry, resume := none
    cond := if t.stepping then .halted else .issuable }

/-- The conditions of R340 for a trapped thread. -/
def handlerTakes (l : Launch) (t : Thread) (tr : Trap) : Bool :=
  l.lr.handler != 0xFFFFFFFF && tr.cause.precise && !t.inHandler

/-- One thread traps at a PC, with the resume point it stands at should it be halted there: the trap registers are written;
then a debugger halts it (R385), or it enters the handler (R340), or its context stops (R342). -/
def State.trapThread (s : State) (r : GroupRef) (lane : Nat) (tr : Trap) (pc : BitVec 64) (clause : Option Resume) : State :=
  match s.thread? r lane, s.launch? r.launch with
  | some t, some l =>
    let s := s.modThread r lane (·.trapRegs tr pc clause)
    let off := (pc - l.lr.codeaddr).setWidth 32
    if tr.cause == .breakpoint && s.attached l.pasid then
      (s.modThread r lane (fun t => { t with cond := .halted, pc := pc, resume := clause, stepping := false })).log
        .debugStop tr.cause.code l.pasid (whereThread r lane) 1 off
    else if handlerTakes l t tr then
      (s.modThread r lane (·.enterHandler (l.lr.codeaddr + l.lr.handler.setWidth 64))).stepStops
    else s.stopContext r.launch .fatalContext tr.cause (whereThread r lane) off
  | _, _ => s

/-- Several threads of one group trap, in lane order. -/
def State.trapThreads (s : State) (r : GroupRef) (pc : BitVec 64) (clause : Option Resume) : List (Nat × Trap) → State
  | [] => s
  | (lane, tr) :: rest => (s.trapThread r lane tr pc clause).trapThreads r pc clause rest

/-- Where a RET of a thread in its handler, at its trap depth, goes (R341): a clause start, a resume point of the clause in
which it trapped, or a double trap. -/
inductive HandlerRet where
  | start (pc : BitVec 64)
  | resume (pc : BitVec 64) (at_ : Resume)
  | double (c : Cause)
  deriving DecidableEq, Repr

/-- The decision of R341, given whether the word there is a header and the offset of the last word of the clause in which the
thread trapped. -/
def handlerRet (l : Launch) (t : Thread) (isHeader : Bool) (last : Nat) : HandlerRet :=
  let off := (t.trappc - l.lr.codeaddr).toNat
  if off % 12 != 0 then .double .misaligned
  else if off ≥ l.lr.codesize.toNat then .double .accessViolation
  else if isHeader then .start t.trappc
  else match t.trapClause with
    | some c =>
      if (c.hdr - l.lr.codeaddr).toNat < off && off ≤ last then .resume t.trappc c else .double .clauseForm
    | none => .double .clauseForm

/-- A thread leaves its handler (R341): the in-handler state is cleared, d and the return stack are unchanged. -/
def Thread.leaveHandler (t : Thread) (h : HandlerRet) : Thread :=
  match h with
  | .start pc => { t with inHandler := false, pc := pc, resume := none }
  | .resume pc r => { t with inHandler := false, pc := pc, resume := some r }
  | .double _ => t

/-! The end of a clause (R287, R297, R17). -/

/-- Aging after a clause that the group issued: its threads go to 0, every other issuable thread of the group adds 1, up to
64; marks of deferral that stood before end (R287, R297). -/
def ageThread (r : GroupRef) (lanes : BitVec 64) (t : Thread) : Thread :=
  if t.ref == r then
    if lanes.getLsbD t.lane then { t with aging := 0, deferred := false, clauses := t.clauses + 1 }
    else { t with aging := if t.cond = .issuable then min 64 (t.aging + 1) else t.aging, deferred := false }
  else t

/-- The clause the issuing run issues is over: its run leaves, threads age, the group may yield (R17, R287). An ejected
thread's clause is not one that the group issues (R302). -/
def State.endClause (s : State) (r : Run) (yields : Bool) : State :=
  let s := s.dropRun
  if r.pip then s
  else
    { s with
      threads := s.threads.map (ageThread r.ref r.lanes)
      groups := modify (·.ref == r.ref)
        (fun g => { g with yielded := r.yld || yields, readySince := none, returned := false }) s.groups }

/-- Threads of a run stand at a PC as issuable threads, or at a resume point of its clause. -/
def State.place (s : State) (r : Run) (lanes : BitVec 64) (pc : BitVec 64) (resume : Option Resume) : State :=
  s.modThreads (fun t => t.ref == r.ref && lanes.getLsbD t.lane)
    (fun t => { t with pc := pc, resume := resume, cond := if r.pip then .ejected else .issuable })

/-! Recall (R305, R306). -/

/-- The values of a pip context's registers, those of two masks, go back to the thread table with their poison; the context is freed, and
the thread is issuable at a PC (R303, R306). -/
def Thread.backTo (t : Thread) (vs : Pip → BitVec 256) (ps : Pip → BitVec 15) (pc : BitVec 64) (resume : Option Resume) : Thread :=
  match t.pip with
  | none => t
  | some p =>
    { t with
      vregs := (List.range 256).foldl (fun m i => if (vs p).getLsbD i then m.set i (p.vregs.get i) else m) t.vregs
      vpoison := t.vpoison.filter (fun i => !(vs p).getLsbD i) ++ p.vpoison.filter (vs p).getLsbD
      preds := (t.preds &&& ~~~ps p) ||| (p.preds &&& ps p)
      pip := none, cond := .issuable, pc := pc, resume := resume }

/-- An ejected thread returns to the vector pipe at a PC: its hov and hop values are written back (R306). -/
def Thread.recalled (t : Thread) (pc : BitVec 64) (resume : Option Resume) : Thread := t.backTo (·.hov) (·.hop) pc resume

/-- A thread has long-latency instructions in flight. -/
def State.inFlight (s : State) (r : GroupRef) (lane : Nat) : Bool :=
  s.inflight.any (fun i => i.ref == r && i.lanes.getLsbD lane)

/-- A thread held at an instruction continues with the instruction after it: at the next clause start, or at a resume point; one
under single-step halts there. -/
def Thread.goOn (t : Thread) (last : Bool) : Thread :=
  { t with
    pc := t.pc + 12, resume := if last then none else t.resume, cond := if t.stepping then .halted else .issuable }

/-- A thread of the group is ejected under a record whose rejoin point is an offset (R303). -/
def State.stillOut (s : State) (ref : GroupRef) (off : BitVec 32) : Bool :=
  (s.groupThreads ref).any (fun t => match t.pip with
    | some p => p.joff == off
    | none => false)

/-- Some thread of a group is held at a `REJOIN` that waits for ejected threads (R304). -/
def State.awaitsReturn (s : State) (ref : GroupRef) : Bool :=
  (s.groupThreads ref).any (fun t => match t.cond with
    | .held (.rejoin off) => s.stillOut ref off
    | _ => false)

/-- A return, a recall or an exit of an ejected thread has ended a wait of its group: it is parked no longer, and the soft count stops
where nothing more is awaited (R304). -/
def State.unpark (s : State) (r : GroupRef) : State :=
  let on := s.awaitsReturn r
  s.modGroup r (fun g => { g with parked := false, softStart := if on then g.softStart else none })

/-- The acquire at `.grp` of a recall or of a `REJOIN` (R127): the group's core discards what it does not own, so that it finds
the ejected threads' writes (log 38, DEDUCED, safe). -/
def State.joinCore (s : State) (r : GroupRef) : State :=
  match s.group? r with
  | none => s
  | some g => (s.acquireCore g.core).unpark r

/-- A clause of an ejected thread that is being issued ends before its next instruction: the thread stands there. -/
def State.endPipRun (s : State) (r : GroupRef) (lane : Nat) : State :=
  match s.runs.find? (fun q => q.pip && q.ref == r && q.lanes.getLsbD lane) with
  | some q =>
    ({ s with runs := s.runs.filter (fun x => !(x.pip && x.ref == r && x.lanes.getLsbD lane)) }).modThread r lane
      (fun t => { t with pc := q.pc, resume := q.resume })
  | none => s

/-- Recall an ejected thread at its current PC (R306): its clause ends there, and it leaves its pip core once nothing of it is in
flight. -/
def State.recallThread (s : State) (r : GroupRef) (lane : Nat) : State :=
  match s.thread? r lane with
  | none => s
  | some t =>
    if t.pip.isNone then s
    else
      let s := s.endPipRun r lane
      if s.inFlight r lane then s.modThread r lane (fun t => { t with pip := t.pip.map (fun p => { p with leaving := true }) })
      else ((s.overVregs r lane ((t.pip.map (·.hov)).getD 0)).modThread r lane (fun t => t.recalled t.pc t.resume)).joinCore r

/-- The recalls of a group's threads that waited for work in flight which has completed. -/
def State.recallDue (s : State) (r : GroupRef) : State :=
  ((s.groupThreads r).filter (fun t => t.pip.any (·.leaving) && !s.inFlight r t.lane)).foldl
    (fun (s : State) t => s.recallThread r t.lane) s

/-! Issuing an instruction (R39). -/

/-- What an instruction asks before it acts. -/
structure Need where
  common : Common
  /-- the destinations and the sources it names -/
  writes : List Names := []
  reads : List Names := []
  /-- a source of which it reads one thread's register (R182): the act sees to its poison and its wait -/
  named : List Names := []
  /-- the roles that may issue it (R39 row 5); none for any role -/
  roles : Option (List Nat) := none
  /-- privileged outside firmware (R39 row 4) -/
  privileged : Bool := false
  /-- a fixed-field or table check of the form itself (R39 row 3) -/
  formBad : Bool := false
  /-- an ejected thread is recalled before it (R305) -/
  recallFirst : Bool := false
  /-- it waits for WAITC, QPUSH, MREL and MCOMMIT of its threads (R136) -/
  ordered : Bool := false
  /-- it waits for logged accesses of its threads (R80) -/
  afterLog : Bool := false
  /-- its sources' poison is nothing to it (R95) -/
  noPoison : Bool := false
  /-- what the reads of threads that trap leave behind: the poison reads they logged (R59) -/
  noted : Ctx → List (Nat × Trap) → State → State := fun _ _ s => s
  /-- a thread waits here for the end of a transition of the topology (R264) -/
  hold : Ctx → Thread → Bool := fun _ _ => false
  /-- it ends its threads' region (R33) -/
  ends : Bool := false

/-- An instruction's outcome once it acts. -/
inductive Act where
  /-- performed: the run goes on -/
  | done (s : State)
  /-- not yet: nothing is performed, and the run waits at the instruction -/
  | stall
  /-- the instruction's own checks failed for these threads; nothing is performed but what the state given says -/
  | trap (s : State) (l : List (Nat × Trap))
  /-- performed, and the run is over: it has placed its threads itself -/
  | over (s : State)

/-- The parts of a microsecond in which `State.time` counts: at throttle step k the arithmetic clock has 940 - 94 k MHz (R388), so that each of
its clocks takes 2520 / (10 - k) of them. -/
def microsecond : Nat := 94 * 2520

/-- The clock, with the clocks a step takes (R4), and the time that they take (R388) (log 8, DESIGN CHOICE, safe). -/
def State.tick (s : State) : State :=
  let n := 1 + Config.elapsed s.freeCtr
  { s with
    clock := s.clock + BitVec.ofNat 64 n
    time := s.time + n * (2520 / (10 - s.throttle.toNat))
    freeCtr := s.freeCtr + 1 }

/-- The issuing run waits at its instruction. -/
def State.stall (s : State) : State := (s.modRun (fun r => { r with stalled := true })).rotate

/-- The whole issuing run traps: rows 1 to 5 of R39 (an ejected thread is recalled first, R305). -/
def State.trapRun (s : State) (c : Ctx) (tr : Trap) (atHdr : Bool := false) : State :=
  let r := c.run
  if r.pip then
    match c.threads with
    | t :: _ => s.recallThread r.ref t.lane
    | [] => s.dropRun
  else
    let pc := if atHdr then r.hdr else r.pc
    let clause := if atHdr then none else r.resume
    (s.endClause r false).trapThreads r.ref pc clause (c.threads.map (fun t => (t.lane, tr)))

/-- Some threads of the issuing run trap at its instruction; the others stay there at a resume point and execute it again
without them (R337). -/
def State.trapSome (s : State) (c : Ctx) (l : List (Nat × Trap)) : State :=
  let r := c.run
  if r.pip then
    match c.threads with
    | t :: _ => s.recallThread r.ref t.lane
    | [] => s.dropRun
  else ((s.endClause r false).place r r.lanes r.pc r.resume).trapThreads r.ref r.pc r.resume l

/-- A thread's registers still to be written by an instruction in flight (R28). -/
def pending (fl : List Inflight) (t : Thread) (ns : List Names) : Bool :=
  fl.any (fun i => i.ref == t.ref &&
    (match i.dst with
      | some (o, w) => (i.lanes.getLsbD t.lane || o.isUni) && ns.any (Names.meets (nm o w))
      | none => false) ||
    (i.ref == t.ref && match i.dst2 with
      | some o => i.lanes.getLsbD t.lane && ns.any (Names.meets (o, 1))
      | none => false))

/-- An instruction in flight of the thread that later ordered instructions wait for (R136, R151, R228) (log 34, DEDUCED, safe). -/
def orderedWait (fl : List Inflight) (t : Thread) : Bool :=
  fl.any (fun i => i.ref == t.ref && i.lanes.getLsbD t.lane && i.fences)

/-- An access of the thread stands in the operand log (R80). -/
def loggedWait (fl : List Inflight) (t : Thread) : Bool :=
  fl.any (fun i => i.ref == t.ref && i.lanes.getLsbD t.lane && !i.vals.any (·.1 == t.lane) && (match i.wait with
    | .logged _ => true
    | _ => false))

/-- The registers an instruction names, its guard among the sources. -/
def Need.names (n : Need) : List Names := n.writes ++ n.reads ++ [(.p n.common.guard, 1)]

/-- The guard of an instruction, as the registers it names. -/
def Need.guard (n : Need) : List Names := [(.p n.common.guard, 1)]

/-- An ejected thread whose guard register was not handed over is recalled before the guard is read (R305). -/
def Need.recallsGuard (n : Need) (t : Thread) : Bool :=
  match t.pip with
  | none => false
  | some p => n.guard.any (fun a => !p.reads a)

/-- An ejected thread is recalled before this instruction (R305). -/
def Need.recalls (n : Need) (t : Thread) : Bool :=
  match t.pip with
  | none => false
  | some p =>
    n.recallFirst || n.reads.any (fun a => !p.reads a) || n.writes.any (fun a => !p.writes a)

/-- A uniform register written by a vector-pipe thread that an ejected thread of the group holds a copy of (R305). -/
def handedOver (n : Need) (t : Thread) : Bool :=
  match t.pip with
  | none => false
  | some p => n.writes.any (fun a => match a.1 with
    | .s i => anyBit p.hos i.val a.2
    | _ => false)

def privTrap (n : Need) (c : Ctx) : Option Trap :=
  if n.formBad || (n.names ++ n.named).any (Names.beyond c.vregs c.sregs c.launch.lr.tiles) then some ⟨.reservedField, 0, 0⟩
  else if n.privileged && !c.launch.agent then some ⟨.privilege, 0, 0⟩
  else match n.roles with
    | some rs => if rs.contains c.group.role then none else some ⟨.roleViolation, 0, 0⟩
    | none => none

/-- The checks common to every instruction that a thread makes before the instruction's own: a poisoned source (R179) and a
live-in destination (R31). The spec orders them neither with each other nor with an instruction's own check: poison comes first, then the
live-in, then the instruction's own (log 26, DESIGN CHOICE, unsafe). -/
def commonTrap (n : Need) (c : Ctx) (t : Thread) : Option Trap :=
  if !n.noPoison && n.reads.any (poisoned c.group t) then some ⟨.memUncorrectable, 0, 0⟩
  else match t.region with
    | some r => if n.writes.any r.names then some ⟨.regionViolation, 0, 0⟩ else none
    | none => none

/-- The threads of a list whose check fails, with their traps. -/
def traps (f : Thread → Option Trap) (ts : List Thread) : List (Nat × Trap) :=
  ts.filterMap (fun t => (f t).map (fun x => (t.lane, x)))

/-- Held arrivals whose last awaited thread has ended its region (R144): they are marked due. -/
def releaseArrivals (gid : Nat) (lanes : BitVec 64) (h : HeldArrival) : HeldArrival :=
  let w := h.waits.filter (fun x => !(x.1 == gid && lanes.getLsbD x.2))
  { h with waits := w, due := h.due || w.isEmpty }

/-- The threads of a command that are still in the region of its issue, without some lanes. -/
def leaveRegion (lanes : BitVec 64) (l : List (Nat × BitVec 64)) : List (Nat × BitVec 64) :=
  l.filter (fun x => !lanes.getLsbD x.1)

/-- The lanes of some whose region was open when an instruction in flight was issued (R33). -/
def State.insideSince (s : State) (r : GroupRef) (lanes : BitVec 64) (id : Nat) : BitVec 64 :=
  lanesOf (((s.groupThreads r).filter (fun t => lanes.getLsbD t.lane && t.region.any (·.serial < id))).map (·.lane))

/-- Some threads of a group end their regions (R33): their commands are no longer theirs to discard (R132), and arrivals held
for them are performed (R144). -/
def State.endRegion (s : State) (r : GroupRef) (lanes : BitVec 64) : State :=
  let s := s.modThreads (fun t => t.ref == r && lanes.getLsbD t.lane) (fun t => { t with region := none })
  let s := { s with
    cmds := modify (fun (x : Cmd) => x.ref == r) (fun x => { x with inRegion := leaveRegion lanes x.inRegion }) s.cmds
    pairs := s.pairs.map (fun (p : Pair) =>
      { p with
        queue := modify (fun (x : MatrixCmd) => x.ref == r) (fun x => { x with inRegion := leaveRegion lanes x.inRegion })
          p.queue }) }
  let out (x : Nat × Nat) : Bool := !(x.1 == r.gid && lanes.getLsbD x.2)
  (s.modBlock r.launch r.blk (fun b =>
    { b with
      arrivals := b.arrivals.map (releaseArrivals r.gid lanes)
      futures := b.futures.map (fun f => { f with region := f.region.filter out }) })).arriveDue r.launch r.blk

/-- The issuing run goes on to its next word; after the last word of its clause its threads stand at the next clause start.
A thread under single-step halts there (R385). -/
def State.advance (s : State) (c : Common) : State :=
  match s.runs with
  | [] => s
  | r :: _ =>
    let pc := r.pc + 12
    let r' := { r with pc := pc, start := c.bnd, yld := r.yld || c.yld, stalled := false }
    let stepping := s.threads.any (fun t => t.ref == r.ref && r.lanes.getLsbD t.lane && t.stepping)
    if c.bnd || stepping then
      let s := ((s.modRun (fun _ => r')).endClause r' false).place r r.lanes pc r'.resume
      if stepping then
        (s.modThreads (fun t => t.ref == r.ref && r.lanes.getLsbD t.lane) (fun t => { t with cond := .halted })).stepStops
      else s
    else (s.modRun (fun _ => r')).rotate

/-- The run that executed goes on, if it still issues: a stop of its context has taken it away. -/
def State.goOnRun (s : State) (r : Run) (c : Common) : State :=
  match s.runs with
  | [] => s
  | q :: _ => if q.ref == r.ref && q.pc == r.pc && q.pip == r.pip then s.advance c else s

/-- The threads of the issuing run whose guard holds (R16). -/
def Ctx.exec (c : Ctx) (k : Common) : List Thread := c.threads.filter (·.guard k)

/-- Errors in the registers that the issuing run reads are found (02 R58, R59): corrected, or poisoned. -/
def State.meetRegs (s : State) (n : Need) : State :=
  match s.ctx? with
  | none => s
  | some c =>
    if c.run.pip then s
    else s.meetAll c.launch.pasid .uncorrectable (fun p => match p with
      | .vreg r lane i => r == c.run.ref && c.run.lanes.getLsbD lane && (n.reads ++ n.named).any (Names.meets (.v (BitVec.ofNat 8 i), 2))
      | .sreg r i => r == c.run.ref && n.reads.any (Names.meets (.s (Fin.ofNat 192 i), 2))
      | _ => false)

/-- All threads of the issuing run are recalled (R305, R306). -/
def State.recallRun (s : State) (c : Ctx) : State := c.threads.foldl (fun s t => s.recallThread c.run.ref t.lane) s

/-- Issue one instruction of the issuing run: the checks of R39 in their order, the stall of R28, on the guard first and then on what the
executing threads name, the recall of R305, then the act; a selected flag's count is the act's concern, since it ends within the clause
otherwise (R27). -/
def issueOn (n : Need) (pre : Ctx → Thread → Option Trap) (own : Ctx → Thread → Option Trap)
    (act : Ctx → List Thread → State → Act) (s : State) : Out :=
  match s.ctx? with
  | none => .fault .noIssuingRun
  | some c =>
    match privTrap n c with
    | some tr => .next (s.trapRun c tr)
    | none =>
      let ex := c.exec n.common
      if c.threads.any n.recallsGuard then .next (s.recallRun c)
      else if c.threads.any (fun t => pending s.inflight t n.guard) then .next s.stall
      else if ex.isEmpty then .next (s.advance n.common)
      else if ex.any n.recalls then .next (s.recallRun c)
      else
        let hos := (s.groupThreads c.run.ref).filter (handedOver n)
        if !c.run.pip && !hos.isEmpty then
          .next ((hos.foldl (fun s t => s.recallThread c.run.ref t.lane) s).stall)
        else if ex.any (fun t => pending s.inflight t n.names)
            || (n.ordered && ex.any (orderedWait s.inflight))
            || (n.afterLog && ex.any (loggedWait s.inflight)) then .next s.stall
        else
          match traps (pre c) ex with
          | x :: xs => .next (s.trapSome c (x :: xs))
          | [] =>
            if ex.any (n.hold c) then .next s.stall
            else
              match traps (fun t => (commonTrap n c t).orElse (fun _ => own c t)) ex with
              | x :: xs => .next ((n.noted c (x :: xs) s).trapSome c (x :: xs))
              | [] =>
                match act c ex s with
                | .done s' =>
                  .next ((if n.ends then s'.endRegion c.run.ref (lanesOf (ex.map (·.lane))) else s').goOnRun c.run n.common)
                | .over s' => .next s'
                | .stall => .next s.stall
                | .trap s' l => .next (s'.trapSome c l)

/-- The same, what the registers read hold in error having been found. -/
def issue (n : Need) (pre : Ctx → Thread → Option Trap) (own : Ctx → Thread → Option Trap)
    (act : Ctx → List Thread → State → Act) (s : State) : Out :=
  issueOn n pre own act (s.meetRegs n)

/-- No check before, or none of the instruction's own. -/
def noTrap (_ : Ctx) (_ : Thread) : Option Trap := none

end Sys2Proof.Machine
end

