-- ==== Sys2Proof/Machine/Fetch.lean ====
section
/-! DEFINITION. Fetching instruction words (13 R335, 03 R80), the form of a clause (01 R25, R26), address breakpoints (15
R383). -/

namespace Sys2Proof.Machine

/-- What a fetch brings: a word, whether it is poisoned, a page fault, or an address outside every range. -/
inductive Fetched where
  | word (w : BitVec 96) (poisoned : Bool)
  | fault (k : FaultKind) (va : BitVec 57)
  | bad
  deriving DecidableEq, Repr

/-- 32 bits at a virtual address, as a core reads them without filling a line: from its L1 where the L1 holds them, else from
the home slice; translated, with the right the access needs (R74, R335, R70). An error found on the way is logged, as deferred for a fetch,
whose instruction may never issue (R58, R62). -/
def State.peek32 (s : State) (core : Nat) (pasid : BitVec 20) (acc : Access) (va : Nat) : State × Option (Nat × Bool) × Xlat :=
  let why : ErrKind := if acc == .fetch then .deferred else .uncorrectable
  match s.translate (clusterOf core) pasid va acc true with
  | (s, .ok pa w d) =>
    if (s.l1? core pasid va).any (·.holds (va % 128) 4) then
      let s := s.visitL1 core (lineOf pa) (va % 128) 4 pasid why
      (s, (s.l1? core pasid va).map (fun l => (l.bytes.le (va % 128) 4, l.poison.getLsbD (va % 128 / 4))), .ok pa w d)
    else
      let s := s.visit pa 4 pasid why
      (s, some (s.mem.le pa 4, s.poisonedHome pa), .ok pa w d)
  | (s, x) => (s, none, x)

def State.fetch32 (s : State) (core : Nat) (pasid : BitVec 20) (va : Nat) : State × Option (Nat × Bool) × Xlat :=
  s.peek32 core pasid .fetch va

/-- n words of 32 bits from a virtual address on, as one number, little-endian; or what stopped the reading. -/
def State.peekWords (s : State) (core : Nat) (pasid : BitVec 20) : Nat → Nat → State × Except Xlat (Nat × Bool)
  | _, 0 => (s, .ok (0, false))
  | va, n + 1 =>
    match s.peek32 core pasid .read va with
    | (s, some (x, p), _) =>
      match s.peekWords core pasid (va + 4) n with
      | (s, .ok (y, q)) => (s, .ok (x + 2 ^ 32 * y, p || q))
      | (s, .error e) => (s, .error e)
    | (s, none, e) => (s, .error e)

/-- One instruction word: three words of 32 bits, the first at the PC (R14). Its poison is that of its own three words; what stands beside
them in their code line is another instruction's (R62) (log 156, DESIGN CHOICE, unsafe). -/
def State.fetchWord (s : State) (core : Nat) (pasid : BitVec 20) (pc : BitVec 64) : State × Fetched :=
  let va := pc.toNat % 2 ^ 57
  match s.fetch32 core pasid va with
  | (s, some (a, p0), _) =>
    match s.fetch32 core pasid (va + 4) with
    | (s, some (b, p1), _) =>
      match s.fetch32 core pasid (va + 8) with
      | (s, some (c, p2), _) => (s, .word (BitVec.ofNat 96 (a + b * 2 ^ 32 + c * 2 ^ 64)) (p0 || p1 || p2))
      | (s, none, .fault k) => (s, .fault k (BitVec.ofNat 57 (va + 8)))
      | (s, none, _) => (s, .bad)
    | (s, none, .fault k) => (s, .fault k (BitVec.ofNat 57 (va + 4)))
    | (s, none, _) => (s, .bad)
  | (s, none, .fault k) => (s, .fault k (BitVec.ofNat 57 va))
  | (s, none, _) => (s, .bad)

/-- The control transfers of R25: they stand last in their clause. -/
def isTransfer (op : Nat) : Bool := (0x10 ≤ op && op ≤ 0x18) || op == 0x1B

/-- The form checks of R25 on the words after a header, in order, up to the one with bnd; the flags are the header's. -/
def bodyForm (fx fy : BitVec 4) : Bool → List (BitVec 96) → Bool
  | _, [] => false
  | first, w :: rest =>
    let r := Raw.ofWord w
    let op := r.opcode.toNat
    if op == 0x01 || (op == 0x02 && !first) || (isTransfer op && !r.bnd)
        || (r.fsel == 1 && fx == 15) || (r.fsel == 2 && fy == 15) then false
    else if r.bnd then true
    else bodyForm fx fy false rest

/-- A clause is well formed: its header's flags are not equal unless 15, and its body (R25). -/
def clauseForm (fx fy : BitVec 4) (body : List (BitVec 96)) : Bool :=
  !(fx == fy && fx != 15) && bodyForm fx fy true (body.take 24)

/-- The form of a clause whose header word is not decoded: bnd, the flags, the body (R25, R26). -/
def wordForm (hdr : BitVec 96) (body : List (BitVec 96)) : Bool :=
  let r := Raw.ofWord hdr
  !r.bnd && clauseForm (r.cw.extractLsb' 12 4) (r.cw.extractLsb' 16 4) body

/-- What stops the fetch of a clause's words: a page fault, or an address in the empty range of R46. -/
inductive FetchStop where
  | fault (k : FaultKind) (va : BitVec 57)
  | bad
  deriving DecidableEq, Repr

/-- The words after a header, up to the one with bnd, 24 of them, or the end of the code object (R25). The form of a poisoned word is
judged by the bits it holds, since its poison stops only its issue (log 25, DESIGN CHOICE, unsafe). -/
def State.fetchBody (s : State) (core : Nat) (pasid : BitVec 20) (code : BitVec 64) (size : Nat) :
    Nat → BitVec 64 → State × Except FetchStop (List (BitVec 96))
  | 0, _ => (s, .ok [])
  | n + 1, pc =>
    if (pc - code).toNat ≥ size then (s, .ok [])
    else
      match s.fetchWord core pasid pc with
      | (s, .word w _) =>
        if (Raw.ofWord w).bnd then (s, .ok [w])
        else
          match s.fetchBody core pasid code size n (pc + 12) with
          | (s, .ok ws) => (s, .ok (w :: ws))
          | (s, .error e) => (s, .error e)
      | (s, .fault k va) => (s, .error (.fault k va))
      | (s, .bad) => (s, .error .bad)

/-- What a fetch at a clause start finds of the whole clause. -/
inductive ClauseCheck where
  | good (body : List (BitVec 96))
  | malformed
  | stop (x : FetchStop)
  deriving DecidableEq, Repr

def State.checkClause (s : State) (c : Ctx) (form : List (BitVec 96) → Bool) : State × ClauseCheck :=
  let l := c.launch.lr
  match s.fetchBody c.run.core c.launch.pasid l.codeaddr l.codesize.toNat 24 (c.run.pc + 12) with
  | (s, .ok ws) => (s, if form ws then .good ws else .malformed)
  | (s, .error x) => (s, .stop x)

/-- The code offset of the last word of the clause at a header (R341); the header's own where no bnd is found. -/
def State.clauseLast (s : State) (l : Launch) (core : Nat) (hdr : BitVec 64) : Nat :=
  match s.fetchBody core l.pasid l.lr.codeaddr l.lr.codesize.toNat 24 (hdr + 12) with
  | (_, .ok ws) => (hdr - l.lr.codeaddr).toNat + 12 * ws.length
  | (_, .error _) => (hdr - l.lr.codeaddr).toNat

/-- The word at a code address is a CLAUSE header (R341). -/
def State.isHeader (s : State) (l : Launch) (core : Nat) (pc : BitVec 64) : Bool :=
  match (s.fetchWord core l.pasid pc).2 with
  | .word w _ => (Raw.ofWord w).opcode == 0x01#8
  | _ => false

/-- A page fault on a fetch leaves the run's threads waiting at the PC, and is reported to the agent (R80). -/
def State.fetchFault (s : State) (c : Ctx) (k : FaultKind) (va : BitVec 57) : State :=
  let r := c.run
  let (id, s) := s.fresh
  let s := s.dropRun
  let s := s.modThreads (fun t => t.ref == r.ref && r.lanes.getLsbD t.lane)
    (fun t => { t with pc := r.pc, resume := r.resume, cond := .held (.fetch id) })
  { s with oplog := s.oplog ++ [⟨id, r.core, c.launch.pasid, k, va, .fetch r.ref r.lanes, r.pc, r.resume⟩] }

/-- A fetch is stopped (R80, R46, R305): an ejected thread is recalled; a page fault is reported; the empty range traps. -/
def State.fetchStop (s : State) (c : Ctx) : FetchStop → State
  | .fault k va => if c.run.pip then s.recallRun c else s.fetchFault c k va
  | .bad => s.trapRun c ⟨.accessViolation, 0, 0⟩

/-- A thread lets the breakpoint at its PC pass: it is under single-step, or has been resumed there (R385, R389). -/
def Thread.passes (t : Thread) (pc : BitVec 64) : Bool := t.stepping || t.pass == some pc

/-- The threads at which an enabled address breakpoint of the core matches the run's PC, while a debugger is attached to its PASID
(R383, R385). -/
def State.breakHits (s : State) (c : Ctx) : List Thread :=
  if s.attached c.launch.pasid
    && s.breaks.any (fun b => b.core == c.run.core && b.w.getLsbD 127 && b.w.extractLsb' 96 20 == c.launch.pasid
      && b.w.extractLsb' 0 57 == c.run.pc.setWidth 57)
  then c.threads.filter (fun t => !t.passes c.run.pc) else []

/-- A thread that was resumed at another PC has moved on from it. -/
def State.forgetPass (s : State) (c : Ctx) : State :=
  if c.threads.any (fun t => t.pass.isSome && t.pass != some c.run.pc) then
    s.modThreads (fun t => t.ref == c.run.ref && c.run.lanes.getLsbD t.lane && t.pass != some c.run.pc) (fun t => { t with pass := none })
  else s

/-- What the issuing run does next: the instruction it issues, or the state in which its fetch ended. -/
inductive Next where
  | exec (i : Instr) (s : State)
  | done (s : State)

def decodeCause : DecodeError → Cause
  | .illegalOp => .illegalOp
  | .reservedField => .reservedField
  | .clauseForm => .clauseForm

/-- Fetch the issuing run's next word and decode it (R25, R39, R383): a breakpoint first, then the end of the code object, the
form of a clause at its start, and the decoder's refusals. -/
def State.fetchNext (s : State) (c : Ctx) : Next :=
  let l := c.launch
  let s := s.forgetPass c
  if !(s.breakHits c).isEmpty then .done (s.trapSome c ((s.breakHits c).map (fun t => (t.lane, ⟨.breakpoint, 0, 0⟩))))
  else if (c.run.pc - l.lr.codeaddr).toNat ≥ l.lr.codesize.toNat then .done (s.trapRun c ⟨.accessViolation, 0, 0⟩)
  else
    match s.fetchWord c.run.core l.pasid c.run.pc with
    | (s, .bad) => .done (s.fetchStop c .bad)
    | (s, .fault k va) => .done (s.fetchStop c (.fault k va))
    | (s, .word w poisoned) =>
      if poisoned then
        let pa := match (s.translate (clusterOf c.run.core) l.pasid (c.run.pc.toNat % 2 ^ 57) .fetch true).2 with
          | .ok pa _ _ => pa
          | _ => 0
        -- at a clause start too: what the word was is not known
        .done ((s.notePoison l.pasid pa true).trapRun c ⟨.memUncorrectable, 0, 0⟩)
      else if c.run.start && (Raw.ofWord w).opcode != 0x01#8 then .done (s.trapRun c ⟨.clauseForm, 0, 0⟩)
      else
        match decode w with
        | .ok i => .exec i s
        | .error e =>
          if c.run.start then
            match s.checkClause c (wordForm w) with
            | (s, .good _) => .done (s.trapRun c ⟨decodeCause e, 0, 0⟩)
            | (s, .malformed) => .done (s.trapRun c ⟨.clauseForm, 0, 0⟩)
            | (s, .stop x) => .done (s.fetchStop c x)
          else if e == .illegalOp then .exec (.unassignedOpcode w) s
          else .done (s.trapRun c ⟨decodeCause e, 0, 0⟩)

end Sys2Proof.Machine
end

