-- ==== Sys2Proof/Machine/Vec.lean ====
section
/-! DEFINITION. The mould of the register instructions: sources read, destinations written, per thread or once per run (01 R23,
08 R179), and of the long-latency instructions, whose results are bound at issue and written at completion (01 R27, R28). -/

namespace Sys2Proof.Machine

/-- One write of an instruction: the operand, whether it is a pair, the value. -/
structure Wr where
  o : Opnd
  wide : Bool
  x : BitVec 64
  deriving DecidableEq, Repr

/-- A destination held per group (R18). -/
def perGroup : Opnd → Bool
  | .s _ => true
  | .m _ => true
  | _ => false

def Thread.apply (t : Thread) (ws : List Wr) : Thread := ws.foldl (fun t w => t.write w.o w.wide w.x) t
def Group.apply (g : Group) (ws : List Wr) : Group := ws.foldl (fun g w => g.write w.o w.wide w.x) g

/-- Replace each value by an unspecified one (log 29, DESIGN CHOICE, safe). -/
def State.freeWrs (s : State) : List Wr → State × List Wr
  | [] => (s, [])
  | w :: ws =>
    let (x, s) := s.free
    let (s, r) := s.freeWrs ws
    (s, { w with x := x } :: r)

/-- The registers that some writes name: a thread's, and a group's. -/
def vregsOf (ws : List Wr) : BitVec 256 :=
  ws.foldl (fun m w => match w.o with
    | .v i => m ||| maskBits 256 i.toNat (if w.wide then 2 else 1)
    | _ => m) 0
def sregsOf (ws : List Wr) : BitVec 192 :=
  ws.foldl (fun m w => match w.o with
    | .s i => m ||| maskBits 192 i.val (if w.wide then 2 else 1)
    | _ => m) 0

/-- What the writes of some threads come to for errors that stand in the registers (02 R58, R59): those of the pool, which an ejected
thread's are not. -/
def State.overRegs (s : State) (ref : GroupRef) (ex : List Thread) (f : Thread → List Wr) : State :=
  let s := (ex.filter (·.pip.isNone)).foldl (fun (s : State) t => s.overVregs ref t.lane (vregsOf (f t))) s
  match ex with
  | [] => s
  | t :: _ => s.overSregs ref (sregsOf (f t))

/-- Write the results of the executing threads: per-thread destinations in each, a per-group destination once (R23). Where the
threads of the run would give it different values, through predicates held per thread, its value is unspecified. -/
def State.writeAll (s : State) (ref : GroupRef) (ex : List Thread) (f : Thread → List Wr) : State :=
  let s := (s.overRegs ref ex f).modThreads (fun t => t.ref == ref && ex.any (·.lane == t.lane)) (fun t => t.apply (f t))
  match ex.map (fun t => (f t).filter (perGroup ·.o)) with
  | [] => s
  | u :: us =>
    if u.isEmpty then s
    else if us.all (· == u) then s.modGroup ref (·.apply u)
    else
      let (s, u) := s.freeWrs u
      s.modGroup ref (·.apply u)

/-- A register instruction: each executing thread's writes as a function of its group and itself (R179). -/
def vecOp (c : Common) (writes reads : List Names) (f : Group → Thread → List Wr) (s : State) : Out :=
  issue { common := c, writes := writes, reads := reads } noTrap noTrap
    (fun cx ex s => .done (s.writeAll cx.run.ref ex (f cx.group))) s

/-- The flag counts an instruction of the run counts in: the group's, or an ejected thread's own (R27, R302). -/
def Ctx.flags (c : Ctx) : Store 16 :=
  match c.run.pip, c.threads with
  | true, t :: _ => match t.pip with
    | some p => p.flags
    | none => []
  | _, _ => c.group.flags

def State.modFlags (s : State) (ref : GroupRef) (pip : Bool) (lanes : BitVec 64) (f : Store 16 → Store 16) : State :=
  if pip then
    s.modThreads (fun t => t.ref == ref && lanes.getLsbD t.lane)
      (fun t => { t with pip := t.pip.map (fun p => { p with flags := f p.flags }) })
  else s.modGroup ref (fun g => { g with flags := f g.flags })

/-- The selected flag counts one more instruction (R27); a full count holds the instruction. -/
def countUp (c : Ctx) (k : Common) (s : State) : Option (State × Option (BitVec 4)) :=
  match c.run.flag k with
  | none => some (s, none)
  | some f =>
    if flagFull c.flags f.toNat then none
    else some (s.modFlags c.run.ref c.run.pip c.run.lanes (fun m => flagUp m f.toNat), some f)

/-- What an instruction in flight is to do when it completes. -/
structure Flight where
  dst : Option (Opnd × Bool) := none
  dst2 : Option Opnd := none
  vals : List (Nat × BitVec 64) := []
  val2 : List (Nat × Bool) := []
  wait : Wait := .ready
  fences : Bool := false
  acq : Option Scope := none
  ends : Bool := false
  isRet : Bool := false

/-- A long-latency instruction goes in flight for some threads of the issuing run (R27): its number, or none where its flag's
count is full. -/
def State.fly (s : State) (c : Ctx) (k : Common) (lanes : BitVec 64) (f : Flight) : Option (Nat × State) :=
  match countUp c k s with
  | none => none
  | some (s, fl) =>
    let (id, s) := s.fresh
    some (id, { s with
      inflight := s.inflight ++ [⟨id, c.run.ref, c.run.pip, lanes, fl, f.dst, f.dst2, f.vals, f.val2, f.wait, f.fences,
        c.run.pc, c.run.resume, f.acq, f.ends, f.isRet⟩] })

/-- A long-latency register instruction: its values are bound at issue (R179, R28). -/
def longOp (c : Common) (d : Opnd) (wide : Bool) (reads : List Names) (f : State → Group → Thread → BitVec 64) (s : State) :
    Out :=
  issue { common := c, writes := [nm d wide], reads := reads } noTrap noTrap
    (fun cx ex s =>
      match s.fly cx c (lanesOf (ex.map (·.lane)))
          { dst := some (d, wide), vals := ex.map (fun t => (t.lane, f s cx.group t)) } with
      | some (_, s) => .done s
      | none => .stall) s

end Sys2Proof.Machine
end

