-- ==== Sys2Proof/Machine/Integer.lean ====
section
/-! DEFINITION. Integer and address arithmetic (08 R180, R183-R186) and the microcoded divisions (R207). -/

namespace Sys2Proof.Machine

/-- How an immediate of a type is widened (R22). -/
def tyWiden : Ty → Widen
  | .f32 => .f32
  | .f16 => .f16
  | .bf16 => .bf16
  | .n8 | .n16 | .n32 | .n64 => .uint
  | _ => .sint

/-- The width of a type in bits (R158). -/
def tyBits (t : Ty) : Nat := 8 * t.size

/-- The mathematical value of a pattern under an integer or bit type (R180). -/
def intVal (ty : Ty) (x : BitVec 64) : Int :=
  match ty with
  | .i8 => (x.setWidth 8).toInt
  | .i16 => (x.setWidth 16).toInt
  | .i32 => (x.setWidth 32).toInt
  | .i64 => x.toInt
  | .n8 => (x.setWidth 8).toNat
  | .n16 => (x.setWidth 16).toNat
  | .n64 | .b64 => x.toNat
  | _ => (x.setWidth 32).toNat

/-- An exact integer modulo 2^w, as a pattern (R180). -/
def wrapInt (w : Nat) (e : Int) : BitVec 64 := BitVec.ofNat 64 (e % (2 ^ w : Int)).toNat

/-- The range of an integer or bit type (R158). -/
def tyMin (ty : Ty) : Int := if ty.isSigned then -(2 ^ (tyBits ty - 1)) else 0
def tyMax (ty : Ty) : Int := if ty.isSigned then 2 ^ (tyBits ty - 1) - 1 else 2 ^ tyBits ty - 1

/-- The saturation helpers of R161. -/
def satInt (ty : Ty) (e : Int) : Int := min (max e (tyMin ty)) (tyMax ty)

/-- The result of R180: clamped under `.sat`, else wrapped. -/
def intResult (ty : Ty) (sat : Bool) (e : Int) : BitVec 64 := wrapInt (tyBits ty) (if sat then satInt ty e else e)

/-- An integer source of a type (R180). -/
def intSrc (g : Group) (t : Thread) (k : BitVec 32) (ty : Ty) (o : Opnd) : Int :=
  intVal ty (readOp g t k (tyWiden ty) ty.wide o)

/-- One, two and three sources of a type to an exact integer and the result of R180 (R184). -/
def intOp1 (c : Common) (ty : Ty) (sat : Bool) (f : Int → Int) (d a : Opnd) (k : BitVec 32) (s : State) : Out :=
  vecOp c [nm d ty.wide] [nm a ty.wide] (fun g t => [⟨d, ty.wide, intResult ty sat (f (intSrc g t k ty a))⟩]) s

def intOp2 (c : Common) (ty : Ty) (sat : Bool) (f : Int → Int → Int) (d a b : Opnd) (k : BitVec 32) (s : State) : Out :=
  vecOp c [nm d ty.wide] [nm a ty.wide, nm b ty.wide]
    (fun g t => [⟨d, ty.wide, intResult ty sat (f (intSrc g t k ty a) (intSrc g t k ty b))⟩]) s

def intOp3 (c : Common) (ty : Ty) (sat : Bool) (f : Int → Int → Int → Int) (d a b e : Opnd) (s : State) : Out :=
  vecOp c [nm d ty.wide] [nm a ty.wide, nm b ty.wide, nm e ty.wide]
    (fun g t => [⟨d, ty.wide, intResult ty sat (f (intSrc g t 0 ty a) (intSrc g t 0 ty b) (intSrc g t 0 ty e))⟩]) s

/-- IADD (R184): a + b. -/
def execIadd (c : Common) (ty : Ty) (sat : Bool) (d a b : Opnd) (k : BitVec 32) (s : State) : Out :=
  intOp2 c ty sat (· + ·) d a b k s

/-- IADD3 (R184): a + b + c. -/
def execIadd3 (c : Common) (ty : Ty) (sat : Bool) (d a b e : Opnd) (s : State) : Out :=
  intOp3 c ty sat (fun x y z => x + y + z) d a b e s

/-- ISUB (R184): a − b. -/
def execIsub (c : Common) (ty : Ty) (sat : Bool) (d a b : Opnd) (k : BitVec 32) (s : State) : Out :=
  intOp2 c ty sat (· - ·) d a b k s

/-- IMUL (R184): the low half of a × b. -/
def execImul (c : Common) (ty : Ty) (d a b : Opnd) (k : BitVec 32) (s : State) : Out :=
  intOp2 c ty false (· * ·) d a b k s

/-- IMULH (R184): floor(a × b / 2^w), the upper half of the product. -/
def execImulh (c : Common) (ty : Ty) (d a b : Opnd) (k : BitVec 32) (s : State) : Out :=
  intOp2 c ty false (fun x y => x * y / (2 ^ tyBits ty : Int)) d a b k s

/-- IMAD (R184): a × b + c, clamped once. -/
def execImad (c : Common) (ty : Ty) (sat : Bool) (d a b e : Opnd) (s : State) : Out :=
  intOp3 c ty sat (fun x y z => x * y + z) d a b e s

/-- IMADW (R184): a × b + c into a pair, a and b of 32 bits and c a pair. -/
def execImadw (c : Common) (ty : Ty) (d a b e : Opnd) (s : State) : Out :=
  vecOp c [nm d true] [nm a false, nm b false, nm e true]
    (fun g t =>
      let ty' : Ty := if ty.isSigned then .i64 else .n64
      [⟨d, true, wrapInt 64 (intSrc g t 0 ty a * intSrc g t 0 ty b + intSrc g t 0 ty' e)⟩]) s

/-- IABS (R184): |a|. -/
def execIabs (c : Common) (ty : Ty) (sat : Bool) (d a : Opnd) (k : BitVec 32) (s : State) : Out :=
  intOp1 c ty sat (fun x => x.natAbs) d a k s

/-- INEG (R184): −a. -/
def execIneg (c : Common) (ty : Ty) (sat : Bool) (d a : Opnd) (k : BitVec 32) (s : State) : Out :=
  intOp1 c ty sat (fun x => -x) d a k s

/-- IMIN (R184): the smaller. -/
def execImin (c : Common) (ty : Ty) (d a b : Opnd) (k : BitVec 32) (s : State) : Out :=
  intOp2 c ty false min d a b k s

/-- IMAX (R184): the larger. -/
def execImax (c : Common) (ty : Ty) (d a b : Opnd) (k : BitVec 32) (s : State) : Out :=
  intOp2 c ty false max d a b k s

/-- ISAD (R184): |a − b| + c, wrapped. -/
def execIsad (c : Common) (ty : Ty) (d a b e : Opnd) (s : State) : Out :=
  intOp3 c ty false (fun x y z => (x - y).natAbs + z) d a b e s

/-- LEA (R186): a + (b << n); for b64 a pair plus a sign-extended 32-bit index. -/
def execLea (c : Common) (wide : Bool) (sh : BitVec 3) (d a b : Opnd) (k : BitVec 32) (s : State) : Out :=
  vecOp c [nm d wide] [nm a wide, nm b false]
    (fun g t =>
      let x := readOp g t k .sint wide a
      let y := (loWord (readOp g t k .sint false b)).signExtend 64
      [⟨d, wide, if wide then x + (y <<< sh.toNat) else ((x + (y <<< sh.toNat)).setWidth 32).setWidth 64⟩]) s

/-- The type of a carry operation. -/
def carryTy (wide : Bool) : Ty := if wide then .n64 else .n32

/-- ADDC and SUBC (R185): an exact integer of a, b and the carry, the result and the new carry. -/
def carryOp (c : Common) (wide : Bool) (f : Int → Int → Int → Int) (carry : Int → Bool) (d a b e : Opnd) (s : State) : Out :=
  vecOp c [nm d wide, nm e false] [nm a wide, nm b wide, nm e false]
    (fun g t =>
      let ty := carryTy wide
      let r := f (intSrc g t 0 ty a) (intSrc g t 0 ty b) (readOp g t 0 .uint false e).toNat
      [⟨d, wide, wrapInt (tyBits ty) r⟩, ⟨e, false, if carry r then 1 else 0⟩]) s

/-- ADDC (R185): a + b + carry; the new carry says that the sum reached 2^w. -/
def execAddc (c : Common) (wide : Bool) (d a b e : Opnd) (s : State) : Out :=
  carryOp c wide (fun x y z => x + y + z) (fun r => r ≥ (2 ^ tyBits (carryTy wide) : Int)) d a b e s

/-- SUBC (R185): a − b − borrow; the new borrow says that the difference is negative. -/
def execSubc (c : Common) (wide : Bool) (d a b e : Opnd) (s : State) : Out :=
  carryOp c wide (fun x y z => x - y - z) (fun r => r < 0) d a b e s

/-- The quotient and the remainder of R207. -/
def divide (a b : Int) : Int × Int :=
  if b = 0 then (-1, a) else (a.tdiv b, a - a.tdiv b * b)

/-- IDIV (R207): the quotient, truncated toward zero. -/
def execIdiv (c : Common) (ty : Ty) (d a b : Opnd) (k : BitVec 32) (s : State) : Out :=
  intOp2 c ty false (fun x y => (divide x y).1) d a b k s

/-- IREM (R207): the remainder, with a's sign. -/
def execIrem (c : Common) (ty : Ty) (d a b : Opnd) (k : BitVec 32) (s : State) : Out :=
  intOp2 c ty false (fun x y => (divide x y).2) d a b k s

end Sys2Proof.Machine
end

