-- ==== Sys2Proof/Machine/Logic.lean ====
section
/-! DEFINITION. Logic, shifts and bit fields (08 R187-R192). -/

namespace Sys2Proof.Machine

/-- The width of a b32 or b64 form. -/
def widthOf (wide : Bool) : Nat := if wide then 64 else 32

/-- The pattern of a form's width. -/
def fit (wide : Bool) (x : BitVec 64) : BitVec 64 := if wide then x else (x.setWidth 32).setWidth 64

/-- A two-source bit operation, both of the form's width. -/
def bitOp2 (c : Common) (wide : Bool) (f : BitVec 64 → BitVec 64 → BitVec 64) (d a b : Opnd) (k : BitVec 32) (s : State) :
    Out :=
  vecOp c [nm d wide] [nm a wide, nm b wide]
    (fun g t => [⟨d, wide, fit wide (f (readOp g t k .sint wide a) (readOp g t k .sint wide b))⟩]) s

/-- AND (R188). -/
def execAndb (c : Common) (wide : Bool) (d a b : Opnd) (k : BitVec 32) (s : State) : Out :=
  bitOp2 c wide (· &&& ·) d a b k s

/-- OR (R188). -/
def execOrb (c : Common) (wide : Bool) (d a b : Opnd) (k : BitVec 32) (s : State) : Out :=
  bitOp2 c wide (· ||| ·) d a b k s

/-- XOR (R188). -/
def execXorb (c : Common) (wide : Bool) (d a b : Opnd) (k : BitVec 32) (s : State) : Out :=
  bitOp2 c wide (· ^^^ ·) d a b k s

/-- NOT (R188). -/
def execNotb (c : Common) (wide : Bool) (d a : Opnd) (k : BitVec 32) (s : State) : Out :=
  vecOp c [nm d wide] [nm a wide] (fun g t => [⟨d, wide, fit wide (~~~(readOp g t k .sint wide a))⟩]) s

/-- A truth table on three bits (R188): A gives the least significant bit of the index, C the most. -/
def table3 (tt : BitVec 8) (a b c : Bool) : Bool := tt.getLsbD (c.toNat * 4 + b.toNat * 2 + a.toNat)

/-- A truth table bit by bit on three words. -/
def tableWord (tt : BitVec 8) (a b c : BitVec 32) : BitVec 32 :=
  (List.range 32).foldl (fun r i => setBit r i (table3 tt (a.getLsbD i) (b.getLsbD i) (c.getLsbD i))) 0

/-- TLOG (R188). -/
def execTlog (c : Common) (tt : BitVec 8) (d a b e : Opnd) (s : State) : Out :=
  vecOp c [nm d false] [nm a false, nm b false, nm e false]
    (fun g t =>
      let r (o : Opnd) : BitVec 32 := loWord (readOp g t 0 .sint false o)
      [⟨d, false, (tableWord tt (r a) (r b) (r e)).setWidth 64⟩]) s

/-- A shift or rotate: A of the form's width, an amount of 32 bits read as unsigned (R189). -/
def shiftOp (c : Common) (wide : Bool) (f : BitVec 64 → Nat → BitVec 64) (d a b : Opnd) (k : BitVec 32) (s : State) : Out :=
  vecOp c [nm d wide] [nm a wide, nm b false]
    (fun g t => [⟨d, wide, fit wide (f (readOp g t k .sint wide a) (readOp g t k .sint false b).toNat)⟩]) s

/-- SHL (R189). -/
def execShl (c : Common) (wide : Bool) (d a b : Opnd) (k : BitVec 32) (s : State) : Out :=
  shiftOp c wide (fun x n => if n ≥ widthOf wide then 0 else x <<< n) d a b k s

/-- SHR (R189): zero fill. -/
def execShr (c : Common) (wide : Bool) (d a b : Opnd) (k : BitVec 32) (s : State) : Out :=
  shiftOp c wide (fun x n => if n ≥ widthOf wide then 0 else x >>> n) d a b k s

/-- SAR (R189): sign fill. -/
def execSar (c : Common) (wide : Bool) (d a b : Opnd) (k : BitVec 32) (s : State) : Out :=
  shiftOp c wide
    (fun x n =>
      let y := if wide then x else (x.setWidth 32).signExtend 64
      y.sshiftRight (min n (widthOf wide - 1))) d a b k s

/-- The funnel's 64 bits A:B as hi:lo, and its amount (R189). -/
def funnel (g : Group) (t : Thread) (a b e : Opnd) : BitVec 64 × Nat :=
  (joinWords (loWord (readOp g t 0 .sint false b)) (loWord (readOp g t 0 .sint false a)),
    min (readOp g t 0 .sint false e).toNat 32)

/-- FUNL (R189). -/
def execFunl (c : Common) (d a b e : Opnd) (s : State) : Out :=
  vecOp c [nm d false] [nm a false, nm b false, nm e false]
    (fun g t => [⟨d, false, ((funnel g t a b e).1 <<< (funnel g t a b e).2) >>> 32⟩]) s

/-- FUNR (R189). -/
def execFunr (c : Common) (d a b e : Opnd) (s : State) : Out :=
  vecOp c [nm d false] [nm a false, nm b false, nm e false]
    (fun g t => [⟨d, false, fit false ((funnel g t a b e).1 >>> (funnel g t a b e).2)⟩]) s

/-- A rotation to the left by less than the width. -/
def rotl (wide : Bool) (x : BitVec 64) (m : Nat) : BitVec 64 := (x <<< m) ||| (x >>> (widthOf wide - m))

/-- ROT (R189): left, or right. -/
def execRot (c : Common) (wide right : Bool) (d a b : Opnd) (k : BitVec 32) (s : State) : Out :=
  shiftOp c wide
    (fun x n =>
      let w := widthOf wide
      let m := n % w
      rotl wide x (if right then (w - m) % w else m)) d a b k s

/-- pos and len of a bit-field control value (R190). -/
def fieldPos (x : BitVec 64) : Nat := x.toNat % 256
def fieldLen (x : BitVec 64) : Nat := x.toNat / 256 % 256

/-- The field of L bits from pos of a value extended without limit, itself extended to the width (R190). -/
def extractField (ty : Ty) (x : Int) (pos len : Nat) : BitVec 64 :=
  let n := min len (tyBits ty)
  if n = 0 then 0
  else
    let f := x / (2 ^ pos : Int) % (2 ^ n : Int)
    wrapInt (tyBits ty) (if ty.isSigned && f ≥ (2 ^ (n - 1) : Int) then f - 2 ^ n else f)

/-- BFE (R190). -/
def execBfe (c : Common) (ty : Ty) (d a b : Opnd) (k : BitVec 32) (s : State) : Out :=
  vecOp c [nm d ty.wide] [nm a ty.wide, nm b false]
    (fun g t =>
      let y := readOp g t k .sint false b
      [⟨d, ty.wide, extractField ty (intSrc g t k ty a) (fieldPos y) (fieldLen y)⟩]) s

/-- BFI (R190): bits of A from bit 0 on, into the base B from pos on. -/
def insertField (w : Nat) (x base : BitVec 64) (pos len : Nat) : BitVec 64 :=
  (List.range (min len w)).foldl (fun r i => if pos + i < w then setBit r (pos + i) (x.getLsbD i) else r) base

def execBfi (c : Common) (wide : Bool) (d a b e : Opnd) (s : State) : Out :=
  vecOp c [nm d wide] [nm a wide, nm b wide, nm e false]
    (fun g t =>
      let y := readOp g t 0 .sint false e
      [⟨d, wide, insertField (widthOf wide) (readOp g t 0 .sint wide a) (readOp g t 0 .sint wide b) (fieldPos y)
        (fieldLen y)⟩]) s

/-- BMSK (R190): len ones from pos on. -/
def execBmsk (c : Common) (d a b : Opnd) (k : BitVec 32) (s : State) : Out :=
  vecOp c [nm d false] [nm a false, nm b false]
    (fun g t =>
      let pos := (readOp g t k .sint false a).toNat
      let len := min (readOp g t k .sint false b).toNat 32
      [⟨d, false, if pos ≥ 32 then 0 else BitVec.ofNat 64 ((2 ^ len - 1) * 2 ^ pos % 2 ^ 32)⟩]) s

/-- A count of bits of A, into one 32-bit register (R191). -/
def countOp (c : Common) (wide : Bool) (f : Nat → BitVec 64 → Nat) (d a : Opnd) (k : BitVec 32) (s : State) : Out :=
  vecOp c [nm d false] [nm a wide] (fun g t => [⟨d, false, BitVec.ofNat 64 (f (widthOf wide) (readOp g t k .sint wide a))⟩]) s

/-- The number of 1 bits among the low w. -/
def popCount (w : Nat) (x : BitVec 64) : Nat := ((List.range w).filter x.getLsbD).length

/-- The 0 bits above the highest 1 bit of the low w, and below the lowest; w on zero (R191). -/
def leadZeros (x : BitVec 64) : Nat → Nat
  | 0 => 0
  | n + 1 => if x.getLsbD n then 0 else 1 + leadZeros x n
def trailZeros (w : Nat) (x : BitVec 64) : Nat := ((List.range w).takeWhile (fun i => !x.getLsbD i)).length

/-- POPC (R191). -/
def execPopc (c : Common) (wide : Bool) (d a : Opnd) (k : BitVec 32) (s : State) : Out := countOp c wide popCount d a k s

/-- CLZ (R191). -/
def execClz (c : Common) (wide : Bool) (d a : Opnd) (k : BitVec 32) (s : State) : Out :=
  countOp c wide (fun w x => leadZeros x w) d a k s

/-- CTZ (R191). -/
def execCtz (c : Common) (wide : Bool) (d a : Opnd) (k : BitVec 32) (s : State) : Out := countOp c wide trailZeros d a k s

/-- The low w bits in reverse order (R191). -/
def reverseBits (w : Nat) (x : BitVec 64) : BitVec 64 :=
  (List.range w).foldl (fun r i => setBit r (w - 1 - i) (x.getLsbD i)) 0

/-- BREV (R191). -/
def execBrev (c : Common) (wide : Bool) (d a : Opnd) (k : BitVec 32) (s : State) : Out :=
  vecOp c [nm d wide] [nm a wide] (fun g t => [⟨d, wide, reverseBits (widthOf wide) (readOp g t k .sint wide a)⟩]) s

/-- A result byte of BYSEL from the eight source bytes and its selector byte (R192). -/
def byteSelect (x : BitVec 64) (sel : Nat) : Nat :=
  let b := x.toNat / 2 ^ (8 * (sel % 8)) % 256
  match sel / 8 % 4 with
  | 0 => b
  | 1 => if b ≥ 128 then 255 else 0
  | 2 => 0
  | _ => 255

/-- BYSEL (R192). -/
def execBysel (c : Common) (d a b e : Opnd) (s : State) : Out :=
  vecOp c [nm d false] [nm a false, nm b false, nm e false]
    (fun g t =>
      let x := joinWords (loWord (readOp g t 0 .sint false a)) (loWord (readOp g t 0 .sint false b))
      let y := (readOp g t 0 .sint false e).toNat
      [⟨d, false, BitVec.ofNat 64 (leNat ((List.range 4).map
        (fun i => BitVec.ofNat 8 (byteSelect x (y / 2 ^ (8 * i) % 256)))))⟩]) s

end Sys2Proof.Machine
end

