-- ==== Sys2Proof/Machine/Num.lean ====
section
/-! DEFINITION. Numbers (07): the floating-point formats, exact values, rounding and the helper functions R153-R164, the tie
hash (R175), and the correctly rounded functions of R200. -/

namespace Sys2Proof.Machine

/-- A floating-point format by its exponent and fraction widths (R153). -/
structure Fmt where
  eb : Nat
  fb : Nat
  deriving DecidableEq, Repr

def fp32 : Fmt := ⟨8, 23⟩
def fp16 : Fmt := ⟨5, 10⟩
def bf16 : Fmt := ⟨8, 7⟩

def Fmt.width (f : Fmt) : Nat := 1 + f.eb + f.fb
def Fmt.bias (f : Fmt) : Nat := 2 ^ (f.eb - 1) - 1
def Fmt.emax (f : Fmt) : Nat := 2 ^ f.eb - 1
/-- Sign, exponent and fraction of a pattern (R153). -/
def Fmt.sign (f : Fmt) (x : Nat) : Bool := x / 2 ^ (f.eb + f.fb) % 2 == 1
def Fmt.exp (f : Fmt) (x : Nat) : Nat := x / 2 ^ f.fb % 2 ^ f.eb
def Fmt.frac (f : Fmt) (x : Nat) : Nat := x % 2 ^ f.fb
def Fmt.signBit (f : Fmt) (neg : Bool) : Nat := if neg then 2 ^ (f.eb + f.fb) else 0

/-- The special patterns (R154). -/
def Fmt.inf (f : Fmt) (neg : Bool) : Nat := f.signBit neg + f.emax * 2 ^ f.fb
def Fmt.largest (f : Fmt) (neg : Bool) : Nat := f.inf neg - 1
def Fmt.canonNan (f : Fmt) : Nat := f.emax * 2 ^ f.fb + 2 ^ (f.fb - 1)
def Fmt.isNan (f : Fmt) (x : Nat) : Bool := f.exp x == f.emax && f.frac x != 0
def Fmt.isInf (f : Fmt) (x : Nat) : Bool := f.exp x == f.emax && f.frac x == 0
def Fmt.isSubnormal (f : Fmt) (x : Nat) : Bool := f.exp x == 0 && f.frac x != 0

/-- An exact value: NaN, an infinity, or ± n / d, a zero keeping its sign (R163). -/
inductive Ex where
  | nan
  | inf (neg : Bool)
  | fin (neg : Bool) (n d : Nat)
  deriving DecidableEq, Repr

/-- m × 2^(e − b), as n / d. -/
def scaled (neg : Bool) (m e b : Nat) : Ex := if b ≤ e then .fin neg (m * 2 ^ (e - b)) 1 else .fin neg m (2 ^ (b - e))

/-- The value of a pattern (R153). -/
def Fmt.value (f : Fmt) (x : Nat) : Ex :=
  let e := f.exp x
  if e == f.emax then (if f.frac x == 0 then .inf (f.sign x) else .nan)
  else if e == 0 then scaled (f.sign x) (f.frac x) 1 (f.bias + f.fb)
  else scaled (f.sign x) (2 ^ f.fb + f.frac x) e (f.bias + f.fb)

/-- An exact integer. -/
def Ex.int (x : Int) : Ex := .fin (x < 0) x.natAbs 1

def Ex.neg : Ex → Ex
  | .nan => .nan
  | .inf s => .inf (!s)
  | .fin s n d => .fin (!s) n d

/-- floor(log2(n / d)) + 4096 for n, d > 0. -/
def floorLog (n d : Nat) : Nat :=
  let l := 4096 + n.log2 - d.log2
  let below := if l ≥ 4096 then n < d * 2 ^ (l - 4096) else n * 2 ^ (4096 - l) < d
  if below then l - 1 else l

/-- The integer nearest to n / d under a mode, for a value of a sign (R160). -/
def roundNat (rm : Rm) (neg : Bool) (n d : Nat) : Nat :=
  let q := n / d
  let r := n % d
  let up := match rm with
    | .rne => 2 * r > d || (2 * r == d && q % 2 == 1)
    | .rz => false
    | .rd => neg && r != 0
    | .ru => !neg && r != 0
  if up then q + 1 else q

/-- round_dir (R160). -/
def roundDir (x : Ex) (f : Fmt) (rm : Rm) : Nat :=
  match x with
  | .nan => f.canonNan
  | .inf s => f.inf s
  | .fin s n d =>
    if n = 0 then f.signBit s
    else
      -- the quantum is 2^(qe − 8192)
      let lo := 8192 + 1 - f.bias
      let qe := max (floorLog n d + 4096) lo - f.fb
      let k := if qe ≥ 8192 then roundNat rm s n (d * 2 ^ (qe - 8192)) else roundNat rm s (n * 2 ^ (8192 - qe)) d
      let pat := (qe + f.fb - lo) * 2 ^ f.fb + k
      if pat ≥ f.emax * 2 ^ f.fb then
        match rm, s with
        | .rne, _ => f.inf s
        | .rz, _ => f.largest s
        | .rd, false => f.largest s
        | .rd, true => f.inf s
        | .ru, true => f.largest s
        | .ru, false => f.inf s
      else f.signBit s + pat

def roundRne (x : Ex) (f : Fmt) : Nat := roundDir x f .rne

/-- `.ftz` on a source or a result: a subnormal becomes a zero of its sign (R156). -/
def flush (ftz : Bool) (x : Nat) : Nat := if ftz && fp32.isSubnormal x then fp32.signBit (fp32.sign x) else x

/-- ord_key16 (R162). -/
def ordKey16 (f : Fmt) (x : Nat) : Nat :=
  if f.isNan x then 0xFFFF else if x ≥ 0x8000 then 0xFFFF - x else x + 0x8000

/-- The exact real sum of two fractions with signs; a zero sum is +0 here. -/
def addFrac (sn : Bool) (n d : Nat) (sm : Bool) (m e : Nat) : Ex :=
  let x : Int := if sn then -(n : Int) else n
  let y : Int := if sm then -(m : Int) else m
  let (z, c) :=
    if d == e then (x + y, d)
    else if d < e && e % d == 0 then (x * (e / d : Nat) + y, e)
    else if d % e == 0 then (x + y * (d / e : Nat), d)
    else (x * e + y * d, d * e)
  .fin (z < 0) z.natAbs c

/-- The sum of two exact terms: R163, of which a sum of more is the repetition. -/
def Ex.add : Ex → Ex → Ex
  | .nan, _ => .nan
  | _, .nan => .nan
  | .inf a, .inf b => if a == b then .inf a else .nan
  | .inf a, _ => .inf a
  | _, .inf b => .inf b
  | .fin s n d, .fin t m e => if s && t && n == 0 && m == 0 then .fin true 0 1 else addFrac s n d t m e

/-- exact_sum (R163): of no terms, +0. -/
def exactSum : List Ex → Ex
  | [] => .fin false 0 1
  | x :: xs => xs.foldl Ex.add x

/-- The exact product (R163). -/
def Ex.mul : Ex → Ex → Ex
  | .nan, _ => .nan
  | _, .nan => .nan
  | .inf a, .inf b => .inf (a != b)
  | .inf a, .fin t m _ => if m == 0 then .nan else .inf (a != t)
  | .fin s n _, .inf b => if n == 0 then .nan else .inf (s != b)
  | .fin s n d, .fin t m e => .fin (s != t) (n * m) (d * e)

/-- The exact quotient under the rules of IEEE 754 division (R200). -/
def Ex.div : Ex → Ex → Ex
  | .nan, _ => .nan
  | _, .nan => .nan
  | .inf _, .inf _ => .nan
  | .inf a, .fin t _ _ => .inf (a != t)
  | .fin s _ _, .inf b => .fin (s != b) 0 1
  | .fin s n d, .fin t m e =>
    if m == 0 then (if n == 0 then .nan else .inf (s != t)) else .fin (s != t) (n * e) (d * m)

def Ex.isZero : Ex → Bool
  | .fin _ n _ => n == 0
  | _ => false

/-- The sum of FADD and FSUB: an exact zero is −0 under `.rd`, whatever the addends (R198). -/
def Ex.addZero (rm : Rm) (x y : Ex) : Ex :=
  match x.add y with
  | .fin s n d => if n == 0 && rm == .rd then .fin true 0 1 else .fin s n d
  | z => z

/-- The sum of FFMA: an exact zero of terms that are not zeros of one sign is −0 under `.rd` (R198). -/
def Ex.addRm (rm : Rm) (x y : Ex) : Ex :=
  match x.add y with
  | .fin s n d =>
    if n == 0 && rm == .rd && !(match x, y with
      | .fin a _ _, .fin b _ _ => !a && !b && x.isZero && y.isZero
      | _, _ => false) then .fin true 0 1
    else .fin s n d
  | z => z

/-- An exact value rounded to an integer under a mode; none for NaN and the infinities. -/
def Ex.toInt? (rm : Rm) : Ex → Option Int
  | .fin s n d => some (if s then -(roundNat rm s n d : Int) else roundNat rm s n d)
  | _ => none

/-- A value rounded to an integer and clamped to a range; NaN gives what is named for it (R203, R206). -/
def Ex.clampInt (rm : Rm) (nan lo hi : Int) : Ex → Int
  | .nan => nan
  | .inf s => if s then lo else hi
  | .fin s n d => min (max (if s then -(roundNat rm s n d : Int) else roundNat rm s n d) lo) hi

/-- Order keys of FP32 patterns that are no NaN: −0 below +0 (R199). -/
def key32 (x : Nat) : Nat := if x ≥ 2 ^ 31 then 2 ^ 32 - 1 - x else x + 2 ^ 31

/-- The order key of a pattern of a format that is no NaN. -/
def Fmt.key (f : Fmt) (x : Nat) : Nat :=
  let h := 2 ^ (f.width - 1)
  if x ≥ h then 2 * h - 1 - x else x + h

/-- FMIN and FMAX in a format (R199). -/
def minMax (f : Fmt) (isMax nanMod : Bool) (a b : Nat) : Nat :=
  if f.isNan a || f.isNan b then
    if nanMod || (f.isNan a && f.isNan b) then f.canonNan else if f.isNan a then b else a
  else if isMax then (if f.key b > f.key a then b else a)
  else if f.key b < f.key a then b else a

/-- The comparison of exact numbers: less, equal, greater. -/
def cmpFin (s : Bool) (n d : Nat) (t : Bool) (m e : Nat) : Ordering :=
  let x : Int := (if s then -(n : Int) else n) * e
  let y : Int := (if t then -(m : Int) else m) * d
  compare x y

/-- IEEE 754 comparison of values: none when unordered (R194). -/
def Ex.cmp : Ex → Ex → Option Ordering
  | .nan, _ => none
  | _, .nan => none
  | .inf a, .inf b => some (if a == b then .eq else if a then .lt else .gt)
  | .inf a, _ => some (if a then .lt else .gt)
  | _, .inf b => some (if b then .gt else .lt)
  | .fin s n d, .fin t m e => some (cmpFin s n d t m e)

/-- A relation by its code (R193). -/
def relHolds (c : Cmp) (o : Ordering) : Bool :=
  match c with
  | .eq => o == .eq
  | .ne => o != .eq
  | .lt => o == .lt
  | .le => o != .gt
  | .gt => o == .gt
  | .ge => o != .lt
  | .num => true
  | .nan => false

/-- The rule of FSETP (R194). -/
def floatCompare (f : Fmt) (c : Cmp) (unord : Bool) (a b : Nat) : Bool :=
  match (f.value a).cmp (f.value b) with
  | none => unord || c == .nan
  | some o => relHolds c o

/-! The tie hash (R175). -/

def mix (h : BitVec 32) : BitVec 32 :=
  let h := (h ^^^ (h >>> 16)) * 0x5A3CE9B1
  let h := (h ^^^ (h >>> 13)) * 0x3B1F6D27
  h ^^^ (h >>> 16)

def tieHash (seed k0 k1 : BitVec 32) : BitVec 32 := mix (mix (seed ^^^ 0xC6A41E53 ^^^ k0) ^^^ k1)

/-! The lane tree (R164, R173). -/

/-- One level of the tree: neighbours combined. -/
def pairUp {α : Type} (op : α → α → α) : List α → List α
  | x :: y :: r => op x y :: pairUp op r
  | l => l

/-- node(l, i) for every i. -/
def nodes {α : Type} (op : α → α → α) : Nat → List α → List α
  | 0, l => l
  | n + 1, l => nodes op n (pairUp op l)

/-- lane_tree (R164) of 2^l values. -/
def laneTree {α : Type} (op : α → α → α) (ident : α) (l : Nat) (x : List α) : α := (nodes op l x).headD ident

/-- lane_prefix (R173): lanes 0 to c − 1, by the tree's own nodes, largest first; none for c = 0. -/
def lanePrefix {α : Type} (op : α → α → α) (ident : α) (x : List α) (c : Nat) : Nat → Nat → Option α → Option α
  | 0, _, r => r
  | l + 1, lo, r =>
    if c / 2 ^ l % 2 = 1 then
      let v := (nodes op l x).getD (lo / 2 ^ l) ident
      lanePrefix op ident x c l (lo + 2 ^ l) (some (match r with
        | none => v
        | some u => op u v))
    else lanePrefix op ident x c l lo r

/-! The correctly rounded functions (R200): each is computed in fixed point, 2^P units to one, with an error of far less than
the distance of any result that is not exact from a rounding boundary. -/

/-- Fraction bits of the fixed-point arithmetic. -/
def fixP : Nat := 512
def fixOne : Int := 2 ^ 512

/-- Σ_{k<n} t_k, with t_{k+1} = t_k × z / (2^512 × div k), signs as z has them. -/
def series (z : Int) (div : Nat → Int) : Nat → Nat → Int → Int → Int
  | 0, _, _, acc => acc
  | n + 1, k, t, acc => series z div n (k + 1) (t * z / (fixOne * div k)) (acc + t)

/-- Σ_{k<n} z^k / (2 k + 1) with z in fixed point. -/
def oddSeries (z : Int) : Nat → Nat → Int → Int → Int
  | 0, _, _, acc => acc
  | n + 1, k, t, acc => oddSeries z n (k + 1) (t * z / fixOne) (acc + t / (2 * k + 1))

/-- atanh(a / b) and atan(1 / b), in fixed point. -/
def fixAtanh (a b : Int) : Int := a * fixOne / b * oddSeries (a * a * fixOne / (b * b)) 200 0 fixOne 0 / fixOne
def fixAtanInv (b : Int) (p : Nat) : Int :=
  ((List.range 500).foldl (fun (acc : Int × Int) (k : Nat) =>
    (acc.1 + (if k % 2 = 0 then acc.2 else -acc.2) / (2 * k + 1), acc.2 / (b * b))) (0, 2 ^ p / b)).1

def fixLn2 : Int := 2 * fixAtanh 1 3
/-- π × 2^p (Machin). -/
def fixPi (p : Nat) : Int := 16 * fixAtanInv 5 p - 4 * fixAtanInv 239 p

/-- e^x for a fixed-point x of magnitude below 1. -/
def fixExp (x : Int) : Int := series x (fun k => (k : Int) + 1) 120 0 fixOne 0

/-- A fixed-point value as an exact one. -/
def ofFix (x : Int) : Ex := .fin (x < 0) x.natAbs (2 ^ 512)

/-- The fixed-point value of a fraction, floored. -/
def toFix (s : Bool) (n d : Nat) : Int := (if s then -(n : Int) else n) * fixOne / d

/-- 2^a for a number a; outside ±1,024 a value beyond every format's range. -/
def exp2Fin (s : Bool) (n d : Nat) : Ex :=
  let x : Int := if s then -(n : Int) else n
  if n ≥ 1024 * d then (if s then .fin false 1 (2 ^ 1024) else .fin false (2 ^ 1024) 1)
  else
    let i := x / d
    let f := x % d
    let m := if f = 0 then fixOne else fixExp (f * fixOne / d * fixLn2 / fixOne)
    if i ≥ 0 then .fin false (m.toNat * 2 ^ i.toNat) (2 ^ 512) else .fin false m.toNat (2 ^ (512 + i.natAbs))

/-- log2 of n / d > 0. -/
def log2Fin (n d : Nat) : Ex :=
  let l := floorLog n d
  let e : Int := (l : Int) - 4096
  let (n, d) := if l ≥ 4096 then (n, d * 2 ^ (l - 4096)) else (n * 2 ^ (4096 - l), d)
  if n == d then Ex.int e
  else ofFix (e * fixOne + 2 * fixAtanh ((n : Int) - d) ((n : Int) + d) * fixOne / fixLn2)

/-- sin and cos of a fixed-point x of magnitude below 1. -/
def fixSin (x : Int) : Int :=
  x * series (-(x * x / fixOne)) (fun k => (2 * k + 2 : Int) * (2 * k + 3)) 60 0 fixOne 0 / fixOne
def fixCos (x : Int) : Int := series (-(x * x / fixOne)) (fun k => (2 * k + 1 : Int) * (2 * k + 2)) 60 0 fixOne 0

/-- sin (q = 0) or cos (q = 1) of a number, reduced exactly by quarter turns. -/
def sinFin (q : Nat) (s : Bool) (n d : Nat) : Ex :=
  -- x and π / 2 with 256 more bits, so that a magnitude below 2^128 reduces to 512 good bits
  let one : Int := 2 ^ 768
  let x : Int := (n : Int) * one / d
  let h := fixPi 768 / 2
  let k := (2 * x + h) / (2 * h)
  let r := (x - k * h) / 2 ^ 256
  -- sin(−a) = −sin a, cos(−a) = cos a
  let v := match (k.toNat + q) % 4 with
    | 0 => fixSin r
    | 1 => fixCos r
    | 2 => -fixSin r
    | _ => -fixCos r
  ofFix (if s && q == 0 then -v else v)

/-- tanh of a number: (1 − e^(−2a)) / (1 + e^(−2a)) through powers of two, or the series near 0. -/
def tanhFin (s : Bool) (n d : Nat) : Ex :=
  if n ≥ 128 * d then .fin s (2 ^ 200 - 1) (2 ^ 200)
  else if n * 2 ^ 40 < d then
    -- a (1 − a²/3), the next term below the rounding
    .fin s (n * (3 * d * d - n * n)) (3 * d * d * d)
  else
    let a := toFix false n d
    -- e^(2a) as 2^i × e^f
    let t := 2 * a
    let i := t / fixLn2
    let u := fixExp (t % fixLn2) * 2 ^ i.toNat
    let v := (u - fixOne) * fixOne / (u + fixOne)
    ofFix (if s then -v else v)

/-- Newton's iteration for the floor of a square root, from above. -/
def isqrtIter (n : Nat) : Nat → Nat → Nat
  | 0, x => x
  | k + 1, x =>
    let y := (x + n / x) / 2
    if y < x then isqrtIter n k y else x
def isqrt (n : Nat) : Nat := if n = 0 then 0 else isqrtIter n 600 (2 ^ (n.log2 / 2 + 1))

/-- √(n / d): exact where it is, and otherwise between the two 400-bit neighbours. -/
def sqrtFin (n d : Nat) : Ex :=
  let m := n * d * 2 ^ 800
  let r := isqrt m
  if r * r == m then .fin false r (d * 2 ^ 400) else .fin false (2 * r + 1) (d * 2 ^ 401)

/-- The functions of one operand (R200). -/
inductive Fun1 where
  | rcp | rsq | sqrt | ex2 | lg2 | sin | cos | tanh
  deriving DecidableEq, Repr

/-- The exact value of a function (R200), with its special inputs. -/
def Fun1.apply (f : Fun1) (x : Ex) : Ex :=
  let one : Ex := .fin false 1 1
  match x with
  | .nan => .nan
  | .inf s =>
    match f with
    | .rcp => .fin s 0 1
    | .rsq => if s then .nan else .fin false 0 1
    | .sqrt => if s then .nan else .inf false
    | .ex2 => if s then .fin false 0 1 else .inf false
    | .lg2 => if s then .nan else .inf false
    | .sin => .nan
    | .cos => .nan
    | .tanh => .fin s 1 1
  | .fin s n d =>
    if n == 0 then
      match f with
      | .rcp => .inf s
      | .rsq => .inf s
      | .sqrt => .fin s 0 1
      | .ex2 => one
      | .lg2 => .inf true
      | .sin => .fin s 0 1
      | .cos => one
      | .tanh => .fin s 0 1
    else
      match f with
      | .rcp => .fin s d n
      | .rsq => if s then .nan else sqrtFin d n
      | .sqrt => if s then .nan else sqrtFin n d
      | .ex2 => exp2Fin s n d
      | .lg2 => if s then .nan else log2Fin n d
      | .sin => sinFin 0 s n d
      | .cos => sinFin 1 s n d
      | .tanh => tanhFin s n d

end Sys2Proof.Machine
end

