-- ==== Sys2Proof/Machine/Compare.lean ====
section
/-! DEFINITION. Comparison, selection and predicates (08 R193-R196). -/

namespace Sys2Proof.Machine

/-- A truth value as a predicate's bit. -/
def bit64 (b : Bool) : BitVec 64 := if b then 1 else 0

/-- ISETP (R194): the relation of two integers into a predicate. -/
def execIsetp (c : Common) (ty : Ty) (cmp : Cmp) (d a b : Opnd) (k : BitVec 32) (s : State) : Out :=
  vecOp c [nm d false] [nm a ty.wide, nm b ty.wide]
    (fun g t => [⟨d, false, bit64 (relHolds cmp (compare (intSrc g t k ty a) (intSrc g t k ty b)))⟩]) s

/-- FSETP (R194): FP32, no flushing. -/
def execFsetp (c : Common) (cmp : Cmp) (unord : Bool) (d a b : Opnd) (k : BitVec 32) (s : State) : Out :=
  vecOp c [nm d false] [nm a false, nm b false]
    (fun g t => [⟨d, false, bit64 (floatCompare fp32 cmp unord (readOp g t k .f32 false a).toNat
      (readOp g t k .f32 false b).toNat)⟩]) s

/-- The 16-bit format of a packed type (R157). -/
def halfFmt (ty : Ty) : Fmt := if ty == .f16 then fp16 else bf16

/-- A packed source (R202): a class 5 immediate, converted to the type, stands in both elements. -/
def packedSrc (g : Group) (t : Thread) (ty : Ty) (o : Opnd) : Nat :=
  let x := (readOp g t 0 (tyWiden ty) false o).toNat
  match o with
  | .imm _ => x % 65536 * 65537
  | _ => x

/-- Element i of a packed value (R157). -/
def elem (x i : Nat) : Nat := x / 65536 ^ i % 65536

/-- HSETP2 (R194): element 0 into D, element 1 into the predicate E; of one predicate named twice, element 1's result stands (log 31, DESIGN
CHOICE, unsafe). -/
def execHsetp2 (c : Common) (ty : Ty) (cmp : Cmp) (unord : Bool) (d a b e : Opnd) (s : State) : Out :=
  vecOp c [nm d false, nm e false] [nm a false, nm b false]
    (fun g t =>
      let r (i : Nat) := bit64 (floatCompare (halfFmt ty) cmp unord (elem (packedSrc g t ty a) i) (elem (packedSrc g t ty b) i))
      [⟨d, false, r 0⟩, ⟨e, false, r 1⟩]) s

/-- SEL (R195): A where the predicate is 1, else B. -/
def execSel (c : Common) (wide : Bool) (d a b e : Opnd) (s : State) : Out :=
  vecOp c [nm d wide] [nm a wide, nm b wide, nm e false]
    (fun g t =>
      [⟨d, wide, if readOp g t 0 .uint false e = 1 then readOp g t 0 .sint wide a else readOp g t 0 .sint wide b⟩]) s

/-- PSET (R195): a truth table on three predicates. -/
def execPset (c : Common) (tt : BitVec 8) (d a b e : Opnd) (s : State) : Out :=
  vecOp c [nm d false] [nm a false, nm b false, nm e false]
    (fun g t =>
      let r (o : Opnd) : Bool := readOp g t 0 .uint false o == 1
      [⟨d, false, bit64 (table3 tt (r a) (r b) (r e))⟩]) s

/-- The fifteen predicates a program may write. -/
def allPreds : List Names := (List.range 15).map (fun i => (.p (BitVec.ofNat 4 i), 1))

/-- P2V (R196): the predicates into the low bits of a vector register. -/
def execP2v (c : Common) (d : Opnd) (s : State) : Out :=
  vecOp c [nm d false] allPreds
    (fun _ t =>
      [⟨d, false, BitVec.ofNat 64 ((List.range 15).foldl (fun x i => if t.p i then x + 2 ^ i else x) 0)⟩]) s

/-- The predicates that V2P's mask names for a thread (R196). -/
def maskPreds (g : Group) (k : BitVec 32) (b : Opnd) (t : Thread) : List Names :=
  allPreds.filter (fun n => match n.1 with
    | .p i => (readOp g t k .sint false b).getLsbD i.toNat
    | _ => false)

/-- V2P (R196): the predicates that the mask B names, from A; a live-in one traps whatever A holds. -/
def execV2p (c : Common) (a b : Opnd) (k : BitVec 32) (s : State) : Out :=
  let ns : List Names := match s.ctx? with
    | some cx => allPreds.filter (fun n => (cx.exec c).any (fun t => (maskPreds cx.group k b t).contains n))
    | none => []
  let pip := match s.ctx? with
    | some cx => cx.run.pip
    | none => false
  issue
    { common := c, writes := if pip then ns else [], reads := [nm a false, nm b false] ++ (if pip then [] else ns) } noTrap
    (fun cx t =>
      match t.region with
      | some r => if (maskPreds cx.group k b t).any r.names then some ⟨.regionViolation, 0, 0⟩ else none
      | none => none)
    (fun cx ex s =>
      .done (s.writeAll cx.run.ref ex (fun t =>
        (maskPreds cx.group k b t).map (fun n =>
          ⟨n.1, false, match n.1 with
            | .p i => bit64 ((readOp cx.group t k .sint false a).getLsbD i.toNat)
            | _ => 0⟩)))) s

end Sys2Proof.Machine
end

