-- ==== Sys2Proof/Machine/Fp32.lean ====
section
/-! DEFINITION. FP32 arithmetic (08 R197-R201). -/

namespace Sys2Proof.Machine

/-- An FP32 source as a pattern, flushed under `.ftz` (R156, R157). -/
def fpSrc (g : Group) (t : Thread) (k : BitVec 32) (ftz : Bool) (o : Opnd) : Nat :=
  flush ftz ((readOp g t k .f32 false o).toNat % 2 ^ 32)

/-- Two FP32 sources to a pattern, flushed under `.ftz`. -/
def fpOp2 (c : Common) (ftz : Bool) (f : Nat → Nat → Nat) (d a b : Opnd) (k : BitVec 32) (s : State) : Out :=
  vecOp c [nm d false] [nm a false, nm b false]
    (fun g t => [⟨d, false, BitVec.ofNat 64 (flush ftz (f (fpSrc g t k ftz a) (fpSrc g t k ftz b)))⟩]) s

/-- The sum of two patterns of a format, rounded once (R198). -/
def fpAdd (f : Fmt) (rm : Rm) (a b : Nat) : Nat := roundDir (Ex.addZero rm (f.value a) (f.value b)) f rm
def fpMul (f : Fmt) (rm : Rm) (a b : Nat) : Nat := roundDir ((f.value a).mul (f.value b)) f rm
def fpFma (f : Fmt) (rm : Rm) (a b e : Nat) : Nat := roundDir (Ex.addRm rm ((f.value a).mul (f.value b)) (f.value e)) f rm

/-- FADD (R198). -/
def execFadd (c : Common) (rm : Rm) (ftz : Bool) (d a b : Opnd) (k : BitVec 32) (s : State) : Out :=
  fpOp2 c ftz (fpAdd fp32 rm) d a b k s

/-- FSUB (R198): FADD with b's sign inverted. -/
def execFsub (c : Common) (rm : Rm) (ftz : Bool) (d a b : Opnd) (k : BitVec 32) (s : State) : Out :=
  fpOp2 c ftz (fun x y => fpAdd fp32 rm x (y ^^^ 0x80000000)) d a b k s

/-- FMUL (R198). -/
def execFmul (c : Common) (rm : Rm) (ftz : Bool) (d a b : Opnd) (k : BitVec 32) (s : State) : Out :=
  fpOp2 c ftz (fpMul fp32 rm) d a b k s

/-- FFMA (R198): one rounding of a × b + c. -/
def execFfma (c : Common) (rm : Rm) (ftz : Bool) (d a b e : Opnd) (s : State) : Out :=
  vecOp c [nm d false] [nm a false, nm b false, nm e false]
    (fun g t => [⟨d, false, BitVec.ofNat 64 (flush ftz (fpFma fp32 rm (fpSrc g t 0 ftz a) (fpSrc g t 0 ftz b)
      (fpSrc g t 0 ftz e)))⟩]) s

/-- FMIN (R199). -/
def execFmin (c : Common) (nan ftz : Bool) (d a b : Opnd) (k : BitVec 32) (s : State) : Out :=
  fpOp2 c ftz (minMax fp32 false nan) d a b k s

/-- FMAX (R199). -/
def execFmax (c : Common) (nan ftz : Bool) (d a b : Opnd) (k : BitVec 32) (s : State) : Out :=
  fpOp2 c ftz (minMax fp32 true nan) d a b k s

/-- FDIV (R200): long-latency. -/
def execFdiv (c : Common) (rm : Rm) (ftz : Bool) (d a b : Opnd) (k : BitVec 32) (s : State) : Out :=
  longOp c d false [nm a false, nm b false]
    (fun _ g t => BitVec.ofNat 64 (flush ftz (roundDir ((fp32.value (fpSrc g t k ftz a)).div (fp32.value (fpSrc g t k ftz b)))
      fp32 rm))) s

/-- A correctly rounded function of one operand (R200): long-latency. -/
def fun1 (f : Fun1) (c : Common) (rm : Rm) (ftz : Bool) (d a : Opnd) (k : BitVec 32) (s : State) : Out :=
  longOp c d false [nm a false]
    (fun _ g t => BitVec.ofNat 64 (flush ftz (roundDir (f.apply (fp32.value (fpSrc g t k ftz a))) fp32 rm))) s

/-- FSQRT (R200). -/
def execFsqrt (c : Common) (rm : Rm) (ftz : Bool) (d a : Opnd) (k : BitVec 32) (s : State) : Out := fun1 .sqrt c rm ftz d a k s
/-- FRCP (R200). -/
def execFrcp (c : Common) (rm : Rm) (ftz : Bool) (d a : Opnd) (k : BitVec 32) (s : State) : Out := fun1 .rcp c rm ftz d a k s
/-- FRSQ (R200). -/
def execFrsq (c : Common) (ftz : Bool) (d a : Opnd) (k : BitVec 32) (s : State) : Out := fun1 .rsq c .rne ftz d a k s
/-- FEX2 (R200). -/
def execFex2 (c : Common) (ftz : Bool) (d a : Opnd) (k : BitVec 32) (s : State) : Out := fun1 .ex2 c .rne ftz d a k s
/-- FLG2 (R200). -/
def execFlg2 (c : Common) (ftz : Bool) (d a : Opnd) (k : BitVec 32) (s : State) : Out := fun1 .lg2 c .rne ftz d a k s
/-- FSIN (R200). -/
def execFsin (c : Common) (ftz : Bool) (d a : Opnd) (k : BitVec 32) (s : State) : Out := fun1 .sin c .rne ftz d a k s
/-- FCOS (R200). -/
def execFcos (c : Common) (ftz : Bool) (d a : Opnd) (k : BitVec 32) (s : State) : Out := fun1 .cos c .rne ftz d a k s
/-- FTANH (R200). -/
def execFtanh (c : Common) (ftz : Bool) (d a : Opnd) (k : BitVec 32) (s : State) : Out := fun1 .tanh c .rne ftz d a k s

/-- The class of a pattern, as a bit number (R201). -/
def classOf (x : Nat) : Nat :=
  if fp32.isNan x then (if fp32.frac x ≥ 2 ^ 22 then 9 else 8)
  else
    let neg := fp32.sign x
    if fp32.isInf x then (if neg then 0 else 7)
    else if fp32.exp x != 0 then (if neg then 1 else 6)
    else if fp32.frac x != 0 then (if neg then 2 else 5)
    else if neg then 3 else 4

/-- FCLASS (R201). -/
def execFclass (c : Common) (d a : Opnd) (k : BitVec 32) (s : State) : Out :=
  vecOp c [nm d false] [nm a false] (fun g t => [⟨d, false, BitVec.ofNat 64 (2 ^ classOf (fpSrc g t k false a))⟩]) s

end Sys2Proof.Machine
end

