-- ==== Sys2Proof/Machine/Route.lean ====
section
/-! DEFINITION. Plans, peers and routes (11 R257-R263), the check of a fabric-bound operation (R264), and the sending of a flit
with its transaction (R250, R262). -/

namespace Sys2Proof.Machine

/-! The plan's fields (R258). -/

def planMembers (p : BitVec 1024) : BitVec 16 := p.extractLsb' 0 16
def planCoord (p : BitVec 1024) : Nat := (p.extractLsb' 16 4).toNat
def planIdent (p : BitVec 1024) : Bool := p.getLsbD 33
def planDrain (p : BitVec 1024) : Nat := (p.extractLsb' 64 16).toNat
def planReady (p : BitVec 1024) : Nat := (p.extractLsb' 80 16).toNat
def planLight (p : BitVec 1024) : Nat := (p.extractLsb' 96 16).toNat
/-- The entry for port i: its V bit, the device at the far end, the circuit-switch port. -/
def planV (p : BitVec 1024) (i : Nat) : Bool := p.getLsbD (512 + 32 * i + 31)
def planPeer (p : BitVec 1024) (i : Nat) : Nat := (p.extractLsb' (512 + 32 * i + 16) 4).toNat
def planCport (p : BitVec 1024) (i : Nat) : Nat := (p.extractLsb' (512 + 32 * i) 16).toNat
def planEntry (p : BitVec 1024) (i : Nat) : BitVec 32 := p.extractLsb' (512 + 32 * i) 32

/-- The fields of the fabric block's first word (R257). -/
def State.owner (s : State) : BitVec 20 := s.fabReg.extractLsb' 16 20
def State.ownv (s : State) : Bool := s.fabReg.getLsbD 7
def State.cswitch (s : State) : Bool := s.fabReg.getLsbD 6
def State.devid (s : State) : Nat := (s.fabReg.extractLsb' 0 4).toNat

/-- The plan in a slot. -/
def State.planAt (s : State) (slot : Nat) : Option (BitVec 1024) := (s.plans.find? (·.1 == slot)).map (·.2)

/-- The current plan with its slot (R260). -/
def State.curPlan (s : State) : Option (Nat × BitVec 1024) :=
  match s.plan with
  | some slot => (s.planAt slot).map (fun p => (slot, p))
  | none => none

/-- The ports that the plan joins to a device. -/
def planPorts (part : Part) (p : BitVec 1024) (d : Nat) : List Nat :=
  (List.range (Config.ports part)).filter (fun i => planV p i && planPeer p i == d)

/-- The members through which a device is reached by relay under a plan (R259). -/
def relays (part : Part) (slot : Nat) (p : BitVec 1024) (d : Nat) : List Nat :=
  (List.range 16).filter (fun q => q != d && (planMembers p).getLsbD q && !(planPorts part p q).isEmpty
    && (Config.relayPort slot q d).isSome)

/-- The peer set of the current plan (R259). -/
def State.isPeer (s : State) (d : Nat) : Bool :=
  match s.curPlan with
  | some (slot, p) => (planMembers p).getLsbD d && d != s.devid
      && (!(planPorts s.part p d).isEmpty || !(relays s.part slot p d).isEmpty)
  | none => false

def State.portUp (s : State) (i : Nat) : Bool :=
  match s.port? i with
  | some p => p.st == .up
  | none => false

/-- The trained port to a device for a line of it (R261): by the line's number modulo the number of such ports. -/
def State.directPort (s : State) (p : BitVec 1024) (d line : Nat) : Option Nat :=
  let ps := (planPorts s.part p d).filter s.portUp
  ps[line % ps.length]?

/-- The depth in flits of a port's queue. -/
def State.depth (s : State) (i : Nat) : Nat := ((s.port? i).map (·.out.length)).getD 0

/-- The cost of a relay through a port of this device and a port of the relay's (R262): Lq + 16 × Dq. -/
def State.relayCost (s : State) (port far : Nat) : Nat :=
  s.depth port + 16 * (match s.port? port with
    | some p => p.depths.getD far 0
    | none => 0)

/-- The relay with trained ports to both devices and the least cost, the lowest device ID among equals (R261, R262): this device's port to
it. -/
def State.relayPortFor (s : State) (slot : Nat) (p : BitVec 1024) (d line : Nat) : Option Nat :=
  let cands := (relays s.part slot p d).filterMap (fun q =>
    match s.directPort p q line, Config.relayUp slot q d line s.clock.toNat with
    | some i, some j => some (s.relayCost i j, i)
    | _, _ => none)
  (cands.foldl (fun (best : Option (Nat × Nat)) c => match best with
    | none => some c
    | some b => if c.1 < b.1 then some c else some b) none).map (·.2)

/-- The line of an aperture offset. -/
def flitOffset (f : Flit) : Nat := (f.hdr.extractLsb' 88 40).toNat
def flitGen (f : Flit) : BitVec 32 := f.hdr.extractLsb' 56 32
def flitTxn (f : Flit) : Nat := (f.hdr.extractLsb' 40 16).toNat
def flitLen (f : Flit) : Nat := (f.hdr.extractLsb' 34 6).toNat
def flitRelayed (f : Flit) : Bool := f.hdr.getLsbD 31
def flitPsn (f : Flit) : Bool := f.hdr.getLsbD 30
def hdrDst (h : BitVec 128) : Nat := (h.extractLsb' 12 4).toNat
def hdrSrc (h : BitVec 128) : Nat := (h.extractLsb' 8 4).toNat
def hdrType (h : BitVec 128) : Nat := (h.extractLsb' 0 8).toNat

/-- A flit header (R250). -/
def mkHdr (offset : Nat) (gen : BitVec 32) (txn len : Nat) (relayed psn : Bool) (dst src type : Nat) : BitVec 128 :=
  BitVec.ofNat 128 (offset % 2 ^ 40 * 2 ^ 88 + gen.toNat * 2 ^ 56 + txn % 2 ^ 16 * 2 ^ 40 + len % 64 * 2 ^ 34
    + (if relayed then 2 ^ 31 else 0) + (if psn then 2 ^ 30 else 0) + dst % 16 * 2 ^ 12 + src % 16 * 2 ^ 8 + type % 256)

/-- The path of an operation to a line of a device (R261, R262): the one that an outstanding operation to that line took, else
a direct port, else a relay. -/
def State.pathTo (s : State) (d off : Nat) : Option Nat :=
  match s.txns.find? (fun t => t.dst == d && flitOffset t.flit / 128 == off / 128 && t.port.any s.portUp) with
  | some t => t.port
  | none =>
    match s.curPlan with
    | none => none
    | some (slot, p) =>
      match s.directPort p d (off / 128) with
      | some i => some i
      | none => s.relayPortFor slot p d (off / 128)

/-- Put an item on a port's queue. -/
def State.enqueue (s : State) (port : Nat) (it : OutItem) : State := s.modPort port (fun p => { p with out := p.out ++ [it] })

/-! Flits that are no request of this device: replies, collective control, what it relays. -/

def OutItem.hdr : OutItem → BitVec 128
  | .flit f => f.hdr
  | .short f => f.hdr

/-- The way of a flit: one that has been relayed goes on by a direct port alone (R261). -/
def State.wayOf (s : State) (it : OutItem) : Option Nat :=
  let off := (it.hdr.extractLsb' 88 40).toNat
  if it.hdr.getLsbD 31 then s.curPlan.bind (fun p => s.directPort p.2 (hdrDst it.hdr) (off / 128)) else s.pathTo (hdrDst it.hdr) off

/-- Send an item; with no path it waits for one (R263). -/
def State.sendItem (s : State) (it : OutItem) : State :=
  match s.wayOf it with
  | some i => s.enqueue i it
  | none => { s with stranded := s.stranded ++ [(it, s.time)] }

/-- The credit class of a flit type (R256); none for the types that spend none. -/
def creditClass (type : Nat) : Option Nat :=
  if 1 ≤ type && type ≤ 3 then some 0
  else if type = 4 || type = 5 || type = 7 then some 1
  else if type = 6 then some 2
  else if 0x11 ≤ type && type ≤ 0x14 then some 3
  else none

/-- A freed buffer entry owes its credit to the far end (R256). -/
def State.oweCredit (s : State) (port type : Nat) : State :=
  match creditClass type with
  | some c => s.modPort port (fun p => { p with owed := p.owed.modify c (· + 1) })
  | none => s

/-- A flit leaves this device: the entry of one that was relayed, at the port that it came by, is free (R256). -/
def State.forwarded (s : State) (it : OutItem) : State :=
  match s.relaying.find? (·.2 == it.hdr) with
  | some x => ({ s with relaying := s.relaying.erase x }).oweCredit x.1 (hdrType it.hdr)
  | none => s

/-- A flit of another device that this one relays (R261). -/
def OutItem.relayed : OutItem → Bool
  | .flit f => flitRelayed f
  | .short _ => false

/-- A flit without a path since this time is given up: 1 ms has passed (R263). -/
def State.lostPath (s : State) (since : Nat) : Bool := s.time ≥ since + 1000 * microsecond

/-- Flits that had no path and now have one leave; one that has waited for 1 ms is lost (R263) (log 107, DEDUCED, safe). -/
def State.unstrand (s : State) : State :=
  s.stranded.foldl (fun (s : State) x =>
    if s.lostPath x.2 then s.forwarded x.1
    else match s.wayOf x.1 with
      | some i => s.enqueue i x.1
      | none => { s with stranded := s.stranded ++ [x] }) { s with stranded := [] }

/-- Send a request flit: it takes a transaction, and leaves by its path; without one it waits for a path (R263). -/
def State.sendFlit (s : State) (dst type off len : Nat) (psn : Bool) (payload : List Byte) (op cmd : Option Nat) (lane : Nat) :
    Nat × State :=
  let (id, s) := s.fresh
  let f : Flit := ⟨mkHdr off s.tgen id len false psn dst s.devid type, payload⟩
  let port := s.pathTo dst off
  let s := { s with
    txns := s.txns ++ [⟨id, dst, f, op, cmd, lane, 0, none, if port.isNone then some s.time else none, port, false⟩] }
  (id, match port with
    | some i => s.enqueue i (.flit f)
    | none => s)

/-- The check of a fabric-bound operation at issue (R264). -/
inductive Topo where
  | go | stale | wait
  deriving DecidableEq, Repr

def State.topo (s : State) (b : Block) : Topo :=
  match s.trans with
  | none => if b.etgen == s.tgen then .go else .stale
  | some t => if b.etgen == t.new && t.new != t.old then .wait else .stale

end Sys2Proof.Machine
end

