-- ==== Sys2Proof/Machine/Access.lean ====
section
/-! DEFINITION. One thread's access of memory: addresses (04 R82, R83), loads, stores and atomics at the place that serves them
(R89, R93, R99, R100, R47, 05 R127), releases and acquires (04 R97, 05 R121), and what happens to the accesses that fault or
leave for a peer (03 R80, 11 R267). -/

namespace Sys2Proof.Machine

/-- The effective address (R82): a 64-bit sum that wraps. -/
def effAddr (g : Group) (t : Thread) (wideBase : Bool) (a : Opnd) (idx : Option Opnd) (scale : Nat) (off : BitVec 24) :
    BitVec 64 :=
  readOp g t 0 .uint wideBase a
    + (match idx with
      | some b => (loWord (readOp g t 0 .uint false b)).signExtend 64 <<< scale
      | none => 0)
    + off.signExtend 64

/-- A loaded value in its register form (R89). -/
def loadValue (ty : Ty) (raw : Nat) : BitVec 64 :=
  if ty.wide then BitVec.ofNat 64 raw else wrapInt 32 (intVal ty (BitVec.ofNat 64 raw))

/-- The new value of an atomic (R98, R99). -/
def atomNew (op : AtomOp) (ty : Ty) (o v cmp : BitVec 64) : BitVec 64 :=
  let w := tyBits ty
  match op with
  | .add => wrapInt w (o.toNat + v.toNat)
  | .min => if intVal ty v < intVal ty o then v else o
  | .max => if intVal ty v > intVal ty o then v else o
  | .and => o &&& v
  | .or => o ||| v
  | .xor => o ^^^ v
  | .exch => v
  | .cas => if o = cmp then v else o
  | .fadd => BitVec.ofNat 64 (fpAdd fp32 .rne o.toNat v.toNat)

/-- What one thread's access comes to. -/
inductive Got where
  /-- performed, with a load's value or an atomic's old value -/
  | val (x : BitVec 64)
  | done
  | fault (k : FaultKind)
  | trap (t : Trap)
  /-- for a peer: the device and the aperture offset -/
  | far (dst off : Nat)
  /-- an update without a result met a poisoned word (R60) -/
  | dropped
  deriving DecidableEq, Repr

def accessViolation : Trap := ⟨.accessViolation, 0, 0⟩
def memUncorrectable : Trap := ⟨.memUncorrectable, 0, 0⟩
def misaligned : Trap := ⟨.misaligned, 0, 0⟩

/-- Where an access is made from: the core, whether by an ejected thread, the PASID. -/
structure Site where
  core : Nat
  pip : Bool
  pasid : BitVec 20
  /-- the agent's, which needs no U (R68) -/
  agent : Bool
  deriving DecidableEq, Repr

def Site.cluster (w : Site) : Nat := clusterOf w.core

/-- While the interface is locked no host-window request is made (15 R375). -/
def State.askedHost (s s' : State) : Bool := s.tdi == .locked && s'.hostOut.length != s.hostOut.length

/-- While the interface is locked no host-window request is made (15 R375), and while a harvest of a PASID is under way no slow path of it
ends (03 R79): work that would make or end one waits. -/
def State.hostBarred (s s' : State) : Bool := s.askedHost s' || s'.slowWaits != s.slowWaits

/-- An event whose work has to wait for either has not happened yet. -/
def waitLocked (s : State) (o : Out) : Out :=
  match o with
  | .next s' => if s.hostBarred s' then .next s else o
  | _ => o

/-- The line that a core's L1 holds under a name leaves, if the translation now gives another physical line. -/
def State.sameLine (s : State) (w : Site) (va pa : Nat) : State :=
  match s.l1? w.core w.pasid va with
  | some l => if l.pline == lineOf pa then s else s.dropLine l
  | none => s

/-- A load of n bytes within a line at a virtual address outside the apertures (R89, R91, R127). A host-window load brings what the host
answers. -/
def State.loadPart (s : State) (w : Site) (va n : Nat) : State × Except Got (Nat × Bool) :=
  let hit := if w.pip then none else (s.l1? w.core w.pasid va).filter (·.holds (va % 128) n)
  match hit with
  | some l =>
    let (s, bs, p) := s.loadL1 w.core w.pasid va (l.pline + va % 128) n l.wperm l.seen
    (s.notePoison w.pasid (l.pline + va % 128) p, .ok (leNat bs, p))
  | none =>
    match s.translate w.cluster w.pasid va .read !w.agent with
    | (s, .fault k) => (s, .error (.fault k))
    | (s, .bad) => (s, .error (.trap accessViolation))
    | (s, .ok pa wp seen) =>
      if inHost pa && s.tdi == .locked then (s.holdSlow, .error (.fault .held))
      else if inHost pa then
        let (x, s) := s.free
        ({ s with hostOut := s.hostOut ++ [.read w.pasid (BitVec.ofNat 48 pa) n] }, .ok (x.toNat % 2 ^ (8 * n), false))
      else if w.pip then
        let (s, bs, p) := s.readPlace pa n w.pasid
        (s.notePoison w.pasid pa p, .ok (leNat bs, p))
      else
        let (s, bs, p) := (s.sameLine w va pa).loadL1 w.core w.pasid va pa n wp seen
        (s.notePoison w.pasid pa p, .ok (leNat bs, p))

/-- A load of n bytes: whole where it is aligned (R83), else byte by byte, as only an `LDC` on constant data that stands at no multiple of
the size makes one (log 24, DESIGN CHOICE, safe). -/
def State.loadAt (s : State) (w : Site) (va n : Nat) : State × Except Got (Nat × Bool) :=
  let rec bytes (s : State) (a : Nat) : Nat → State × Except Got (Nat × Bool)
    | 0 => (s, .ok (0, false))
    | k + 1 =>
      match s.loadPart w (a % 2 ^ 57) 1 with
      | (s, .error g) => (s, .error g)
      | (s, .ok (x, p)) =>
        match bytes s (a + 1) k with
        | (s, .error g) => (s, .error g)
        | (s, .ok (y, q)) => (s, .ok (x + 256 * y, p || q))
  if va % n = 0 then s.loadPart w va n else bytes s va n

/-- A store of bytes (R93, R127): through the L1, at the word's place for an ejected thread, or to the host. -/
def State.storeAt (s : State) (w : Site) (va : Nat) (bs : List Byte) : State × Got :=
  let hit := if w.pip then none else (s.l1? w.core w.pasid va).filter (fun l => l.wperm && l.seen)
  match hit with
  | some l => (s.storeL1 w.core w.pasid va (l.pline + va % 128) bs, .done)
  | none =>
    match s.translate w.cluster w.pasid va .write !w.agent with
    | (s, .fault k) => (s, .fault k)
    | (s, .bad) => (s, .trap accessViolation)
    | (s, .ok pa _ _) =>
      if inHost pa && s.tdi == .locked then (s.holdSlow, .fault .held)
      else if inHost pa then ({ s with hostOut := s.hostOut ++ [.write w.pasid (BitVec.ofNat 48 pa) bs] }, .done)
      else if w.pip then (s.writeHome pa bs, .done)
      else ((s.sameLine w va pa).storeL1 w.core w.pasid va pa bs, .done)

/-! Atomics (R99, R100). -/

/-- The AtomicOp of an atomic to the host window, where one exists (R47). -/
def hostOp (op : AtomOp) : Option HostAtomic :=
  match op with
  | .add => some .fetchAdd
  | .exch => some .swap
  | .cas => some .cas
  | _ => none

/-- Where the predictor of a cluster places an atomic on a line: at the home slice where its count is 2 or 3 (R100). -/
def State.placedHome (s : State) (cluster pline : Nat) : Bool :=
  s.predict.any (fun p => p.cluster == cluster && p.pline == pline && p.count.toNat ≥ 2)

/-- A core's own dirty words of a mask, and those it owns that are poisoned, reach the home slice, errors in them having been found and
whatever other core owned them having been recalled. -/
def State.pushOwn (s : State) (core pline : Nat) (ws : BitVec 32) : State :=
  let s := s.meetAll 0 .uncorrectable (ErrPlace.l1Words core pline ws false)
  match s.l1.find? (fun l => l.core == core && l.pline == pline) with
  | none => s
  | some l =>
    let out := (l.dirtyWords ||| (l.owned &&& l.poison)) &&& ws
    if out = 0 then s else s.wordsHome l out

/-- The same where they come from home: the copy's codewords are written. -/
def State.takeWords (s : State) (core pline : Nat) (ws : BitVec 32) : State :=
  (s.overL1 core pline ws ws).copyWords core pline ws

/-- The words of a mask leave a core's L1 line, and its ownership of them ends. -/
def State.forget (s : State) (core pline : Nat) (ws : BitVec 32) : State :=
  (s.modL1 core pline (·.without ws)).modSlice pline (fun x =>
    if x.owner == some core then
      { x with owned := x.owned &&& ~~~ws, owner := if x.owned &&& ~~~ws = 0 then none else x.owner }
    else x)

/-- A core already owns the words of a mask, under a name. -/
def State.owns (s : State) (w : Site) (va : Nat) (ws : BitVec 32) : Bool :=
  (s.l1? w.core w.pasid va).any (fun l => l.owned &&& ws == ws)

/-- Make a core the owner of the words of an atomic placed locally, its copy current (R100, R55). -/
def State.ownWords (s : State) (w : Site) (va pa : Nat) (ws : BitVec 32) (wp seen : Bool) : State :=
  let pline := lineOf pa
  let s := (s.sameLine w va pa).nameLine w.core w.pasid va pa wp seen
  if s.owns w va ws then
    -- the owner's later weak stores stand in its L1 (R120)
    ((s.pushOwn w.core pline ws).takeWords w.core pline ws).noteUse w.core pline
  else
    let s := (s.touchSlice pline w.pasid .uncorrectable).recallOther w.core pline (BitVec.allOnes 32)
    ((s.pushOwn w.core pline ws).register w.core pline ws).takeWords w.core pline ws

/-- An atomic placed at the home slice: the slice recalls the words if another core owns them, the issuing core's copy is discarded, and
the reply reaches the predictor (R100). -/
def State.homeWords (s : State) (w : Site) (pa : Nat) (ws : BitVec 32) : State :=
  let pline := lineOf pa
  let c := s.contended w.core pline
  let s := (s.touchSlice pline w.pasid .uncorrectable).recallOther w.core pline ws
  (((s.pushOwn w.core pline ws).forget w.core pline ws).noteUse w.core pline).predicted w.cluster pline c

/-- Bring the current value of an atomic's words to the home slice, where the operation's value is taken and left; the place
that the predictor names keeps or loses its copy (R100). Every other core finds the result at once (R119). -/
def State.settleWords (s : State) (w : Site) (va pa n : Nat) (wp seen : Bool) : State :=
  let ws := wordMask pa n
  if w.pip then (s.touchSlice (lineOf pa) w.pasid .uncorrectable).recallWords (lineOf pa) ws
  else if s.placedHome w.cluster (lineOf pa) then s.homeWords w pa ws
  else s.ownWords w va pa ws wp seen

/-- The same for a cas that fails: it registers no ownership (R99), and finds the current value all the same, which the core's line, under
whatever name, then holds clean (R115); it counts as an atomic on the line, and the home slice's reply reaches the predictor (R100). -/
def State.settlePeek (s : State) (w : Site) (va pa n : Nat) : State :=
  let ws := wordMask pa n
  let pline := lineOf pa
  if w.pip then (s.touchSlice pline w.pasid .uncorrectable).recallWords pline ws
  else if s.placedHome w.cluster pline then s.homeWords w pa ws
  else if s.owns w va ws then ((s.pushOwn w.core pline ws).takeWords w.core pline ws).noteUse w.core pline
  else
    let c := s.contended w.core pline
    let s := (s.touchSlice pline w.pasid .uncorrectable).recallOther w.core pline ws
    (((s.pushOwn w.core pline ws).takeWords w.core pline ws).noteUse w.core pline).predicted w.cluster pline c

/-- An atomic or reduction on main memory or the host window (R99, R100, R47): the old value, or none where the word is
poisoned and no result is asked for (R60) (log 42, DEDUCED, safe). -/
def State.atomAt (s : State) (w : Site) (va : Nat) (op : AtomOp) (ty : Ty) (v cmp : BitVec 64) (result : Bool) :
    State × Got :=
  let n := ty.size
  let go (s : State) (pa : Nat) (wp seen : Bool) : State × Got :=
    let s := (s.settleWords w va pa n wp seen).visit pa n w.pasid
    if s.poisonedRange pa n then (s.notePoison w.pasid pa true, if result then .trap memUncorrectable else .dropped)
    else
      let o := BitVec.ofNat 64 (s.mem.le pa n)
      let x := atomNew op ty o v cmp
      let s := s.putHome pa (leBytes x.toNat n)
      let s := if w.pip then s else s.copyWords w.core (lineOf pa) (wordMask pa n &&&
        (match s.l1? w.core w.pasid va with
          | some l => l.owned
          | none => 0))
      (s, .val o)
  let host (s : State) (pa : Nat) : State × Got :=
    match hostOp op with
    | none => (s, .trap accessViolation)
    | some h =>
      if s.tdi == .locked then (s.holdSlow, .fault .held)
      else
      let (x, s) := s.free
      ({ s with hostOut := s.hostOut ++ [.atomic w.pasid h (BitVec.ofNat 48 pa) ty.wide v cmp] },
        .val (BitVec.ofNat 64 (x.toNat % 2 ^ (8 * n))))
  let write (s : State) : State × Got :=
    match s.translate w.cluster w.pasid va .write !w.agent with
    | (s, .fault k) => (s, .fault k)
    | (s, .bad) => (s, .trap accessViolation)
    | (s, .ok pa wp seen) => if inHost pa then host s pa else go s pa wp seen
  if op == .cas then
    -- a failing cas is no write (R99): it sets no D bit, marks no bitmap and registers no ownership
    match s.translate w.cluster w.pasid va .read !w.agent with
    | (_, .fault k) => (s, .fault k)
    | (_, .bad) => (s, .trap accessViolation)
    | (s', .ok pa _ _) =>
      if inHost pa then write s
      else
        let there := (s'.settlePeek w va pa n).visit pa n w.pasid
        let o := BitVec.ofNat 64 (there.mem.le pa n)
        if o == cmp || there.poisonedRange pa n then write s
        else match s'.translate w.cluster w.pasid va .write !w.agent with
          | (s'', .fault k) => (s'', .fault k)
          | (_, .bad) => (s', .trap accessViolation)
          | (_, .ok _ _ _) => (there, .val o)
  else write s

/-- The bytes of an access (R83). -/
def MemOp.size : MemOp → Nat
  | .load ty => ty.size
  | .store n => n
  | .atom _ ty => ty.size

/-- One thread's access (R89, R93, R99). An atomic's result is asked for or not. -/
def State.accessOne (s : State) (w : Site) (result : Bool) (q : MemReq) : State × Got :=
  let va := q.va.toNat
  match aperture va with
  | some (p, off) => (s, if s.isPeer p then .far p off else .trap accessViolation)
  | none =>
    match q.op with
    | .load ty =>
      match s.loadAt w va ty.size with
      | (s, .error g) => (s, g)
      | (s, .ok (raw, poison)) => (s, if poison then .trap memUncorrectable else .val (loadValue ty raw))
    | .store n => s.storeAt w va (leBytes q.v.toNat n)
    | .atom op ty => s.atomAt w va op ty q.v q.cmp result

/-- The read that an access begins with, if it reads. -/
def MemReq.asRead (q : MemReq) : MemReq :=
  { q with op := match q.op with
      | .atom _ ty => .load ty
      | o => o }

/-- The accesses of an instruction, one at a time in the order given (R84). -/
def State.accessAll (s : State) (w : Site) (result : Bool) : List MemReq → State × List (MemReq × Got)
  | [] => (s, [])
  | q :: qs =>
    let (s, g) := s.accessOne w result q
    let (s, r) := s.accessAll w result qs
    (s, (q, g) :: r)

/-- What accesses that trap leave behind, in the order given: the poison reads they logged and the errors they found (02 R58, R59). Nothing is
stored, and nothing leaves for the host. -/
def State.readsOnly (s : State) (w : Site) (l : List MemReq) : State :=
  let reads := (l.map (·.asRead)).filter (fun q => match q.op with
    | .store _ => false
    | _ => true)
  { (s.accessAll w true reads).1 with hostOut := s.hostOut, slowWaits := s.slowWaits }

/-! Releases and acquires (R97, R121, R127). -/

/-- A scope covers more than the core for a group of a block (R97, R127): `.blk` also while a thread of the block is ejected, since its
fences order all threads of the block (R114). -/
def State.wider (s : State) (sc : Scope) (b : Block) (ref : GroupRef) : Bool :=
  match sc with
  | .th => false
  | .grp => s.threads.any (fun t => t.ref == ref && t.pip.isSome)
  | .blk => b.cores > 1 || s.threads.any (fun t => t.ref.launch == ref.launch && t.ref.blk == ref.blk && t.pip.isSome)
  | _ => true

/-- The release half (R97): the core's dirty words reach their home slices. An ejected thread has no L1 (R127). -/
def State.releaseAt (s : State) (w : Site) (wide : Bool) : State := if wide && !w.pip then s.releaseCore w.core else s

/-- The acquire half (R97). -/
def State.acquireAt (s : State) (w : Site) (wide : Bool) : State := if wide && !w.pip then s.acquireCore w.core else s

/-- The cores that hold lines. -/
def State.l1Cores (s : State) : List Nat := (s.l1.map (·.core)).eraseDups

/-- A promotion request (R121): every core writes its dirty words home (log 41, DEDUCED, safe). -/
def State.promote (s : State) : State := s.l1Cores.foldl (fun s c => s.releaseCore c) s

/-- A thread has accesses at a peer in flight, or accesses of the scratchpad that wait for presence: a release, an acquire and an
engine command wait for them (R97, R112) (log 40, DEDUCED, unsafe). -/
def State.remoteWait (s : State) (t : Thread) : Bool :=
  s.txns.any (fun x => x.lane == t.lane && s.inflight.any (fun i => x.op == some i.id && i.ref == t.ref))
    || s.inflight.any (fun i => i.ref == t.ref && i.lanes.getLsbD t.lane && !i.vals.any (·.1 == t.lane) && (match i.wait with
      | .ldsp _ _ _ => true
      | .stsp _ _ _ => true
      | _ => false))

/-- Bytes [a, e) and [b, f) share a 32-bit word. -/
def shareWord (a e b f : Nat) : Bool := a / 4 * 4 < f && b / 4 * 4 < e

/-- An access or a fabric command of a thread that is outstanding at a peer touches a word of n bytes at an offset there: what the thread
does to that word next waits for it (R111, 11 R262, R284). -/
def State.farBusy (s : State) (ref : GroupRef) (lane dst off n : Nat) : Bool :=
  let meets (va len : Nat) : Bool := match aperture (va % 2 ^ 57) with
    | some (p, o) => p == dst && shareWord off (off + n) o (o + len)
    | none => false
  let w (d : List (BitVec 32)) (i : Nat) : Nat := (d.getD i 0).toNat
  s.txns.any (fun x => x.dst == dst && shareWord off (off + n) (flitOffset x.flit) (flitOffset x.flit + max 1 (4 * flitLen x.flit))
      && s.inflight.any (fun i => x.op == some i.id && i.ref == ref && x.lane == lane))
    || s.cmds.any (fun c => c.ref == ref && c.lanes.getLsbD lane && (match c.kind with
      | .put => meets (w c.desc 2 + 2 ^ 32 * w c.desc 3) (w c.desc 4)
      | .get => meets (w c.desc 2 + 2 ^ 32 * w c.desc 3) (w c.desc 4)
      | .fatom _ ty _ _ ea => meets ea.toNat ty.size
      | _ => false))

/-! Completion of an instruction in flight (R27, R28, R80). -/

/-- An instruction in flight has the value of a lane, or a uniform value for all: once nothing of it waits any longer. -/
def Inflight.laneDone (i : Inflight) (lane : Nat) : Bool :=
  let uniform := match i.dst with
    | some (o, _) => o.isUni
    | none => false
  if uniform then
    match i.wait with
    | .handle hs => hs.all (fun h => i.vals.any (·.1 == h.1))
    | .ldsp _ _ eas => eas.isEmpty && !i.vals.isEmpty
    | _ => !i.vals.isEmpty
  else i.vals.any (·.1 == lane)

/-- The lanes whose part is done and not yet written. -/
def Inflight.doneLanes (i : Inflight) : BitVec 64 := lanesOf ((laneList i.lanes).filter i.laneDone)

/-- A completed lane's result is written; one issued on the vector pipe reaches the thread table, and the copy of a thread that has been
ejected since (R302). -/
def Thread.land (t : Thread) (i : Inflight) (o : Opnd) (w : Bool) (x : BitVec 64) : Thread :=
  let t := t.write o w x
  if i.pip || t.pip.isNone then t else { ({ t with pip := none } : Thread).write o w x with pip := t.pip }

/-- Write a completed lane's results. -/
def Thread.finish (t : Thread) (i : Inflight) : Thread :=
  let t := match i.dst, i.vals.find? (·.1 == t.lane) with
    | some (o, w), some (_, x) => t.land i o w x
    | _, _ => t
  match i.dst2, i.val2.find? (·.1 == t.lane) with
  | some o, some (_, b) => t.land i o false (if b then 1 else 0)
  | _, _ => t

/-- A uniform destination takes the last value found. -/
def Group.finish (g : Group) (i : Inflight) : Group :=
  match i.dst, i.vals.getLast? with
  | some (o, w), some (_, x) => g.write o w x
  | _, _ => g

/-- The site of an instruction in flight. -/
def State.siteOf (s : State) (i : Inflight) : Option (Site × Launch × Block × Group) :=
  match s.group? i.ref, s.launch? i.ref.launch, s.block? i.ref.launch i.ref.blk with
  | some g, some l, some b => some (⟨g.core, i.pip, l.pasid, l.agent⟩, l, b, g)
  | _, _, _ => none

/-- A thread leaves whatever run of its group it issues in, at once. -/
def State.pullThread (s : State) (ref : GroupRef) (lane : Nat) : State :=
  { s with
    runs := (s.runs.map (fun (r : Run) => if r.ref == ref then { r with lanes := setBit r.lanes lane false } else r)).filter
      (fun (r : Run) => r.lanes != 0) }

/-- A thread traps at an instruction that was in flight; an ejected one is recalled before it, and executes it on the vector pipe (R305,
R306). -/
def State.trapBack (s : State) (i : Inflight) (lane : Nat) (tr : Trap) : State :=
  match s.thread? i.ref lane with
  | none => s
  | some t =>
    if t.pip.isSome then
      ((s.endPipRun i.ref lane).modThread i.ref lane (fun t => { t with pc := i.pc, resume := i.clause })).recallThread i.ref lane
    else (s.pullThread i.ref lane).trapThread i.ref lane tr i.pc i.clause

/-- Lanes of an instruction in flight trap at it (R80, R89, R267): it completes without them (log 37, DEDUCED, safe). -/
def State.trapFlight (s : State) (id : Nat) (lanes : BitVec 64) (tr : Trap) : State :=
  match s.inflight.find? (·.id == id) with
  | none => s
  | some i =>
    let bad := i.lanes &&& lanes
    let left := i.lanes &&& ~~~bad
    let s := if left = 0 then
        let s := { s with inflight := s.inflight.filter (·.id != id) }
        match i.flag with
        | some f => s.modFlags i.ref i.pip i.lanes (fun m => flagDown m f.toNat)
        | none => s
      else { s with inflight := modify (·.id == id) (fun i => { i with lanes := left }) s.inflight }
    ((laneList bad).foldl (fun (s : State) l => s.trapBack i l tr) s).recallDue i.ref

/-- The RET of a thread whose return stack lies at a peer gets its offset (12 R293, 11 R267). -/
def State.finishRet (s : State) (i : Inflight) (lane : Nat) (x : BitVec 64) : State :=
  match s.launch? i.ref.launch with
  | none => s
  | some l =>
    let t := (loWord x).toNat
    if t % 12 != 0 then s.trapFlight i.id (lanesOf [lane]) misaligned
    else if t ≥ l.lr.codesize.toNat then s.trapFlight i.id (lanesOf [lane]) accessViolation
    else
      (s.modThread i.ref lane (fun th =>
        { th with
          pc := l.lr.codeaddr + BitVec.ofNat 64 t, resume := none, d := th.d - 1
          cond := if th.stepping then .halted else if th.pip.isSome then .ejected else .issuable })).stepStops

/-- Threads held until their part of an instruction in flight is done go on behind it. -/
def State.releaseFlight (s : State) (i : Inflight) (done : BitVec 64) : State :=
  (s.modThreads (fun t => t.ref == i.ref && done.getLsbD t.lane)
    (fun t => match t.cond with
      | .held (.inflight id last) => if id = i.id then t.goOn last else t
      | _ => t)).stepStops

/-- The writes that an instruction in flight makes when it completes, of whatever values. -/
def Inflight.wrs (i : Inflight) : List Wr :=
  match i.dst with
  | some (o, w) => [⟨o, w, 0⟩]
  | none => []

/-- Errors where an instruction in flight writes its results (02 R58, R59). -/
def State.overFlight (s : State) (i : Inflight) (done : BitVec 64) : State :=
  let s := if i.pip then s else (laneList done).foldl (fun (s : State) l => s.overVregs i.ref l (vregsOf i.wrs)) s
  s.overSregs i.ref (sregsOf i.wrs)

/-- The ejected threads that hold a copy of the uniform register which an instruction in flight writes (R305). -/
def State.copyHolders (s : State) (i : Inflight) : List Thread :=
  (s.groupThreads i.ref).filter (fun t => t.pip.any (fun p => match i.dst with
    | some (.s k, w) => anyBit p.hos k.val (if w then 2 else 1)
    | _ => false))

/-- They are recalled before it completes (R305, R307). -/
def State.recallHolders (s : State) (i : Inflight) : State :=
  (s.copyHolders i).foldl (fun (s : State) t => s.recallThread t.ref t.lane) s

/-- The done lanes of an instruction in flight complete: registers are written, a region it ends is ended where the thread was inside it
at issue, held threads go on, and its acquire is made for them (R112, R124); when the last lane is done its flag's count falls, and recalls
that waited for it are made (R27, R28, R33, R306). A uniform register that an ejected thread holds a copy of is written once that thread
has been recalled (R305). -/
def State.completeLanes (s : State) (id : Nat) : State :=
  match s.inflight.find? (·.id == id) with
  | none => s
  | some i =>
    let done := i.doneLanes
    if done = 0 then s
    else if !((s.recallHolders i).copyHolders i).isEmpty then s.recallHolders i
    else
      let s := ((s.recallHolders i).overFlight i done).modThreads (fun t => t.ref == i.ref && done.getLsbD t.lane) (·.finish i)
      let s := s.modGroup i.ref (·.finish i)
      let s := if i.ends then s.endRegion i.ref (s.insideSince i.ref done i.id) else s
      let s := if i.isRet then i.vals.foldl (fun (s : State) v => if done.getLsbD v.1 then s.finishRet i v.1 v.2 else s) s
        else s.releaseFlight i done
      let left := i.lanes &&& ~~~done
      if !s.inflight.any (·.id == id) then s
      else
        let s := match i.acq, s.siteOf i with
          | some sc, some (w, _, b, g) => s.acquireAt w (s.wider sc b g.ref)
          | _, _ => s
        if left = 0 then
          let s := { s with inflight := s.inflight.filter (·.id != id) }
          let s := match i.flag with
            | some f => s.modFlags i.ref i.pip i.lanes (fun m => flagDown m f.toNat)
            | none => s
          s.recallDue i.ref
        else
          State.recallDue
            { s with inflight := modify (·.id == id) (fun i => { i with lanes := i.lanes &&& ~~~done }) s.inflight } i.ref

/-- A value arrives for a lane of an instruction in flight. -/
def State.arrive (s : State) (id lane : Nat) (x : BitVec 64) : State :=
  { s with inflight := modify (·.id == id) (fun i => { i with vals := i.vals.filter (·.1 != lane) ++ [(lane, x)] }) s.inflight }

/-! The results of an instruction's accesses. -/

def faultsOf (r : List (MemReq × Got)) : List (MemReq × FaultKind) :=
  r.filterMap (fun x => match x.2 with
    | .fault k => some (x.1, k)
    | _ => none)
def farsOf (r : List (MemReq × Got)) : List (MemReq × Nat × Nat) :=
  r.filterMap (fun x => match x.2 with
    | .far d o => some (x.1, d, o)
    | _ => none)
def valsOf (r : List (MemReq × Got)) : List (Nat × BitVec 64) :=
  r.filterMap (fun x => match x.2 with
    | .val v => some (x.1.lane, v)
    | .done => some (x.1.lane, 0)
    | _ => none)
def trapsOf (r : List (MemReq × Got)) : List (Nat × Trap) :=
  r.filterMap (fun x => match x.2 with
    | .trap t => some (x.1.lane, t)
    | _ => none)
def droppedOf (r : List (MemReq × Got)) : List MemReq :=
  r.filterMap (fun x => match x.2 with
    | .dropped => some x.1
    | _ => none)

/-- A core's operand log has room (R80: 64 entries). -/
def State.logRoom (s : State) (core : Nat) : Bool :=
  (s.oplog.filter (fun e => e.core == core && match e.site with
    | .instr _ _ => true
    | _ => false)).length < 64

/-- One entry of the operand log for the faulting threads of an instruction in flight (R80). -/
def State.logFaults (s : State) (w : Site) (id : Nat) (pc : BitVec 64) (clause : Option Resume)
    (fs : List (MemReq × FaultKind)) : State :=
  match fs with
  | [] => s
  | (q, k) :: _ =>
    let (e, s) := s.fresh
    { s with
      oplog := s.oplog ++ [⟨e, w.core, w.pasid, k, q.va, .instr id fs, pc, clause⟩]
      inflight := modify (·.id == id) (fun i => { i with wait := .logged e }) s.inflight }

/-- The payload of an access's request flit: a read carries its type and its place in the word, a write its bytes, a write of part of a word
its count and bytes, an atomic its operation, type and operands (the spec lays out neither) (log 98, DESIGN CHOICE, unsafe). -/
def reqPayload (q : MemReq) : List Byte :=
  match q.op with
  | .load ty => [ty.code.setWidth 8, BitVec.ofNat 8 (q.va.toNat % 4)]
  | .store n => (if n < 4 then [BitVec.ofNat 8 n] else []) ++ leBytes q.v.toNat n
  | .atom op ty =>
    [op.code.setWidth 8, ty.code.setWidth 8] ++ List.replicate 6 0 ++ leBytes q.v.toNat 8 ++ leBytes q.cmp.toNat 8

/-- The flit type, offset and length in words of an access's request (R250): a read below a word reads its whole word, a write
below a word has length 0. -/
def reqType (q : MemReq) : Nat :=
  match q.op with
  | .load _ => 1
  | .store _ => 2
  | .atom _ _ => 3
def reqOff (q : MemReq) (off : Nat) : Nat :=
  match q.op with
  | .load _ => off / 4 * 4
  | _ => off
def reqLen (q : MemReq) : Nat :=
  match q.op with
  | .load ty => (ty.size + 3) / 4
  | .store n => n / 4
  | .atom _ _ => 6

/-- Send the requests of an instruction in flight to their peers (R267). -/
def State.sendReqs (s : State) (id : Nat) : List (MemReq × Nat × Nat) → List Nat → State
  | [], [] => s
  | [], ts => { s with inflight := modify (·.id == id) (fun i => { i with wait := .remote ts }) s.inflight }
  | (q, d, off) :: rest, ts =>
    let (t, s) := s.sendFlit d (reqType q) (reqOff q off) (reqLen q) false (reqPayload q) (some id) none q.lane
    s.sendReqs id rest (ts ++ [t])

end Sys2Proof.Machine
end

