-- ==== Sys2Proof/Machine/FlushLog.lean ====
section
/-! DEFINITION. The flush log of a deterministic launch (04 R102-R104): the entries in memory, their global order, the runs that the cores
write. -/

namespace Sys2Proof.Machine

/-- The key of an entry in the global order. -/
def DetEntry.key (e : DetEntry) : List Nat := [e.hash.toNat, e.block, e.gid, e.lane, e.seq]

/-- Lexicographic order of keys. -/
def keyLt : List Nat → List Nat → Bool
  | a :: as, b :: bs => a < b || (a == b && keyLt as bs)
  | [], _ :: _ => true
  | _, [] => false

def insertEntry (e : DetEntry) : List DetEntry → List DetEntry
  | [] => [e]
  | x :: xs => if keyLt e.key x.key then e :: x :: xs else x :: insertEntry e xs

/-- Entries in global order (R104). -/
def globalOrder (l : List DetEntry) : List DetEntry := l.foldr insertEntry []

/-- A flush-log entry (R103). -/
def DetEntry.toNat (e : DetEntry) : Nat :=
  e.v.toNat * 2 ^ 448 + e.cmp.toNat * 2 ^ 384 + e.va.toNat * 2 ^ 327 + e.hash.toNat * 2 ^ 288 + e.block % 2 ^ 32 * 2 ^ 256
    + e.gid % 512 * 2 ^ 247 + e.lane % 64 * 2 ^ 241 + e.seq % 2 ^ 24 * 2 ^ 217 + e.op.code.toNat * 2 ^ 213
    + e.ty.code.toNat * 2 ^ 209

/-- A block's share of the flush log, in entries (R102). -/
def detShare (l : LaunchRec) : Nat := l.flsize.toNat / 64 / l.nblk

/-- Write an entry into the flush log at its place, which lies at fladdr in the launch's PASID. A write held for a harvest is made when the
harvest ends (R79); where the page cannot be written the device alone has the entry (log 132, DESIGN CHOICE, unsafe). -/
def State.writeEntry (s : State) (core : Nat) (l : Launch) (e : DetEntry) : State :=
  let va := (l.lr.fladdr.toNat + 64 * (detShare l.lr * e.block + e.slot)) % 2 ^ 57
  match s.translate (clusterOf core) l.pasid va .write true with
  | (s', .ok pa _ _) => if inHost pa then s else s'.writeHome pa (leBytes e.toNat 64)
  | (s', .fault .held) =>
    let (id, s') := s'.fresh
    { s' with
      oplog := s'.oplog ++ [⟨id, core, l.pasid, .held, BitVec.ofNat 57 va, .entry l.id e.block e.slot, 0, none⟩] }
  | _ => s

/-- Places for a run of entries in a share of so many, beside those in use: one behind the other where such places are free. -/
def runSlots (used : List Nat) (share n : Nat) : List Nat :=
  match (0 :: used.map (· + 1)).find? (fun k => k + n ≤ share && used.all (fun u => u < k || k + n ≤ u)) with
  | some k => (List.range n).map (k + ·)
  | none => ((List.range (used.length + n)).filter (!used.contains ·)).take n

/-- Entries of a block are put into its share as one run sorted by the order key (R103; the places are the device's own), beside those
that stand there. -/
def State.putRun (s : State) (core : Nat) (l : Launch) (blk : Nat) (es : List DetEntry) : State :=
  let run := globalOrder es
  let used := (s.det.filter (fun e => e.launch == l.id && e.block == blk && e.buf.isNone && !es.contains e)).map (·.slot)
  let put := (run.zip (runSlots used (detShare l.lr) run.length)).map (fun x => (x.1, { x.1 with buf := none, slot := x.2 }))
  put.foldl (fun (s : State) x => State.writeEntry { s with det := modify (· == x.1) (fun _ => x.2) s.det } core l x.2) s

/-- Entries of a core's buffer go to their blocks' shares, a run for each, and leave the buffer (R103). -/
def State.drainBuffer (s : State) (core : Nat) (p : DetEntry → Bool) : State :=
  let es := s.det.filter (fun e => e.buf == some core && p e)
  ((es.map (fun e => (e.launch, e.block))).eraseDups).foldl (fun (s : State) x =>
    match s.launch? x.1 with
    | some l => s.putRun core l x.2 (es.filter (fun e => e.launch == x.1 && e.block == x.2))
    | none => s) s

/-- Every core's buffer is drained of some entries: at a flush, or by the Proofer (R103, R104, R106). -/
def State.drainBuffers (s : State) (p : DetEntry → Bool) : State :=
  (((s.det.filter p).filterMap (·.buf)).eraseDups).foldl (fun (s : State) c => s.drainBuffer c p) s

/-- The entries that an image brought are written back into a block's share (14 R365 step 4) (log 131, DEDUCED, safe). -/
def State.restoreLog (s : State) (l : Launch) (b : Block) : State :=
  s.putRun b.core l b.idx (s.det.filter (fun e => e.launch == l.id && e.block == b.idx))

/-- An entry whose write was held for a harvest is written, if it is still in the log (R79). -/
def State.rewriteEntry (s : State) (core launch blk slot : Nat) : State :=
  match s.launch? launch, s.det.find? (fun e => e.launch == launch && e.block == blk && e.buf.isNone && e.slot == slot) with
  | some l, some e => s.writeEntry core l e
  | _, _ => s

end Sys2Proof.Machine
end

