-- ==== Sys2Proof/Machine/Meet.lean ====
section
/-! DEFINITION. Meeting points: threads held at an instruction and released from it (09 R213, 12 R288), block barriers (13
R327-R329), wide barriers and flush points over the blocks of a launch (R330-R332) with the deterministic flush they start (04
R104, R105). -/

namespace Sys2Proof.Machine

/-- Some threads of the issuing run are held at its instruction; the others go on with their clause (R213). -/
def State.holdSome (s : State) (c : Ctx) (k : Common) (lanes : BitVec 64) (h : Hold) : State :=
  let r := c.run
  let left := r.lanes &&& ~~~lanes
  let held (s : State) : State :=
    s.modThreads (fun t => t.ref == r.ref && lanes.getLsbD t.lane)
      (fun t => { t with pc := r.pc, resume := r.resume, cond := .held h, aging := 0, deferred := false })
  if left = 0 then held (s.endClause r k.yld)
  else (held (s.modRun (fun r => { r with lanes := left }))).goOnRun { r with lanes := left } k

/-- Held threads that a test names go on behind their instruction; their regions end where the instruction ends them; their
cores acquire where the scope is wider than the core (R97). -/
def State.releaseHeld (s : State) (p : Thread → Option Bool) (ends wide : Bool) : State :=
  let who := s.threads.filter (fun t => (p t).isSome)
  let s := if ends then who.foldl (fun (s : State) t => s.endRegion t.ref (lanesOf [t.lane])) s else s
  let s := State.stepStops { s with
    threads := s.threads.map (fun t => match p t with
      | some last => t.goOn last
      | none => t) }
  if wide then
    ((who.filterMap (fun t => (s.group? t.ref).map (·.core))).eraseDups).foldl (fun (s : State) c => s.acquireCore c) s
  else s

/-! Block barriers. -/

/-- Threads of a block that have exited and did not arrive at a barrier in a phase (R328). -/
def State.exitedNotArrived (s : State) (launch blk b : Nat) (phase : BitVec 32) : Nat :=
  ((s.blockThreads launch blk).filter (fun t => t.cond == .exited && !t.arrived.contains (b, phase))).length

/-- A held thread waits at a barrier for the end of a phase: whether its instruction is the last of its clause. -/
def atBarrier (launch blk b : Nat) (phase : BitVec 32) (t : Thread) : Option Bool :=
  if !inBlock t.ref launch blk then none
  else match t.cond with
    | .held (.bar i p last) => if i = b ∧ p = phase then some last else none
    | .held (.barw i p last) => if i = b ∧ p = phase then some last else none
    | _ => none

/-- Complete a phase of a barrier once its arrivals and the exited threads reach the latched count (R328); not while the
Proofer has frozen it (R329). -/
def State.settleBar (s : State) (launch blk b : Nat) : State :=
  match s.block? launch blk with
  | none => s
  | some k =>
    match k.bars[b]? with
    | none => s
    | some bar =>
      if k.frozen || bar.arrivals = 0 || bar.arrivals + s.exitedNotArrived launch blk b bar.phase < bar.elatch then s
      else
        let s := s.modBlock launch blk (fun k =>
          { k with bars := k.bars.modify b (fun x => { x with phase := x.phase + 1, arrivals := 0 }) })
        let s := s.modThreads (fun t => inBlock t.ref launch blk)
          (fun t => { t with arrived := t.arrived.filter (·.1 != b) })
        s.releaseHeld (atBarrier launch blk b bar.phase) true (k.cores > 1)

def State.settleBars (s : State) (launch blk : Nat) : State :=
  match s.block? launch blk with
  | none => s
  | some k => (List.range k.bars.length).foldl (fun s b => s.settleBar launch blk b) s

/-- One thread's arrival at a barrier with an expected count (R328). -/
def State.arriveBar (s : State) (ref : GroupRef) (lane b e : Nat) : State :=
  match s.block? ref.launch ref.blk with
  | none => s
  | some k =>
    match k.bars[b]? with
    | none => s
    | some bar =>
      (s.modBlock ref.launch ref.blk (fun k =>
        { k with
          bars := k.bars.modify b (fun x =>
            { x with elatch := if x.arrivals = 0 then e else x.elatch, arrivals := x.arrivals + 1 }) })).modThread ref lane
        (fun t => { t with arrived := (b, bar.phase) :: t.arrived })

/-! The deterministic flush (R104, R105). -/

/-- A core that speaks for a launch: of one of its blocks. -/
def State.launchCore (s : State) (launch : Nat) : Nat :=
  ((s.blocks.find? (fun b => b.launch == launch && b.life == .placed)).map (·.core)).getD 0

/-- What applying an entry comes to. -/
inductive Applied where
  | yes | poison | never
  | fault (k : FaultKind)
  deriving DecidableEq, Repr

/-- Apply one entry at its home slice (R104, R99); one in the host window or the empty range cannot be applied (R105). -/
def State.applyEntry (s : State) (w : Site) (e : DetEntry) : State × Applied :=
  match s.translate w.cluster w.pasid e.va.toNat (if e.op == .cas then .read else .write) true with
  | (s, .fault k) => (s, .fault k)
  | (s, .bad) => (s, .never)
  | (s, .ok pa _ _) =>
    if inHost pa then (s, .never)
    else
      match s.atomAt w e.va.toNat e.op e.ty e.v e.cmp false with
      | (s, .val _) => (s, .yes)
      | (s, .fault k) => (s, .fault k)
      | (s, .dropped) => (s, .poison)
      | (s, _) => (s, .never)

/-- Apply entries in order until one cannot be: the entries left, and why. -/
def State.applyEntries (s : State) (w : Site) : List DetEntry → State × List DetEntry × Applied
  | [] => (s, [], .yes)
  | e :: es =>
    match s.applyEntry w e with
    | (s, .yes) => s.applyEntries w es
    | (s, x) => (s, e :: es, x)

/-- Go on with a launch's flush (R105): a fault halts it and is reported; an entry that cannot be applied, or that meets poison,
stops the context. -/
def State.applyFlush (s : State) (launch : Nat) : State :=
  match s.launch? launch with
  | none => s
  | some l =>
    match l.flush with
    | none => s
    | some f =>
      let core := s.launchCore launch
      match s.applyEntries ⟨core, true, l.pasid, false⟩ f.left with
      | (s, [], _) => s.modLaunch launch (fun l => { l with flush := some { f with left := [], fault := none } })
      | (s, e :: es, x) =>
        let s := s.modLaunch launch (fun l => { l with flush := some { f with left := e :: es } })
        let wh := whereThread ⟨launch, e.block, e.gid⟩ e.lane
        match x with
        | .fault k =>
          let s := s.modLaunch launch (fun l => { l with flush := some { f with left := e :: es, fault := some (e.va, k) } })
          let (id, s) := s.fresh
          { s with oplog := s.oplog ++ [⟨id, core, l.pasid, k, e.va, .flush launch, 0, none⟩] }
        | .poison => s.stopContext launch .fatalDevice .memUncorrectable wh 0
        | _ => s.stopContext launch .fatalContext .accessViolation wh 0

/-- A flush begins: every core's final run is written, and the epoch's entries leave the log as they are applied (R104). -/
def State.startFlush (s : State) (launch : Nat) (w : Option WExt) : State :=
  let s := s.drainBuffers (·.launch == launch)
  let es := globalOrder (s.det.filter (·.launch == launch))
  let s := { s with det := s.det.filter (·.launch != launch) }
  (s.modLaunch launch (fun l => { l with flush := some ⟨es, w, none⟩ })).applyFlush launch

/-! Wide meeting points. -/

/-- The blocks of an extent (R330): the cohort, or the grid. -/
def extentBlocks (l : Launch) (k : Nat) : Option WExt → List Nat
  | some .cl => (List.range l.lr.cohort).map (k * l.lr.cohort + ·) |>.filter (· < l.lr.nblk)
  | _ => List.range l.lr.nblk

/-- A thread is held at the meeting point. -/
def heldWide (w : Option WExt) (t : Thread) : Option Bool :=
  match t.cond, w with
  | .held (.wbar e last), some x => if e = x then some last else none
  | .held (.flushpt last), none => some last
  | _, _ => none

/-- A block has arrived: every live thread is held there; a retired block counts as arrived (R330, R332). -/
def State.blockArrived (s : State) (l : Launch) (w : Option WExt) (blk : Nat) : Bool :=
  l.retired.contains blk ||
    ((s.block? l.id blk).isSome
      && (s.blockThreads l.id blk).all (fun t => t.cond == .exited || (heldWide w t).isSome))

/-- The threads of an extent go on (R330, R332): a wide barrier ends its blocks' phase. -/
def State.finishWide (s : State) (launch : Nat) (w : Option WExt) (blks : List Nat) : State :=
  let s := if w.isSome then
      { s with
        blocks := modify (fun b => b.launch == launch && blks.contains b.idx) (fun b => { b with phase := b.phase + 1 })
          s.blocks }
    else s
  s.releaseHeld (fun t => if t.ref.launch == launch && blks.contains t.ref.blk then heldWide w t else none) false true

/-- The rank of this device in a team. -/
def State.rank (s : State) (t : Team) : Nat := t.ranks.findIdx (· == s.devid)

/-- The first 16 bytes of a collective flit's payload: its kind, this device's rank, the sequence number, the launch's team (the spec lays
out none of them: log 99, DESIGN CHOICE, unsafe). -/
def collHead (kind rank seq tag : Nat) : List Byte := leBytes kind 1 ++ leBytes rank 1 ++ leBytes 0 2 ++ leBytes seq 4 ++ leBytes tag 8

/-- Tell the other members of a team that this device's blocks have reached a `.sys` wide barrier. -/
def State.sendWide (s : State) (l : Launch) (t : Team) : State :=
  (t.ranks.filter (· != s.devid)).foldl
    (fun (s : State) d => (s.sendFlit d 6 0 4 false (collHead 1 (s.rank t) l.wbarseq l.teamTag) none none 0).2) s

/-- An extent whose blocks have all arrived is complete: in a deterministic launch its flush begins (R330, R332). -/
def State.completeWide (s : State) (l : Launch) (w : Option WExt) (blks : List Nat) : State :=
  if l.lr.det then s.startFlush l.id w else s.finishWide l.id w blks

/-- A `.sys` wide barrier that this device's blocks have reached: it joins the other members' of the same number (R330). -/
def State.settleSys (s : State) (l : Launch) : State :=
  match l.lr.team with
  | none => s
  | some t =>
    let me := (l.teamTag, l.wbarseq, s.rank t)
    let s := if s.wideArrivals.contains me then s
      else ({ s with wideArrivals := s.wideArrivals ++ [me] }).sendWide l t
    if (List.range t.ranks.length).all (fun k => s.wideArrivals.contains (l.teamTag, l.wbarseq, k)) then
      let s := { s with wideArrivals := s.wideArrivals.filter (fun x => !(x.1 == l.teamTag && x.2.1 == l.wbarseq)) }
      (s.modLaunch l.id (fun l => { l with wbarseq := l.wbarseq + 1 })).completeWide { l with wbarseq := l.wbarseq + 1 }
        (some .sys) (extentBlocks l 0 (some .sys))
    else s

/-- Look at one extent of a launch: complete where some thread waits at it and every block of it has arrived. -/
def State.settleExtent (s : State) (launch : Nat) (w : Option WExt) (k : Nat) : State :=
  match s.launch? launch with
  | none => s
  | some l =>
    let blks := extentBlocks l k w
    if l.flush.isSome || !s.threads.any (fun t => t.ref.launch == launch && blks.contains t.ref.blk && (heldWide w t).isSome)
        || !blks.all (s.blockArrived l w) then s
    else if w == some .sys then s.settleSys l
    else s.completeWide l w blks

/-- The cohorts that a launch has blocks placed of. -/
def State.cohorts (s : State) (launch : Nat) : List Nat :=
  match s.launch? launch with
  | none => []
  | some l => ((s.blocks.filter (·.launch == launch)).map (fun b => b.idx / l.lr.cohort)).eraseDups

/-- Every wide meeting point of a launch is looked at. -/
def State.settleWide (s : State) (launch : Nat) : State :=
  let s := (s.cohorts launch).foldl (fun (s : State) k => s.settleExtent launch (some .cl) k) s
  ((s.settleExtent launch (some .dev) 0).settleExtent launch (some .sys) 0).settleExtent launch none 0

/-- The end of a flush (R104, R330, R332): the epoch is over, shares and sequence numbers start afresh, the threads go on. -/
def State.finishFlush (s : State) (launch : Nat) : State :=
  match s.launch? launch with
  | none => s
  | some l =>
    match l.flush with
    | none => s
    | some f =>
      let s := s.modLaunch launch (fun l => { l with flush := none, epoch := l.epoch + 1 })
      let s := { s with blocks := modify (·.launch == launch) (fun b => { b with detUsed := 0 }) s.blocks }
      let s := s.modThreads (·.ref.launch == launch) (fun t => { t with seq := 0 })
      s.finishWide launch f.wbar (List.range l.lr.nblk)

/-! Exits and recalls. -/

/-- A thread of a group has exited: barriers and wide points look again, and a wait for it at a `REJOIN` ends (R296, R303, R336). -/
def State.afterExit (s : State) (ref : GroupRef) : State :=
  ((if s.awaitsReturn ref then s else s.unpark ref).settleBars ref.launch ref.blk).settleWide ref.launch

/-! Meetings of a group: cross-lane instructions and joins. -/

/-- The lanes a member mask names (09 R211): every lane where it is omitted. -/
def groupMask (g : Group) (msk : Option Opnd) : BitVec 64 :=
  match msk with
  | none => BitVec.allOnes 64
  | some (.m i) => g.masks.get i.toNat
  | some (.s i) => joinWords (g.sregs.get i.val) (g.sregs.get (i.val + 1))
  | some _ => 0

/-- A thread of the group held at a cross-lane instruction at a PC (R213). -/
def heldLanes (pc : BitVec 64) (t : Thread) : Bool :=
  match t.cond with
  | .held (.lanes _) => t.pc == pc
  | _ => false

/-- A live thread of the group that a mask names. -/
def State.liveNamed (s : State) (ref : GroupRef) (mask : BitVec 64) : List Thread :=
  (s.groupThreads ref).filter (fun t => mask.getLsbD t.lane && t.cond != .exited)

/-- The live threads of the group that a meeting at a PC waits for: those that its mask names, and those that trapped there and have neither
arrived again nor exited (R213, R214). -/
def State.liveAwaited (s : State) (ref : GroupRef) (pc : BitVec 64) (mask : BitVec 64) : List Thread :=
  let owing := ((s.group? ref).map (·.owing)).getD []
  (s.groupThreads ref).filter (fun t => (mask.getLsbD t.lane || owing.contains (pc, t.lane)) && t.cond != .exited)

/-- Some threads trap at a meeting: the others stay held there until these arrive again or exit (R214). -/
def State.noteOwing (s : State) (ref : GroupRef) (pc : BitVec 64) (l : List (Nat × Trap)) : State :=
  s.modGroup ref (fun g => { g with owing := l.map (fun x => (pc, x.1)) ++ g.owing })

/-- Threads arrive at a meeting. -/
def State.arriveAgain (s : State) (ref : GroupRef) (pc : BitVec 64) (lanes : BitVec 64) : State :=
  if ((s.group? ref).map (·.owing)).getD [] == [] then s
  else s.modGroup ref (fun g => { g with owing := g.owing.filter (fun x => !(x.1 == pc && lanes.getLsbD x.2)) })

/-- Threads leave their handlers: a meeting at which one of them trapped awaits it no longer where its handler has it go on elsewhere (R214)
(log 170, DEDUCED, unsafe). -/
def State.goneOn (s : State) (ref : GroupRef) (ts : List Thread) : State :=
  if ((s.group? ref).map (·.owing)).getD [] == [] then s
  else s.modGroup ref (fun g => { g with owing := g.owing.filter (fun x => !ts.any (fun t => t.lane == x.2 && t.trappc != x.1)) })

/-- The threads of the group that have arrived at an MJOIN: held there, or passed with a false guard (R299). -/
def joined (g : Group) (pc : BitVec 64) (m : BitVec 3) (t : Thread) : Bool :=
  (t.cond == .held (.mjoin m) && t.pc == pc) || g.passed.contains (pc, t.lane)

/-- What a thread is held for inside its group has come about: every live thread it waits for has arrived at its cross-lane instruction or its
join (R213, R299), no thread is out that its `REJOIN` waits for (R303), what it has in flight at its `EXIT` is done (R296). -/
def State.waitOver (s : State) (t : Thread) : Bool :=
  match t.cond, s.group? t.ref with
  | .held (.lanes msk), some g => (s.liveAwaited t.ref t.pc (groupMask g msk)).all (heldLanes t.pc)
  | .held (.mjoin m), some g => (s.liveAwaited t.ref t.pc (g.masks.get m.toNat)).all (joined g t.pc m)
  | .held (.rejoin off), some _ => !s.stillOut t.ref off
  | .held .exiting, _ => !s.inFlight t.ref t.lane
  | _, _ => false

/-- The threads of a group whose wait is over are issuable: they execute their instruction, all those at one PC together. -/
def State.look (s : State) (ref : GroupRef) : State :=
  s.modThreads (·.ref == ref) (fun t => if s.waitOver t then { t with cond := .issuable } else t)

/-- The lanes that held threads of a group wait for. -/
def State.awaited (s : State) (ref : GroupRef) : BitVec 64 :=
  match s.group? ref with
  | none => 0
  | some g =>
    (s.groupThreads ref).foldl (fun m t => match t.cond with
      | .held (.lanes msk) => m ||| groupMask g msk
      | .held (.mjoin i) => m ||| g.masks.get i.toNat
      | _ => m) 0

/-- The ejected threads of a group named for a meeting are recalled (R213, R306). -/
def State.recallNamed (s : State) (ref : GroupRef) (lanes : BitVec 64) : State :=
  ((s.groupThreads ref).filter (fun t => lanes.getLsbD t.lane && t.pip.isSome)).foldl
    (fun (s : State) t => s.recallThread ref t.lane) s

end Sys2Proof.Machine
end

