-- ==== Sys2Proof/Machine/MemInstr.lean ====
section
/-! DEFINITION. The memory instructions of chapter 04: LD, ST, LDC, ATOM, RED, FENCE, PREF (R82-R105), with deterministic mode
(R101-R103), and the checks of a fabric-bound access (11 R264). -/

namespace Sys2Proof.Machine

/-- The site of the issuing run. -/
def Ctx.site (c : Ctx) : Site := ⟨c.group.core, c.run.pip, c.launch.pasid, c.launch.agent⟩

/-- The virtual address of an effective address (R82, R64). -/
def vaOf (ea : BitVec 64) : BitVec 57 := ea.setWidth 57

/-- The check of R264 where a thread's address lies in a peer aperture. -/
def topoTrap (s : State) (c : Ctx) (ea : BitVec 64) : Option Trap :=
  if (aperture (vaOf ea).toNat).isSome && s.topo c.block == .stale then some ⟨.staleTopology, 0, 0⟩ else none
def topoHold (s : State) (c : Ctx) (ea : BitVec 64) : Bool :=
  (aperture (vaOf ea).toNat).isSome && s.topo c.block == .wait

/-- The trap of a thread's access, found before anything is performed (R84): what the access itself meets. -/
def accessTrap (s : State) (c : Ctx) (result : Bool) (q : MemReq) : Option Trap :=
  match (s.accessOne c.site result q).2 with
  | .trap t => some t
  | _ => none

/-- An address that is no multiple of the access's size (R83). -/
def alignTrap (q : MemReq) : Option Trap := if q.va.toNat % q.op.size != 0 then some misaligned else none

/-- What the reads of threads that trap on poison leave: the poison reads they logged, and the errors they found (02 R58, R59). -/
def noteReads (result : Bool) (mk : Thread → MemReq) (c : Ctx) (l : List (Nat × Trap)) (s : State) : State :=
  l.foldl (fun (s : State) x =>
    match c.threads.find? (·.lane == x.1) with
    | some t => if x.2.cause == .memUncorrectable then (s.accessOne c.site result (mk t)).1 else s
    | none => s) s

/-- A thread's request waits behind what the thread has outstanding at the same word of a peer. -/
def State.behindFar (s : State) (ref : GroupRef) (q : MemReq) : Bool :=
  match aperture q.va.toNat with
  | some (p, o) => s.farBusy ref q.lane p o q.op.size
  | none => false

/-- How an instruction's accesses are ordered, and what they write. -/
structure MemPlan where
  c : Common
  dst : Option (Opnd × Bool)
  /-- a result is asked for: a load, or an atomic with D -/
  result : Bool
  release : Option Scope := none
  acquire : Option Scope := none
  rp : Bool := false
  ends : Bool := false

/-- A fatal device fault of an update on a poisoned word (R60). -/
def State.poisonStop (s : State) (c : Ctx) (lane : Nat) : State :=
  s.stopContext c.run.ref.launch .fatalDevice .memUncorrectable (whereThread c.run.ref lane)
    ((c.run.pc - c.launch.lr.codeaddr).setWidth 32)

/-- Perform the accesses of the executing threads (R84, R85), after the release and before the acquire that the order code asks for (R97,
R110); what faults goes to the operand log (R80), or recalls an ejected thread (12 R305); what is a peer's leaves in flits (R267) (log 32,
DEDUCED, safe) (log 36, DESIGN CHOICE, safe). -/
def memAct (p : MemPlan) (mk : Thread → MemReq) (cx : Ctx) (ex : List Thread) (s : State) : Act :=
  let w := cx.site
  let wide (sc : Option Scope) : Bool := match sc with
    | some sc => s.wider sc cx.block cx.run.ref
    | none => false
  let once := match p.dst with
    | some (o, _) => o.isUni
    | none => false
  let who := if once then ex.take 1 else ex
  if ((p.release.isSome || p.acquire.isSome) && ex.any s.remoteWait) || who.any (fun t => s.behindFar cx.run.ref (mk t)) then .stall
  else
    let s := s.releaseAt w (wide p.release)
    let s := if p.rp then s.promote.acquireAt w true else s
    let before := s
    let (s, res) := s.accessAll w p.result (who.map mk)
    let lanes := lanesOf (ex.map (·.lane))
    match trapsOf res, droppedOf res with
    -- poison that only the release, a promotion or an earlier lane's access has brought: nothing is performed then (R84, R89)
    | x :: xs, _ => .trap (before.readsOnly w (who.map mk)) (if once then ex.map (fun t => (t.lane, x.2)) else x :: xs)
    | [], q :: _ => .over (s.poisonStop cx q.lane)
    | [], [] =>
      if before.hostBarred s then .stall
      else if (faultsOf res).isEmpty && (farsOf res).isEmpty then
        let s := s.acquireAt w (wide p.acquire)
        match p.dst with
        | none => .done (if p.ends then s.endRegion cx.run.ref lanes else s)
        | some d =>
          match s.fly cx p.c lanes { dst := some d, vals := valsOf res, ends := p.ends } with
          | some (_, s) => .done s
          | none => .stall
      else if w.pip && !(faultsOf res).isEmpty then .trap before []
      else if !(faultsOf res).isEmpty && !s.logRoom w.core then .stall
      else
        -- a store or reduction that faults has no flag of its own to hold (R80, R92)
        let c := if p.dst.isNone && (farsOf res).isEmpty then { p.c with fsel := .none } else p.c
        match s.fly cx c lanes
            { dst := p.dst, vals := valsOf res, fences := p.acquire.isSome, acq := p.acquire, ends := p.ends } with
        | none => .stall
        | some (id, s) =>
          .done ((s.sendReqs id (farsOf res) []).logFaults w id cx.run.pc cx.run.resume (faultsOf res))

/-- A global-memory instruction: its checks (R39, R264, R83, R86), then its accesses. -/
def memOp (n : Need) (p : MemPlan) (ea : Group → Thread → BitVec 64) (mk : Group → Thread → MemReq) (s : State) : Out :=
  issue { n with
      ordered := true, afterLog := true, hold := fun cx t => topoHold s cx (ea cx.group t)
      noted := fun cx l s => noteReads p.result (mk cx.group) cx l s }
    (fun cx t => topoTrap s cx (ea cx.group t))
    (fun cx t => (alignTrap (mk cx.group t)).orElse (fun _ => accessTrap s cx p.result (mk cx.group t)))
    (fun cx ex s => memAct p (mk cx.group) cx ex s) s

/-- The scope of an acquire or a release of an order code. -/
def acqScope (mc : MemCtl) : Option Scope := if mc.order.isAcquire then some mc.scope else none
def relScope (mc : MemCtl) : Option Scope := if mc.order.isRelease then some mc.scope else none

/-- The registers an address names (R82). -/
def addrNames (a : Opnd) (wide : Bool) (idx : Option Opnd) : List Names := nm a wide :: nmOpt idx false

/-- LD (R88, R89): a load of global memory. -/
def execLd (c : Common) (ty : Ty) (scale : BitVec 2) (d a : Opnd) (idx : Option Opnd) (mc : MemCtl) (s : State) : Out :=
  let ea (g : Group) (t : Thread) := effAddr g t true a idx scale.toNat mc.offset
  memOp { common := c, writes := [nm d ty.wide], reads := addrNames a true idx }
    { c := c, dst := some (d, ty.wide), result := true, acquire := acqScope mc, rp := mc.rp } ea
    (fun g t => ⟨t.lane, vaOf (ea g t), .load ty, 0, 0⟩) s

/-- ST (R92, R93): a store to global memory of the data register in the opd field. -/
def execSt (c : Common) (ty : Ty) (scale : BitVec 2) (d a : Opnd) (idx : Option Opnd) (mc : MemCtl) (s : State) : Out :=
  let ea (g : Group) (t : Thread) := effAddr g t true a idx scale.toNat mc.offset
  memOp { common := c, reads := nm d ty.wide :: addrNames a true idx }
    { c := c, dst := none, result := false, release := relScope mc } ea
    (fun g t => ⟨t.lane, vaOf (ea g t), .store ty.size, readOp g t 0 .uint ty.wide d, 0⟩) s

/-- The bytes an LDC may read: the constant data, or the launch record with its tables (R86). -/
def constLimit (l : LaunchRec) (lr : Bool) : Nat := if lr then l.bytes.length else l.constsize.toNat

/-- Where an LDC reads: the constant data, or the launch record where it stands in memory; none for a record that an image has brought (R86,
R91). -/
def constBase (l : Launch) (lr : Bool) : Option (BitVec 64) := if lr then l.recAddr else some l.lr.constaddr

/-- The request of an LDC in memory (R88, R91). -/
def constReq (base : BitVec 64) (ty : Ty) (t : Thread) (ea : BitVec 64) : MemReq := ⟨t.lane, vaOf (base + ea), .load ty, 0, 0⟩

/-- LDC (R88, R89, R86): constant data, or the launch record, through the L1 like global memory. The effective address is the offset, and it
is what the alignment is asked of (R83): the constant data may stand anywhere (log 64, DEDUCED, safe). A record that an image has brought
stands at no address, and is read as admitted (log 65, DEDUCED, unsafe). -/
def execLdc (c : Common) (ty : Ty) (lr : Bool) (scale : BitVec 2) (d a : Opnd) (idx : Option Opnd) (mc : MemCtl)
    (s : State) : Out :=
  let ea (g : Group) (t : Thread) := effAddr g t false a idx scale.toNat mc.offset
  issue { common := c, writes := [nm d ty.wide], reads := addrNames a false idx, ordered := true, afterLog := true
          noted := fun cx l s => match constBase cx.launch lr with
            | some base => noteReads true (fun t => constReq base ty t (ea cx.group t)) cx l s
            | none => s } noTrap
    (fun cx t =>
      let x := ea cx.group t
      if x.toNat % ty.size != 0 then some misaligned
      else if x.toNat + ty.size > constLimit cx.launch.lr lr then some accessViolation
      else match constBase cx.launch lr with
        | some base => accessTrap s cx true (constReq base ty t x)
        | none => none)
    (fun cx ex s =>
      match constBase cx.launch lr with
      | none =>
        match s.fly cx c (lanesOf (ex.map (·.lane)))
            { dst := some (d, ty.wide)
              vals := ex.map (fun t => (t.lane, loadValue ty (fieldAt cx.launch.lr.bytes (ea cx.group t).toNat ty.size))) } with
        | some (_, s) => .done s
        | none => .stall
      | some base =>
        memAct { c := c, dst := some (d, ty.wide), result := true } (fun t => constReq base ty t (ea cx.group t)) cx ex s) s

/-! Atomics and reductions (R98-R103). -/

/-- The operand n registers above another. -/
def regPlus (o : Opnd) (n : Nat) : Opnd :=
  match o with
  | .v i => .v (i + BitVec.ofNat 8 n)
  | .s i => .s (Fin.ofNat 192 (i.val + n))
  | o => o

/-- The data of an atomic: its operand and, for `.cas`, its comparand (R98): a pair or a quad with cmp first. -/
def atomData (g : Group) (t : Thread) (op : AtomOp) (ty : Ty) (b : Opnd) : BitVec 64 × BitVec 64 :=
  let wd := if op == .fadd then Widen.f32 else tyWiden ty
  if op == .cas then
    (readOp g t 0 wd ty.wide (regPlus b (if ty.wide then 2 else 1)), readOp g t 0 wd ty.wide b)
  else (readOp g t 0 wd ty.wide b, 0)

/-- The registers B names. -/
def atomNames (op : AtomOp) (ty : Ty) (b : Opnd) : Names := (b, (if ty.wide then 2 else 1) * (if op == .cas then 2 else 1))

/-- The launch of the issuing run is deterministic. -/
def State.isDet (s : State) : Bool :=
  match s.ctx? with
  | some c => c.launch.lr.det
  | none => false

/-- The entry of a thread's deferred atomic (R101, R103). -/
def detEntry (cx : Ctx) (hash : Bool) (q : MemReq) (t : Thread) (op : AtomOp) (ty : Ty) : DetEntry where
  launch := cx.run.ref.launch
  v := q.v
  cmp := q.cmp
  va := q.va
  hash := if hash then
    tieHash cx.launch.lr.seed (BitVec.ofNat 32 cx.run.ref.blk) (BitVec.ofNat 32 (cx.run.ref.gid * 64 + t.lane)) else 0
  block := cx.run.ref.blk
  gid := cx.run.ref.gid
  lane := t.lane
  seq := t.seq
  op := op
  ty := ty
  buf := some cx.group.core
  slot := 0

/-- A core's buffer of 4,096 entries that is full is written to the flush log (R103). -/
def State.spill (s : State) (core : Nat) : State :=
  if (s.det.filter (·.buf == some core)).length < 4096 then s else s.drainBuffer core (fun _ => true)

/-- Place the entries of an instruction (R101, R102): past the block's share, or past a thread's last sequence number, it
overflows. -/
def detAct (hash : Bool) (op : AtomOp) (ty : Ty) (mk : Thread → MemReq) (cx : Ctx) (ex : List Thread) (s : State) : Act :=
  if cx.block.detUsed + ex.length > detShare cx.launch.lr then .trap s (ex.map (fun t => (t.lane, ⟨.detOverflow, 0, 0⟩)))
  else
    match ex.filter (fun t => t.seq + 1 > 2 ^ 24 - 1) with
    | [] =>
      let s := ex.foldl (fun (s : State) t =>
        State.spill { s with det := s.det ++ [detEntry cx hash (mk t) t op ty] } cx.group.core) s
      let s := s.modThreads (fun t => t.ref == cx.run.ref && ex.any (·.lane == t.lane)) (fun t => { t with seq := t.seq + 1 })
      .done (s.modBlock cx.run.ref.launch cx.run.ref.blk (fun b => { b with detUsed := b.detUsed + ex.length }))
    | bad => .trap s (bad.map (fun t => (t.lane, ⟨.detOverflow, 0, 0⟩)))

/-- ATOM and RED (R99, R101): performed at once, or deferred in deterministic mode. -/
def atomOp (c : Common) (ty : Ty) (op : AtomOp) (d : Option Opnd) (a b : Opnd) (mc : MemCtl) (isRed : Bool) (s : State) :
    Out :=
  let det := s.isDet
  let ea (g : Group) (t : Thread) := effAddr g t true a none 0 mc.offset
  let mk (g : Group) (t : Thread) : MemReq :=
    ⟨t.lane, vaOf (ea g t), .atom op ty, (atomData g t op ty b).1, (atomData g t op ty b).2⟩
  let n : Need :=
    { common := c, writes := nmOpt d ty.wide, reads := [nm a true, atomNames op ty b], formBad := det && d.isSome
      ends := isRed && det }
  if det then
    issue { n with ordered := true, afterLog := true, hold := fun cx t => topoHold s cx (ea cx.group t) }
      (fun cx t => topoTrap s cx (ea cx.group t))
      (fun cx t =>
        if (vaOf (ea cx.group t)).toNat % ty.size != 0 then some misaligned
        else if (aperture (vaOf (ea cx.group t)).toNat).isSome then some accessViolation else none)
      (fun cx ex s =>
        if ((relScope mc).isSome || (acqScope mc).isSome) && ex.any s.remoteWait then .stall
        else
          let s := match relScope mc with
            | some sc => s.releaseAt cx.site (s.wider sc cx.block cx.run.ref)
            | none => s
          let s := if mc.rp then s.promote else s
          let s := match acqScope mc with
            | some sc => s.acquireAt cx.site (s.wider sc cx.block cx.run.ref)
            | none => s
          detAct mc.hash op ty (mk cx.group) cx ex s) s
  else
    memOp n
      { c := c, dst := d.map (fun o => (o, ty.wide)), result := d.isSome, release := relScope mc, acquire := acqScope mc
        rp := mc.rp, ends := d.isSome } ea mk s

/-- ATOM (R98-R101): `pt` as D discards the old value. -/
def execAtom (c : Common) (ty : Ty) (op : AtomOp) (d a b : Opnd) (mc : MemCtl) (s : State) : Out :=
  atomOp c ty op (if d == .p 15 then none else some d) a b mc false s

/-- RED (R98-R101). -/
def execRed (c : Common) (ty : Ty) (op : AtomOp) (a b : Opnd) (mc : MemCtl) (s : State) : Out :=
  atomOp c ty op none a b mc true s

/-- FENCE (R96, R97, R121). -/
def execFence (c : Common) (rp : Bool) (scope : Scope) (order : Order) (s : State) : Out :=
  issue { common := c, ordered := true, afterLog := true } noTrap noTrap
    (fun cx ex s =>
      if ex.any s.remoteWait then .stall
      else
        let wide := s.wider scope cx.block cx.run.ref
        let s := if order.isRelease then s.releaseAt cx.site wide else s
        let s := if rp then s.promote else s
        .done (if order.isAcquire then s.acquireAt cx.site wide else s)) s

/-- A prefetch of one address (R95): dropped where it would fault, touch a peer or the host window, or meet poison. -/
def State.prefetch (s : State) (w : Site) (slice : Bool) (va : Nat) : State :=
  if (aperture va).isSome then s
  else
    match s.translate w.cluster w.pasid va .read !w.agent with
    | (s, .ok pa wp seen) =>
      if inHost pa then s
      else
        -- an error it finds is deferred (02 R61)
        let s := s.visit (lineOf pa) 128 w.pasid .deferred
        if slice || w.pip || s.poisonedRange (lineOf pa) 128 then s
        else ((s.sameLine w va pa).nameLine w.core w.pasid va pa wp seen).fillLine w.core w.pasid va
    | (s, _) => s

/-- PREF (R95): no visible state changes. -/
def execPref (c : Common) (slice : Bool) (a : Opnd) (idx : Option Opnd) (offset : BitVec 24) (s : State) : Out :=
  issue { common := c, reads := addrNames a true idx, ordered := true, afterLog := true, noPoison := true } noTrap noTrap
    (fun cx ex s =>
      .done (ex.foldl (fun s t =>
        s.prefetch cx.site slice (vaOf (effAddr cx.group t true a idx 0 offset)).toNat) s)) s

end Sys2Proof.Machine
end

