-- ==== Sys2Proof/Machine/Scratch.lean ====
section
/-! DEFINITION. The scratchpad of a block: its bytes and poison (04 R86, 02 R59), presence bits (R90, 06 R141), and LDSP and
STSP (R90, R94, 05 R122). -/

namespace Sys2Proof.Machine

/-- The line of a scratchpad offset. -/
def spLine (ea : Nat) : Nat := ea / 128

/-- A line's presence bit is clear: writers have bytes still to land in it (R141). -/
def Block.lineAbsent (b : Block) (line : Nat) : Bool := b.absent.get line != 0

/-- The lines of a range of bytes. -/
def spLines (ea n : Nat) : List Nat :=
  if n = 0 then [] else (List.range ((ea + n - 1) / 128 + 1 - ea / 128)).map (ea / 128 + ·)

/-- Some word under a range is poisoned. -/
def Block.poisonedRange (b : Block) (ea n : Nat) : Bool := b.spoison.any (fun w => w < ea + n && ea < w + 4)

/-- Write bytes into a block's scratchpad; whole words lose their poison (R60). -/
def Block.put (b : Block) (ea : Nat) (bs : List Byte) : Block :=
  { b with scratch := b.scratch.setBytes ea bs, spoison := clearPoison b.spoison ea bs.length }

/-- Bytes are written into a block's scratchpad, each list at its offset, one after another (R60, R58). -/
def State.putSp (s : State) (launch blk : Nat) (l : List (Nat × List Byte)) : State :=
  (l.foldl (fun (s : State) x => s.overScratch launch blk x.1 x.2.length) s).modBlock launch blk
    (fun b => l.foldl (fun b x => b.put x.1 x.2) b)

/-- The core of the block that holds a byte: the granules of each core in turn (the spec leaves it to the device). -/
def spCore (l : LaunchRec) (ea : Nat) : Nat := ea / (l.scratchGran * 65536)

/-- Read n bytes of a block's scratchpad for a part of the device: errors are found, a poisoned word that is read is logged (R58, R59). -/
def State.readSp (s : State) (launch blk : Nat) (pasid : BitVec 20) (ea n : Nat) : State × Option (List Byte × Bool) :=
  let s := s.meetAll pasid .uncorrectable (ErrPlace.inScratch launch blk ea n)
  match s.block? launch blk with
  | some b => (s.notePoison pasid 0 (b.poisonedRange ea n), some (b.scratch.bytes ea n, b.poisonedRange ea n))
  | none => (s, none)

/-- What an LDSP of a size reads at an offset, in register form; none where a word is poisoned. -/
def State.loadSp (s : State) (launch blk : Nat) (pasid : BitVec 20) (ty : Ty) (ea : Nat) : State × Option (BitVec 64) :=
  match s.readSp launch blk pasid ea ty.size with
  | (s, some (bs, false)) => (s, some (loadValue ty (leNat bs)))
  | (s, _) => (s, none)

/-- The same for some lanes, each at its offset. -/
def State.loadsSp (s : State) (launch blk : Nat) (pasid : BitVec 20) (ty : Ty) :
    List (Nat × Nat) → State × List (Nat × Option (BitVec 64))
  | [] => (s, [])
  | (lane, ea) :: rest =>
    let (s, x) := s.loadSp launch blk pasid ty ea
    let (s, l) := s.loadsSp launch blk pasid ty rest
    (s, (lane, x) :: l)

/-- An earlier STSP in flight of the thread writes bytes of a range: a later access of it waits (R94, R111). -/
def stspAhead (fl : List Inflight) (ref : GroupRef) (lane ea n : Nat) : Bool :=
  fl.any (fun i => i.ref == ref && match i.wait with
    | .stsp size _ data => data.any (fun d => d.1 == lane && d.2.1 < ea + n && ea < d.2.1 + size)
    | _ => false)

/-- An earlier LDSP in flight of the thread has yet to read bytes of a range. -/
def ldspAhead (fl : List Inflight) (ref : GroupRef) (lane ea n : Nat) : Bool :=
  fl.any (fun i => i.ref == ref && match i.wait with
    | .ldsp ty _ eas => eas.any (fun d => d.1 == lane && d.2 < ea + n && ea < d.2 + ty.size)
    | _ => false)

/-- What waits for lines proceeds, in the order of issue (R90, R94): an LDSP's lanes whose lines have landed are bound or trap,
an STSP whose lines have all landed writes. -/
def State.settle (s : State) (launch blk : Nat) : List Inflight → List Inflight → State
  | _, [] => s
  | ahead, i :: rest =>
    if !inBlock i.ref launch blk then s.settle launch blk ahead rest
    else
      match i.wait, s.launch? launch with
      | .ldsp ty lines eas, some l =>
        let go (e : Nat × Nat) : Bool := !lines.contains (spLine e.2) && !stspAhead ahead i.ref e.1 e.2 ty.size
        let left := eas.filter (fun e => !go e)
        let (s, got) := s.loadsSp launch blk l.pasid ty (eas.filter go)
        let good := got.filterMap (fun e => e.2.map (fun x => (e.1, x)))
        let bad := (got.filter (·.2.isNone)).map (·.1)
        let i' := { i with wait := if left.isEmpty then .ready else .ldsp ty lines left, vals := i.vals ++ good }
        let s := { s with inflight := modify (·.id == i.id) (fun _ => i') s.inflight }
        let s := if bad.isEmpty then s
          else s.trapFlight i.id (lanesOf bad) memUncorrectable
        s.settle launch blk (ahead ++ [i']) rest
      | .stsp size lines data, some _ =>
        if lines.isEmpty && !data.any (fun d => stspAhead ahead i.ref d.1 d.2.1 size || ldspAhead ahead i.ref d.1 d.2.1 size) then
          let s := s.putSp launch blk (data.map (fun d => (d.2.1, leBytes d.2.2.toNat size)))
          let i' := { i with wait := .ready, vals := data.map (fun d => (d.1, 0)) }
          let s := { s with inflight := modify (·.id == i.id) (fun _ => i') s.inflight }
          s.settle launch blk (ahead ++ [i']) rest
        else s.settle launch blk (ahead ++ [i]) rest
      | _, _ => s.settle launch blk (ahead ++ [i]) rest

/-- Lines have landed for an instruction in flight. -/
def Inflight.landed (i : Inflight) (gone : List Nat) : Inflight :=
  match i.wait with
  | .ldsp ty lines eas => { i with wait := .ldsp ty (lines.filter (fun l => !gone.contains l)) eas }
  | .stsp size lines data => { i with wait := .stsp size (lines.filter (fun l => !gone.contains l)) data }
  | _ => i

/-- Clear the presence of lines for one more writer (R141). -/
def State.clearLines (s : State) (launch blk : Nat) (lines : List Nat) : State :=
  s.modBlock launch blk (fun b => { b with absent := lines.foldl (fun m l => m.set l (m.get l + 1)) b.absent })

/-- A writer releases lines: those that no writer still owes are present, and what waits for them proceeds (R141, R90). -/
def State.releaseLines (s : State) (launch blk : Nat) (lines : List Nat) : State :=
  let s := s.modBlock launch blk (fun b => { b with absent := lines.foldl (fun m l => m.set l (m.get l - 1)) b.absent })
  match s.block? launch blk with
  | none => s
  | some b =>
    let gone := lines.filter (fun l => !b.lineAbsent l)
    let s := { s with inflight := modify (fun i => inBlock i.ref launch blk) (·.landed gone) s.inflight }
    s.settle launch blk [] s.inflight

/-- The checks of a scratchpad access (R83, R86). -/
def spTrap (c : Ctx) (ea : BitVec 64) (n : Nat) : Option Trap :=
  if ea.toNat % n != 0 then some misaligned
  else if ea.toNat + n > c.launch.lr.scratchBytes then some accessViolation else none

/-- LDSP finds a thread's line parked (R90), or waits behind the thread's own store. -/
def parked (s : State) (cx : Ctx) (ty : Ty) (lane ea : Nat) : Bool :=
  cx.block.lineAbsent (spLine ea) || spCore cx.launch.lr ea != cx.group.core - cx.block.core || cx.run.pip
    || stspAhead s.inflight cx.run.ref lane ea ty.size

/-- LDSP (R88-R90): within its clause where no line is parked; else in flight for the threads concerned. -/
def execLdsp (c : Common) (ty : Ty) (scale : BitVec 2) (d a : Opnd) (idx : Option Opnd) (mc : MemCtl) (s : State) : Out :=
  let ea (g : Group) (t : Thread) := effAddr g t false a idx scale.toNat mc.offset
  let read (cx : Ctx) (s : State) (l : List (Nat × Nat)) := s.loadsSp cx.run.ref.launch cx.run.ref.blk cx.launch.pasid ty l
  issue
    { common := c, writes := [nm d ty.wide], reads := addrNames a false idx, ordered := true
      noted := fun cx l s =>
        (read cx s ((cx.threads.filter (fun t => l.any (fun x => x.1 == t.lane && x.2 == memUncorrectable))).map
          (fun t => (t.lane, (ea cx.group t).toNat)))).1 } noTrap
    (fun cx t =>
      let x := ea cx.group t
      (spTrap cx x ty.size).orElse (fun _ =>
        if !cx.block.lineAbsent (spLine x.toNat) && !stspAhead s.inflight cx.run.ref t.lane x.toNat ty.size
            && (read cx s [(t.lane, x.toNat)]).2.any (·.2.isNone) then some memUncorrectable else none))
    (fun cx ex s =>
      if mc.order.isAcquire && ex.any s.remoteWait then .stall
      else
        let at_ (t : Thread) : Nat := (ea cx.group t).toNat
        let who := if d.isUni then ex.take 1 else ex
        let wait := who.filter (fun t => parked s cx ty t.lane (at_ t))
        let now := who.filter (fun t => !parked s cx ty t.lane (at_ t))
        let (s, got) := read cx s (now.map (fun t => (t.lane, at_ t)))
        let s := s.writeAll cx.run.ref now (fun t => [⟨d, ty.wide, ((got.lookup t.lane).join).getD 0⟩])
        let s := if mc.order.isAcquire then s.acquireAt cx.site (s.wider mc.scope cx.block cx.run.ref) else s
        if wait.isEmpty then .done s
        else
          let lines := ((wait.map (fun t => spLine (at_ t))).filter cx.block.lineAbsent).eraseDups
          match s.fly cx c (lanesOf (wait.map (·.lane)))
              { dst := some (d, ty.wide), wait := .ldsp ty lines (wait.map (fun t => (t.lane, at_ t)))
                fences := mc.order.isAcquire, acq := if mc.order.isAcquire then some mc.scope else none } with
          | some (_, s) => .done (s.settle cx.run.ref.launch cx.run.ref.blk [] s.inflight)
          | none => .stall) s

/-- STSP (R92, R94): the stores of every executing thread in ascending lane order, once every line they write is present. A release waits
for the thread's accesses in the operand log, which come before it (R97, R112). -/
def execStsp (c : Common) (ty : Ty) (scale : BitVec 2) (d a : Opnd) (idx : Option Opnd) (mc : MemCtl) (s : State) : Out :=
  let ea (g : Group) (t : Thread) := effAddr g t false a idx scale.toNat mc.offset
  issue { common := c, reads := nm d ty.wide :: addrNames a false idx, ordered := true, afterLog := mc.order.isRelease } noTrap
    (fun cx t => spTrap cx (ea cx.group t) ty.size)
    (fun cx ex s =>
      if mc.order.isRelease && ex.any s.remoteWait then .stall
      else
        let s := if mc.order.isRelease then s.releaseAt cx.site (s.wider mc.scope cx.block cx.run.ref) else s
        let data := ex.map (fun t => (t.lane, (ea cx.group t).toNat, readOp cx.group t 0 .uint ty.wide d))
        let lines := ((data.map (fun d => spLine d.2.1)).filter cx.block.lineAbsent).eraseDups
        let behind := data.any (fun d => stspAhead s.inflight cx.run.ref d.1 d.2.1 ty.size
          || ldspAhead s.inflight cx.run.ref d.1 d.2.1 ty.size)
        if lines.isEmpty && !behind then
          .done (s.putSp cx.run.ref.launch cx.run.ref.blk (data.map (fun d => (d.2.1, leBytes d.2.2.toNat ty.size))))
        else
          match s.fly cx c (lanesOf (ex.map (·.lane))) { wait := .stsp ty.size lines data } with
          | some (_, s) => .done s
          | none => .stall) s

end Sys2Proof.Machine
end

