-- ==== Sys2Proof/Machine/Engine.lean ====
section
/-! DEFINITION. Engine commands: the future table and its handles (06 R130-R134), the issue of a command (R132), the memory of
an engine (global memory at its home slices, the scratchpad, the weight buffers), the chunks of a copy (R138-R142) and the
completion of commands with their arrivals (R144). -/

namespace Sys2Proof.Machine

/-! Handles (R130, R131). -/

def EngClass.ofHandle (h : BitVec 64) : EngClass :=
  match (h.extractLsb' 62 2).toNat with
  | 0 => .copy
  | 1 => .matrix
  | 2 => .coll
  | _ => .fabric

def handleClass (c : EngClass) : Nat := match c with
  | .copy => 0
  | .matrix => 1
  | .coll => 2
  | .fabric => 3

def handleGen (h : BitVec 64) : BitVec 24 := h.extractLsb' 10 24
def handleIdx (h : BitVec 64) : Nat := (h.extractLsb' 0 10).toNat

def mkHandle (c : EngClass) (gen : BitVec 24) (idx : Nat) : BitVec 64 :=
  BitVec.ofNat 64 (handleClass c * 2 ^ 62 + gen.toNat * 2 ^ 10 + idx % 1024)

def Block.future? (b : Block) (idx : Nat) : Option Future := b.futures.find? (·.idx == idx)

/-- stale(h) (R130, R134). -/
def Block.stale (b : Block) (h : BitVec 64) : Bool :=
  handleGen h == 0 || h.extractLsb' 34 28 != 0
    || (match b.future? (handleIdx h) with
      | some f => f.gen != handleGen h || f.cls != EngClass.ofHandle h
      | none => true)

/-- The entry of a handle is still pending. -/
def Block.pendingHandle (b : Block) (h : BitVec 64) : Bool :=
  match b.future? (handleIdx h) with
  | some f => f.pending
  | none => false

/-- The statuses of R131. -/
def stDone : BitVec 3 := 0
def stCancelled : BitVec 3 := 1
def stStale : BitVec 3 := 2
def stStaleBarrier : BitVec 3 := 3
def stFault : BitVec 3 := 4
def stError : BitVec 3 := 5

/-- What FWAIT reads of a handle once it need not wait (R134). -/
def Block.statusOf (b : Block) (h : BitVec 64) : BitVec 3 :=
  if b.stale h then stStale
  else match b.future? (handleIdx h) with
    | some f => f.status
    | none => stStale

/-- The generation after another, skipping 0 (R131). -/
def nextGen (g : BitVec 24) : BitVec 24 := if g + 1 = 0 then 1 else g + 1

/-- Allocate the next entry in ring order; none while it is pending (R131). -/
def Block.allocFuture (b : Block) (c : EngClass) (inside : List (Nat × Nat)) : Option (BitVec 64 × Block) :=
  let i := b.nextFuture
  let old := b.future? i
  if old.any (·.pending) then none
  else
    let gen := nextGen ((old.map (·.gen)).getD 0)
    some (mkHandle c gen i,
      { b with
        futures := ⟨i, gen, c, true, 0, inside⟩ :: b.futures.filter (·.idx != i)
        nextFuture := (i + 1) % 1024 })

/-- A command's handle completes with a status: if its entry still carries it. -/
def State.finishHandle (s : State) (launch blk : Nat) (h : BitVec 64) (st : BitVec 3) : State :=
  s.modBlock launch blk (fun b =>
    { b with
      futures := modify (fun f => f.idx == handleIdx h && f.gen == handleGen h && f.pending)
        (fun f => { f with pending := false, status := st }) b.futures })

/-- The group's outstanding count of a class rises or falls (R136). -/
def State.countCmd (s : State) (ref : GroupRef) (c : EngClass) (up : Bool) : State :=
  s.modGroup ref (fun g =>
    let i := handleClass c
    { g with outstanding := g.outstanding.set i (if up then g.outstanding.get i + 1 else g.outstanding.get i - 1) })

/-! The issue of a command (R132). -/

/-- The uniform registers of a descriptor, n from an operand on. -/
def descOf (g : Group) (a : Opnd) (n : Nat) : List (BitVec 32) :=
  match a with
  | .s i => (List.range n).map (fun k => g.sregs.get (i.val + k))
  | _ => []

def word (d : List (BitVec 32)) (i : Nat) : Nat := (d.getD i 0).toNat
def pairWord (d : List (BitVec 32)) (i : Nat) : Nat := word d i + 2 ^ 32 * word d (i + 1)

/-- The threads of a list that are inside a region, with its entry. -/
def inRegions (ex : List Thread) : List (Nat × BitVec 64) :=
  ex.filterMap (fun t => t.region.map (fun r => (t.lane, r.entry)))

/-- What an engine command asks of its issue. -/
structure CmdNeed where
  common : Common
  d : Opnd
  reads : List Names
  roles : List Nat
  cls : EngClass
  formBad : Bool := false
  ends : Bool := false
  /-- the issue release is wider than the core (R123) -/
  wide : Ctx → Bool := fun _ => true
  pre : Ctx → Thread → Option Trap := noTrap
  hold : Ctx → Thread → Bool := fun _ _ => false

/-- The roles that may issue most engine commands: general 0, copy 1, matrix 2, vector 3 (R317). -/
def copyRoles : List Nat := [1, 0]
def matrixRoles : List Nat := [2, 0]

/-- Issue an engine command, once for the run (R132): its checks, room in its queue, a future-table entry, the release at its
class's scope (R123), the command itself, its handle in every executing thread, its group's count. -/
def engineOp (n : CmdNeed) (own : State → Ctx → Option Trap) (full : State → Ctx → Bool)
    (act : Ctx → List Thread → BitVec 64 → State → Act) (s : State) : Out :=
  issue
    { common := n.common, writes := [nm n.d false], reads := n.reads, roles := some n.roles, formBad := n.formBad
      recallFirst := true, ordered := true, afterLog := true, hold := n.hold, ends := n.ends }
    n.pre (fun cx _ => own s cx)
    (fun cx ex s =>
      if full s cx || ex.any s.remoteWait then .stall
      else
        match cx.block.allocFuture n.cls ((inRegions ex).map (fun x => (cx.run.ref.gid, x.1))) with
        | none => .stall
        | some (h, b) =>
          let s := s.modBlock cx.run.ref.launch cx.run.ref.blk (fun _ => b)
          match act cx ex h (s.releaseAt cx.site (n.wide cx)) with
          | .done s' =>
            if s.hostBarred s' then .stall
            else .done ((s'.writeAll cx.run.ref ex (fun _ => [⟨n.d, false, h⟩])).countCmd cx.run.ref n.cls true)
          | a => a) s

/-- The engines that each have a command queue of 64 entries at a core (R132): copy, decompression, fabric, collective. -/
def CmdKind.engine : CmdKind → Nat
  | .copy _ _ _ => 0
  | .dcmp _ _ => 1
  | .coll _ _ _ _ => 3
  | _ => 2

/-- A queue is full; an entry frees as its command completes (R132) (log 157, DESIGN CHOICE, unsafe). -/
def State.queueFull (s : State) (core engine : Nat) : Bool :=
  (s.cmds.filter (fun c => c.core == core && c.kind.engine == engine)).length ≥ 64

/-- Enter a command. -/
def State.addCmd (s : State) (cx : Ctx) (ex : List Thread) (kind : CmdKind) (desc : List (BitVec 32)) (h : BitVec 64)
    (lines : List Nat) (early : Bool := false) : Nat × State :=
  let (id, s) := s.fresh
  (id, { s with
    cmds := s.cmds ++
      [{ id := id, ref := cx.run.ref, core := cx.group.core, kind := kind, fn := 0, desc := desc, handle := h
         lanes := lanesOf (ex.map (·.lane)), inside := ex.any (·.region.isSome), inRegion := inRegions ex, chunks := []
         faulted := [], resume := 0, cancel := false, early := early, flying := [], failed := false, lines := lines, txns := [], signalled := false
         gen := s.tgen }] })

/-! The memory of an engine. -/

/-- Where an engine's bytes lie. -/
inductive Place where
  | mem | sp | wb
  deriving DecidableEq, Repr

/-- What an engine's access comes to. -/
inductive Eng (α : Type) where
  | ok (x : α)
  | fault (k : FaultKind) (va : BitVec 57)
  | bad
  deriving DecidableEq, Repr

/-- An engine stands at a block's core, in its launch's PASID. -/
structure EngSite where
  launch : Nat
  blk : Nat
  core : Nat
  pasid : BitVec 20
  deriving DecidableEq, Repr

/-- Read n bytes of global memory at a home slice, none across a line (R54, R119): the bytes, and the poison of a word among
them; from the host window what the host answers (log 61, DEDUCED, unsafe) (log 62, DEDUCED, safe). -/
def State.engLoad (s : State) (w : EngSite) (va n : Nat) : State × Eng (List Byte × Bool) :=
  match s.translate (clusterOf w.core) w.pasid va .read true with
  | (s, .fault k) => (s, .fault k (BitVec.ofNat 57 va))
  | (s, .bad) => (s, .bad)
  | (s, .ok pa _ _) =>
    if inHost pa && s.tdi == .locked then (s.holdSlow, .fault .held (BitVec.ofNat 57 va))
    else if inHost pa then
      let (x, s) := s.free
      ({ s with hostOut := s.hostOut ++ [.read w.pasid (BitVec.ofNat 48 pa) n] }, .ok (leBytes x.toNat n, false))
    else
      let (s, bs, p) := s.readHome pa n w.pasid
      (s.notePoison w.pasid pa p, .ok (bs, p))

/-- Write bytes of global memory at a home slice, poisoned or not. -/
def State.engStore (s : State) (w : EngSite) (va : Nat) (bs : List Byte) (poison : Bool) : State × Eng Unit :=
  match s.translate (clusterOf w.core) w.pasid va .write true with
  | (s, .fault k) => (s, .fault k (BitVec.ofNat 57 va))
  | (s, .bad) => (s, .bad)
  | (s, .ok pa _ _) =>
    if inHost pa && s.tdi == .locked then (s.holdSlow, .fault .held (BitVec.ofNat 57 va))
    else if inHost pa then ({ s with hostOut := s.hostOut ++ [.write w.pasid (BitVec.ofNat 48 pa) bs] }, .ok ())
    else
      let s := s.writeHome pa bs
      (if poison then s.spoil pa else s, .ok ())

/-- A poisoned word has been written into a scratchpad, and what else is written of its codeword: all of it is marked (R59). -/
def State.markSp (s : State) (w : EngSite) (ea : Nat) : State :=
  s.modBlock w.launch w.blk (fun b => { b with spoison := addPoison b.spoison (pairOf ea) })

/-- The bytes of a pair's weight buffers from an offset of 0 to 2,097,151 (R140): leader, then follower. -/
def Pair.wbBytes (p : Pair) (off n : Nat) : List Byte :=
  if off < 1048576 then p.lead.bytes off n else p.follow.bytes (off - 1048576) n
def Pair.putWb (p : Pair) (off : Nat) (bs : List Byte) (poison : Bool) : Pair :=
  let p := if off < 1048576 then { p with lead := p.lead.setBytes off bs }
    else { p with follow := p.follow.setBytes (off - 1048576) bs }
  let left := clearPoison p.poison off bs.length
  { p with poison := if poison then addPoison left [wordOf off] else left }

/-- Read a word of 4 bytes for an engine from a place. -/
def State.engRead (s : State) (w : EngSite) (at_ : Place) (a : Nat) : State × Eng (List Byte × Bool) :=
  match at_ with
  | .mem => s.engLoad w (a % 2 ^ 57) 4
  | .sp =>
    match s.readSp w.launch w.blk w.pasid a 4 with
    | (s, some r) => (s, .ok r)
    | (s, none) => (s, .bad)
  | .wb =>
    match s.block? w.launch w.blk with
    | some b =>
      let s := s.meetAll w.pasid .uncorrectable (ErrPlace.inWeights b.pair a 4)
      match s.pair? b.pair with
      | some p =>
        let bad := p.poison.any (fun q => q < a + 4 && a < q + 4)
        (s.notePoison w.pasid 0 bad, .ok (p.wbBytes a 4, bad))
      | none => (s, .bad)
    | none => (s, .bad)

/-- Write a word of 4 bytes for an engine to a place, with its poison (R60); that of a scratchpad word is marked once the words written
with it stand (`State.markSp`). -/
def State.engWrite (s : State) (w : EngSite) (at_ : Place) (a : Nat) (bs : List Byte) (poison : Bool) : State × Eng Unit :=
  match at_ with
  | .mem => s.engStore w (a % 2 ^ 57) bs poison
  | .sp => (s.putSp w.launch w.blk [(a, bs)], .ok ())
  | .wb =>
    match s.block? w.launch w.blk with
    | some b => ((s.overWeights b.pair a bs.length).modPair b.pair (fun p => p.putWb a bs poison), .ok ())
    | none => (s, .bad)

/-! Copies (R138-R142). -/

/-- A copy's descriptor: source, destination, bytes per row, and per further dimension its count and strides. -/
structure CopyDesc where
  src : Nat
  dst : Nat
  e0 : Nat
  dims : List (Nat × Int × Int)
  deriving DecidableEq, Repr

def CopyDesc.of (dims : BitVec 2) (d : List (BitVec 32)) : CopyDesc where
  src := pairWord d 0
  dst := pairWord d 2
  e0 := word d 4
  dims := (List.range dims.toNat).map (fun k =>
    (word d (5 + 3 * k), (d.getD (6 + 3 * k) 0).toInt, (d.getD (7 + 3 * k) 0).toInt))

def CopyDesc.rows (c : CopyDesc) : Nat := c.dims.foldl (fun n x => n * x.1) 1
def CopyDesc.total (c : CopyDesc) : Nat := c.e0 * c.rows
def CopyDesc.chunks (c : CopyDesc) : Nat := (c.total + 4095) / 4096

/-- The offsets that a row's coordinates add to the source and the destination (R140). -/
def rowOffset : List (Nat × Int × Int) → Nat → Int × Int
  | [], _ => (0, 0)
  | (cnt, ss, ds) :: r, q =>
    let i : Int := ((q % cnt : Nat) : Int)
    let (a, b) := rowOffset r (q / cnt)
    (i * ss + a, i * ds + b)

/-- A 64-bit sum that wraps. -/
def wrapAdd (a : Nat) (x : Int) : Nat := (((a : Int) + x) % 2 ^ 64).toNat

/-- The source and destination addresses of a linear byte (R140). -/
def CopyDesc.at_ (c : CopyDesc) (l : Nat) : Nat × Nat :=
  let (a, b) := rowOffset c.dims (l / c.e0)
  (wrapAdd (c.src + l % c.e0) a, wrapAdd (c.dst + l % c.e0) b)

/-- The lowest and one past the highest byte of a footprint, from its base and strides. -/
def footprint (base e0 : Nat) (strides : List (Nat × Int)) : Int × Int :=
  strides.foldl (fun (r : Int × Int) x =>
    let m := x.2 * ((x.1 : Int) - 1)
    (r.1 + min 0 m, r.2 + max 0 m)) ((base : Int), (base : Int) + e0)

def CopyDesc.srcRange (c : CopyDesc) : Int × Int := footprint c.src c.e0 (c.dims.map (fun x => (x.1, x.2.1)))
def CopyDesc.dstRange (c : CopyDesc) : Int × Int := footprint c.dst c.e0 (c.dims.map (fun x => (x.1, x.2.2)))

def within (r : Int × Int) (n : Nat) : Bool := 0 ≤ r.1 && r.2 ≤ n

/-- Some row of a copy's source or destination touches a peer aperture. -/
def CopyDesc.inAperture (c : CopyDesc) (dst : Bool) : Bool :=
  (List.range c.rows).any (fun q =>
    let a := c.at_ (q * c.e0)
    let x := if dst then a.2 else a.1
    (aperture (x % 2 ^ 57)).isSome || (aperture ((x + c.e0 - 1) % 2 ^ 57)).isSome)

/-- The limits of R138. -/
def CopyDesc.shapeOk (c : CopyDesc) : Bool :=
  4 ≤ c.e0 && c.e0 ≤ 16777216 && c.e0 % 4 == 0
    && c.dims.all (fun x => 1 ≤ x.1 && x.1 ≤ 65536 && x.2.1 % 4 == 0 && x.2.2 % 4 == 0) && c.total ≤ 2 ^ 32

/-- Where a direction reads and writes (R137). -/
def CopyDir.from_ : CopyDir → Place
  | .g2sp => .mem
  | .g2wb => .mem
  | _ => .sp
def CopyDir.to_ : CopyDir → Place
  | .g2sp => .sp
  | .sp2g => .mem
  | .g2wb => .wb
  | .sp2sp => .sp

/-- The linear offsets of the words of a chunk. -/
def chunkWords (total k : Nat) : List Nat :=
  (List.range ((min 4096 (total - 4096 * k)) / 4)).map (fun i => 4096 * k + 4 * i)

/-- The scratchpad lines that some chunks of a copy write. -/
def CopyDesc.linesOf (c : CopyDesc) (ks : List Nat) : List Nat :=
  (ks.flatMap (fun k => (chunkWords c.total k).map (fun l => spLine (c.at_ l).2))).eraseDups

/-- Move some words of a copy: those whose destination a complete later chunk has already written keep that value (R140). -/
def State.copyWordsOf (s : State) (w : EngSite) (c : CopyDesc) (dir : CopyDir) (later : List Nat) :
    List Nat → State × Eng Unit
  | [] => (s, .ok ())
  | l :: ls =>
    let (a, b) := c.at_ l
    if later.contains b then s.copyWordsOf w c dir later ls
    else
      match s.engRead w (CopyDir.from_ dir) a with
      | (s, .fault k va) => (s, .fault k va)
      | (s, .bad) => (s, .bad)
      | (s, .ok (bs, p)) =>
        match s.engWrite w (CopyDir.to_ dir) b bs p with
        | (s, .ok _) =>
          let (s, r) := s.copyWordsOf w c dir later ls
          (if p && CopyDir.to_ dir == .sp then s.markSp w b else s, r)
        | (s, .fault k va) => (s, .fault k va)
        | (s, .bad) => (s, .bad)

/-- The site of a command. -/
def State.cmdSite (s : State) (c : Cmd) : Option EngSite :=
  (s.launch? c.ref.launch).map (fun l => ⟨c.ref.launch, c.ref.blk, c.core, l.pasid⟩)

/-- A fault holds a chunk of a command and is reported to the agent (R80). -/
def State.chunkFault (s : State) (c : Cmd) (pasid : BitVec 20) (chunk : Nat) (k : FaultKind) (va : BitVec 57) : State :=
  let (id, s) := s.fresh
  { (s.modCmd c.id (fun c => { c with faulted := chunk :: c.faulted })) with
    oplog := s.oplog ++ [⟨id, c.core, pasid, k, va, .chunk c.id chunk, 0, none⟩] }

/-- Release the lines of a command but for those that some chunks still write. -/
def State.landLines (s : State) (c : Cmd) (still : List Nat) : State :=
  let gone := c.lines.filter (fun l => !still.contains l)
  if gone.isEmpty then s
  else (s.modCmd c.id (fun c => { c with lines := c.lines.filter (still.contains ·) })).releaseLines c.ref.launch c.ref.blk gone

/-- The class of a command. -/
def CmdKind.cls : CmdKind → EngClass
  | .copy _ _ _ => .copy
  | .dcmp _ _ => .copy
  | .coll _ _ _ _ => .coll
  | _ => .fabric

/-- A command is over: its lines are released, its handle completes, its group's count falls (R131, R136, R141). -/
def State.finishCmd (s : State) (id : Nat) (st : BitVec 3) : State :=
  match s.cmd? id with
  | none => s
  | some c =>
    let s := s.landLines c []
    let s := { s with
      cmds := s.cmds.filter (·.id != id)
      oplog := s.oplog.filter (fun e => match e.site with
        | .chunk i _ => i != id
        | _ => true) }
    (s.finishHandle c.ref.launch c.ref.blk c.handle st).countCmd c.ref c.kind.cls false

end Sys2Proof.Machine
end

