-- ==== Sys2Proof/Machine/Barriers.lean ====
section
/-! DEFINITION. Barriers and launches from a kernel: BAR, BARA, BARW (13 R327-R329), WBAR and FLUSHPT (R330-R332), DLAUNCH
(R333). -/

namespace Sys2Proof.Machine

/-- The barrier that an instruction of the run names: an operand with one value for every thread of the run. -/
def barOf (cx : Ctx) (a : Opnd) : Nat :=
  match cx.threads with
  | t :: _ => (loWord (readOp cx.group t 0 .uint false a)).toNat
  | [] => 0

/-- The expected count E of an arrival (R327): every thread of the block where B is absent or 0. -/
def expected (cx : Ctx) (b : Option Opnd) (k : BitVec 32) (t : Thread) : Nat :=
  match b with
  | none => cx.launch.lr.bsize
  | some o =>
    let n := (loWord (readOp cx.group t k .uint false o)).toNat
    if n = 0 then cx.launch.lr.bsize else n

/-- The traps of the barrier instructions (R327). -/
def barTrap (cx : Ctx) (a : Opnd) (e : Nat) : Option Trap :=
  if barOf cx a ≥ cx.block.bars.length || e > cx.launch.lr.bsize then some accessViolation else none

/-- The phase of a barrier of a block. -/
def State.barPhase (s : State) (launch blk b : Nat) : BitVec 32 :=
  match (s.block? launch blk).bind (fun k => k.bars[b]?) with
  | some x => x.phase
  | none => 0

/-- Threads arrive one after another, each arrival completing the phase that it completes (R328): the phase each arrived in. -/
def State.arriveEach (s : State) (ref : GroupRef) (b : Nat) (e : Thread → Nat) : List Thread → State × List (Nat × BitVec 32)
  | [] => (s, [])
  | t :: ts =>
    let p := s.barPhase ref.launch ref.blk b
    let s := (s.arriveBar ref t.lane b (e t)).settleBar ref.launch ref.blk b
    let (s, r) := s.arriveEach ref b e ts
    (s, (t.lane, p) :: r)

/-- A barrier instruction's issue (R327): an ejected thread is recalled first, and it waits for what orders memory. -/
def barNeed (c : Common) (reads : List Names) : Need :=
  { common := c, reads := reads, recallFirst := true, ordered := true, afterLog := true }

/-- BAR (R327, R328): each thread arrives and is held until the phase it arrived in is over; those whose phase their own run has
completed go on at once. -/
def execBar (c : Common) (a : Opnd) (b : Option Opnd) (k : BitVec 32) (s : State) : Out :=
  issue (barNeed c (nm a false :: nmOpt b false)) noTrap (fun cx t => barTrap cx a (expected cx b k t))
    (fun cx ex s =>
      if ex.any s.remoteWait then .stall
      else
        let r := cx.run.ref
        let n := barOf cx a
        let wide := s.wider .blk cx.block r
        let (s, ps) := (s.releaseAt cx.site wide).arriveEach r n (expected cx b k) ex
        let now := s.barPhase r.launch r.blk n
        let wait := ps.filter (fun x => x.2 = now)
        let past := ps.filter (fun x => x.2 ≠ now)
        let s := s.endRegion r (lanesOf (past.map (·.1)))
        let s := if past.isEmpty then s else s.acquireAt cx.site wide
        if wait.isEmpty then .done s
        else .over (s.holdSome cx c (lanesOf (wait.map (·.1))) (.bar n now c.bnd))) s

/-- BARA (R327, R328): each thread arrives and goes on. -/
def execBara (c : Common) (a : Opnd) (b : Option Opnd) (k : BitVec 32) (s : State) : Out :=
  issue { barNeed c (nm a false :: nmOpt b false) with ends := true } noTrap
    (fun cx t => barTrap cx a (expected cx b k t))
    (fun cx ex s =>
      if ex.any s.remoteWait then .stall
      else
        .done ((s.releaseAt cx.site (s.wider .blk cx.block cx.run.ref)).arriveEach cx.run.ref (barOf cx a)
          (expected cx b k) ex).1) s

/-- BARW (R327, R328): each thread is held until the barrier's present phase is over. -/
def execBarw (c : Common) (a : Opnd) (s : State) : Out :=
  issue (barNeed c [nm a false]) noTrap (fun cx _ => barTrap cx a 0)
    (fun cx ex s =>
      let r := cx.run.ref
      let n := barOf cx a
      .over (s.holdSome cx c (lanesOf (ex.map (·.lane))) (.barw n (s.barPhase r.launch r.blk n) c.bnd))) s

/-! Wide barriers and flush points. -/

/-- The check of R264 for an operation that always counts as fabric-bound. -/
def fabTrap (s : State) (cx : Ctx) : Option Trap :=
  if s.topo cx.block == .stale then some ⟨.staleTopology, 0, 0⟩ else none
def fabHold (s : State) (cx : Ctx) : Bool := s.topo cx.block == .wait

/-- Each executing thread releases, ends its region and is held at the meeting point, which may be complete (R330-R332). -/
def meetWide (c : Common) (h : Ctx → Hold) (cx : Ctx) (ex : List Thread) (s : State) : Act :=
  if ex.any s.remoteWait then .stall
  else
    let lanes := lanesOf (ex.map (·.lane))
    let s := (s.releaseAt cx.site true).endRegion cx.run.ref lanes
    .over ((s.holdSome cx c lanes (h cx)).settleWide cx.run.ref.launch)

/-- The extent of a WBAR in a launch (R330): in a deterministic one `.cl` acts as `.dev`. -/
def extentOf (l : LaunchRec) (e : WExt) : WExt := if l.det && e == .cl then .dev else e

/-- WBAR (R330). -/
def execWbar (c : Common) (ext : WExt) (s : State) : Out :=
  issue { barNeed c [] with hold := fun cx _ => ext == .sys && fabHold s cx }
    (fun cx _ => if ext == .sys then fabTrap s cx else none)
    (fun cx _ => if ext == .sys && cx.launch.lr.team.isNone then some accessViolation else none)
    (meetWide c (fun cx => .wbar (extentOf cx.launch.lr ext) c.bnd)) s

/-- FLUSHPT (R332). -/
def execFlushpt (c : Common) (s : State) : Out :=
  issue (barNeed c []) noTrap noTrap (meetWide c (fun _ => .flushpt c.bnd)) s

/-! Device-side launch. -/

/-- The pending-launch store holds 4,096 entries (R334). -/
def childRoom : Nat := 4096

/-- Read the bytes of a record in pieces of 64, each on a line (R333). -/
def State.readPieces (s : State) (w : EngSite) : Nat → Nat → State × Eng (List Byte × Bool)
  | _, 0 => (s, .ok ([], false))
  | va, n + 1 =>
    match s.engLoad w (va % 2 ^ 57) 64 with
    | (s, .ok (bs, p)) =>
      match s.readPieces w (va + 64) n with
      | (s, .ok (r, q)) => (s, .ok (bs ++ r, p || q))
      | (s, .fault k va) => (s, .fault k va)
      | (s, .bad) => (s, .bad)
    | (s, .fault k va) => (s, .fault k va)
    | (s, .bad) => (s, .bad)

/-- Some byte of a record's range lies in the host window or the empty range. -/
def recordOutside (s : State) (cluster : Nat) (pasid : BitVec 20) (va : Nat) (pieces : Nat) : Bool :=
  (List.range pieces).any (fun i =>
    let a := (va + 64 * i) % 2 ^ 57
    (aperture a).isSome || (match (s.translate cluster pasid a .read true).2 with
      | .ok pa _ _ => inHost pa
      | .bad => true
      | .fault _ => false))

/-- DLAUNCH (R333): once for the run; the record is copied into the pending-launch store where it has a free entry, and its results come
later, with the end of its threads' regions (R27, R33). A record on a page that faults holds the run's threads here for the agent (03
R80). -/
def execDlaunch (c : Common) (d a e : Opnd) (s : State) : Out :=
  let addr (cx : Ctx) : Nat := pairWord (descOf cx.group a 2) 0
  issue
    { common := c, writes := [nm d false, nm e false], reads := [nm a true], recallFirst := true, ordered := true
      afterLog := true } noTrap
    (fun cx _ =>
      if addr cx % 64 != 0 then some misaligned
      else if recordOutside s (clusterOf cx.group.core) cx.launch.pasid (addr cx) 8 then some accessViolation
      else none)
    (fun cx ex s =>
      if ex.any s.remoteWait then .stall
      else
        let lanes := ex.map (·.lane)
        let before := s
        let s := s.releaseAt cx.site true
        let fly (s : State) (ok : Bool) : Act :=
          match s.fly cx c (lanesOf lanes)
              { dst := some (d, false), dst2 := some e, vals := lanes.map (fun i => (i, if ok then 0 else 1))
                val2 := lanes.map (fun i => (i, ok)), ends := true } with
          | some (_, s) => .done s
          | none => .stall
        if s.children.length ≥ childRoom then fly s false
        else
          match s.readPieces ⟨cx.run.ref.launch, cx.run.ref.blk, cx.group.core, cx.launch.pasid⟩ (addr cx) 8 with
          | (s, .fault k va) => if before.hostBarred s then .stall else .over (s.fetchFault cx k va)
          | (s, .bad) => .over (s.fetchFault cx .notPresent (BitVec.ofNat 57 (addr cx)))
          | (s, .ok (bs, poison)) =>
            if poison then .trap s (ex.map (fun t => (t.lane, memUncorrectable)))
            else
              let (id, s) := s.fresh
              fly { s with
                children := s.children ++ [⟨id, cx.run.ref.launch, BitVec.ofNat 64 (addr cx), bs,
                  whereThread cx.run.ref (lanes.headD 0), (cx.run.pc - cx.launch.lr.codeaddr).setWidth 32, true⟩] } true) s

end Sys2Proof.Machine
end

