-- ==== Sys2Proof/Machine/HostIf.lean ====
section
/-! DEFINITION. What the interface state makes of a host's request (15 R375), and the requests that wait while it is locked. -/

namespace Sys2Proof.Machine

/-- What happens to a request. -/
inductive Serve where
  | served
  /-- Unsupported Request -/
  | refused
  /-- reads return all ones, writes are dropped -/
  | ones
  deriving DecidableEq, Repr

/-- The table of R375, by the interface state, the T bit, and whether the request reads the identification block. -/
def State.serve (s : State) (t ident : Bool) : Serve :=
  match s.tdi with
  | .unlocked => if t then .refused else .served
  | .error => if t then .ones else if ident then .served else .refused
  | _ => if t || ident then .served else .refused

/-- Something leaves for the host. -/
def State.answer (s : State) (m : HostMsg) : State := { s with hostOut := s.hostOut ++ [m] }

/-- A write request: performed where it is served, otherwise dropped (R375). -/
def State.hostWrite (s : State) (t : Bool) (f : State → State) : State :=
  match s.serve t false with
  | .served => f s
  | .refused => s.answer .unsupported
  | .ones => s

end Sys2Proof.Machine
end

