-- ==== Sys2Proof/Machine/Control.lean ====
section
/-! DEFINITION. Control transfers, calls, masks and joins, and ejection (12 R290-R306), with the return from a handler (14
R341). -/

namespace Sys2Proof.Machine

/-! Ending a run at a control transfer. -/

/-- The condition in which a thread of a run goes on: halted under single-step, on its pip core, or issuable. -/
def Thread.onward (t : Thread) (r : Run) : Thread :=
  { t with cond := if t.stepping then .halted else if r.pip then .ejected else .issuable }

/-- The issuing run ends at a control transfer: each executing thread goes where the transfer sends it, every other thread to the
next clause start (R291). -/
def State.leave (s : State) (cx : Ctx) (k : Common) (ex : List Thread) (f : Thread → Thread) : State :=
  let r := cx.run
  ((s.endClause r k.yld).modThreads (fun t => t.ref == r.ref && r.lanes.getLsbD t.lane) (fun t =>
    if ex.any (·.lane == t.lane) then f t else { t with pc := r.pc + 12, resume := none }.onward r)).stepStops

/-- A thread goes to a code address. -/
def Thread.goTo (t : Thread) (r : Run) (pc : BitVec 64) : Thread := { t with pc := pc, resume := none }.onward r

/-- A thread waits at the run's instruction. -/
def Thread.stay (t : Thread) (r : Run) (c : Cond) : Thread := { t with pc := r.pc, resume := r.resume, cond := c }

/-- The checks of a target offset (R292, R293). -/
def targetTrap (l : LaunchRec) (t : Nat) : Option Trap :=
  if t % 12 != 0 then some misaligned else if t ≥ l.codesize.toNat then some accessViolation else none

/-- The code offset that a relative transfer reaches (R290): one before the code object counts as one past every code object's end. -/
def relOffset (cx : Ctx) (off : BitVec 32) : Nat :=
  let t := cx.run.pc + off.signExtend 64 - cx.launch.lr.codeaddr
  if t.msb then 12 * 2 ^ 60 else t.toNat

/-- The code offset an operand names: 32 bits, zero-extended. -/
def regOffset (g : Group) (t : Thread) (a : Opnd) : Nat := (loWord (readOp g t 0 .uint false a)).toNat

/-! Branches (R292). -/

/-- A branch of each executing thread to a code offset. -/
def branchOp (c : Common) (reads : List Names) (target : Ctx → Thread → Nat) (s : State) : Out :=
  issue { common := c, reads := reads } noTrap (fun cx t => targetTrap cx.launch.lr (target cx t))
    (fun cx ex s =>
      .over (s.leave cx c ex (fun t =>
        t.goTo cx.run (cx.launch.lr.codeaddr + BitVec.ofNat 64 (target cx t))))) s

/-- BRA (R292): PC + sext(C), inside the code object. -/
def execBra (c : Common) (off : BitVec 32) (s : State) : Out := branchOp c [] (fun cx _ => relOffset cx off) s

/-- BRX (R292): each thread to its own offset. -/
def execBrx (c : Common) (a : Opnd) (s : State) : Out :=
  branchOp c [nm a false] (fun cx t => regOffset cx.group t a) s

/-! Ejection (R300-R302). -/

/-- An ejection record (R300). -/
structure EjectRec where
  boff : Nat
  joff : BitVec 32
  hop : BitVec 15
  hbp : BitVec 15
  hov : BitVec 256
  hbv : BitVec 256
  hos : BitVec 192
  deriving DecidableEq, Repr

def EjectRec.ofNat (x : Nat) : EjectRec where
  boff := bits x 31 0
  joff := BitVec.ofNat 32 (bits x 63 32)
  hop := BitVec.ofNat 15 (bits x 78 64)
  hbp := BitVec.ofNat 15 (bits x 110 96)
  hov := BitVec.ofNat 256 (bits x 383 128)
  hbv := BitVec.ofNat 256 (bits x 639 384)
  hos := BitVec.ofNat 192 (bits x 831 640)

/-- What the search for a record finds. -/
inductive Found where
  | none
  | record (r : EjectRec)
  | fault (k : FaultKind) (va : BitVec 57)
  deriving DecidableEq, Repr

/-- The record of a branch in the sorted table (R300), among those from lo up to hi (log 79, DEDUCED, safe). -/
def State.findEject (s : State) (core : Nat) (pasid : BitVec 20) (base : BitVec 64) (boff : Nat) :
    Nat → Nat → Nat → State × Found
  | 0, _, _ => (s, .none)
  | fuel + 1, lo, hi =>
    if lo ≥ hi then (s, .none)
    else
      let mid := (lo + hi) / 2
      let va := (base.toNat + 128 * mid) % 2 ^ 57
      match s.peekWords core pasid va 32 with
      | (s, .error (.fault k)) => (s, .fault k (BitVec.ofNat 57 va))
      | (s, .error _) => (s, .none)
      | (s, .ok (x, poison)) =>
        if poison then (s, .none)
        else
          let b := bits x 31 0
          if b = boff then (s, .record (EjectRec.ofNat x))
          else if b < boff then s.findEject core pasid base boff fuel (mid + 1) hi
          else s.findEject core pasid base boff fuel lo mid

/-- The latest turn of a pip core's contexts (R302). -/
def State.pipTop (s : State) (cluster pip : Nat) : Nat :=
  s.threads.foldl (fun n t => match t.pip with
    | some p => if p.pip == pip && ((s.group? t.ref).map (fun g => clusterOf g.core)) == some cluster then max n p.turn else n
    | none => n) 0

/-- Contexts in use of a pip core of a cluster; each of its 8 cores has 16 (R2). -/
def State.pipUse (s : State) (cluster pip : Nat) : Nat :=
  (s.threads.filter (fun t => match t.pip with
    | some p => p.pip == pip && ((s.group? t.ref).map (fun g => clusterOf g.core)) == some cluster
    | none => false)).length

def State.pipFree (s : State) (cluster : Nat) : List Nat := (List.range 8).filter (fun i => s.pipUse cluster i < 16)
def State.pipFreeContexts (s : State) (cluster : Nat) : Nat :=
  ((List.range 8).map (fun i => 16 - s.pipUse cluster i)).sum

/-- Every register a record names lies within an allotment. -/
def EjectRec.fits (e : EjectRec) (vregs sregs : Nat) : Bool :=
  (List.range 256).all (fun i => !(e.hov.getLsbD i || e.hbv.getLsbD i) || i < vregs)
    && (List.range 192).all (fun i => !e.hos.getLsbD i || i < sregs)

/-- The conditions under which a minority is ejected (R301). -/
def State.mayEject (s : State) (cx : Ctx) (minority : List Thread) : Bool :=
  1 ≤ minority.length && minority.length ≤ cx.launch.lr.eject
    && minority.length ≤ s.pipFreeContexts (clusterOf cx.run.core)
    && !(cx.launch.lr.det && (cx.launch.flush.isSome
      || (s.groupThreads cx.run.ref).any (fun t => match t.cond with
        | .held (.wbar _ _) => true
        | .held (.flushpt _) => true
        | _ => false)))
    && !(match cx.launch.proofer with
      | some p => p.blocks.contains cx.run.ref.blk
      | none => false)
    && !minority.any (·.stepping)

/-- The values of a mask's registers. -/
def pickRegs {n w : Nat} (m : BitVec n) (st : Store w) : Store w :=
  (List.range n).foldl (fun r i => if m.getLsbD i then r.set i (st.get i) else r) []

/-- A thread's pip context (R302); its turn comes behind those of the contexts that wait (log 78, DEDUCED, safe). -/
def newPip (e : EjectRec) (g : Group) (t : Thread) (pip : Nat) (since : BitVec 64) (turn : Nat) : Pip where
  pip := pip
  joff := e.joff
  hov := e.hov
  hbv := e.hbv
  hop := e.hop
  hbp := e.hbp
  hos := e.hos
  vregs := pickRegs e.hov t.vregs
  vpoison := t.vpoison.filter e.hov.getLsbD
  preds := t.preds &&& e.hop
  sregs := pickRegs e.hos g.sregs
  flags := []
  since := since
  leaving := false
  turn := turn

/-- The hand-over copy of a thread reads the registers its record names: errors in them are found (02 R58). -/
def State.meetHandOver (s : State) (cx : Ctx) (e : EjectRec) (lane : Nat) : State :=
  s.meetAll cx.launch.pasid .uncorrectable (fun p => match p with
    | .vreg r l i => r == cx.run.ref && l == lane && anyBit e.hov i 2
    | .sreg r i => r == cx.run.ref && anyBit e.hos i 2
    | _ => false)

/-- Eject threads one by one, each on a pip core with a free context (R302) (log 80, DESIGN CHOICE, unsafe). -/
def State.ejectAll (s : State) (cx : Ctx) (e : EjectRec) : List Thread → State
  | [] => s
  | t :: ts =>
    match s.pipFree (clusterOf cx.run.core) with
    | [] => s
    | i :: _ =>
      let s := s.meetHandOver cx e t.lane
      let top := s.pipTop (clusterOf cx.run.core) i
      (s.modThread cx.run.ref t.lane (fun t =>
        { t with pip := some (newPip e cx.group t i s.clock (top + 1)), cond := .ejected })).ejectAll cx e ts

/-- BRA_DV (R292, R301, R302): a branch of the executing threads; the smaller side may go to the pip pool, its writes released
first (05 R127): the branch waits for accesses of theirs that are still to be performed (R111, R80). -/
def execBraDv (c : Common) (off : BitVec 32) (s : State) : Out :=
  issue { common := c } noTrap (fun cx _ => targetTrap cx.launch.lr (relOffset cx off))
    (fun cx ex s =>
      let go (s : State) : State :=
        s.leave cx c ex (fun t => t.goTo cx.run (cx.launch.lr.codeaddr + BitVec.ofNat 64 (relOffset cx off)))
      let rest := cx.threads.filter (fun t => !ex.any (·.lane == t.lane))
      let minority := if ex.length ≤ rest.length then ex else rest
      if cx.run.pip || !s.mayEject cx minority then .over (go s)
      else if minority.any (fun t => loggedWait s.inflight t || s.remoteWait t) then .stall
      else
        let l := cx.launch.lr
        match s.findEject cx.run.core cx.launch.pasid l.ejaddr (cx.run.pc - l.codeaddr).toNat 33 0 l.ejcount.toNat with
        | (s, .fault k va) => .over (s.fetchFault cx k va)
        | (s, .none) => .over (go s)
        | (s, .record e) =>
          if e.fits cx.vregs cx.sregs then
            -- a thread that held threads wait for comes back at once (09 R213)
            let s := ((go s).releaseCore cx.group.core).ejectAll cx e minority
            .over (s.recallNamed cx.run.ref (s.awaited cx.run.ref))
          else .over (go s)) s

/-! Calls and returns (R293-R295). -/

/-- The address of an entry of a thread's return stack. -/
def stackAddr (t : Thread) (d : Nat) : BitVec 64 := t.rsbase + BitVec.ofNat 64 (4 * d)

/-- The store of a CALL's return offset. -/
def callReq (cx : Ctx) (t : Thread) : MemReq :=
  ⟨t.lane, vaOf (stackAddr t t.d), .store 4, cx.run.pc + 12 - cx.launch.lr.codeaddr, 0⟩

/-- The traps of a CALL to an offset (R293). -/
def callTrap (s : State) (cx : Ctx) (t : Thread) (target : Nat) : Option Trap :=
  (targetTrap cx.launch.lr target).orElse (fun _ =>
    if t.d = 256 then some accessViolation else accessTrap s cx false (callReq cx t))

/-- A CALL of each executing thread to its offset: the return offset is stored, then the thread goes. -/
def callOp (c : Common) (reads : List Names) (target : Ctx → Thread → Nat) (s : State) : Out :=
  issue
    { common := c, reads := reads, ordered := true, afterLog := true
      hold := fun cx t => topoHold s cx (stackAddr t t.d) }
    (fun cx t => topoTrap s cx (stackAddr t t.d))
    (fun cx t => callTrap s cx t (target cx t))
    (fun cx ex s =>
      match memAct { c := c, dst := none, result := false } (callReq cx) cx ex s with
      | .done s =>
        .over (s.leave cx c ex (fun t =>
          { t with d := t.d + 1 }.goTo cx.run (cx.launch.lr.codeaddr + BitVec.ofNat 64 (target cx t))))
      | a => a) s

/-- CALL (R293). -/
def execCall (c : Common) (off : BitVec 32) (s : State) : Out := callOp c [] (fun cx _ => relOffset cx off) s

/-- CALLI (R293). -/
def execCalli (c : Common) (a : Opnd) (s : State) : Out := callOp c [nm a false] (fun cx t => regOffset cx.group t a) s

/-- The fields of a binding entry (R294), and what CALLT makes of it (R295). -/
inductive Binding where
  | bound (target : Nat)
  | failed
  | fresh
  | resolving
  deriving DecidableEq, Repr

/-- The row of R295 that an entry falls under: the first, where bound stands beside failed or a res0 bit (log 164, DESIGN CHOICE, unsafe). -/
def Binding.ofNat (x : Nat) : Binding :=
  if bits x 63 63 == 1 then .bound (bits x 31 0)
  else if bits x 61 61 == 1 || bits x 60 32 != 0 then .failed
  else if bits x 62 62 == 1 then .resolving else .fresh

/-- The address of binding entry k. -/
def bindAddr (l : LaunchRec) (k : Nat) : Nat := (l.bindaddr.toNat + 8 * k) % 2 ^ 57

/-- Read a binding entry at its home slice (R295). -/
def State.readBinding (s : State) (cx : Ctx) (k : Nat) : State × Except Got Binding :=
  match s.translate (clusterOf cx.group.core) cx.launch.pasid (bindAddr cx.launch.lr k) .read true with
  | (s, .fault f) => (s, .error (.fault f))
  | (s, .bad) => (s, .error (.trap accessViolation))
  | (s, .ok pa _ _) =>
    let s := (s.recallWords (lineOf pa) (wordMask pa 8)).visit pa 8 cx.launch.pasid
    if s.poisonedRange pa 8 then (s.notePoison cx.launch.pasid pa true, .error (.trap memUncorrectable))
    else (s, .ok (Binding.ofNat (s.mem.le pa 8)))

/-- The run sets resolving in an entry (R295). -/
def State.setResolving (s : State) (cx : Ctx) (k : Nat) : State × Option FaultKind :=
  match s.translate (clusterOf cx.group.core) cx.launch.pasid (bindAddr cx.launch.lr k) .write true with
  | (s, .fault f) => (s, some f)
  | (s, .bad) => (s, some .permission)
  | (s, .ok pa _ _) =>
    let s := s.recallWords (lineOf pa) (wordMask pa 8)
    (s.writeHome (pa + 4) (leBytes (s.mem.le (pa + 4) 4 ||| 2 ^ 30) 4), none)

/-- The entry a thread's CALLT names. -/
def bindIndex (cx : Ctx) (t : Thread) (a : Opnd) (k : BitVec 32) : Nat :=
  (loWord (readOp cx.group t k .uint false a)).toNat

/-- A thread waits at its instruction for a page fault that an agent is told of (R80) (log 60, DEDUCED, safe). -/
def State.waitFault (s : State) (cx : Ctx) (lane : Nat) (k : FaultKind) (va : BitVec 57) : State :=
  let (id, s) := s.fresh
  { (s.modThread cx.run.ref lane (·.stay cx.run (.held (.fetch id)))) with
    oplog := s.oplog ++ [⟨id, cx.run.core, cx.launch.pasid, k, va, .ret cx.run.ref lane, cx.run.pc, cx.run.resume⟩] }

/-- The traps of a CALLT (R295). -/
def calltTrap (s : State) (cx : Ctx) (t : Thread) (k : Nat) : Option Trap :=
  if k ≥ cx.launch.lr.bindcount.toNat then some accessViolation
  else match (s.readBinding cx k).2 with
    | .error (.trap tr) => some tr
    | .ok (.bound target) => callTrap s cx t target
    | .ok .failed => some ⟨.unbound, 0, 0⟩
    | _ => none

/-- The trap registers of a thread that is sent to the resolver (R295, R337), which waits at the CALLT. -/
def Thread.toResolver (t : Thread) (cx : Ctx) (k : Nat) : Thread :=
  (t.trapRegs ⟨.unbound, 0, 0⟩ cx.run.pc cx.run.resume).stay cx.run (.trapped k)

/-- What an executing thread's entry holds, as its run finds it: a page fault on the entry is a fault. -/
def State.bindings (s : State) (cx : Ctx) (ix : Thread → Nat) : List Thread → State × List (Thread × Except Got Binding)
  | [] => (s, [])
  | t :: ts =>
    let (s, b) := s.readBinding cx (ix t)
    let (s, r) := s.bindings cx ix ts
    (s, (t, b) :: r)

/-- Set resolving in every entry of a list: those that faulted. -/
def State.resolveAll (s : State) (cx : Ctx) : List Nat → State × List (Nat × FaultKind)
  | [] => (s, [])
  | k :: ks =>
    let (s, f) := s.setResolving cx k
    let (s, r) := s.resolveAll cx ks
    (s, match f with
      | some f => (k, f) :: r
      | none => r)

/-- CALLT (R295): the threads on bound entries call; those that set resolving go to the resolver; those that find it set are
held; a page fault on an entry holds its threads at the instruction. An ejected thread on an unbound entry is recalled
(R307). -/
def execCallt (c : Common) (a : Opnd) (k : BitVec 32) (s : State) : Out :=
  issue
    { common := c, reads := [nm a false], ordered := true, afterLog := true
      hold := fun cx t => topoHold s cx (stackAddr t t.d)
      -- what the reads of the entries logged (02 R59)
      noted := fun cx l s => (s.bindings cx (fun t => bindIndex cx t a k)
        (cx.threads.filter (fun t => l.any (fun x => x.1 == t.lane && x.2.cause == .memUncorrectable)))).1 }
    (fun cx t => topoTrap s cx (stackAddr t t.d))
    (fun cx t => calltTrap s cx t (bindIndex cx t a k))
    (fun cx ex s =>
      if ex.any s.remoteWait then .stall
      else
      let ix (t : Thread) : Nat := bindIndex cx t a k
      let before := s
      let (s, bs) := (s.acquireAt cx.site true).bindings cx ix ex
      let calls := bs.filterMap (fun b => match b.2 with
        | .ok (.bound target) => some (b.1, target)
        | _ => none)
      let sets := (bs.filterMap (fun b => match b.2 with
        | .ok .fresh => some (ix b.1)
        | _ => none)).eraseDups
      if before.hostBarred s then .stall
      else if cx.run.pip && calls.isEmpty then .trap before []
      else
        match memAct { c := c, dst := none, result := false } (callReq cx) cx (calls.map (·.1)) s with
        | .done s =>
          let (s, bad) := s.resolveAll cx sets
          let s := s.leave cx c ex (fun t =>
            match calls.find? (·.1.lane == t.lane), bs.find? (·.1.lane == t.lane) with
            | some (_, target), _ =>
              { t with d := t.d + 1 }.goTo cx.run (cx.launch.lr.codeaddr + BitVec.ofNat 64 target)
            | none, some (_, .ok .fresh) => t.toResolver cx (ix t)
            | none, some (_, .ok .resolving) => t.stay cx.run (.held (.callt (ix t)))
            | none, _ => t.stay cx.run .issuable)
          let s := bs.foldl (fun (s : State) b => match b.2 with
            | .error (.fault f) => s.waitFault cx b.1.lane f (BitVec.ofNat 57 (bindAddr cx.launch.lr (ix b.1)))
            | .ok .fresh => match bad.find? (·.1 == ix b.1) with
              | some (_, f) => s.waitFault cx b.1.lane f (BitVec.ofNat 57 (bindAddr cx.launch.lr (ix b.1)))
              | none => s
            | _ => s) s
          if before.hostBarred s then .stall else .over s
        | x => x) s

/-- A RET of a thread in its handler at its trap depth is the handler's (R341). -/
def Thread.handlerReturns (t : Thread) : Bool := t.inHandler && t.d == t.trapDepth

/-- The load of a RET's offset. -/
def retReq (t : Thread) : MemReq := ⟨t.lane, vaOf (stackAddr t (t.d - 1)), .load .n32, 0, 0⟩

/-- Where a thread's handler returns to. -/
def State.handlerGoes (s : State) (cx : Ctx) (t : Thread) : HandlerRet :=
  handlerRet cx.launch t (s.isHeader cx.launch cx.run.core t.trappc)
    (match t.trapClause with
      | some c => s.clauseLast cx.launch cx.run.core c.hdr
      | none => 0)

/-- The traps of a RET: those of R293, or the double trap of R341. -/
def retTrap (s : State) (cx : Ctx) (t : Thread) : Option Trap :=
  if t.handlerReturns then
    match s.handlerGoes cx t with
    | .double cause => some ⟨cause, 0, 0⟩
    | _ => none
  else if t.d = 0 then some accessViolation
  else
    (accessTrap s cx true (retReq t)).orElse (fun _ =>
      match (s.accessOne cx.site true (retReq t)).2 with
      | .val x => targetTrap cx.launch.lr (loWord x).toNat
      | _ => none)

/-- RET (R293, R341): a page fault on the return stack keeps its thread here (R80), and so does a load from a peer. -/
def execRet (c : Common) (s : State) : Out :=
  issue
    { common := c, ordered := true, afterLog := true
      hold := fun cx t => !t.handlerReturns && topoHold s cx (stackAddr t (t.d - 1))
      noted := fun cx l s => noteReads true retReq cx (l.filter (fun x =>
        cx.threads.any (fun t => t.lane == x.1 && !t.handlerReturns && t.d != 0))) s }
    (fun cx t => if t.handlerReturns then none else topoTrap s cx (stackAddr t (t.d - 1)))
    (fun cx t => retTrap s cx t)
    (fun cx ex s =>
      let normal := ex.filter (fun t => !t.handlerReturns)
      -- a store of the thread's on its way to the same word comes first (05 R111)
      if normal.any (fun t => s.behindFar cx.run.ref (retReq t)) then .stall
      else
      let before := s
      let (s, res) := s.accessAll cx.site true (normal.map retReq)
      let fs := faultsOf res
      let far := farsOf res
      -- poison that only an earlier lane's access has brought (04 R84)
      if !(trapsOf res).isEmpty then .trap (before.readsOnly cx.site (normal.map retReq)) (trapsOf res)
      else if cx.run.pip && !fs.isEmpty then .trap before []
      else
        let flown := if far.isEmpty then some (0, s)
          else s.fly cx c (lanesOf (far.map (·.1.lane))) { isRet := true }
        match flown with
        | none => .stall
        | some (id, s) =>
          let s := s.sendReqs id far []
          let goes := (ex.filter (·.handlerReturns)).map (fun t => (t.lane, s.handlerGoes cx t))
          let s := (s.goneOn cx.run.ref (ex.filter (·.handlerReturns))).leave cx c ex (fun t =>
            match goes.find? (·.1 == t.lane), (valsOf res).find? (·.1 == t.lane) with
            | some (_, h), _ => (t.leaveHandler h).onward cx.run
            | none, some (_, x) =>
              { t with d := t.d - 1 }.goTo cx.run (cx.launch.lr.codeaddr + (loWord x).setWidth 64)
            | none, none => t.stay cx.run (.held (.inflight id c.bnd)))
          .over (fs.foldl (fun (s : State) f => s.waitFault cx f.1.lane f.2 f.1.va) s)) s

/-! Exit and yield (R296, R297). -/

/-- The Proofer keeps a thread at its EXIT: others of its group are still in its region, and are rolled back to its entry with it if one of
them is (16 R391) (log 162, DEDUCED, unsafe). -/
def State.keptAt (s : State) (cx : Ctx) (ex : List Thread) (t : Thread) : Bool :=
  cx.launch.proofer.any (fun p => p.step ≥ 4 && p.blocks.contains cx.run.ref.blk)
    && t.region.any (fun r => (s.groupThreads cx.run.ref).any (fun u =>
      u.region.any (·.entry == r.entry) && !u.canonical && u.cond != .exited && !ex.any (·.lane == u.lane)))

/-- EXIT (R296): a thread with long-latency work stays here until it is done; every other one ends its region and exits, and
whatever awaited it looks again. -/
def execExit (c : Common) (s : State) : Out :=
  issue { common := c } noTrap noTrap
    (fun cx ex s =>
      let waits := ex.filter (fun t => s.inFlight cx.run.ref t.lane)
      if cx.run.pip && !waits.isEmpty then .stall
      else
        let goes := ex.filter (fun t => !s.inFlight cx.run.ref t.lane && !s.keptAt cx ex t)
        let s := s.leave cx c ex (fun t =>
          if goes.any (·.lane == t.lane) then
            { t with pc := cx.run.pc, resume := cx.run.resume, cond := .exited, pip := none, stepping := false }
          else t.stay cx.run (.held (if s.inFlight cx.run.ref t.lane then .exiting else .kept)))
        if goes.isEmpty then .over s
        else .over ((s.endRegion cx.run.ref (lanesOf (goes.map (·.lane)))).afterExit cx.run.ref)) s

/-- The marks of YIELD end at once when every issuable thread of the group has one (R297). -/
def State.clearDeferred (s : State) (ref : GroupRef) : State :=
  if (s.groupThreads ref).any (fun t => t.cond == .issuable && !t.deferred) then s
  else s.modThreads (·.ref == ref) (fun t => { t with deferred := false })

/-- YIELD (R297). -/
def execYield (c : Common) (s : State) : Out :=
  issue { common := c } noTrap noTrap
    (fun cx ex s =>
      let s := s.leave cx { c with yld := !cx.run.pip || c.yld } ex (fun t =>
        { t with deferred := !cx.run.pip }.goTo cx.run (cx.run.pc + 12))
      .over (if cx.run.pip then s else s.clearDeferred cx.run.ref)) s

/-! Masks and joins (R298, R299, R303). -/

/-- MSET (R298): once per run. -/
def execMset (c : Common) (d a : Opnd) (k : BitVec 32) (s : State) : Out :=
  issue { common := c, writes := [nm d false], reads := [nm a true], recallFirst := true } noTrap noTrap
    (fun cx ex s => .done (s.writeAll cx.run.ref ex (fun t => [⟨d, true, readOp cx.group t k .sint true a⟩]))) s

/-- MGET (R298). -/
def execMget (c : Common) (d a : Opnd) (s : State) : Out :=
  issue { common := c, writes := [nm d true], reads := [nm a false], recallFirst := true } noTrap noTrap
    (fun cx ex s => .done (s.writeAll cx.run.ref ex (fun t => [⟨d, true, readOp cx.group t 0 .uint false a⟩]))) s

/-- The mask an operand names, in a group. -/
def maskOf (g : Group) (a : Opnd) : BitVec 64 :=
  match a with
  | .m i => g.masks.get i.toNat
  | _ => 0

/-- The run's named threads whose guard is false have arrived, and pass (R299); a join whose named threads have all passed is
over (log 35, DEDUCED, safe). -/
def State.passBy (s : State) (cx : Ctx) (c : Common) (mask : BitVec 64) : State :=
  let r := cx.run
  let by_ := (cx.threads.filter (fun t => !t.guard c && mask.getLsbD t.lane && !cx.group.passed.contains (r.pc, t.lane))).map
    (fun t => (r.pc, t.lane))
  if by_.isEmpty then s
  else
    let s := s.modGroup r.ref (fun g => { g with passed := by_ ++ g.passed })
    match s.group? r.ref with
    | none => s
    | some g =>
      if (s.liveNamed r.ref mask).all (fun t => g.passed.contains (r.pc, t.lane)) then
        s.modGroup r.ref (fun g => { g with passed := g.passed.filter (·.1 != r.pc) })
      else s

/-- MJOIN (R299): where some of its threads trap, the others stay held until those arrive again (09 R214). -/
def execMjoin (c : Common) (a : Opnd) (s : State) : Out :=
  let m : BitVec 3 := match a with
    | .m i => i
    | _ => 0
  let s := match s.ctx? with
    | some cx =>
      let s := s.arriveAgain cx.run.ref cx.run.pc (lanesOf ((cx.threads.filter (fun t => t.pip.isNone || !t.guard c)).map (·.lane)))
      -- guards that are still to be written are not read yet (01 R28)
      if cx.threads.any (fun t => pending s.inflight t [(.p c.guard, 1)] || ({ common := c } : Need).recallsGuard t) then s
      else s.passBy cx c (maskOf cx.group a)
    | none => s
  issue { common := c, reads := [nm a false], recallFirst := true, afterLog := true
          noted := fun cx l s => s.noteOwing cx.run.ref cx.run.pc l } noTrap
    (fun cx t => if (maskOf cx.group a).getLsbD t.lane then none else some ⟨.groupopSelf, 0, 0⟩)
    (fun cx ex s =>
      if ex.any s.remoteWait then .stall
      else
      let r := cx.run
      let mask := maskOf cx.group a
      let missing := (s.liveAwaited r.ref r.pc mask).filter (fun t =>
        !(ex.any (·.lane == t.lane) || joined cx.group r.pc m t))
      let wide := s.wider .grp cx.block r.ref
      let s := s.releaseAt cx.site wide
      if missing.isEmpty then
        let s := s.leave cx c ex (fun t => t.goTo r (r.pc + 12))
        let s := s.modThreads (fun t => t.ref == r.ref && t.cond == .held (.mjoin m) && t.pc == r.pc) (·.goOn true)
        let s := s.stepStops
        let s := s.modGroup r.ref (fun g => { g with passed := g.passed.filter (·.1 != r.pc) })
        .over (s.acquireAt cx.site wide)
      else
        let s := s.leave cx c ex (fun t => t.stay r (.held (.mjoin m)))
        .over (s.recallNamed r.ref (lanesOf (missing.map (·.lane))))) s

/-- An ejected thread's hand-back (R303): its hbv and hbp values are written back, its context is freed, it is issuable at an
address. -/
def Thread.handBack (t : Thread) (pc : BitVec 64) : Thread := t.backTo (·.hbv) (·.hbp) pc none

/-- REJOIN (R303, R304). -/
def execRejoin (c : Common) (s : State) : Out :=
  issue { common := c } noTrap noTrap
    (fun cx ex s =>
      let r := cx.run
      if r.pip then
        if ex.any (fun t => s.inFlight r.ref t.lane) || (List.range 12).any (flagSet cx.flags) then .stall
        else
          let s := ex.foldl (fun (s : State) t => s.overVregs r.ref t.lane ((t.pip.map (·.hbv)).getD 0)) s
          let s := s.leave cx c ex (fun t => t.handBack (r.pc + 12))
          -- ahead of its class only while the group has kept its place (R304)
          .over ((s.modGroup r.ref (fun g => { g with returned := !g.parked })).joinCore r.ref)
      else
        let off := (r.pc - cx.launch.lr.codeaddr).setWidth 32
        if s.stillOut r.ref off then
          let s := s.leave cx c ex (fun t => t.stay r (.held (.rejoin off)))
          .over (s.modGroup r.ref (fun g => { g with softStart := g.softStart.orElse (fun _ => some s.clock) }))
        else
          let s := s.leave cx c ex (fun t => t.goTo r (r.pc + 12))
          .over (s.joinCore r.ref)) s

end Sys2Proof.Machine
end

