-- ==== Sys2Proof/Machine/Sched.lean ====
section
/-! DEFINITION. What a core's pipes and pip cores issue next: runs (12 R286-R288), readiness, arbitration (13 R325), the rotation of
a pip core (12 R302), the two timeouts of an ejection (R304). -/

namespace Sys2Proof.Machine

/-- The wait mask of the header word at a PC; a word that is no header, or that cannot be fetched, waits for nothing. -/
def State.waitAt (s : State) (core : Nat) (l : Launch) (pc : BitVec 64) : BitVec 12 :=
  if (pc - l.lr.codeaddr).toNat ≥ l.lr.codesize.toNat then 0
  else match (s.fetchWord core l.pasid pc).2 with
    | .word w _ => if (Raw.ofWord w).opcode == 0x01#8 then (Raw.ofWord w).cw.setWidth 12 else 0
    | _ => 0

/-- Order of the thread table: ascending PC, then ascending lane (R286). -/
def before (a b : Thread) : Bool := a.pc.toNat < b.pc.toNat || (a.pc == b.pc && a.lane < b.lane)

/-- The first thread of a list in the table's order. -/
def firstOf : List Thread → Option Thread
  | [] => none
  | t :: ts => match firstOf ts with
    | some u => if before u t then some u else some t
    | none => some t

/-- A thread that may issue on the vector pipe. -/
def Thread.issues (t : Thread) : Bool := t.cond == .issuable && !t.canonical

/-- The thread at which a group's next run starts (R287). -/
def nextThread (ts : List Thread) : Option Thread :=
  (firstOf (ts.filter (·.aging == 64))).orElse (fun _ => (firstOf (ts.filter (!·.deferred))).orElse (fun _ => firstOf ts))

/-- The run of a thread: the issuable threads of its group with its PC and its resume point (R286, R288); one under single-step runs
alone (R385). -/
def runLanes (ts : List Thread) (t : Thread) : BitVec 64 :=
  if t.stepping then lanesOf [t.lane]
  else lanesOf ((ts.filter (fun u => u.pc == t.pc && u.resume == t.resume && !u.stepping)).map (·.lane))

/-- A run begins. -/
def newRun (ref : GroupRef) (core pipe : Nat) (pip : Bool) (lanes : BitVec 64) (t : Thread) : Run where
  ref := ref
  core := core
  pipe := pipe
  pip := pip
  lanes := lanes
  pc := t.pc
  hdr := (t.resume.map (·.hdr)).getD t.pc
  fx := (t.resume.map (·.fx)).getD 15
  fy := (t.resume.map (·.fy)).getD 15
  start := t.resume.isNone
  yld := false
  stalled := false

/-- The offset of the region record that the clause at a PC names, if it begins with REGION (R29). -/
def State.entryAt (s : State) (l : Launch) (core : Nat) (pc : BitVec 64) : Option Nat :=
  if (pc - l.lr.codeaddr).toNat ≥ l.lr.codesize.toNat || !s.isHeader l core pc then none
  else
    match (s.fetchWord core l.pasid (pc + 12)).2 with
    | .word w _ => if (Raw.ofWord w).opcode == 0x02#8 then some (Raw.ofWord w).cw.toNat else none
    | _ => none

/-- A thread stands at a region entry it has not issued (R347). -/
def State.atEntry (s : State) (t : Thread) : Bool :=
  match s.launch? t.ref.launch, s.group? t.ref with
  | some l, some g => t.resume.isNone && !t.inHandler && (s.entryAt l g.core t.pc).isSome
  | _, _ => false

/-- The end of a block's cohort: the index after its last block (R322). -/
def cohortEnd (l : Launch) (idx : Nat) : Nat := min l.lr.nblk ((idx / l.lr.cohort + 1) * l.lr.cohort)

/-- The debugger stops issue for a PASID's threads (R384, R385): its halt bit, which a lock without dbgen makes ineffective (log 153,
DEDUCED, safe). -/
def State.haltsPasid (s : State) (pasid : BitVec 20) : Bool :=
  s.dbgCtl.getLsbD 0 && s.dbgCtl.extractLsb' 20 20 == pasid
    && !((s.tdi == .locked || s.tdi == .run) && !s.fwcfg.getLsbD 0)

/-- The Proofer keeps a thread from issuing: it has reached a region entry since step 4 began (R348). -/
def State.proofHolds (s : State) (l : Launch) (t : Thread) : Bool :=
  l.proofer.any (fun p => p.step ≥ 4 && p.blocks.contains t.ref.blk) && s.atEntry t

/-- The threads of a group that may issue now. -/
def State.mayIssue (s : State) (l : Launch) (t : Thread) : Bool :=
  t.issues && (t.stepping || l.agent || !s.haltsPasid l.pasid) && !s.proofHolds l t

/-- The group's next run, if the group is ready (R287): its block is placed with its whole cohort and its launch started, it is
not parked, no clause of it is being issued, and the clause its next run would issue waits for no flag. -/
def State.nextRun (s : State) (g : Group) : Option Run :=
  match s.launch? g.ref.launch, s.block? g.ref.launch g.ref.blk with
  | some l, some b =>
    if !l.started || (l.agent && s.gated.contains (clusterOf g.core)) || b.life != .placed || l.ticket < cohortEnd l b.idx || g.parked || s.runs.any (fun r => r.ref == g.ref && !r.pip) then none
    else
      let ts := ((s.look g.ref).groupThreads g.ref).filter (s.mayIssue l)
      match nextThread ts with
      | none => none
      | some t =>
        if t.resume.isSome || waitDone g.flags (s.waitAt g.core l t.pc) then
          some (newRun g.ref g.core g.pipe false (runLanes ts t) t)
        else none
  | _, _ => none

/-- A candidate at a pipe. -/
structure Candidate where
  g : Group
  run : Run
  cls : Nat
  since : Nat
  deriving Repr

/-- A group that has been ready for 16,384 clocks (R325). -/
def Candidate.old (c : Candidate) (now : Nat) : Bool := now - c.since ≥ 16384

/-- The first rule of R325 that separates two candidates: the first goes before the second. An agent goes before a group that has waited
long, which goes before every other class, also where a returning thread resumes the other group (log 159, DESIGN CHOICE, unsafe). Within a
class, a group that a returning thread resumes goes ahead (R304). -/
def Candidate.ahead (now : Nat) (a b : Candidate) : Bool :=
  let key (c : Candidate) : List Nat :=
    let old := c.old now && c.cls != 3
    [if c.cls == 3 then 0 else if old then 1 else 2, if old then c.since else 0, 3 - c.cls, if c.g.returned then 0 else 1,
      if c.g.yielded then 1 else 0, c.since, c.g.ref.blk, c.g.ref.gid, c.g.ref.launch]
  keyLt (key a) (key b)

def bestOf (now : Nat) : List Candidate → Option Candidate
  | [] => none
  | c :: cs => match bestOf now cs with
    | some d => if Candidate.ahead now d c then some d else some c
    | none => some c

/-- The groups of a pipe that are ready, since when. -/
def State.readyAt (s : State) (core pipe : Nat) : List Candidate :=
  (s.groups.filter (fun g => g.core == core && g.pipe == pipe)).filterMap (fun g =>
    match s.nextRun g with
    | some r =>
      some ⟨g, r, ((s.launch? g.ref.launch).map (·.cls)).getD 0, ((g.readySince.map (·.toNat)).getD s.clock.toNat)⟩
    | none => none)

/-- Class 3 has had a clause on a pipe, and since then fewer than three of other classes have been picked (R325). -/
def State.agentWaits (s : State) (core pipe : Nat) : Bool := s.agentTurns.any (fun x => x.1 == core && x.2.1 == pipe)

/-- The groups among which a pipe picks: class 3 takes at most one clause in four while a group of another class is ready (R325). -/
def State.candidates (s : State) (core pipe : Nat) : List Candidate :=
  let cs := s.readyAt core pipe
  if s.agentWaits core pipe && cs.any (·.cls != 3) then cs.filter (·.cls != 3) else cs

/-- A clause of a class has been picked. -/
def State.countTurn (s : State) (core pipe cls : Nat) : State :=
  let here (x : Nat × Nat × Nat) : Bool := x.1 == core && x.2.1 == pipe
  if cls = 3 then { s with agentTurns := (core, pipe, 0) :: s.agentTurns.filter (fun x => !here x) }
  else { s with agentTurns := (modify here (fun x => (x.1, x.2.1, x.2.2 + 1)) s.agentTurns).filter (fun x => x.2.2 < 3) }

/-- A pipe is free: no clause is being issued on it, but for those that wait (log 11, DEDUCED, safe). -/
def State.pipeFree (s : State) (pip : Bool) (core pipe : Nat) : Bool :=
  !s.runs.any (fun r => r.pip == pip && r.core == core && r.pipe == pipe && !r.stalled)

/-- ISSUE_ARBITRATION (R325, R287): a free pipe picks the next ready group, and the group its run. -/
def execIssueArbitration (core pipe : Nat) (s : State) : Out :=
  if !s.pipeFree false core pipe then .next s
  else
    let cs := s.candidates core pipe
    match bestOf s.clock.toNat cs with
    | none => .next s
    | some c =>
      let here (g : Group) : Bool := g.core == core && g.pipe == pipe
      let s := (s.look c.g.ref).countTurn core pipe c.cls
      let upd (g : Group) : Group :=
        { g with
          yielded := if cs.any (·.g.ref == g.ref) then false else g.yielded
          readySince := if g.ref == c.g.ref then none else g.readySince }
      .next { s with groups := modify here upd s.groups, runs := c.run :: s.runs }

/-! Pip cores. -/

/-- The ejected threads of a pip core of a cluster, with their groups. -/
def State.pipThreads (s : State) (cluster pip : Nat) : List (Thread × Pip × Group) :=
  s.threads.filterMap (fun t => match t.pip, s.group? t.ref with
    | some p, some g =>
      if p.pip == pip && clusterOf g.core == cluster && t.cond == .ejected then some (t, p, g) else none
    | _, _ => none)

/-- An ejected thread may issue its next clause (R302): none of it is being issued, it is not about to be recalled (R306), and its own
flags are clear. -/
def State.pipReady (s : State) (x : Thread × Pip × Group) : Bool :=
  let (t, p, g) := x
  !s.runs.any (fun r => r.pip && r.ref == t.ref && r.lanes.getLsbD t.lane) && !p.leaving
    && match s.launch? t.ref.launch with
      | some l => !s.haltsPasid l.pasid && (t.resume.isSome || waitDone p.flags (s.waitAt g.core l t.pc))
      | none => false

/-- The thread whose turn is the longest past. -/
def oldestTurn : List (Thread × Pip × Group) → Option (Thread × Pip × Group)
  | [] => none
  | x :: xs => match oldestTurn xs with
    | some y => if y.2.1.turn < x.2.1.turn then some y else some x
    | none => some x

/-- The next thread that a pip core serves. -/
def State.pipNext (s : State) (cluster pip : Nat) : Option (Thread × Pip × Group) :=
  oldestTurn ((s.pipThreads cluster pip).filter s.pipReady)

/-- A run of a pip core stands on the cluster's first core in the list of runs: pipes 0 to 7 are the pip cores. -/
def State.pipBusy (s : State) (cluster pip : Nat) : Bool :=
  s.runs.any (fun r => r.pip && clusterOf r.core == cluster && r.pipe == pip && !r.stalled)

/-- PIP_ISSUE (R302): the pip core serves its contexts in rotation, one clause per turn. -/
def execPipIssue (cluster pip : Nat) (s : State) : Out :=
  if s.pipBusy cluster pip then .next s
  else
    match s.pipNext cluster pip with
    | none => .next s
    | some (t, _, g) =>
      let top := s.pipTop cluster pip
      let s := s.modThread t.ref t.lane (fun t => { t with pip := t.pip.map (fun p => { p with turn := top + 1 }) })
      .next { s with runs := newRun t.ref g.core pip true (lanesOf [t.lane]) t :: s.runs }

/-! The timeouts of an ejection (R304). -/

/-- The soft timeout of a group has passed. -/
def State.softDue (s : State) (g : Group) : Bool :=
  match g.softStart, s.launch? g.ref.launch with
  | some c, some l => (s.clock - c).toNat ≥ l.lr.soft && s.awaitsReturn g.ref
  | _, _ => false

/-- EJECT_SOFT_TIMEOUT (R304): the group yields its place and is parked until a return or a recall. -/
def execEjectSoftTimeout (ref : GroupRef) (s : State) : Out :=
  match s.group? ref with
  | none => .next s
  | some g =>
    if s.softDue g then .next (s.modGroup ref (fun g => { g with parked := true, softStart := none })) else .next s

/-- The hard timeout of an ejected thread has passed. -/
def State.hardDue (s : State) (t : Thread) : Bool :=
  match t.pip, s.launch? t.ref.launch with
  | some p, some l => (s.clock - p.since).toNat ≥ l.lr.hard
  | _, _ => false

/-- EJECT_HARD_TIMEOUT (R304, R306): the thread is recalled. -/
def execEjectHardTimeout (ref : GroupRef) (lane : Nat) (s : State) : Out :=
  match s.thread? ref lane with
  | none => .next s
  | some t => if s.hardDue t then .next (s.recallThread ref lane) else .next s

/-! A thread leaves the place where it is held. -/

/-- Reports of fetches that no thread waits for leave the log. -/
def State.sweepLog (s : State) : State :=
  let kept (e : LogEntry) : Bool := s.threads.any (fun t => t.cond == .held (.fetch e.id))
  { s with
    oplog := s.oplog.filter (fun e => match e.site with
      | .fetch _ _ => kept e
      | .ret _ _ => kept e
      | _ => true) }

/-- A thread held in BAR has its arrival withdrawn (R329). -/
def State.withdrawBar (s : State) (t : Thread) : State :=
  match t.cond with
  | .held (.bar b p _) =>
    (s.modBlock t.ref.launch t.ref.blk (fun k =>
      { k with bars := k.bars.modify b (fun x => if x.phase = p then { x with arrivals := x.arrivals - 1 } else x) })).modThread
      t.ref t.lane (fun t => { t with arrived := t.arrived.erase (b, p) })
  | _ => s

end Sys2Proof.Machine
end

