-- ==== Sys2Proof/Machine/Debug.lean ====
section
/-! DEFINITION. The debug block and its commands (15 R383-R385, R389). -/

namespace Sys2Proof.Machine

/-- The debug block may be written: not while the interface is locked or runs with dbgen = 0 (R385). -/
def State.dbgOpen (s : State) : Bool := !((s.tdi == .locked || s.tdi == .run) && !s.fwcfg.getLsbD 0)

/-- A write request to the debug block. -/
def State.dbgWrite (s : State) (t : Bool) (f : State → State) : State := s.hostWrite t (fun s => if s.dbgOpen then f s else s)

def State.dpasid (s : State) : BitVec 20 := s.dbgCtl.extractLsb' 20 20

/-! The control word. -/

/-- A clause being issued is left where it stands: its threads wait at its next word. -/
def State.parkRun (s : State) (r : Run) : State := { s with runs := s.runs.filter (· != r) }.place r r.lanes r.pc r.resume

/-- Issue stops for every thread of a PASID. -/
def State.parkRuns (s : State) (pasid : BitVec 20) : State :=
  (s.runs.filter (fun r => (s.launch? r.ref.launch).any (·.pasid == pasid))).foldl (fun (s : State) r => s.parkRun r) s

/-- The control word takes the fields of a write; halt stops issue. -/
def State.setDbgCtl (s : State) (w : BitVec 64) : State :=
  let s := { s with dbgCtl := w &&& 0x800000FFFFF00001 }
  if s.dbgCtl.getLsbD 0 then s.parkRuns s.dpasid else s

/-- DEBUG_CONTROL_WRITE (R384). -/
def execDebugControlWrite (w : BitVec 64) (t : Bool) (s : State) : Out := .next (s.dbgWrite t (·.setDbgCtl w))

/-! Commands. -/

def dbgOp (w : BitVec 64) : Nat := (w.extractLsb' 60 4).toNat

/-- The live thread of the debugged PASID that a command names. -/
def State.dbgThread (s : State) (w : BitVec 64) : Option Thread :=
  s.threads.find? (fun t => t.ref.blk == (w.extractLsb' 24 24).toNat && t.ref.gid == (w.extractLsb' 15 9).toNat
    && t.lane == (w.extractLsb' 9 6).toNat && t.cond != .exited && (s.launch? t.ref.launch).any (fun l => l.pasid == s.dpasid && !l.agent))

/-- A command acts on a thread (R385). -/
def State.dbgMay (s : State) (t : Thread) : Bool :=
  t.cond == .halted || (s.haltsPasid s.dpasid && !s.inFlight t.ref t.lane)

/-- A command on its thread, an ejected one recalled first; without a thread it may act on, it fails (log 150, DEDUCED, safe). -/
def State.dbgDo (s : State) (w : BitVec 64) (f : Launch → Group → Thread → State → State × Bool) : State :=
  let failed : State := { s with dbgErr := true }
  match s.dbgThread w with
  | none => failed
  | some t =>
    if !s.dbgMay t then failed
    else
      let s := s.recallThread t.ref t.lane
      match s.thread? t.ref t.lane, s.group? t.ref, s.launch? t.ref.launch with
      | some t, some g, some l =>
        let r := f l g t s
        { r.1 with dbgErr := !r.2 }
      | _, _, _ => failed

/-- The register that a command names: of classes 0 to 3, no tile, within the allotment. -/
def dbgReg (l : Launch) (g : Group) (w : BitVec 64) : Option Opnd :=
  match Opnd.dec (w.extractLsb' 48 12) with
  | some o =>
    if Names.beyond (l.role g).vregs (l.role g).sregs l.lr.tiles (o, 1) then none
    else match o with
      | .v _ => some o
      | .s _ => some o
      | .p _ => some o
      | .m _ => some o
      | .h _ => some o
      | .f _ => some o
      | _ => none
  | none => none

/-- A register is read for a command: an error in it is found (02 R58). -/
def State.dbgMeet (s : State) (l : Launch) (t : Thread) (o : Opnd) : State :=
  s.meetAll l.pasid .uncorrectable (fun p => match p with
    | .vreg r lane i => r == t.ref && lane == t.lane && Names.meets (o, 1) (.v (BitVec.ofNat 8 i), 2)
    | .sreg r i => r == t.ref && Names.meets (o, 1) (.s (Fin.ofNat 192 i), 2)
    | _ => false)

/-- READ_REG (R385): a poisoned register reads 0 and the command fails (R389). -/
def State.dbgRead (s : State) (w : BitVec 64) : State :=
  s.dbgDo w (fun l g t s =>
    match dbgReg l g w with
    | none => (s, false)
    | some (.f i) => ({ s with dbgData := if flagSet g.flags i.val then 1 else 0 }, true)
    | some o =>
      let s := s.dbgMeet l t o
      match s.thread? t.ref t.lane, s.group? t.ref with
      | some t, some g =>
        if poisoned g t (o, 1) then ({ s with dbgData := 0 }, false)
        else ({ s with dbgData := readOp g t 0 .uint false o }, true)
      | _, _ => (s, false))

/-- WRITE_REG (R385). -/
def State.dbgPut (s : State) (w : BitVec 64) : State :=
  s.dbgDo w (fun l g t s =>
    match dbgReg l g w with
    | none => (s, false)
    | some (.f _) => (s, false)
    | some o =>
      let s := s.overRegs t.ref [t] (fun _ => [⟨o, false, s.dbgData⟩])
      (if perGroup o then s.modGroup t.ref (·.write o false s.dbgData)
       else s.modThread t.ref t.lane (·.write o false s.dbgData), true))

/-- A thread that a command sets going is issuable at its PC: one that is held gives its wait up, and executes its instruction again. -/
def State.setGoing (s : State) (t : Thread) (f : Thread → Thread) : State :=
  ((s.withdrawBar t).modThread t.ref t.lane (fun t => { f t with cond := .issuable })).sweepLog

/-- A thread held at a cross-lane instruction (R389). -/
def Cond.acrossLanes : Cond → Bool
  | .held (.lanes _) => true
  | _ => false

/-- STEP (R385, R389). -/
def State.dbgStep (s : State) (w : BitVec 64) : State :=
  s.dbgDo w (fun _ _ t s =>
    if t.cond.acrossLanes then (s, false) else (s.setGoing t (fun t => { t with stepping := true }), true))

/-- RESUME (R385). A breakpoint at the thread's PC lets it pass once (log 152, DEDUCED, safe). -/
def State.dbgResume (s : State) (w : BitVec 64) : State :=
  s.dbgDo w (fun _ _ t s => (s.setGoing t (fun t => { t with stepping := false, pass := some t.pc }), true))

/-- A write to the command register (R384): the command its op names; others are ignored. -/
def State.dbgCommand (s : State) (w : BitVec 64) : State :=
  match dbgOp w with
  | 1 => s.dbgRead w
  | 2 => s.dbgPut w
  | 3 => s.dbgStep w
  | 4 => s.dbgResume w
  | _ => s

/-- READ_REG: a command word with op 1. -/
def execReadReg (w : BitVec 64) (t : Bool) (s : State) : Out :=
  .next (if dbgOp w = 1 then s.dbgWrite t (·.dbgRead w) else s)

/-- WRITE_REG: a command word with op 2. -/
def execWriteReg (w : BitVec 64) (t : Bool) (s : State) : Out :=
  .next (if dbgOp w = 2 then s.dbgWrite t (·.dbgPut w) else s)

/-- STEP: a command word with op 3. -/
def execDbgStep (w : BitVec 64) (t : Bool) (s : State) : Out :=
  .next (if dbgOp w = 3 then s.dbgWrite t (·.dbgStep w) else s)

/-- RESUME: a command word with op 4. -/
def execDbgResume (w : BitVec 64) (t : Bool) (s : State) : Out :=
  .next (if dbgOp w = 4 then s.dbgWrite t (·.dbgResume w) else s)

end Sys2Proof.Machine
end

