-- ==== Sys2Proof/Machine/Half.lean ====
section
/-! DEFINITION. Packed half precision (08 R202). -/

namespace Sys2Proof.Machine

/-- Two elements as a packed word. -/
def pack (f : Nat → Nat) : BitVec 64 := BitVec.ofNat 64 (f 0 % 65536 + f 1 % 65536 * 65536)

/-- A packed operation of two sources, each element alone (R202). -/
def packedOp2 (c : Common) (ty : Ty) (f : Nat → Nat → Nat) (d a b : Opnd) (s : State) : Out :=
  vecOp c [nm d false] [nm a false, nm b false]
    (fun g t => [⟨d, false, pack (fun i => f (elem (packedSrc g t ty a) i) (elem (packedSrc g t ty b) i))⟩]) s

/-- HADD2 (R202). -/
def execHadd2 (c : Common) (ty : Ty) (rm : Rm) (d a b : Opnd) (s : State) : Out :=
  packedOp2 c ty (fpAdd (halfFmt ty) rm) d a b s

/-- HMUL2 (R202). -/
def execHmul2 (c : Common) (ty : Ty) (rm : Rm) (d a b : Opnd) (s : State) : Out :=
  packedOp2 c ty (fpMul (halfFmt ty) rm) d a b s

/-- HFMA2 (R202). -/
def execHfma2 (c : Common) (ty : Ty) (rm : Rm) (d a b e : Opnd) (s : State) : Out :=
  vecOp c [nm d false] [nm a false, nm b false, nm e false]
    (fun g t => [⟨d, false, pack (fun i => fpFma (halfFmt ty) rm (elem (packedSrc g t ty a) i) (elem (packedSrc g t ty b) i)
      (elem (packedSrc g t ty e) i))⟩]) s

/-- HMIN2 (R202). -/
def execHmin2 (c : Common) (ty : Ty) (nan : Bool) (d a b : Opnd) (s : State) : Out :=
  packedOp2 c ty (minMax (halfFmt ty) false nan) d a b s

/-- HMAX2 (R202). -/
def execHmax2 (c : Common) (ty : Ty) (nan : Bool) (d a b : Opnd) (s : State) : Out :=
  packedOp2 c ty (minMax (halfFmt ty) true nan) d a b s

end Sys2Proof.Machine
end

