-- ==== Sys2Proof/Machine/Convert.lean ====
section
/-! DEFINITION. Conversion, rounding to integral, and quantisation with format slots (08 R203-R206, 07 R166, R167). -/

namespace Sys2Proof.Machine

/-- The format of a floating-point type (R153). -/
def tyFmt : Ty → Fmt
  | .f16 => fp16
  | .bf16 => bf16
  | _ => fp32

/-- The value of a source of a type (R203). -/
def tyValue (ty : Ty) (x : BitVec 64) : Ex :=
  if ty.isFloat then (tyFmt ty).value (x.toNat % 2 ^ (tyFmt ty).width) else Ex.int (intVal ty x)

/-- A result of an integer type in its register: sign- or zero-extended to 32 bits, or a pair (R203). -/
def extendInt (ty : Ty) (e : Int) : BitVec 64 :=
  let v := intVal ty (wrapInt (tyBits ty) e)
  if ty.wide then wrapInt 64 v else wrapInt 32 v

/-- A float result, with `.sat` holding a finite value at the largest finite one (R203). -/
def toFloat (f : Fmt) (rm : Rm) (sat : Bool) (v : Ex) : Nat :=
  let r := roundDir v f rm
  match v with
  | .fin s _ _ => if sat && f.isInf r then f.largest s else r
  | _ => r

/-- The conversion of R203. -/
def convert (dty sty : Ty) (rm : Rm) (sat : Bool) (x : BitVec 64) : BitVec 64 :=
  if dty.isFloat then BitVec.ofNat 64 (toFloat (tyFmt dty) rm sat (tyValue sty x))
  else if sty.isFloat then extendInt dty ((tyValue sty x).clampInt rm 0 (tyMin dty) (tyMax dty))
  else extendInt dty (if sat then satInt dty (intVal sty x) else intVal sty x)

/-- CVT (R203). -/
def execCvt (c : Common) (dty sty : Ty) (rm : Rm) (sat : Bool) (d a : Opnd) (s : State) : Out :=
  vecOp c [nm d dty.wide] [nm a sty.wide]
    (fun g t => [⟨d, dty.wide, convert dty sty rm sat (readOp g t 0 (tyWiden sty) sty.wide a)⟩]) s

/-- CVTH (R204): two FP32 values into a packed pair, or a packed pair into two registers. -/
def execCvth (c : Common) (dty sty : Ty) (rm : Rm) (sat : Bool) (d a : Opnd) (b : Option Opnd) (s : State) : Out :=
  match b with
  | some b =>
    vecOp c [nm d false] [nm a false, nm b false]
      (fun g t =>
        let v (o : Opnd) : Nat := toFloat (tyFmt dty) rm sat (fp32.value ((readOp g t 0 .f32 false o).toNat % 2 ^ 32))
        [⟨d, false, pack (fun i => if i = 0 then v a else v b)⟩]) s
  | none =>
    vecOp c [nm d true] [nm a false]
      (fun g t =>
        let x := (readOp g t 0 .uint false a).toNat
        let v (i : Nat) : BitVec 32 := BitVec.ofNat 32 (roundRne ((tyFmt sty).value (elem x i)) fp32)
        [⟨d, true, joinWords (v 0) (v 1)⟩]) s

/-- A pattern rounded to an integral value of its format (R205). -/
def roundIntegral (f : Fmt) (rm : Rm) (x : Nat) : Nat :=
  match f.value x with
  | .nan => f.canonNan
  | .inf s => f.inf s
  | .fin s n d => roundRne (.fin s (roundNat rm s n d) 1) f

/-- FRND (R205). -/
def execFrnd (c : Common) (ty : Ty) (rm : Rm) (d a : Opnd) (s : State) : Out :=
  vecOp c [nm d false] [nm a false]
    (fun g t =>
      let f := tyFmt ty
      [⟨d, false, BitVec.ofNat 64 (roundIntegral f rm ((readOp g t 0 (tyWiden ty) false a).toNat % 2 ^ f.width))⟩]) s

/-! Format slots (R166, R167). -/

/-- The element formats by code (R167). -/
inductive ElemFmt where
  | none | bf16 | fp16 | int8 | int4 | q8 | q4 | bad
  deriving DecidableEq, Repr

def ElemFmt.ofCode : Nat → ElemFmt
  | 0 => .none | 1 => .bf16 | 2 => .fp16 | 3 => .int8 | 4 => .int4 | 5 => .q8 | 6 => .q4 | _ => .bad

/-- Bits of an element, in memory and in the weight buffer (R157, R159). -/
def ElemFmt.bits : ElemFmt → Nat
  | .bf16 | .fp16 => 16 | .int4 | .q4 => 4 | _ => 8
def ElemFmt.isQ : ElemFmt → Bool
  | .q8 | .q4 => true | _ => false
def ElemFmt.isFloat : ElemFmt → Bool
  | .bf16 | .fp16 => true | _ => false
def ElemFmt.fmt : ElemFmt → Fmt
  | .bf16 => Machine.bf16 | _ => Machine.fp16

/-- A format slot's fields (R166). -/
structure Slot where
  afmt : ElemFmt
  bfmt : ElemFmt
  accInt : Bool
  group : Nat
  zpMode : Nat
  zpConst : Nat
  sparse : Nat
  perm : Bool
  scoff : Nat
  zpoff : Nat
  permLen : Nat
  permOff : Nat
  deriving DecidableEq, Repr

/-- N of a sparse code (R166); 48 where dense. -/
def sparseN : Nat → Nat
  | 1 => 12 | 2 => 16 | 3 => 24 | 4 => 32 | _ => 48

def Slot.ofNat (x : Nat) : Slot where
  afmt := .ofCode (bits x 3 0)
  bfmt := .ofCode (bits x 7 4)
  accInt := bits x 11 8 == 1
  group := 32 * 2 ^ bits x 15 14
  zpMode := bits x 27 27
  zpConst := bits x 23 16
  sparse := bits x 30 28
  perm := bits x 31 31 == 1
  scoff := 64 * bits x 61 48
  zpoff := 64 * bits x 77 64
  permLen := bits x 95 80
  permOff := bits x 127 96

/-- A launch's slot (R166); an unbound one is empty. -/
def LaunchRec.slot (l : LaunchRec) (i : BitVec 3) : Slot := Slot.ofNat (l.slots.getD i.toNat 0).toNat

/-- The range of an integer element format (R159). -/
def ElemFmt.range : ElemFmt → Int × Int
  | .int8 => (-128, 127) | .int4 => (-8, 7) | .q8 => (0, 255) | _ => (0, 15)

/-- The scale and the zero point of QNT and DQNT (R206). -/
def quantParams (sl : Slot) (f : ElemFmt) (b : Nat) : Ex × Int :=
  (fp16.value (b % 65536),
    if f.isQ then (if sl.zpMode = 1 then sl.zpConst else if f == .q8 then bits b 23 16 else bits b 19 16) else (0 : Nat))

/-- QNT (R206): an FP32 value to an element. -/
def quantise (sl : Slot) (f : ElemFmt) (a b : Nat) : BitVec 64 :=
  let (sc, z) := quantParams sl f b
  let y := (fp32.value a).div sc
  if f.isFloat then BitVec.ofNat 64 (roundRne y f.fmt)
  else
    let (lo, hi) := f.range
    if f.isQ then wrapInt 32 (min (max (y.clampInt .rne 0 (lo - z) (hi - z) + z) lo) hi)
    else wrapInt 32 (y.clampInt .rne 0 lo hi)

/-- The value of an element in the low bits of a word. -/
def ElemFmt.value (f : ElemFmt) (x : Nat) : Ex :=
  match f with
  | .bf16 => Machine.bf16.value (x % 65536)
  | .fp16 => Machine.fp16.value (x % 65536)
  | .int8 => Ex.int (BitVec.ofNat 8 x).toInt
  | .int4 => Ex.int (BitVec.ofNat 4 x).toInt
  | .q8 => Ex.int (x % 256 : Nat)
  | _ => Ex.int (x % 16 : Nat)

/-- DQNT (R206, R165): an element to FP32, rounded once. -/
def dequantise (sl : Slot) (f : ElemFmt) (a b : Nat) : BitVec 64 :=
  let (sc, z) := quantParams sl f b
  let e := if f.isQ then (f.value a).add (Ex.int (-z)) else f.value a
  BitVec.ofNat 64 (roundRne (sc.mul e) fp32)

/-- QNT and DQNT name a slot that the launch binds (R168, R206). -/
def slotBad (s : State) (slot : BitVec 3) : Bool :=
  match s.ctx? with
  | some cx => (cx.launch.lr.slot slot).afmt == .none
  | none => false

def slotOp (f : Slot → ElemFmt → Nat → Nat → BitVec 64) (c : Common) (useB : Bool) (slot : BitVec 3) (d a b : Opnd)
    (s : State) : Out :=
  issue
    { common := c, writes := [nm d false], reads := [nm a false, nm b false], formBad := slotBad s slot }
    noTrap noTrap
    (fun cx ex s =>
      let sl := cx.launch.lr.slot slot
      .done (s.writeAll cx.run.ref ex (fun t =>
        [⟨d, false, f sl (if useB then sl.bfmt else sl.afmt) (readOp cx.group t 0 .uint false a).toNat
          (readOp cx.group t 0 .uint false b).toNat⟩]))) s

/-- QNT (R206). -/
def execQnt (c : Common) (useB : Bool) (slot : BitVec 3) (d a b : Opnd) (s : State) : Out :=
  slotOp quantise c useB slot d a b s

/-- DQNT (R206). -/
def execDqnt (c : Common) (useB : Bool) (slot : BitVec 3) (d a b : Opnd) (s : State) : Out :=
  slotOp dequantise c useB slot d a b s

end Sys2Proof.Machine
end

