-- ==== Sys2Proof/Machine/Paging.lean ====
section
/-! DEFINITION. Walks on their own (03 R71, R73), shoot-downs and their acknowledgement (R76, R77), the harvest of dirty-seen states
(R79), the power gating of a cluster (R77). -/

namespace Sys2Proof.Machine

/-- A walk for an incoming access has ended: a fault is kept until its initiator asks again (R73). -/
def State.noteWalk (s : State) (cluster : Nat) (pasid : BitVec 20) (va : Nat) (acc : Access) (ok : Bool) : State :=
  let key := (cluster, pasid, va / 4096, acc == .write)
  { s with walkFails := if ok then s.walkFails.erase key else if s.walkFails.contains key then s.walkFails else key :: s.walkFails }

/-- PAGE_WALK (R67-R71, R78): a cluster's walker walks for an incoming access. A walk that has to wait for a harvest has not happened
(R79). -/
def execPageWalk (cluster : Nat) (pasid : BitVec 20) (va : BitVec 57) (acc : Access) (s : State) : Out :=
  if cluster ≥ Config.clusters s.part || s.gated.contains cluster then .next s
  else
    match s.walkFor cluster pasid va.toNat acc true with
    | (s', .fault _) => .next (if s.hostBarred s' then s else s'.noteWalk cluster pasid va.toNat acc false)
    | (s', _) => .next (s'.noteWalk cluster pasid va.toNat acc true)

/-! The host's registers (R65, R76). -/

/-- A host shoot-down is in progress. -/
def State.sdbusy (s : State) : Bool :=
  s.maint.any (fun m => match m.op with
    | .shootdown _ _ _ _ host => host
    | _ => false)

/-- The control register's fields. -/
def sdKind (w : BitVec 64) : Nat := (w.extractLsb' 60 2).toNat
def sdPasid (w : BitVec 64) : BitVec 20 := w.extractLsb' 40 20
def sdPages (w : BitVec 64) : Nat := (w.extractLsb' 0 40).toNat

/-- A write to the control register: with sdgo it starts a shoot-down, or is dropped (R76). -/
def State.writeSdCtl (s : State) (w : BitVec 64) : State :=
  let s := { s with sdCtl := w &&& 0x3FFFFFFFFFFFFFFF }
  if !w.getLsbD 63 then s
  else if s.sdbusy || sdKind w = 3 || (sdKind w = 0 && sdPages w = 0) then { s with sdDrop := true }
  else
    { s with
      maint := s.maint ++ [⟨.shootdown (sdKind w) (sdPasid w) (s.sdAddr.setWidth 57) (sdPages w) true, []⟩] }

/-- SHOOTDOWN_START (R76): the host writes the control register. -/
def execShootdownStart (w : BitVec 64) (t : Bool) (s : State) : Out := .next (s.hostWrite t (·.writeSdCtl w))

/-- SDDROP_CLEAR (R65): sddrop is cleared by writing 1. -/
def execSddropClear (w : BitVec 64) (t : Bool) (s : State) : Out :=
  .next (s.hostWrite t (fun s => if w.getLsbD 32 then { s with sdDrop := false } else s))

/-! Acknowledgement. -/

/-- A TLB entry overlaps a range of pages. -/
def TlbEntry.overlaps (e : TlbEntry) (a pages : Nat) : Bool := e.va < a + 4096 * pages && a < e.va + 2 ^ e.log

/-- The TLB entries of a cluster that a shoot-down removes (R76): a range of more than 512 pages removes what a kind 1 does besides what
the table names for the range. -/
def sdEntry (kind : Nat) (pasid : BitVec 20) (a pages cluster : Nat) (e : TlbEntry) : Bool :=
  e.cluster == cluster &&
    (if kind = 2 then true
     else e.pasid == pasid && ((kind == 0 && e.overlaps a pages) || ((kind != 0 || pages > 512) && !e.g)))

/-- The L1 lines that it removes when a cluster performs it, given the entries removed there: the cluster's own by their names, and any
core's whose frame an entry removed mapped. -/
def sdLine (kind : Nat) (pasid : BitVec 20) (a pages cluster : Nat) (es : List TlbEntry) (l : L1Line) : Bool :=
  (clusterOf l.core == cluster &&
    (if kind = 2 then true
     else l.pasid == pasid && ((kind == 0 && a ≤ l.vline && l.vline < a + 4096 * pages) || kind != 0 || pages > 512)))
    || (kind == 0 && es.any (fun e => e.pa / 4096 * 4096 ≤ l.pline && l.pline < e.pa / 4096 * 4096 + max 4096 (2 ^ e.log)))

/-- A cluster performs a shoot-down (R76, R77). -/
def State.shoot (s : State) (kind : Nat) (pasid : BitVec 20) (addr : BitVec 57) (pages cluster : Nat) : State :=
  let a := addr.toNat
  let es := s.tlb.filter (sdEntry kind pasid a pages cluster)
  let s := s.dropLines (sdLine kind pasid a pages cluster es)
  { s with tlb := s.tlb.filter (fun e => !sdEntry kind pasid a pages cluster e) }

/-- A cluster clears the dirty-seen states of a PASID, its dirty words having been written home (R79 step 3). -/
def State.unsee (s : State) (pasid : BitVec 20) (cluster : Nat) : State :=
  let mine (l : L1Line) : Bool := clusterOf l.core == cluster && l.pasid == pasid
  let s := (s.l1.filter mine).foldl (fun (s : State) l => s.cleanLine l) s
  { s with
    l1 := modify mine (fun l => { l with seen := false }) s.l1
    tlb := modify (fun e => e.cluster == cluster && e.pasid == pasid) (fun e => { e with seen := false }) s.tlb }

/-! The order of operations (R79): harvests and shoot-downs of one PASID are performed in the order received. -/

/-- Two operations concern one PASID; a shoot-down of kind 2 concerns each. -/
def Maint.pasid? : Maint → Option (BitVec 20)
  | .shootdown kind p _ _ _ => if kind = 2 then none else some p
  | .harvest _ _ p _ _ => some p
def Maint.meets (a b : Maint) : Bool :=
  match a.pasid?, b.pasid? with
  | some x, some y => x == y
  | _, _ => true

/-- A shoot-down is under way at once; a harvest once the PASID-table entry names its bitmap. -/
def Maint.begun : Maint → Bool
  | .shootdown _ _ _ _ _ => true
  | .harvest _ _ _ _ old => old.isSome

/-- Step 2 of a harvest (R79): the entry takes the new bitmap's address, and the old one is kept for the packet. -/
def State.takeBitmap (s : State) : Maint → State × Maint
  | .harvest q i p new none =>
    let a := ptBase s + 32 * p.toNat
    let s := (s.visit a 32).recallWords (lineOf a) (wordMask a 32)
    let x := s.mem.le a 32
    (s.writeHome a (leBytes (x - bits x 111 76 * 2 ^ 76 + new.toNat * 2 ^ 76) 32), .harvest q i p new (some (BitVec.ofNat 36 (bits x 111 76))))
  | m => (s, m)

/-- Harvests begin behind which no earlier operation of their PASID stands. -/
def State.beginFrom (s : State) : List MaintOp → List MaintOp → State × List MaintOp
  | _, [] => (s, [])
  | ahead, m :: ms =>
    let (s, m') := if m.op.begun || ahead.any (fun a => a.op.meets m.op) then (s, m)
      else ((s.takeBitmap m.op).1, { m with op := (s.takeBitmap m.op).2 })
    let (s, ms') := s.beginFrom (ahead ++ [m]) ms
    (s, m' :: ms')

def State.beginHarvests (s : State) : State :=
  let (s', ms) := s.beginFrom [] s.maint
  { s' with maint := ms }

/-- The oldest operation that a cluster has still to acknowledge and may perform. -/
def nextMaint (cluster : Nat) : List MaintOp → List MaintOp → Option MaintOp
  | _, [] => none
  | ahead, m :: ms =>
    if !m.acked.contains cluster && m.op.begun && !ahead.any (fun a => !a.op.begun && a.op.meets m.op) then some m
    else nextMaint cluster (ahead ++ [m]) ms

/-- The writes of a PASID that stand held for a harvest are to be made again: they come first in the agenda (R79 step 4). -/
def State.releaseHarvest (s : State) (pasid : BitVec 20) : State :=
  let mine := s.oplog.filter (fun e => e.kind == .held && e.pasid == pasid)
  { s with agenda := mine.map (fun e => .faultResolved e.id) ++ s.agenda }

/-- The shoot-down or harvest is over when every cluster has acknowledged it (R77, R79). -/
def State.completeMaint (s : State) : State :=
  let ended (m : MaintOp) : Bool := (List.range (Config.clusters s.part)).all m.acked.contains
  let s' := { s with maint := s.maint.filter (fun m => !ended m) }
  let s' := (s.maint.filter ended).foldl (fun (s : State) m => match m.op with
    | .shootdown _ _ _ _ _ => s
    | .harvest _ _ p _ _ => s.releaseHarvest p) s'
  ((s.maint.filter ended).foldl (fun (s : State) m => match m.op with
    | .shootdown _ _ _ _ host => if host then { s with sdDone := s.sdDone + 1 } else s
    | .harvest q i _ _ old => s.packetDone q i 0 ((old.getD 0).toNat % 2 ^ 32)) s').beginHarvests

/-- What a cluster does for an operation. -/
def State.performMaint (s : State) (cluster : Nat) : Maint → State
  | .shootdown k p a n _ => s.shoot k p a n cluster
  | .harvest _ _ p _ _ => s.unsee p cluster

/-- A cluster acknowledges an operation. -/
def ackOne (cluster : Nat) (op : MaintOp) : List MaintOp → List MaintOp
  | [] => []
  | m :: ms => if m = op then { m with acked := cluster :: m.acked } :: ms else m :: ackOne cluster op ms

/-- SHOOTDOWN_ACK (R77, R79): a cluster performs, in order of arrival, the oldest operation it has not acknowledged and
that may be performed. -/
def execShootdownAck (cluster : Nat) (s : State) : Out :=
  if cluster ≥ Config.clusters s.part then .next s
  else
    match nextMaint cluster [] s.maint with
    | none => .next s
    | some m =>
      let s := s.performMaint cluster m.op
      .next { s with maint := ackOne cluster m s.maint }.completeMaint

/-- CLUSTER_POWER_GATE (R77): a cluster with no block placed is switched off, every TLB and L1 entry of it cleared behind its dirty
words, and its power controller acknowledges for it; or it is switched on. -/
def execClusterPowerGate (cluster : Nat) (off : Bool) (s : State) : Out :=
  if cluster ≥ Config.clusters s.part then .next s
  else if !off then .next { s with gated := s.gated.filter (· != cluster) }
  else if s.gated.contains cluster || s.blocks.any (fun b =>
      b.life == .placed && clusterOf b.core == cluster && !(s.launch? b.launch).any (·.agent)) then .next s
  else
    let s := s.shoot 2 0 0 0 cluster
    .next { s with
      gated := cluster :: s.gated
      maint := s.maint.map (fun (m : MaintOp) =>
        if m.acked.contains cluster || !m.op.begun then m else { m with acked := cluster :: m.acked }) }.completeMaint

end Sys2Proof.Machine
end

