-- ==== Sys2Proof/Machine/Place.lean ====
section
/-! DEFINITION. A program in place: the state in which a given word is the next that a run fetches. It stands for what the
host, a LAUNCH packet, an agent and an arbitration bring about (log 6, DESIGN CHOICE, safe). -/

namespace Sys2Proof.Machine

/-- The launch record of the placed program: one general group of 16 threads, every register, tile, queue and barrier. -/
def placedRec : LaunchRec where
  codeaddr := 0x100000
  codesize := 36
  regaddr := 0x200000
  regsize := 0x1000
  ejcount := 0
  ejaddr := 0x300000
  bindaddr := 0x310000
  bindcount := 1
  constsize := 0x1000
  constaddr := 0x320000
  handler := 0
  nblk := 1
  cohort := 1
  cores := 1
  width := 16
  accGran := 2
  scratchGran := 1
  regGran := 5
  roles := [⟨192, 256, 1, 0⟩, ⟨8, 8, 0, 0⟩, ⟨8, 8, 0, 0⟩, ⟨8, 8, 0, 0⟩]
  privsize := 1024
  watchdog := 0
  privbase := 0x400000
  admitall := false
  det := false
  eject := 2
  fladdr := 0
  flsize := 0
  soft := 2048
  hard := 65536
  etgen := 0
  seed := 0
  nbar := 1
  queues := [(0, 2, 1)]
  slots := []
  team := none
  bytes := []

def placedRef : GroupRef := ⟨0, 0, 0⟩

def placedLaunch : Launch where
  id := 0
  pasid := 1
  cls := 0
  agent := false
  packet := none
  parent := none
  recAddr := none
  lr := placedRec
  ticket := 1
  retired := []
  started := true
  frozen := false
  epoch := 0
  flush := none
  collseq := 0
  wbarseq := 0
  teamSlot := 0
  wdleft := 10000
  proofer := none
  pages := []
  done := false

/-- A tile at block start (R226). -/
def Tile.fresh : Tile := ⟨[], false, false, [], false, []⟩
/-- A queue at block start (R149). -/
def Queue.fresh (allow : Nat) : Queue := ⟨0, false, 0, false, allow, [], [], []⟩
def Barrier.fresh : Barrier := ⟨0, 0, 0⟩

/-- A block at its start (R320). -/
def Block.fresh (l : Launch) (idx core pair : Nat) : Block where
  launch := l.id
  idx := idx
  core := core
  cores := l.lr.cores
  pair := pair
  life := .placed
  phase := 0
  etgen := l.lr.etgen
  scratch := []
  spoison := []
  absent := []
  bars := List.replicate l.lr.nbar Barrier.fresh
  queues := l.lr.queues.map (fun q => Queue.fresh q.2.2)
  futures := []
  nextFuture := 0
  arrivals := []
  reserved := 0
  tiles := List.replicate l.lr.tiles Tile.fresh
  detUsed := 0
  frozen := false
  held := none

/-- A group at its start (R320); group g runs on core g mod c of the block (R319), on a pipe of that core (R325). -/
def Group.fresh (ref : GroupRef) (role core : Nat) : Group where
  ref := ref
  role := role
  core := core
  pipe := ref.gid % 4
  sregs := []
  spoison := []
  masks := []
  flags := []
  outstanding := []
  yielded := false
  parked := false
  readySince := none
  softStart := none
  returned := false
  passed := []
  owing := []

/-- A thread at its role's entry (R33, R285, R320). -/
def Thread.fresh (ref : GroupRef) (lane : Nat) (pc rsbase : BitVec 64) : Thread where
  ref := ref
  lane := lane
  pc := pc
  resume := none
  region := none
  d := 0
  rsbase := rsbase
  aging := 0
  deferred := false
  cond := .issuable
  vregs := []
  preds := 0
  handles := []
  vpoison := []
  trapcause := 0
  trappc := 0
  inHandler := false
  trapDepth := 0
  trapClause := none
  seq := 0
  arrived := []
  pip := none
  stepping := false
  clauses := 0
  canonical := false

/-- The private area of thread t of block b (R320). -/
def privArea (l : LaunchRec) (b t : Nat) : BitVec 64 := l.privbase + BitVec.ofNat 64 ((b * l.bsize + t) * l.privsize)

/-- The threads of a group at their start. -/
def startThreads (l : Launch) (ref : GroupRef) (role : Nat) : List Thread :=
  let r := l.lr.roles.getD role ⟨0, 0, 0, 0⟩
  (List.range l.lr.width).map (fun i =>
    Thread.fresh ref i (l.lr.codeaddr + r.entry.setWidth 64) (privArea l.lr ref.blk (ref.gid * l.lr.width + i)))

/-- The words of a NOP, alone and last of its clause, and of a header that waits on nothing and names no flags. -/
def nopLast : Nat := 0x03007800 * 2 ^ 64 + 2 ^ 38
def plainHeader : Nat := 0x01007800 * 2 ^ 64 + 0x000FF000

/-- A run of the placed group at the word: at a clause start for a CLAUSE header, after a header otherwise. -/
def placedRun (isHdr : Bool) : Run where
  ref := placedRef
  core := 0
  pipe := 0
  pip := false
  lanes := 0xFFFF
  pc := if isHdr then 0x100000 else 0x10000C
  hdr := 0x100000
  fx := 15
  fy := 15
  start := isHdr
  yld := false
  stalled := false

/-- A gibibyte of memory mapped one to one for the placed program (R74). -/
def placedTlb : TlbEntry :=
  { cluster := 0, pasid := 1, va := 0, log := 30, pa := 0, w := true, x := true, u := true, g := false, seen := true,
    pin := false }

/-- The program in place: its launch, block, group and threads, its translation, and the word as the next one fetched. -/
def State.placeWord (s : State) (_nbits w : Nat) : State :=
  let isHdr := w / 2 ^ 88 % 256 == 1
  let words := if isHdr then leBytes w 12 ++ leBytes nopLast 12
    else leBytes plainHeader 12 ++ leBytes w 12 ++ leBytes nopLast 12
  { s with
    agenda := []
    runs := [placedRun isHdr]
    launches := [placedLaunch]
    blocks := [Block.fresh placedLaunch 0 0 0]
    groups := [Group.fresh placedRef 0 0]
    threads := startThreads placedLaunch placedRef 0
    pairs := [⟨0, none, none, [], [], [], []⟩]
    tlb := [placedTlb]
    mem := s.mem.setBytes 0x100000 words
    ready := true }

end Sys2Proof.Machine
end

