-- ==== Sys2Proof/Machine/Admit.lean ====
section
/-! DEFINITION. Launch records and their admission (13 R316-R321, 07 R166-R168, 11 R266, 12 R300), and where blocks fit (R318, R322,
R324). -/

namespace Sys2Proof.Machine

/-! Reading what a launch names. -/

/-- n bytes of a PASID's memory as the device reads them for itself, one by one at their home slices; none where a byte cannot be read
(R321 reason 14). -/
def State.readVirt (s : State) (cluster : Nat) (pasid : BitVec 20) : Nat → Nat → State × Option (List Byte)
  | _, 0 => (s, some [])
  | va, n + 1 =>
    let a := va % 2 ^ 57
    if (aperture a).isSome then (s, none)
    else
      match s.translate cluster pasid a .read false with
      | (s, .ok pa _ _) =>
        if inHost pa then (s, none)
        else
          let (s, bs, poison) := s.readHome pa 1 pasid
          if poison then (s, none)
          else
            match s.readVirt cluster pasid (va + 1) n with
            | (s, some r) => (s, some (bs ++ r))
            | (s, none) => (s, none)
      | (s, _) => (s, none)

/-- The entry of the cap table for a PASID (R316). -/
structure Caps where
  wdog : Nat
  resgran : Nat
  maxgran : Nat
  maxcores : Nat
  deriving DecidableEq, Repr

def qtLog (s : State) : Nat := min 20 (s.qtReg.toNat % 32)
def State.caps (s : State) (pasid : BitVec 20) : Caps :=
  let a := s.capReg.toNat / 4096 % 2 ^ 36 * 4096 + 16 * pasid.toNat
  let x := s.mem.le a 16
  ⟨bits x 63 32, bits x 23 16, bits x 15 8, bits x 7 0⟩

/-- The device reads the cap table: errors in it are found (02 R58). -/
def State.readCaps (s : State) : State := s.inspect (s.capReg.toNat / 4096 % 2 ^ 36 * 4096) (16 * 2 ^ qtLog s)

/-! Parsing (R317). -/

/-- A role's line. -/
def roleOf (bs : List Byte) (r : Nat) : RoleRec :=
  let x := fieldAt bs (0x50 + 16 * r) 16
  ⟨8 * bits x 63 56, 8 * bits x 55 48, bits x 47 32, BitVec.ofNat 32 (bits x 31 0)⟩

/-- A queue's declaration: offset, entries, allowance. -/
def queueDecl (bs : List Byte) (q : Nat) : Nat × Nat × Nat :=
  let x := fieldAt bs (0xE0 + 8 * q) 8
  (bits x 31 0, bits x 47 32, bits x 63 48)

/-- A team declaration's bits (R266). -/
def teamBits (bs : List Byte) : Nat := fieldAt bs (fieldAt bs 0xCC 4) 80

def teamOf (x : Nat) : Team where
  ranks := (List.range (bits x 3 0 + 1)).map (fun k => bits x (4 * k + 7) (4 * k + 4))
  exppasid := BitVec.ofNat 20 (bits x 99 80)
  expbase := BitVec.ofNat 64 (bits x 575 512)
  expsize := BitVec.ofNat 64 (bits x 639 576)

/-- The launch record that bytes hold, tables included. -/
def LaunchRec.ofBytes (bs : List Byte) : LaunchRec :=
  let f (off n : Nat) : Nat := fieldAt bs off n
  let w := f 0x48 4
  let p := f 0x4C 4
  { codeaddr := BitVec.ofNat 64 (f 0x00 8)
    codesize := BitVec.ofNat 32 (f 0x08 4)
    regaddr := BitVec.ofNat 64 (f 0x10 8)
    regsize := BitVec.ofNat 32 (f 0x18 4)
    ejcount := BitVec.ofNat 32 (f 0x1C 4)
    ejaddr := BitVec.ofNat 64 (f 0x20 8)
    bindaddr := BitVec.ofNat 64 (f 0x28 8)
    bindcount := BitVec.ofNat 32 (f 0x30 4)
    constsize := BitVec.ofNat 32 (f 0x34 4)
    constaddr := BitVec.ofNat 64 (f 0x38 8)
    handler := BitVec.ofNat 32 (f 0x40 4)
    nblk := f 0x44 4
    cohort := bits w 11 4
    cores := bits w 3 2 + 1
    width := 16 * 2 ^ bits w 1 0
    accGran := bits p 20 14
    scratchGran := bits p 13 7
    regGran := bits p 6 0
    roles := (List.range 4).map (roleOf bs)
    privsize := f 0x90 4
    watchdog := BitVec.ofNat 32 (f 0x94 4)
    privbase := BitVec.ofNat 64 (f 0x98 8)
    admitall := bits (f 0xA0 4) 1 1 == 1
    det := bits (f 0xA0 4) 0 0 == 1
    eject := bits (f 0xA4 4) 3 0
    fladdr := BitVec.ofNat 64 (f 0xA8 8)
    flsize := BitVec.ofNat 64 (f 0xB0 8)
    soft := f 0xB8 4
    hard := f 0xBC 4
    etgen := BitVec.ofNat 32 (f 0xC0 4)
    seed := BitVec.ofNat 32 (f 0xC4 4)
    nbar := bits (f 0xC8 4) 4 0
    queues := (List.range (bits (f 0xC8 4) 12 8)).map (queueDecl bs)
    slots := (List.range 8).map (fun i => BitVec.ofNat 128 (f (0x160 + 16 * i) 16))
    team := if f 0xCC 4 = 0 then none else some (teamOf (teamBits bs))
    bytes := bs }

/-! The checks of R321. -/

/-- Every res0 bit of the record is clear (R317, R318). -/
def recordRes0 (bs : List Byte) : Bool :=
  let f (off n : Nat) : Nat := fieldAt bs off n
  f 0x0E 2 == 0 && bits (f 0x48 4) 31 12 == 0 && bits (f 0x4C 4) 31 21 == 0
    && (List.range 4).all (fun r => f (0x58 + 16 * r) 8 == 0)
    && f 0xA0 4 < 4 && f 0xA4 4 < 16 && f 0xC8 4 < 2 ^ 13 && bits (f 0xC8 4) 7 5 == 0
    && f 0xD4 12 == 0 && f 0x1E0 32 == 0
    && (List.range 16).all (fun q => q < bits (f 0xC8 4) 12 8 || f (0xE0 + 8 * q) 8 == 0)

/-- The team declaration's own res0 bits and ranges (R266). -/
def teamRanges (x : Nat) : Bool :=
  bits x 511 100 == 0 && bits x 79 68 == 0 && bits x 639 576 % 4096 == 0 && bits x 639 576 ≥ 4096
    && bits x 639 576 ≤ 2 ^ 40 && bits x 575 512 % 4096 == 0

/-- The record's tables could not be read: they are judged by nothing but reason 14 (R321). -/
def tablesMissing (bs : List Byte) : Bool := bs.length < fieldAt bs 0xD0 4

/-- Reason 1: version, res0 bits and ranges. Of a role without groups the allotments are not asked for: a record may leave its line zero
(18 R399). -/
def recordRanges (bs : List Byte) : Bool :=
  let f (off n : Nat) : Nat := fieldAt bs off n
  let l := LaunchRec.ofBytes bs
  let t := f 0xCC 4
  recordRes0 bs && f 0x0C 2 == 2 && 12 ≤ f 0x08 4 && f 0x08 4 ≤ 2 ^ 31 && f 0x08 4 % 12 == 0 && f 0x18 4 % 16 == 0
    && f 0x30 4 ≤ 65536 && 1 ≤ l.nblk && l.nblk ≤ 2 ^ 24 && 1 ≤ l.cohort && l.cohort ≤ 96 && l.cores != 3 && l.width ≤ 64
    && l.roles.all (fun r =>
      (r.groups == 0 || (8 ≤ r.sregs && r.sregs ≤ 192 && 8 ≤ r.vregs && r.vregs ≤ 256)) && r.groups ≤ 384
        && r.entry.toNat % 12 == 0)
    && f 0x90 4 % 1024 == 0 && 1024 ≤ f 0x90 4 && f 0x90 4 ≤ 1048576
    && l.eject ≤ 8 && l.fladdr.toNat % 64 == 0 && l.flsize.toNat % 64 == 0 && l.queues.length ≤ 16 && l.nbar ≤ 16
    && f 0xD0 4 % 16 == 0 && 512 ≤ f 0xD0 4 && f 0xD0 4 ≤ 1048576
    && (t == 0 || (t % 16 == 0 && 0x200 ≤ t && t + 80 ≤ f 0xD0 4 && (tablesMissing bs || teamRanges (teamBits bs))))

/-- Reason 2: alignment. -/
def recordAligned (l : LaunchRec) : Bool :=
  l.codeaddr.toNat % 256 == 0 && l.regaddr.toNat % 16 == 0 && l.ejaddr.toNat % 128 == 0 && l.bindaddr.toNat % 8 == 0
    && l.privbase.toNat % 4096 == 0

/-- Reason 3: entries and the handler. -/
def recordEntries (l : LaunchRec) : Bool :=
  l.roles.all (fun r => r.entry.toNat < l.codesize.toNat) && (l.handler == 0xFFFFFFFF || l.handler.toNat < l.codesize.toNat)

/-- The role of each group of a block, in order (R319). -/
def LaunchRec.groupRoles (l : LaunchRec) : List Nat :=
  (List.range 4).flatMap (fun r => List.replicate ((l.roles.getD r ⟨0, 0, 0, 0⟩).groups) r)

/-- The roles of the groups on core i of a block (R319). -/
def LaunchRec.rolesOn (l : LaunchRec) (i : Nat) : List Nat :=
  let rs := l.groupRoles
  ((List.range rs.length).filter (· % l.cores == i)).map (fun g => rs.getD g 0)

/-- Threads of a block on its core i. -/
def LaunchRec.threadsOn (l : LaunchRec) (i : Nat) : Nat := (l.rolesOn i).length * l.width

/-- Reason 4: groups and threads. -/
def recordThreads (l : LaunchRec) : Bool :=
  1 ≤ l.groups && l.bsize ≤ 6144 && (List.range l.cores).all (fun i => l.threadsOn i ≤ 2048)

/-- Reason 5: the partition. -/
def recordPool (l : LaunchRec) : Bool := l.accGran + l.scratchGran + l.regGran ≤ 64 && l.accGran % 2 == 0

/-- Reason 6: register fit (R320). -/
def recordFits (l : LaunchRec) : Bool :=
  (List.range l.cores).all (fun i =>
    ((l.rolesOn i).map (fun r =>
      let x := l.roles.getD r ⟨0, 0, 0, 0⟩
      l.width * (4 * x.vregs + 144) + 4 * x.sregs + 128)).sum ≤ l.regGran * 65536)

/-- A queue's ring (R149). -/
def queueOk (l : LaunchRec) (q : Nat × Nat × Nat) : Bool :=
  q.1 % 8 == 0 && 2 ≤ q.2.1 && q.2.1 ≤ 1024 && q.2.1 == 2 ^ q.2.1.log2 && 1 ≤ q.2.2 && q.2.2 ≤ q.2.1
    && q.1 + 8 * q.2.1 ≤ l.scratchBytes

/-- A combination of the table of R167, with INT32 sums or not. -/
def comboOk (a b : ElemFmt) (accInt : Bool) : Bool :=
  let fl (x : ElemFmt) : Bool := x == .bf16 || x == .fp16
  if fl a then (fl b || b == .q8 || b == .q4) && !accInt
  else if a == .int8 then (b == .int8 && accInt) || ((b == .q8 || b == .q4) && !accInt)
  else if a == .int4 then (b == .int4 && accInt) || (b == .q4 && !accInt)
  else false

/-- A permutation table of the record (R169). -/
def permOk (bs : List Byte) (off len : Nat) : Bool :=
  off ≥ 0x200 && off % 4 == 0 && off + 2 * len ≤ max bs.length (fieldAt bs 0xD0 4)
    && (tablesMissing bs || (List.range len).all (fun v => (List.range len).any (fun i => fieldAt bs (off + 2 * i) 2 == v)))

/-- A format slot (R166-R168). -/
def slotOk (bs : List Byte) (x : Nat) : Bool :=
  let a := ElemFmt.ofCode (bits x 3 0)
  let b := ElemFmt.ofCode (bits x 7 4)
  let q := b == .q8 || b == .q4
  let perm := bits x 31 31 == 1
  let len := bits x 95 80
  let sp := bits x 30 28
  if bits x 3 0 = 0 then x == 0
  else
    bits x 79 78 == 0 && bits x 63 62 == 0 && bits x 47 32 == 0 && bits x 26 24 == 0 && bits x 13 12 == 0
      && bits x 11 8 ≤ 1 && comboOk a b (bits x 11 8 == 1) && sp ≤ 5 && bits x 15 14 != 3
      && (q || (bits x 15 14 == 0 && bits x 61 48 == 0 && bits x 77 64 == 0))
      && (bits x 27 27 == 1 || bits x 23 16 == 0) && (bits x 27 27 == 0 || bits x 77 64 == 0)
      && (b != .q4 || bits x 23 16 < 16)
      && (if perm then
            16 ≤ len && len ≤ 32768 && len % 16 == 0 && (!q || len % (32 * 2 ^ bits x 15 14) == 0)
              && (sp == 0 || len % 48 == 0) && permOk bs (bits x 127 96) len
          else len == 0 && bits x 127 96 == 0)

/-- Reason 7: queues and slots. -/
def recordParts (l : LaunchRec) : Bool := l.queues.all (queueOk l) && l.slots.all (fun x => slotOk l.bytes x.toNat)

/-! The ejection table (R300). -/

/-- The opcode and the function code of the word at a code offset. -/
def codeAt (code : List Byte) (off : Nat) : Nat × Nat :=
  let w := fieldAt code off 12
  (bits w 95 88, bits w 87 80)

def isBraDv (code : List Byte) (off : Nat) : Bool := codeAt code off == (0x10, 0x01)
def isRejoin (code : List Byte) (off : Nat) : Bool := (codeAt code off).1 == 0x17

def bitCount {n : Nat} (x : BitVec n) : Nat := ((List.range n).filter x.getLsbD).length

/-- One record of the table. -/
def ejectOk (l : LaunchRec) (code : List Byte) (x : Nat) : Bool :=
  let e := EjectRec.ofNat x
  let used := l.roles.filter (fun r => r.groups > 0)
  bits x 1023 832 == 0 && bits x 127 111 == 0 && bits x 95 79 == 0 && bitCount e.hov ≤ 32 && bitCount e.hos ≤ 16
    && e.hbv &&& ~~~e.hov == 0 && e.hbp &&& ~~~e.hop == 0
    && e.fits (used.foldl (fun m r => max m r.vregs) 0) (used.foldl (fun m r => max m r.sregs) 0)
    && e.boff % 12 == 0 && e.boff < code.length && isBraDv code e.boff
    && e.joff.toNat % 12 == 0 && e.joff.toNat < code.length && isRejoin code e.joff.toNat

/-- Keys strictly rising. -/
def rising : List Nat → Bool
  | a :: b :: r => a < b && rising (b :: r)
  | _ => true

/-- The whole table. -/
def ejectTableOk (l : LaunchRec) (code table : List Byte) : Bool :=
  let recs := (List.range l.ejcount.toNat).map (fun i => fieldAt table (128 * i) 128)
  recs.all (ejectOk l code) && rising (recs.map (bits · 31 0))
    && (List.range (code.length / 12)).all (fun i => !isBraDv code (12 * i) || recs.any (fun x => bits x 31 0 == 12 * i))

/-! Where blocks fit. -/

/-- The cores of a block. -/
def coresOf (l : LaunchRec) (core : Nat) : List Nat := (List.range l.cores).map (core + ·)

/-- The granules that a block takes on a core (R318). -/
def needOn (l : LaunchRec) (core pair x : Nat) : Nat :=
  (if (coresOf l core).contains x then l.regGran + l.scratchGran else 0) + (if x / 2 = pair then l.accGran else 0)

/-- A block that stands somewhere: its PASID, its record, its core and pair. -/
structure Stand where
  pasid : BitVec 20
  lr : LaunchRec
  core : Nat
  pair : Nat
  deriving DecidableEq, Repr

/-- The blocks placed. -/
def State.standing (s : State) : List Stand :=
  s.blocks.filterMap (fun b =>
    match s.launch? b.launch with
    | some l => if b.life == .placed && !l.agent then some ⟨l.pasid, l.lr, b.core, b.pair⟩ else none
    | none => none)

/-- Granules in use on a core, by all or by one PASID. -/
def usedOn (st : List Stand) (x : Nat) (pasid : Option (BitVec 20)) : Nat :=
  ((st.filter (fun b => pasid.all (· == b.pasid))).map (fun b => needOn b.lr b.core b.pair x)).sum

/-- Threads on a core. -/
def threadsOnCore (st : List Stand) (x : Nat) : Nat :=
  (st.map (fun b => if (coresOf b.lr b.core).contains x then b.lr.threadsOn (x - b.core) else 0)).sum

/-- Granules of a core kept for other PASIDs (R316). -/
def State.reservedFor (s : State) (st : List Stand) (x : Nat) (pasid : BitVec 20) : Nat :=
  ((List.range (2 ^ qtLog s)).map (fun p =>
    let q := BitVec.ofNat 20 p
    if q == pasid then 0 else (s.caps q).resgran - usedOn st x (some q))).sum

/-- A block of a PASID fits on a core with a pair (R2, R316, R318, R322, R225), among blocks that stand; a gated cluster takes none
(log 165, DESIGN CHOICE, unsafe). -/
def State.fitsAt (s : State) (st : List Stand) (pasid : BitVec 20) (l : LaunchRec) (core pair : Nat) : Bool :=
  let c := s.caps pasid
  let mine := coresOf l core
  let all := (mine ++ [2 * pair, 2 * pair + 1]).eraseDups
  let occupied := ((st.filter (·.pasid == pasid)).flatMap (fun b => coresOf b.lr b.core) ++ mine).eraseDups
  core % l.cores == 0 && core + l.cores ≤ Config.cores s.part && pair / 4 = clusterOf core
    && !s.gated.contains (clusterOf core)
    && all.all (fun x =>
      usedOn st x none + needOn l core pair x + s.reservedFor st x pasid ≤ 64
        && usedOn st x (some pasid) + needOn l core pair x ≤ c.maxgran)
    && mine.all (fun x => threadsOnCore st x + l.threadsOn (x - core) ≤ 2048)
    && (c.maxcores = 0 || occupied.length ≤ c.maxcores)

/-- The places a block could take, lowest first. -/
def State.places (s : State) (l : LaunchRec) : List (Nat × Nat) :=
  ((List.range (Config.cores s.part)).filter (· % l.cores == 0)).flatMap (fun c =>
    (List.range 4).map (fun i => (c, clusterOf c * 4 + (c % 8 / 2 + i) % 4)))

/-- Granules left on a core for blocks of a PASID (R316, R318). -/
def State.granLeft (s : State) (st : List Stand) (pasid : BitVec 20) (x : Nat) : Nat :=
  min (64 - usedOn st x none - s.reservedFor st x pasid) ((s.caps pasid).maxgran - usedOn st x (some pasid))

/-- A number that the further blocks of a launch in a cluster cannot exceed: by the granules of each core and of the cluster. -/
def State.roomIn (s : State) (st : List Stand) (pasid : BitVec 20) (l : LaunchRec) (cluster : Nat) : Nat :=
  let left (x : Nat) : Nat := s.granLeft st pasid x
  let own := l.regGran + l.scratchGran
  let at_ (p : Nat) : Nat :=
    ((coresOf l (8 * cluster + p * l.cores)).map (fun x => left x / max 1 own)).foldl min (left (8 * cluster + p * l.cores))
  min ((List.range (8 / max 1 l.cores)).map at_).sum
    (((List.range 8).map (fun x => left (8 * cluster + x))).sum / max 1 (l.cores * own + 2 * l.accGran))

/-- Room may be left for n more blocks of a launch from number i on, the first of them in a cluster that their cohort has begun in; false
only where there is none. -/
def State.enoughRoom (s : State) (st : List Stand) (pasid : BitVec 20) (l : LaunchRec) (n i : Nat) (cl : Option Nat) : Bool :=
  let first := if cl.isSome then min n (l.cohort - i % l.cohort) else 0
  let rooms := (List.range (Config.clusters s.part)).map (fun k =>
    let r := if s.gated.contains k then 0 else s.roomIn st pasid l k
    if cl == some k then (r, r - first) else (r, r))
  let whole := (rooms.map (fun r => r.2 / l.cohort)).sum
  let rest := (n - first) / l.cohort
  let last := (n - first) % l.cohort
  cl.all (fun k => first ≤ s.roomIn st pasid l k) && rest ≤ whole
    && (last = 0 || rest < whole || rooms.any (fun r => last ≤ r.2 % l.cohort))

/-- Some way to place blocks one after another from number i on, the blocks of a cohort in one cluster (R322), those that hold a
reservation each on a pair of its own (R365): where they go; none where no way is left (log 82, DESIGN CHOICE, safe). -/
def State.placeFrom (s : State) (pasid : BitVec 20) (l : LaunchRec) :
    List Bool → Nat → Option Nat → List Nat → List Stand → Option (List (Nat × Nat))
  | [], _, _, _, _ => some []
  | holds :: more, i, cl, taken, st =>
    let cl := if i % l.cohort = 0 then none else cl
    if !s.enoughRoom st pasid l (more.length + 1) i cl then none
    else
      ((s.places l).filter (fun p => cl.all (· == clusterOf p.1) && s.fitsAt st pasid l p.1 p.2
          && !(holds && taken.contains p.2))).findSome? (fun p =>
        (s.placeFrom pasid l more (i + 1) (some (clusterOf p.1)) (if holds then p.2 :: taken else taken)
          (⟨pasid, l, p.1, p.2⟩ :: st)).map (p :: ·))

/-- Some way to place every block of a grid at once (R324), among blocks that stand. -/
def State.placeAll (s : State) (pasid : BitVec 20) (l : LaunchRec) (st : List Stand) : Option (List (Nat × Nat)) :=
  s.placeFrom pasid l (List.replicate l.nblk false) 0 none [] st

/-! Admission. -/

/-- A team declaration is refused (R266). -/
def State.teamRefused (s : State) (pasid : BitVec 20) (bs : List Byte) : Bool :=
  if fieldAt bs 0xCC 4 = 0 || tablesMissing bs then false
  else
    let x := teamBits bs
    let t := teamOf x
    t.ranks.eraseDups.length != t.ranks.length || !t.ranks.contains s.devid || bits x 3 0 = 0
      || (List.range 16).any (fun k => k ≥ t.ranks.length && bits x (4 * k + 7) (4 * k + 4) != 0)
      || !(s.ownv && s.owner == pasid)
      || s.launches.any (fun l => l.pasid == s.owner && !l.done && match l.lr.team with
        | some u => (u.exppasid, u.expbase, u.expsize) != (t.exppasid, t.expbase, t.expsize)
        | none => false)

/-- Some page of a range lies in a peer aperture, in the host window or in the empty range, or cannot be read (R321 reason 14). -/
def State.rangeBad (s : State) (pasid : BitVec 20) (away : Bool) (a n : Nat) : Bool :=
  n != 0 && (List.range ((a % 4096 + n + 4095) / 4096)).any (fun i =>
    let va := (a / 4096 + i) * 4096 % 2 ^ 57
    (aperture va).isSome || (match (s.translate 0 pasid va .read false).2 with
      | .ok pa _ _ => inHost pa
      | .bad => true
      | .fault k => !(away && k == .remoteHome)))

/-- The first applicable reason of R321 to refuse a record whose bytes have been read. For one that an image brings, pages may still live
elsewhere (14 R366). -/
def State.refusal (s : State) (pasid : BitVec 20) (bs : List Byte) (away : Bool := false) : Option Nat :=
  let l := LaunchRec.ofBytes bs
  let c := s.caps pasid
  if !recordRanges bs then some 1
  else if !recordAligned l then some 2
  else if !recordEntries l then some 3
  else if !recordThreads l then some 4
  else if !recordPool l then some 5
  else if !recordFits l then some 6
  else if !recordParts l then some 7
  else
    let code := (s.readVirt 0 pasid l.codeaddr.toNat l.codesize.toNat).2
    let table := (s.readVirt 0 pasid l.ejaddr.toNat (128 * l.ejcount.toNat)).2
    let ejBad := match code, table with
      | some k, some t => !ejectTableOk l k t
      | _, _ => false
    if ejBad || !(64 ≤ l.soft && l.soft < l.hard && l.hard ≤ 16777215) then some 8
    else if (l.det && l.flsize.toNat < 64) || (!l.det && (l.fladdr != 0 || l.flsize != 0)) then some 9
    else if s.teamRefused pasid bs then some 10
    else if (s.pasidEntry pasid).isNone then some 11
    else if l.accGran + l.scratchGran + l.regGran > c.maxgran || (c.maxcores != 0 && l.cores > c.maxcores) then some 12
    else if l.admitall && (s.placeAll pasid l []).isNone then some 13
    else if tablesMissing bs || code.isNone || table.isNone || s.rangeBad pasid away l.regaddr.toNat l.regsize.toNat
        || s.rangeBad pasid away l.bindaddr.toNat (8 * l.bindcount.toNat)
        || s.rangeBad pasid away l.constaddr.toNat l.constsize.toNat then some 14
    else none

/-- Read a launch record with its tables: the record first, then totlen bytes of it; the record alone where its tables cannot be read. -/
def State.readRecord (s : State) (pasid : BitVec 20) (addr : Nat) : State × Option (List Byte) :=
  match s.readVirt 0 pasid addr 512 with
  | (s, none) => (s, none)
  | (s, some r) =>
    let n := fieldAt r 0xD0 4
    if n ≤ 512 || n > 1048576 then (s, some r)
    else
      match s.readVirt 0 pasid (addr + 512) (n - 512) with
      | (s, some t) => (s, some (r ++ t))
      | (s, none) => (s, some r)

/-- The watchdog period of a launch in milliseconds (R316). -/
def State.watchdogOf (s : State) (pasid : BitVec 20) (l : LaunchRec) : Nat :=
  if l.watchdog != 0 then l.watchdog.toNat
  else if (s.caps pasid).wdog != 0 then (s.caps pasid).wdog else 10000

/-- A launch at its admission (R315): its ticket word is 0. -/
def newLaunch (id : Nat) (pasid : BitVec 20) (cls : Nat) (packet : Option (QueueRef × Nat)) (parent : Option Nat)
    (recAddr : Option (BitVec 64)) (l : LaunchRec) (wd : Nat) : Launch where
  id := id
  pasid := pasid
  cls := cls
  agent := false
  packet := packet
  parent := parent
  recAddr := recAddr
  lr := l
  ticket := 0
  retired := []
  started := !l.admitall
  frozen := false
  epoch := 0
  flush := none
  collseq := 0
  wbarseq := 0
  teamSlot := 0
  wdleft := wd
  proofer := none
  pages := []
  done := false

/-- The least number that no admitted launch of the same team has (log 100, DESIGN CHOICE, unsafe). -/
def State.teamPlace (s : State) (l : LaunchRec) : Nat :=
  let used := (s.launches.filter (fun x => !x.done && x.lr.team.map (·.ranks) == l.team.map (·.ranks))).map (·.teamSlot)
  ((List.range (used.length + 1)).find? (fun n => !used.contains n)).getD 0

/-- A launch is admitted; its team's export stands until another is declared (R266, log 101, DEDUCED, safe). -/
def State.enter (s : State) (x : Launch) : State :=
  { s with
    launches := s.launches ++ [{ x with teamSlot := s.teamPlace x.lr }]
    exported := x.lr.team.or s.exported }

/-- Admission of a record's bytes (R321): refused with a reason, or the launch. -/
def State.takeOn (s : State) (pasid : BitVec 20) (cls : Nat) (packet : Option (QueueRef × Nat)) (parent : Option Nat)
    (recAddr : Option (BitVec 64)) (bs : Option (List Byte)) : State × Option Nat :=
  match bs with
  | none => (s, some 14)
  | some bs =>
    let s := s.readCaps
    match s.refusal pasid bs with
    | some r => (s, some r)
    | none =>
      let (id, s) := s.fresh
      let l := LaunchRec.ofBytes bs
      (s.enter (newLaunch id pasid cls packet parent recAddr l (s.watchdogOf pasid l)), none)

end Sys2Proof.Machine
end

