-- ==== Sys2Proof/Machine/Packets.lean ====
section
/-! DEFINITION. Host queues and their packets (13 R308-R314): the queue tables, the control block, notifications, the start of
packets and their completion. -/

namespace Sys2Proof.Machine

/-! The queue tables (R309). -/

/-- A queue's level-2 entry: where it and its level-1 entry lie, its class, its notification page, its control block. -/
structure QueueEntry where
  l1 : Nat
  l2 : Nat
  cls : Nat
  nidx : Nat
  qcb : Nat
  p : Bool
  deriving DecidableEq, Repr

/-- A level-1 entry that is valid. -/
def l1Valid (x : Nat) : Bool := bits x 0 0 == 1 && bits x 127 48 == 0 && bits x 13 2 == 0
/-- A level-2 entry that is valid. -/
def l2Valid (x : Nat) : Bool :=
  bits x 0 0 == 1 && bits x 127 90 == 0 && bits x 87 80 == 0 && bits x 63 48 == 0 && bits x 5 3 == 0

/-- The address of a PASID's level-1 entry. -/
def State.l1Addr (s : State) (pasid : BitVec 20) : Nat := s.qtReg.toNat / 4096 % 2 ^ 36 * 4096 + 16 * pasid.toNat

/-- A queue's entry, if both levels are valid (R309). Class 3, which no queue has, is taken for 2 (log 92, DEDUCED, unsafe). -/
def State.queueEntry (s : State) (q : QueueRef) : Option QueueEntry :=
  if q.pasid.toNat ≥ 2 ^ qtLog s || q.qn ≥ 1024 then none
  else
    let a := s.l1Addr q.pasid
    let x := s.mem.le a 16
    if !l1Valid x then none
    else
      let b := bits x 47 14 * 2 ^ 14 + 16 * q.qn
      let y := s.mem.le b 16
      if !l2Valid y then none
      else some ⟨a, b, min 2 (bits y 89 88), bits y 79 64, bits y 47 6 * 64, bits y 2 2 == 1⟩

/-- Set bit 1 of the entry at an address (R309: A). -/
def State.markRead (s : State) (a : Nat) : State :=
  let s := (s.touchSlice (lineOf a)).recallWords (lineOf a) (wordMask a 1)
  if (s.mem.get a).getLsbD 1 then s else s.writeHome a [s.mem.get a ||| 2#8]

/-- The device reads an entry: A is set in both levels. -/
def State.seeQueue (s : State) (e : QueueEntry) : State := (s.markRead e.l1).markRead e.l2

/-- The device reads a queue's entry at both levels: errors in what it reads are found (02 R58). -/
def State.readQueue (s : State) (q : QueueRef) : State :=
  let s := s.inspect (s.l1Addr q.pasid) 16
  s.inspect (bits (s.mem.le (s.l1Addr q.pasid) 16) 47 14 * 2 ^ 14 + 16 * q.qn) 16

/-- The same of every queue. -/
def State.readQueues (s : State) : State :=
  (List.range (2 ^ qtLog s)).foldl (fun (s : State) p =>
    let a := s.l1Addr (BitVec.ofNat 20 p)
    let s := s.inspect a 16
    if l1Valid (s.mem.le a 16) then s.inspect (bits (s.mem.le a 16) 47 14 * 2 ^ 14) 16384 else s) s

/-- The device looks for the queues that a notification names: it reads every entry of both levels, and A is set in those with V
set (R309). -/
def State.seeQueues (s : State) : State :=
  (List.range (2 ^ qtLog s)).foldl (fun (s : State) p =>
    let a := s.l1Addr (BitVec.ofNat 20 p)
    if !l1Valid (s.mem.le a 16) then s
    else
      (List.range 1024).foldl (fun (s : State) n =>
        match s.queueEntry ⟨BitVec.ofNat 20 p, n⟩ with
        | some e => s.markRead e.l2
        | none => s) (s.markRead a)) s.readQueues

/-- The queues whose entry names a notification page, in order of PASID and number (R311). -/
def State.queuesOf (s : State) (page : Nat) : List (QueueRef × QueueEntry) :=
  ((List.range (2 ^ qtLog s)).filter (fun p => l1Valid (s.mem.le (s.l1Addr (BitVec.ofNat 20 p)) 16))).flatMap (fun p =>
    (List.range 1024).filterMap (fun n =>
      let q : QueueRef := ⟨BitVec.ofNat 20 p, n⟩
      match s.queueEntry q with
      | some e => if e.nidx = page then some (q, e) else none
      | none => none))

/-! The control block (R310). -/

structure Qcb where
  ring : Nat
  rlog : Nat
  rdidx : Nat
  wridx : Nat
  stopped : Bool
  /-- the offset of the first word that stops the queue (R314) -/
  bad : Option Nat
  deriving DecidableEq, Repr

def Qcb.of (f : Nat → Nat) : Qcb where
  ring := f 0
  rlog := f 8 % 32
  rdidx := f 16
  wridx := f 24
  stopped := f 32 % 16 == 1
  bad :=
    if f 0 % 4096 != 0 then some 0
    else if f 8 / 32 != 0 || f 8 % 32 < 4 || f 8 % 32 > 16 then some 8
    else if f 32 / 2 ^ 40 != 0 then some 32
    else if f 40 != 0 then some 40
    else if f 48 != 0 then some 48
    else if f 56 != 0 then some 56
    else none

def State.qcb (s : State) (e : QueueEntry) : Qcb := Qcb.of (fun off => s.mem.le (e.qcb + off) 8)

/-- The device reads a control block: errors in it are found (02 R58). -/
def State.readQcb (s : State) (e : QueueEntry) : State := s.inspect e.qcb 64

/-- Stop a queue with an error and its information (R314). -/
def State.stopQueue (s : State) (e : QueueEntry) (err info : Nat) : State :=
  s.writeHome (e.qcb + 32) (leBytes (info % 2 ^ 32 * 256 + err * 16 + 1) 8)

/-- Act on a notified value (R311, R314): the state, and whether the queue was stopped by it (log 91, DEDUCED, safe) (log 93, DEDUCED,
safe). -/
def State.act (s : State) (e : QueueEntry) (w : Nat) : State × Bool :=
  let s := s.readQcb e
  let c := s.qcb e
  match c.bad with
  | some off => if c.stopped then (s, true) else (s.stopQueue e 2 off, true)
  | none =>
    if c.rdidx ≤ w && w ≤ c.rdidx + 2 ^ c.rlog then (s.writeHome (e.qcb + 24) (leBytes w 8), false)
    else (s.stopQueue e 3 w, true)

/-- Notify one queue (R311, R375): while the interface is locked, or the control block is away, the value is latched (log 154, DEDUCED,
safe). -/
def State.notifyQueue (s : State) (q : QueueRef) (e : QueueEntry) (w : BitVec 64) : State :=
  if s.tdi == .locked || !e.p then { s with latched := (q, w, !e.p) :: s.latched.filter (·.1 != q) }
  else
    let old := s.latched.find? (·.1 == q)
    let s := { s with latched := s.latched.filter (·.1 != q) }
    match old with
    | some (_, v, _) =>
      match s.act e v.toNat with
      | (s, true) => s
      | (s, false) => (s.act e w.toNat).1
    | none => (s.act e w.toNat).1

/-- NOTIFY (R311): a 64-bit write to the first register of a notification page, its width in bytes; every other write is ignored. -/
def execNotify (page off width : Nat) (w : BitVec 64) (t : Bool) (s : State) : Out :=
  .next (s.hostWrite t (fun s =>
    if off != 0 || width != 8 || page ≥ 65536 then s
    else (s.queuesOf page).foldl (fun (s : State) x => s.notifyQueue x.1 x.2 w) s.seeQueues))

/-! Memory that the queues name. -/

/-- Read n bytes, not across a page, in a queue's PASID: from the host window what the host answers (log 94, DEDUCED, safe). -/
def State.queueLoad (s : State) (pasid : BitVec 20) (va n : Nat) : State × Eng (List Byte × Bool) :=
  let a := va % 2 ^ 57
  if (aperture a).isSome then (s, .bad)
  else
    match s.translate 0 pasid a .read false with
    | (s, .fault k) => (s, .fault k (BitVec.ofNat 57 a))
    | (s, .bad) => (s, .bad)
    | (s, .ok pa _ _) =>
      if inHost pa && s.tdi == .locked then (s.holdSlow, .fault .held (BitVec.ofNat 57 a))
      else if inHost pa then
        let (s, bs) := s.freeBytes n
        ({ s with hostOut := s.hostOut ++ [HostMsg.read pasid (BitVec.ofNat 48 pa) n] }, .ok (bs, false))
      else
        let (s, bs, p) := s.readHome pa n pasid
        (s.notePoison pasid pa p, .ok (bs, p))

/-- Write bytes in a queue's PASID, at the home slice or to the host. -/
def State.queueStore (s : State) (pasid : BitVec 20) (va : Nat) (bs : List Byte) : State × Eng Unit :=
  let a := va % 2 ^ 57
  if (aperture a).isSome then (s, .bad)
  else
    match s.translate 0 pasid a .write false with
    | (s, .fault k) => (s, .fault k (BitVec.ofNat 57 a))
    | (s, .bad) => (s, .bad)
    | (s, .ok pa _ _) =>
      if inHost pa && s.tdi == .locked then (s.holdSlow, .fault .held (BitVec.ofNat 57 a))
      else if inHost pa then ({ s with hostOut := s.hostOut ++ [HostMsg.write pasid (BitVec.ofNat 48 pa) bs] }, .ok ())
      else (s.writeHome pa bs, .ok ())

/-! Packets (R312, R313). -/

def pkOpcode (bs : List Byte) : Nat := fieldAt bs 0 1
def pkBarrier (bs : List Byte) : Bool := fieldAt bs 1 1 % 2 == 1
def pkSignal (bs : List Byte) : Bool := fieldAt bs 1 1 / 2 % 2 == 1
def pkAddr (bs : List Byte) : Nat := fieldAt bs 16 8
def pkWord (bs : List Byte) : Nat := fieldAt bs 24 8

/-- A physical address of a buffer or an image (R351, R364). -/
def State.bufferOk (s : State) (a : Nat) : Bool := a % 4096 == 0 && (s.inMain a || inHost a)

/-- A packet's opcode, res0 bits and fields are as stated (R312, R313, R314). -/
def State.packetOk (s : State) (bs : List Byte) : Bool :=
  let zero (off n : Nat) : Bool := fieldAt bs off n == 0
  let a := pkAddr bs
  fieldAt bs 1 1 < 4 && zero 2 6 && fieldAt bs 8 8 % 8 == 0 && (pkSignal bs || zero 8 8)
    && match pkOpcode bs with
      | 0 => zero 16 48
      | 1 => a % 64 == 0 && zero 24 40
      | 2 => a % 8 == 0 && fieldAt bs 32 1 < 4 && zero 33 31
      | 3 => a % 8 == 0 && zero 32 32
      | 4 => s.bufferOk a && zero 32 32
      | 5 => s.bufferOk a && pkWord bs % 8 == 0 && zero 32 32
      | 6 => a % 4096 == 0 && s.inMain a && zero 24 40
      | 7 => fieldAt bs 16 1 < 64 && zero 17 7 && pkWord bs % 128 == 0 && zero 32 32
      | _ => false

/-- The packet that a queue would read next. -/
inductive NextPacket where
  /-- nothing to read: no valid entry, stopped, empty, held back, or the device does no such work now -/
  | none
  | packet (e : QueueEntry) (idx : Nat) (bs : List Byte)
  | invalid (e : QueueEntry) (opcode : Nat)
  | ringFault (e : QueueEntry)
  deriving Repr

/-- The queues run: the firmware does, and the interface lets packets be read (R375, R376, R380). -/
def State.queuesRun (s : State) : Bool := s.ready && s.tdi != .locked && s.tdi != .error

/-- Started packets of a queue that hold back the next one: a WAIT_SIGNAL, or with the barrier flag any (R312). -/
def State.heldBack (s : State) (q : QueueRef) (barrier : Bool) : Bool :=
  s.packets.any (fun p => p.q == q && (barrier || pkOpcode p.bytes == 2))

/-- The device has found the control block of a queue away, and looks again only at a later notification (R311). -/
def State.queueAway (s : State) (q : QueueRef) : Bool := s.latched.any (fun x => x.1 == q && x.2.2)

/-- Read a queue's next packet. Nothing is read of a control block that the entry says is away (R309, R311) (log 160, DEDUCED, safe). What
the packet holds is looked at when it is read, though an earlier one may still hold it back (R314) (log 161, DESIGN CHOICE, unsafe). -/
def State.nextPacket (s : State) (q : QueueRef) : State × NextPacket :=
  let s := s.readQueue q
  match s.queueEntry q with
  | none => (s, .none)
  | some e =>
    let s := (s.seeQueue e).readQcb e
    let c := s.qcb e
    if !e.p || !s.queuesRun || s.queueAway q || c.stopped || c.bad.isSome || c.rdidx ≥ c.wridx then (s, .none)
    else
      match s.queueLoad q.pasid (c.ring + 64 * (c.rdidx % 2 ^ c.rlog)) 64 with
      | (s, .ok (bs, false)) =>
        if !s.packetOk bs then (s, .invalid e (pkOpcode bs))
        else if s.heldBack q (pkBarrier bs) then (s, .none)
        else (s, .packet e c.rdidx bs)
      | (s, _) => (s, .ringFault e)

/-- Start a packet: it is copied, and rdidx advances (R312). -/
def State.startPacket (s : State) (q : QueueRef) (e : QueueEntry) (idx : Nat) (bs : List Byte) : State :=
  { (s.writeHome (e.qcb + 16) (leBytes (idx + 1) 8)) with packets := s.packets ++ [⟨q, idx, bs, none⟩] }

/-- A queue starts a packet of an opcode: what it then does is given its entry, its index and its bytes; nothing where the next packet
is another. -/
def State.packet (s : State) (q : QueueRef) (op : Nat) (f : QueueEntry → Nat → List Byte → State → State) : State :=
  match s.nextPacket q with
  | (s', .packet e i bs) => if pkOpcode bs = op then f e i bs (s'.startPacket q e i bs) else s
  | _ => s

/-- NOP_PACKET (R313): it completes at start. -/
def execNopPacket (q : QueueRef) (s : State) : Out := .next (s.packet q 0 (fun _ i _ s => s.packetDone q i 0 0))

/-- LAUNCH (R313, R321): the record is read and the grid is admitted, or refused with a reason. -/
def execLaunchPacket (q : QueueRef) (s : State) : Out :=
  .next (s.packet q 1 (fun e i bs s =>
    let (s, r) := s.readRecord q.pasid (pkAddr bs)
    match s.takeOn q.pasid e.cls (some (q, i)) none (some (BitVec.ofNat 64 (pkAddr bs))) r with
    | (s, some reason) => s.packetDone q i 1 reason
    | (s, none) => s))

/-! WAIT_SIGNAL, SET_SIGNAL, PLAN_LOAD: what a started packet of these does, as soon as it can. -/

/-- The condition of a WAIT_SIGNAL (R313). -/
def condHolds (cond m v : Nat) : Bool :=
  match cond with
  | 0 => m == v
  | 1 => m != v
  | 2 => m < v
  | _ => v ≤ m

/-- The packet waits for a fault that an agent was told of. -/
def State.signalLogged (s : State) (q : QueueRef) (idx : Nat) : Bool :=
  s.oplog.any (fun e => match e.site with
    | .signal r i => r == q && i == idx
    | _ => false)

/-- A page fault of a packet's write is reported and held under R80 (R312) (log 95, DEDUCED, safe). -/
def State.logSignal (s : State) (q : QueueRef) (idx : Nat) (k : FaultKind) (va : BitVec 57) : State :=
  let (id, s) := s.fresh
  { s with oplog := s.oplog ++ [⟨id, 0, q.pasid, k, va, .signal q idx, 0, none⟩] }

/-- A plan is refused (R258). -/
def State.planBad (s : State) (p : BitVec 1024) : Bool :=
  let x := p.toNat
  bits x 511 112 != 0 || bits x 63 34 != 0 || bits x 32 20 != 0
    || (List.range 16).any (fun i => bits x (32 * i + 542) (32 * i + 532) != 0)
    || planDrain p = 0 || planReady p = 0 || planLight p = 0
    || !(planMembers p).getLsbD s.devid || !(planMembers p).getLsbD (planCoord p)
    || (List.range 16).any (fun i => planV p i
      && (i ≥ Config.ports s.part || planPeer p i = s.devid || !(planMembers p).getLsbD (planPeer p i)))

/-- A PLAN_LOAD (R258, R313): it waits for a RECONF of its slot; refused for a PASID that does not own the fabric, for the slot of the
current plan, and for a plan that R258 refuses. -/
def State.loadPlan (s : State) (p : Packet) : State :=
  let slot := fieldAt p.bytes 16 1
  if s.trans.any (·.plan == slot) then s
  else if !(s.ownv && s.owner == p.q.pasid) || s.plan == some slot then s.packetDone p.q p.idx 1 15
  else
    match s.queueLoad p.q.pasid (pkWord p.bytes) 128 with
    | (s, .ok (bs, false)) =>
      let w := BitVec.ofNat 1024 (leNat bs)
      if s.planBad w then s.packetDone p.q p.idx 1 23
      else ({ s with plans := (slot, w) :: s.plans.filter (·.1 != slot) }).packetDone p.q p.idx 0 0
    | (s, _) => s.packetDone p.q p.idx 3 0

/-- A started packet does what it waits to do (R313). -/
def State.perform (s : State) (p : Packet) : State :=
  match pkOpcode p.bytes with
  | 2 =>
    match s.queueLoad p.q.pasid (pkAddr p.bytes) 8 with
    | (s', .ok (bs, false)) =>
      if condHolds (fieldAt p.bytes 32 1) (leNat bs) (pkWord p.bytes) then s'.packetDone p.q p.idx 0 0 else s'
    | (s', _) => s'.packetDone p.q p.idx 3 0
  | 3 =>
    match s.queueStore p.q.pasid (pkAddr p.bytes) (leBytes (pkWord p.bytes) 8) with
    | (s', .ok _) => s'.packetDone p.q p.idx 0 0
    | (s', .bad) => s'.packetDone p.q p.idx 3 0
    | (s', .fault k va) => if k == .permission then s'.packetDone p.q p.idx 3 0 else s'.logSignal p.q p.idx k va
  | 7 => s.loadPlan p
  | _ => s

/-- A packet of these starts, and does at once what it can. -/
def State.startWork (s : State) (q : QueueRef) (op : Nat) : State :=
  s.packet q op (fun _ i bs s => s.perform ⟨q, i, bs, none⟩)

/-- WAIT_SIGNAL (R313). -/
def execWaitSignalPacket (q : QueueRef) (s : State) : Out := .next (s.startWork q 2)
/-- SET_SIGNAL (R313). -/
def execSetSignalPacket (q : QueueRef) (s : State) : Out := .next (s.startWork q 3)
/-- PLAN_LOAD (R258, R313). -/
def execPlanLoadPacket (q : QueueRef) (s : State) : Out := .next (s.startWork q 7)

/-- DIRTY_HARVEST (R79, R313): the harvest is performed in its turn: the entry takes the new bitmap, and every cluster is to clear the
PASID's dirty-seen states. -/
def execDirtyHarvestPacket (q : QueueRef) (s : State) : Out :=
  .next (s.packet q 6 (fun _ i bs s =>
    match s.pasidEntry q.pasid with
    | none => s.packetDone q i 1 24
    | some p =>
      if !p.dt then s.packetDone q i 1 24
      else
        let op : MaintOp := ⟨.harvest q i q.pasid (BitVec.ofNat 36 (pkAddr bs / 4096)) none, []⟩
        State.beginHarvests { s with maint := s.maint ++ [op] }))

/-- INVALID_PACKET (R314): the queue stops at the packet, or at a ring address that cannot be read. -/
def execInvalidPacket (q : QueueRef) (s : State) : Out :=
  match s.nextPacket q with
  | (s', .invalid e op) => .next (s'.stopQueue e 1 op)
  | (s', .ringFault e) =>
    let (x, s') := s'.free
    .next (s'.stopQueue e 2 (x.toNat % 2 ^ 32))
  | _ => .next s

/-! Completion (R312). -/

/-- The packet has completed, its signal written or lost: it leaves. -/
def State.dropPacket (s : State) (p : Packet) : State :=
  { s with packets := s.packets.filter (fun x => !(x.q == p.q && x.idx == p.idx)) }

/-- A signal that cannot be written (R312, R386). -/
def State.loseSignal (s : State) (p : Packet) : State :=
  (s.dropPacket p).log .signalLost 0 p.q.pasid (BitVec.ofNat 64 (fieldAt p.bytes 8 8))

/-- Write a completed packet's signal, a release at `.sys` (R312). A write that meets a harvest of its PASID is held like one that meets a
page fault (log 59, DEDUCED, safe). -/
def State.writeSignal (s : State) (p : Packet) (st : BitVec 8) (aux : BitVec 32) : State :=
  if !pkSignal p.bytes then s.dropPacket p
  else
    match s.queueStore p.q.pasid (fieldAt p.bytes 8 8) (leBytes (2 ^ 63 + st.toNat * 2 ^ 32 + aux.toNat) 8) with
    | (s, .ok _) => s.dropPacket p
    | (s, .bad) => s.loseSignal p
    | (s, .fault k va) => if k == .permission then s.loseSignal p else s.logSignal p.q p.idx k va

/-- A started packet goes on: its work, or its signal. -/
def State.pumpPacket (s : State) (p : Packet) : State :=
  match p.result with
  | some (st, aux) => s.writeSignal p st aux
  | none => s.perform p

end Sys2Proof.Machine
end

