-- ==== Sys2Proof/Machine/Interface.lean ====
section
/-! DEFINITION. The entry of the interface to ERROR, and the scrub that leads back to CONFIG_UNLOCKED (15 R376). -/

namespace Sys2Proof.Machine

/-- Every queue with its entry, in order of PASID and number (R309). -/
def State.allQueues (s : State) : List (QueueRef × QueueEntry) :=
  ((List.range (2 ^ qtLog s)).filter (fun p => l1Valid (s.mem.le (s.l1Addr (BitVec.ofNat 20 p)) 16))).flatMap (fun p =>
    (List.range 1024).filterMap (fun n =>
      let q : QueueRef := ⟨BitVec.ofNat 20 p, n⟩
      (s.queueEntry q).map (fun e => (q, e))))

/-- A queue takes state = 1 with err unchanged. -/
def State.haltQueue (s : State) (e : QueueEntry) : State :=
  let a := e.qcb + 32
  s.writeHome a [(s.mem.get a &&& 0xF0#8) ||| 1#8]

def State.haltQueues (s : State) : State :=
  (s.readQueues.allQueues.filter (·.2.p)).foldl (fun (s : State) x => s.haltQueue x.2) s.readQueues

/-- A context stops because the device does (R346, R376, R388). R338 has no code for it: the entry's cause is 0, and the aux of its packet
is unspecified (log 139, DESIGN CHOICE, unsafe). -/
def State.stopWithDevice (s : State) (id : Nat) : State :=
  match s.launch? (s.root id) with
  | none => s
  | some l =>
    let s := s.removeLaunches (s.context id)
    let (x, s) := s.free
    let aux := x.toNat % 2 ^ 32
    let s := match l.packet with
      | some (q, i) => (s.endSaves q i 2 aux).packetDone q i 2 aux
      | none => s
    s.log .fatalDevice 0 l.pasid 0

/-- Every context stops. -/
def State.stopAll (s : State) : State :=
  let s := (s.launches.filter (fun l => l.parent.isNone && !l.agent)).foldl (fun (s : State) l => s.stopWithDevice l.id) s
  s.removeLaunches ((s.launches.filter (!·.agent)).map (·.id))

/-- Nothing of the queues' work remains: packets read, harvests, children not admitted, faults that agents hold. -/
def State.dropWork (s : State) : State :=
  { s with
    packets := []
    loads := []
    oplog := []
    children := []
    maint := s.maint.filter (fun m => match m.op with
      | .harvest .. => false
      | _ => true) }

/-- The device's fabric traffic ceases: its ports leave service, what it asked of peers and of a new topology is dropped. -/
def State.silence (s : State) : State :=
  { s with
    ports := s.ports.map (fun p => Port.fresh p.idx)
    txns := []
    colls := []
    wideArrivals := []
    exported := none
    walkFails := []
    stranded := []
    relaying := []
    fetches := []
    readies := []
    trans := none
    agenda := [] }

/-- Entry to ERROR (R376): the contexts stop, but no packet completes and no signal is written (log 137, DEDUCED, unsafe). A save under way
stops, and its buffer holds unspecified bytes (R389). -/
def State.enterError (s : State) : State :=
  { ((({ s.spoilBuffers s.packets with packets := [] }).stopAll.dropWork.haltQueues.silence).log .tdiError 0 0 0) with tdi := .error }

/-- What makes a locked or a running interface fall. -/
def State.fallIfLocked (s : State) : State := if s.tdi == .locked || s.tdi == .run then s.enterError else s

/-- The packets whose work is over write their signals, but for one that would go to a host window that may not be used (R375). -/
def State.endPackets (s : State) : State :=
  (s.packets.filter (·.result.isSome)).foldl (fun (s : State) p =>
    let s' := s.pumpPacket p
    if s.hostBarred s' then s else s') s

/-- The scrub, and CONFIG_UNLOCKED behind it (R376): every context stopped, its packet completed (R346); every pool, L1, weight buffer and
slice line cleared, main memory zero (R51), and with it every queue, packet and table there was; the registers keep their values (log 138,
DEDUCED, unsafe). -/
def State.scrub (s : State) : State :=
  { s.stopAll.endPackets.dropWork with
    mem := []
    poison := []
    damage := []
    slices := []
    l1 := []
    uses := []
    pairs := []
    latched := []
    exported := none
    walkFails := []
    saved := []
    fetches := []
    tdi := .unlocked }

end Sys2Proof.Machine
end

