-- ==== Sys2Proof/Machine/Bars.lean ====
section
/-! DEFINITION. The host's view of the device: BAR 4 (15 R370, R371, 05 R129), the registers of BAR 0 as they are written and read
back (R372, R373, R377, R378, R384, R386, R387, 03 R65, 11 R257, 13 R308), the BAR registers of configuration space. -/

namespace Sys2Proof.Machine

/-! BAR 4 (R371). -/

/-- A word of a BAR 4 read at its home slice: what stands in a poisoned word is unspecified, and the poison read is logged (R59). -/
def State.barRead (s : State) (w : Nat) : State × List Byte :=
  if w ≥ Config.cap s.part then (s, List.replicate 4 0xFF#8)
  else match s.readHome w 4 with
    | (s, bs, false) => (s, bs)
    | (s, _, true) =>
      let (x, s) := (s.notePoison 0 w true).free
      (s, leBytes x.toNat 4)

/-- Words of a BAR 4 read, one after another. -/
def State.barWords (s : State) (w : Nat) : Nat → State × List Byte
  | 0 => (s, [])
  | n + 1 =>
    let (s, b) := s.barRead w
    let (s, bs) := s.barWords (w + 4) n
    (s, b ++ bs)

/-- The bytes of a BAR 4 read, which may begin and end inside a word. -/
def State.barLoad (s : State) (a n : Nat) : State × List Byte :=
  let (s, bs) := s.barWords (a / 4 * 4) ((a % 4 + n + 3) / 4)
  (s, (bs.drop (a % 4)).take n)

/-- HOST_BAR4_READ (R371, R375): at or above cap it returns all ones. -/
def execHostBar4Read (addr len : Nat) (t : Bool) (s : State) : Out :=
  if addr + len > Config.bar4Size s.part then .next s
  else
    match s.serve t false with
    | .served =>
      let (s, bs) := s.barLoad addr len
      .next (s.answer (.completion bs))
    | .refused => .next (s.answer .unsupported)
    | .ones => .next (s.answer (.completion (List.replicate len 0xFF#8)))

/-- Write bytes at their home slices; at or above cap they are dropped. -/
def State.barStore (s : State) (a : Nat) (bs : List Byte) : State :=
  let here := bs.take (Config.cap s.part - a)
  s.writeLines (here.length + 1) a here

/-- What a context saved here left is kept until the host clears V of its PASID-table entry (14 R362) (log 125, DEDUCED, safe). -/
def State.release (s : State) : State := { s with saved := s.saved.filter (fun x => (s.pasidEntry x.pasid).isSome) }

/-- HOST_BAR4_WRITE (R371, R375). -/
def execHostBar4Write (addr : Nat) (data : List Byte) (t : Bool) (s : State) : Out :=
  if addr + data.length > Config.bar4Size s.part then .next s
  else .next (s.hostWrite t (fun s => (s.barStore addr data).release))

/-- An AtomicOp at the word's home slice (R370, R99): the value before, which is the answer. A poisoned word has no value, and is not
written (R60). -/
def State.barAtomic (s : State) (op : HostAtomic) (n addr : Nat) (v cmp : BitVec 64) : State × BitVec 64 :=
  let (s, bs, p) := s.readPlace addr n
  if p then (s.notePoison 0 addr true).free.swap
  else
    let o := BitVec.ofNat 64 (leNat bs)
    let put (x : BitVec 64) : State := s.writeHome addr (leBytes x.toNat n)
    match op with
    | .fetchAdd => (put (o + v), o)
    | .swap => (put v, o)
    | .cas => (if o.toNat = cmp.toNat % 2 ^ (8 * n) then put v else s, o)

/-- HOST_ATOMICOP (R370, R371, R375): FetchAdd, Swap and CAS of 32 and 64 bits (log 135, PRESUMED, unsafe). -/
def execHostAtomicop (op : HostAtomic) (wide : Bool) (addr : Nat) (v cmp : BitVec 64) (t : Bool) (s : State) : Out :=
  let n := if wide then 8 else 4
  if addr + n > Config.bar4Size s.part then .next s
  else
    let ones : HostMsg := .completion (List.replicate n 0xFF#8)
    match s.serve t false with
    | .refused => .next (s.answer .unsupported)
    | .ones => .next (s.answer ones)
    | .served =>
      if addr % n != 0 then .next (s.answer .unsupported)
      else if addr ≥ Config.cap s.part then .next (s.answer ones)
      else
        let (s, o) := s.barAtomic op n addr v cmp
        .next (s.release.answer (.completion (leBytes o.toNat n)))

/-! BAR 0, as it reads. -/

/-- Fields of a register at their places: value and shift. -/
def regWord (l : List (Nat × Nat)) : BitVec 64 := BitVec.ofNat 64 ((l.map (fun x => x.1 * 2 ^ x.2)).sum)

/-- The identification block (R373). -/
def State.identWord (s : State) (off : Nat) : BitVec 64 :=
  let p := s.part
  match off with
  | 0 => regWord [(s.ready.toNat, 63), (Config.stepping.toNat, 16), (Config.partCode p, 8), (2, 0)]
  | 8 => regWord [(Config.slices p, 48), (Config.channels p, 40), (Config.ports p, 32), (Config.clustersPerHalf p, 24),
      (Config.halves p, 16), (Config.pipeLanes p, 8)]
  | 16 => BitVec.ofNat 64 (Config.cap p)
  | 24 => s.fwver.setWidth 64
  | _ => 0

/-- The identification block's 32 bytes, measurement 4 (R381). -/
def State.identBytes (s : State) : List Byte := [0, 8, 16, 24].flatMap (fun o => leBytes (s.identWord o).toNat 8)

def tdiCode : Tdi → Nat
  | .unlocked => 0 | .locked => 1 | .run => 2 | .error => 3

/-- An error-log entry's four words (R386). -/
def ErrEntry.word (e : ErrEntry) (k : Nat) : BitVec 64 :=
  match k with
  | 0 => e.time
  | 1 => regWord [(e.kind, 56), (e.cause.toNat, 48), (e.pasid.toNat, 0)]
  | 2 => e.wh
  | _ => regWord [(e.count.toNat, 32), (e.pc.toNat, 0)]

/-- A key digest's word (R377). -/
def State.keyWord (s : State) (i k : Nat) : BitVec 64 :=
  if k ≥ 6 then 0
  else match s.keydigs.find? (·.1 == i) with
    | some (_, d) => d.extractLsb' (64 * k) 64
    | none => 0

/-- A breakpoint register (R384). -/
def State.breakWord (s : State) (core i : Nat) : BitVec 128 :=
  match s.breaks.find? (fun b => b.core == core && b.idx == i) with
  | some b => b.w
  | none => 0

/-- What a register of BAR 0 at an offset, in 8-byte units, reads as (R372); the bits of R386 in an entry that the device has not
written yet are 0 (log 23, DESIGN CHOICE, unsafe). -/
def State.bar0 (s : State) (off : Nat) : BitVec 64 :=
  let r := off % 0x10000
  match off / 0x10000 with
  | 0 => s.identWord r
  | 1 => if r = 0 then regWord [(s.qtReg.toNat / 4096 % 2 ^ 36, 12), (qtLog s, 0)] else if r = 8 then s.capReg else 0
  | 2 =>
    match r with
    | 0 => regWord [(s.ptReg.toNat / 4096 % 2 ^ 36, 12), (ptLog s, 0)]
    | 8 => s.sdAddr
    | 16 => s.sdCtl
    | 24 => regWord [(s.sdDrop.toNat, 32), (s.sdDone.toNat, 1), (s.sdbusy.toNat, 0)]
    | _ => 0
  | 3 =>
    match r with
    | 0 => s.fabReg
    | 8 => regWord [(((List.range 16).filter s.portUp).map (2 ^ ·) |>.sum, 32), (s.tgen.toNat, 0)]
    | 16 => regWord [(((List.range 64).filter (fun i => s.plans.any (·.1 == i))).map (2 ^ ·) |>.sum, 0)]
    | _ => 0
  | 4 =>
    match r with
    | 0 => regWord [(s.ide.toNat, 2), (tdiCode s.tdi, 0)]
    | 8 => s.fwcfg
    | 16 => s.nkeys
    | _ => if 0x100 ≤ r && r < 0x500 then s.keyWord ((r - 0x100) / 64) (r % 64 / 8) else 0
  | 5 =>
    match r with
    | 0 => if s.dbgOpen then s.dbgCtl else s.dbgCtl &&& 0x7FFFFFFFFFFFFFFF
    | 16 => s.dbgData
    | 24 => regWord [((s.threads.any (·.stepping)).toNat, 63), (s.dbgErr.toNat, 62)]
    | _ =>
      if 0x1000 ≤ r && r < 0x1000 + 128 * Config.cores s.part then
        let x := s.breakWord ((r - 0x1000) / 128) ((r - 0x1000) / 16 % 8)
        if r % 16 = 0 then x.setWidth 64 else (x >>> 64).setWidth 64
      else 0
  | 6 =>
    if r = 0 then s.errHead
    else if 0x100 ≤ r && r < 0x2100 then
      match s.errLog.find? (·.1 == (r - 0x100) / 32) with
      | some (_, e) => e.word (r % 32 / 8)
      | none => 0
    else 0
  | 7 =>
    match r with
    | 0 => s.plimit.setWidth 64
    | 8 => regWord [(s.throttle.toNat, 24), (s.tj.toNat, 16), (s.pnow.toNat, 0)]
    | 16 => s.energy
    | _ => 0
  | _ => 0

/-- The answer to a host's read of BAR 0 (R375); the identification block is the 32 bytes of R373 (log 169, DEDUCED, unsafe). -/
def State.readReg (s : State) (off : Nat) (t : Bool) : HostMsg :=
  match s.serve t (off < 32) with
  | .served => .completion (leBytes (s.bar0 (off / 8 * 8)).toNat 8)
  | .refused => .unsupported
  | .ones => .completion (List.replicate 8 0xFF#8)

/-! BAR 0, as it is written. -/

/-- The registers that a lock freezes (R378) (log 136, DEDUCED, safe). -/
def frozenReg (off : Nat) : Bool :=
  off == 0x10000 || off == 0x10008 || off == 0x20000 || off == 0x30000 || off == 0x40008 || off == 0x40010
    || (0x40100 ≤ off && off < 0x40500)

/-- plimit reads back between a quarter of the design limit and the design limit (R387); a quarter that is no whole number of watts is
rounded up (log 167, DESIGN CHOICE, unsafe). -/
def clampPower (p : Part) (w : BitVec 64) : BitVec 16 :=
  let d := p.designLimit.toNat
  BitVec.ofNat 16 (max ((d + 3) / 4) (min d (w.toNat % 65536)))

/-- Write a word of a key digest; bytes 48 to 63 are res0. -/
def State.setKey (s : State) (i k : Nat) (w : BitVec 64) : State :=
  if k ≥ 6 then s
  else
    let old := (s.keydigs.find? (·.1 == i)).map (·.2) |>.getD 0
    let new := (old &&& ~~~((0xFFFFFFFFFFFFFFFF : BitVec 384) <<< (64 * k))) ||| (w.setWidth 384 <<< (64 * k))
    { s with keydigs := (i, new) :: s.keydigs.filter (·.1 != i) }

/-- Write half of a breakpoint register; its res0 bits stay 0. -/
def State.setBreak (s : State) (core i : Nat) (upper : Bool) (w : BitVec 64) : State :=
  let old := s.breakWord core i
  let lo : BitVec 64 := if upper then old.setWidth 64 else w &&& 0x01FFFFFFFFFFFFFF
  let hi : BitVec 64 := if upper then w &&& 0x800FFFFF00000000 else (old >>> 64).setWidth 64
  { s with breaks := ⟨core, i, hi ++ lo⟩ :: s.breaks.filter (fun b => !(b.core == core && b.idx == i)) }

/-- A register of BAR 0 takes a value: its res0 and read-only bits are left out; an offset outside every block is ignored (R372). -/
def State.setReg (s : State) (off : Nat) (w : BitVec 64) : State :=
  match off with
  | 0x10000 => { s with qtReg := regWord [(w.toNat / 4096 % 2 ^ 36, 12), (min 20 (w.toNat % 32), 0)] }
  | 0x10008 => { s with capReg := w &&& 0x0000FFFFFFFFF000 }
  | 0x20000 => { s with ptReg := regWord [(w.toNat / 4096 % 2 ^ 36, 12), (min 20 (w.toNat % 32), 0)] }
  | 0x20008 => { s with sdAddr := w &&& 0x01FFFFFFFFFFF000 }
  | 0x20010 => s.writeSdCtl w
  | 0x20018 => if w.getLsbD 32 then { s with sdDrop := false } else s
  | 0x30000 => { s with fabReg := w &&& 0x0000000FFFFF00CF }
  | 0x40008 => { s with fwcfg := w &&& 3 }
  | 0x40010 => { s with nkeys := BitVec.ofNat 64 (min 16 (w.toNat % 32)) }
  | 0x50000 => if s.dbgOpen then s.setDbgCtl w else s
  | 0x50008 => if s.dbgOpen then s.dbgCommand w else s
  | 0x50010 => if s.dbgOpen then { s with dbgData := w } else s
  | 0x70000 => { s with plimit := clampPower s.part w }
  | _ =>
    if 0x40100 ≤ off && off < 0x40500 && off % 8 = 0 then s.setKey ((off - 0x40100) / 64) (off % 64 / 8) w
    else if 0x51000 ≤ off && off < 0x51000 + 128 * Config.cores s.part && off % 8 = 0 && s.dbgOpen then
      s.setBreak ((off - 0x51000) / 128) ((off - 0x51000) / 16 % 8) (off % 16 = 8) w
    else s

/-- A write that reaches a register: a frozen one is not written, and the interface falls (R378). -/
def State.reachReg (s : State) (off : Nat) (w : BitVec 64) : State :=
  if frozenReg off && (s.tdi == .locked || s.tdi == .run) then s.enterError else s.setReg off w

/-- The bytes of a BAR (R371). -/
def barBytes (p : Part) (bar : Nat) : Nat :=
  match bar with
  | 0 => 0x1000000
  | 2 => 0x10000000
  | _ => Config.bar4Size p

/-- A BAR's 64-bit register holds the base, a multiple of its size, above its read-only bits: a 64-bit memory BAR, prefetchable in BAR
4 (R371; the places of those bits are those of PCI Express, log 134, PRESUMED, unsafe). -/
def baseWord (p : Part) (bar : Nat) (w : BitVec 64) : BitVec 64 :=
  BitVec.ofNat 64 (w.toNat / barBytes p bar * barBytes p bar + if bar = 4 then 12 else 4)

/-- The BAR register at an offset of configuration space, before it is written: base 0. -/
def State.barReg (s : State) (k : Nat) : BitVec 64 :=
  ((s.bars.find? (·.1 == k)).map (·.2)).getD (baseWord s.part ((k - 0x10) / 4) 0)

/-- The BAR registers of configuration space (R371, R378). -/
def State.setBar (s : State) (off : Nat) (w : BitVec 64) : State :=
  if 0x10 ≤ off && off < 0x28 && off % 4 = 0 then
    if s.tdi == .unlocked then
      let k := off / 8 * 8
      let old := s.barReg k
      let new := if off % 8 = 0 then (old >>> 32 <<< 32) ||| (w &&& 0xFFFFFFFF) else (old &&& 0xFFFFFFFF) ||| (w <<< 32)
      { s with bars := (k, baseWord s.part ((k - 0x10) / 4) new) :: s.bars.filter (·.1 != k) }
    else s.fallIfLocked
  else s

/-- REGISTER_WRITE (R372, R375, R378): configuration space is always served; of BAR 0, the identification block is while the interface
is locked (log 133, DEDUCED, safe). -/
def execRegisterWrite (space : RegSpace) (off : Nat) (w : BitVec 64) (t : Bool) (s : State) : Out :=
  match space with
  | .config => .next (s.setBar off w)
  | .bar0 =>
    match s.serve t (off < 32) with
    | .served => .next (s.reachReg off w)
    | .refused => .next (s.answer .unsupported)
    | .ones => .next s

end Sys2Proof.Machine
end

