-- ==== Sys2Proof/Machine/Lanes.lean ====
section
/-! DEFINITION. Cross-lane instructions (09 R210-R222): members, arrival and holding, and the nine instructions. -/

namespace Sys2Proof.Machine

/-- The lanes a member mask names for the issuing run (R211). -/
def memberMask (cx : Ctx) (msk : Option Opnd) : BitVec 64 := groupMask cx.group msk

/-- The registers a member mask reads. -/
def maskNames (msk : Option Opnd) : List Names :=
  match msk with
  | some (.s i) => [(.s i, 2)]
  | some o => [(o, 1)]
  | none => []

/-- The live threads that the run's instruction waits for and that have not arrived there (R213, R214). -/
def State.lanesMissing (s : State) (cx : Ctx) (mask : BitVec 64) : List Thread :=
  (s.liveAwaited cx.run.ref cx.run.pc mask).filter (fun t => !cx.run.lanes.getLsbD t.lane && !heldLanes cx.run.pc t)

/-- All threads held at the run's PC join the run (R213 item 4). -/
def State.mergeHeld (s : State) (cx : Ctx) : State :=
  let ls := lanesOf (((s.groupThreads cx.run.ref).filter (heldLanes cx.run.pc)).map (·.lane))
  (s.modThreads (fun t => t.ref == cx.run.ref && ls.getLsbD t.lane) (fun t => { t with cond := .issuable })).modRun
    (fun r => { r with lanes := r.lanes ||| ls })

/-- The threads of a run have come to a cross-lane instruction, and those held there join it (R213, R214). -/
def State.gather (s : State) (cx : Ctx) : State := (s.arriveAgain cx.run.ref cx.run.pc cx.run.lanes).mergeHeld cx

/-- A cross-lane instruction (R211-R215): it waits for every live named member, then is performed once for all threads at its
PC; each executing member's writes are a function of the executing members and itself (log 33, DEDUCED, safe). Where some of them trap, the
others stay held at it until those arrive again or exit (R214). -/
def lanesOp (c : Common) (writes reads : List Names) (msk : Option Opnd) (f : Ctx → List Thread → Thread → List Wr) (s : State) :
    Out :=
  let n : Need := { common := c, writes := writes, reads := reads ++ maskNames msk, recallFirst := true
                    noted := fun cx l s => s.noteOwing cx.run.ref cx.run.pc l }
  match s.ctx? with
  | none => .fault .noIssuingRun
  | some cx =>
    match privTrap n cx with
    | some tr => .next (s.trapRun cx tr)
    | none =>
      if cx.run.pip then
        .next (s.recallRun cx)
      else
        let before := s
        let s := s.arriveAgain cx.run.ref cx.run.pc cx.run.lanes
        match s.lanesMissing cx (memberMask cx msk) with
        | m :: ms =>
          .next ((s.holdSome cx c cx.run.lanes (.lanes msk)).recallNamed cx.run.ref (lanesOf ((m :: ms).map (·.lane))))
        | [] =>
          issue n noTrap
            (fun cx t => if (memberMask cx msk).getLsbD t.lane then none else some ⟨.groupopSelf, 0, 0⟩)
            (fun cx ex s => .done (s.writeAll cx.run.ref ex (f cx ex))) (before.gather cx)

/-- The value of an operand in a lane of the executing members. -/
def laneVal (cx : Ctx) (wd : Widen) (wide : Bool) (o : Opnd) (t : Thread) : BitVec 64 := readOp cx.group t 0 wd wide o

/-- The source lane of SHFL (R217), for a lane, an index and a width. -/
def shflSource (mode : ShflMode) (lane b w : Nat) : Option Nat :=
  match mode with
  | .idx => some (b % w)
  | .up => if b ≤ lane then some (lane - b) else none
  | .down => if lane + b < w then some (lane + b) else none
  | .xor => some (lane ^^^ (b % w))

/-- SHFL (R217). -/
def execShfl (c : Common) (mode : ShflMode) (wide : Bool) (d a b : Opnd) (msk : Option Opnd) (s : State) : Out :=
  lanesOp c [nm d wide] [nm a wide, nm b false] msk
    (fun cx ex t =>
      let src := shflSource mode t.lane (loWord (laneVal cx .sint false b t)).toNat cx.launch.lr.width
      let from_ := (ex.find? (fun u => some u.lane == src)).getD t
      [⟨d, wide, laneVal cx .sint wide a from_⟩]) s

/-- A predicate operand in a lane. -/
def lanePred (cx : Ctx) (a : Opnd) (t : Thread) : Bool := (laneVal cx .uint false a t).getLsbD 0

/-- VOTE (R218). -/
def execVote (c : Common) (mode : VoteMode) (d a : Opnd) (msk : Option Opnd) (s : State) : Out :=
  lanesOp c [nm d false] [nm a false] msk
    (fun cx ex _ =>
      let r := match mode with
        | .all => ex.all (lanePred cx a)
        | .any => ex.any (lanePred cx a)
        | .uni => ex.all (lanePred cx a) || !ex.any (lanePred cx a)
      [⟨d, false, bit64 r⟩]) s

/-- BALLOT (R218). -/
def execBallot (c : Common) (d a : Opnd) (msk : Option Opnd) (s : State) : Out :=
  lanesOp c [nm d true] [nm a false] msk
    (fun cx ex _ => [⟨d, true, lanesOf ((ex.filter (lanePred cx a)).map (·.lane))⟩]) s

/-- MATCH (R218). -/
def execMatchOp (c : Common) (wide all : Bool) (d a : Opnd) (msk : Option Opnd) (s : State) : Out :=
  lanesOp c [nm d true] [nm a wide] msk
    (fun cx ex t =>
      let same (u : Thread) : Bool := laneVal cx .sint wide a u == laneVal cx .sint wide a t
      let r := if all then (if ex.all same then lanesOf (ex.map (·.lane)) else 0)
        else lanesOf ((ex.filter same).map (·.lane))
      [⟨d, true, r⟩]) s

/-- ELECT (R218): the run's threads stand in lane order. -/
def execElect (c : Common) (d : Opnd) (msk : Option Opnd) (s : State) : Out :=
  lanesOp c [nm d false] [] msk
    (fun _ ex t => [⟨d, false, bit64 (ex.all (fun u => t.lane ≤ u.lane))⟩]) s

/-! Reductions and scans (R219, R220). -/

/-- The format of a floating-point type. -/
def floatFmt : Ty → Fmt
  | .f32 => fp32
  | .f16 => fp16
  | _ => bf16

/-- The two-input operations of R219 in a type, on patterns. -/
def redTwo (ty : Ty) (op : RedOp) (a b : Nat) : Nat :=
  if ty.isFloat then
    let f := floatFmt ty
    match op with
    | .min => minMax f false false a b
    | .max => minMax f true false a b
    | _ => roundRne (exactSum [f.value a, f.value b]) f
  else
    let v (x : Nat) : Int := intVal ty (BitVec.ofNat 64 x)
    match op with
    | .add => (a + b) % 2 ^ 32
    | .min => if v b < v a then b else a
    | .max => if v b > v a then b else a
    | .and => a &&& b
    | .or => a ||| b
    | .xor => a ^^^ b

/-- The identities of R219. -/
def redIdent (ty : Ty) (op : RedOp) : Nat :=
  if ty.isFloat then
    match op with
    | .add => (floatFmt ty).signBit true
    | _ => (floatFmt ty).canonNan
  else
    match op with
    | .min => if ty == .i32 then 0x7FFFFFFF else 0xFFFFFFFF
    | .max => if ty == .i32 then 0x80000000 else 0
    | .and => 0xFFFFFFFF
    | _ => 0

/-- A value of a 32-bit operand under a type: a 16-bit float stands in its low half (R216). -/
def typed (ty : Ty) (x : BitVec 64) : Nat := x.toNat % 2 ^ (8 * ty.size)

/-- The operand of every lane of the group, absent lanes holding the identity (R219). -/
def laneList64 (cx : Ctx) (ty : Ty) (ident : Nat) (a : Opnd) (ex : List Thread) : List Nat :=
  (List.range cx.launch.lr.width).map (fun i =>
    match ex.find? (·.lane == i) with
    | some t => typed ty (laneVal cx (tyWiden ty) false a t)
    | none => ident)

/-- GRED (R219). -/
def execGred (c : Common) (ty : Ty) (op : RedOp) (d a : Opnd) (msk : Option Opnd) (s : State) : Out :=
  lanesOp c [nm d false] [nm a false] msk
    (fun cx ex _ =>
      let e := redIdent ty op
      [⟨d, false, BitVec.ofNat 64
        (laneTree (redTwo ty op) e cx.launch.lr.width.log2 (laneList64 cx ty e a ex))⟩]) s

/-- The canonical NaN for a value that is one (R155). -/
def canonOf (ty : Ty) (v : Nat) : Nat := if ty.isFloat && (floatFmt ty).isNan v then (floatFmt ty).canonNan else v

/-- GSCAN (R220). A prefix of one lane is that lane's A with no operation applied; a NaN there becomes the canonical one (log 30, DEDUCED,
unsafe). -/
def execGscan (c : Common) (ty : Ty) (op : RedOp) (excl : Bool) (d a : Opnd) (msk : Option Opnd) (s : State) : Out :=
  lanesOp c [nm d false] [nm a false] msk
    (fun cx ex t =>
      let e := redIdent ty op
      let n := if excl then t.lane else t.lane + 1
      [⟨d, false, BitVec.ofNat 64 (canonOf ty
        ((lanePrefix (redTwo ty op) e (laneList64 cx ty e a ex) n (cx.launch.lr.width.log2 + 1) 0 none).getD e))⟩]) s

/-! The winner with its index (R221). -/

/-- A member of GARG: its value and its index. -/
structure Entrant where
  val : Nat
  idx : BitVec 32
  deriving DecidableEq, Repr

def Entrant.isNan (ty : Ty) (e : Entrant) : Bool := ty.isFloat && (floatFmt ty).isNan e.val

/-- The place of a value in the ordering of its type (R221). -/
def Entrant.rank (ty : Ty) (e : Entrant) : Int :=
  if ty.isFloat then (floatFmt ty).key e.val else intVal ty (BitVec.ofNat 64 e.val)

/-- beats(i, j) (R221). -/
def beats (ty : Ty) (isMin hash : Bool) (seed : BitVec 32) (i j : Entrant) : Bool :=
  if i.isNan ty != j.isNan ty then i.isNan ty
  else if !i.isNan ty && i.rank ty != j.rank ty then (if isMin then i.rank ty < j.rank ty else i.rank ty > j.rank ty)
  else
    let hi := tieHash seed i.idx 0
    let hj := tieHash seed j.idx 0
    if hash && hi != hj then hi < hj else i.idx < j.idx

/-- The member that no other beats. -/
def winner (ty : Ty) (isMin hash : Bool) (seed : BitVec 32) : List Entrant → Option Entrant
  | [] => none
  | e :: es => match winner ty isMin hash seed es with
    | some w => if beats ty isMin hash seed w e then some w else some e
    | none => some e

/-- GARG (R221). -/
def execGarg (c : Common) (ty : Ty) (nanwin hash isMin : Bool) (d a : Opnd) (b msk : Option Opnd) (s : State) : Out :=
  lanesOp c [nm d true] (nm a false :: nmOpt b false) msk
    (fun cx ex _ =>
      let all : List Entrant := ex.map (fun t =>
        ⟨typed ty (laneVal cx (tyWiden ty) false a t), match b with
          | some o => loWord (laneVal cx .sint false o t)
          | none => BitVec.ofNat 32 t.lane⟩)
      let nums := all.filter (fun e => !e.isNan ty)
      let field := if !nanwin && !nums.isEmpty then nums else all
      match winner ty isMin hash cx.launch.lr.seed field with
      | some w =>
        let v := if w.isNan ty then (floatFmt ty).canonNan else w.val
        [⟨d, true, joinWords (BitVec.ofNat 32 v) w.idx⟩]
      | none => []) s

/-! The butterfly exchange (R222). -/

/-- The exchanged value of a lane within W bits. -/
def butterfly (lane s : Nat) (a p m : BitVec 64) : BitVec 64 :=
  if lane &&& s = 0 then (a &&& ~~~m) ||| ((p >>> s) &&& m) else (a &&& ~~~(m <<< s)) ||| ((p &&& m) <<< s)

/-- BXCH (R222): a 32-bit exchange keeps its shifts and masks within 32 bits. -/
def execBxch (c : Common) (wide : Bool) (d a b e : Opnd) (s : State) : Out :=
  lanesOp c [nm d wide] [nm a wide, nm b false, nm e wide] none
    (fun cx ex t =>
      let x := laneVal cx .sint wide a t
      let n := (loWord (laneVal cx .sint false b t)).toNat
      let w := if wide then 64 else 32
      let valid := n != 0 && n == 2 ^ n.log2 && n < cx.launch.lr.width && n < w
      let r := match ex.find? (fun u => u.lane == t.lane ^^^ n) with
        | some u => if valid then butterfly t.lane n x (laneVal cx .sint wide a u) (laneVal cx .sint wide e t) else x
        | none => x
      [⟨d, wide, if wide then r else (loWord r).setWidth 64⟩]) s

end Sys2Proof.Machine
end

