-- ==== Sys2Proof/Machine/Peer.lean ====
section
/-! DEFINITION. The progress of FPUT and FGET (11 R268-R271, R404): their descriptors, the chunks they move in flits of at most one
128-byte line, the signal, and their end. -/

namespace Sys2Proof.Machine

/-! Data in flits (R250, R59). -/

/-- The poison mask of a flit's data words: bit i for the i-th of them, payload word i + 2. -/
def maskOfWords : List Bool → Nat
  | [] => 0
  | b :: bs => (if b then 1 else 0) + 2 * maskOfWords bs

/-- A payload with its poison: whether psn is set, and the bytes, behind the mask where it is. -/
def dataPayload (bs : List Byte) (poison : List Bool) : Bool × List Byte :=
  if poison.any id then (true, leBytes (maskOfWords poison) 8 ++ bs) else (false, bs)

/-- The data of a flit's payload, and the poison of its words. -/
def payloadData (f : Flit) : List Byte × List Bool :=
  if flitPsn f then
    let m := leNat (f.payload.take 8)
    let bs := f.payload.drop 8
    (bs, (List.range ((bs.length + 3) / 4)).map m.testBit)
  else (f.payload, List.replicate ((f.payload.length + 3) / 4) false)

/-- Words of an engine's place from an address on: the bytes and the poison of each. -/
def State.readWords (s : State) (w : EngSite) (at_ : Place) : Nat → Nat → State × Eng (List Byte × List Bool)
  | _, 0 => (s, .ok ([], []))
  | a, n + 1 =>
    match s.engRead w at_ a with
    | (s, .fault k va) => (s, .fault k va)
    | (s, .bad) => (s, .bad)
    | (s, .ok (bs, p)) =>
      match s.readWords w at_ (a + 4) n with
      | (s, .ok (r, q)) => (s, .ok (bs ++ r, p :: q))
      | (s, .fault k va) => (s, .fault k va)
      | (s, .bad) => (s, .bad)

/-- Write words of an engine's place, each with its poison. -/
def State.writeWords (s : State) (w : EngSite) (at_ : Place) : Nat → List Byte → List Bool → State × Eng Unit
  | _, _, [] => (s, .ok ())
  | a, bs, p :: ps =>
    match s.engWrite w at_ a (bs.take 4) p with
    | (s, .ok _) =>
      let (s, r) := s.writeWords w at_ (a + 4) (bs.drop 4) ps
      (if p && at_ == .sp then s.markSp w a else s, r)
    | (s, .fault k va) => (s, .fault k va)
    | (s, .bad) => (s, .bad)

/-! Descriptors (R269). -/

structure FabDesc where
  laddr : Nat
  raddr : Nat
  len : Nat
  lsp : Bool
  sig : Bool
  flagsBad : Bool
  sigaddr : Nat
  deriving DecidableEq, Repr

def FabDesc.of (d : List (BitVec 32)) : FabDesc where
  laddr := pairWord d 0
  raddr := pairWord d 2
  len := word d 4
  lsp := word d 5 % 2 == 1
  sig := word d 5 / 2 % 2 == 1
  flagsBad := word d 5 ≥ 4
  sigaddr := pairWord d 6

def FabDesc.chunks (d : FabDesc) : Nat := (d.len + 4095) / 4096
def FabDesc.place (d : FabDesc) : Place := if d.lsp then .sp else .mem
/-- The device and the aperture offset of the remote range's first byte. -/
def FabDesc.window (d : FabDesc) : Nat := ((aperture (d.raddr % 2 ^ 57)).map (·.1)).getD 0
def FabDesc.offset (d : FabDesc) : Nat := d.raddr % 2 ^ 40

/-- A range of linear bytes from l on, cut at the remote end's lines (log 109, DEDUCED, safe). -/
def cutLines (off : Nat) : Nat → Nat → Nat → List (Nat × Nat)
  | 0, _, _ => []
  | fuel + 1, l, e =>
    if l ≥ e then []
    else
      let n := min (e - l) (128 - (off + l) % 128)
      (l, n) :: cutLines off fuel (l + n) e

/-- The pieces of chunk k: linear offset and length. -/
def FabDesc.pieces (d : FabDesc) (k : Nat) : List (Nat × Nat) :=
  cutLines d.offset 34 (4096 * k) (min d.len (4096 * (k + 1)))

/-- The scratchpad lines that an FGET's chunks write. -/
def FabDesc.lines (d : FabDesc) (ks : List Nat) : List Nat :=
  if d.lsp then
    (ks.flatMap (fun k => spLines (d.laddr + 4096 * k) (min d.len (4096 * (k + 1)) - 4096 * k))).eraseDups
  else []

/-- The chunk that a transaction of the command serves. -/
def FabDesc.chunkOf (d : FabDesc) (t : Txn) : Nat := (flitOffset t.flit - d.offset) / 4096

/-! Progress (R270). -/

/-- The chunks of a command with transactions outstanding. -/
def State.flying (s : State) (c : Cmd) (d : FabDesc) : List Nat :=
  ((s.txns.filter (fun t => c.txns.contains t.id)).map d.chunkOf).eraseDups

/-- Send the requests of a chunk: writes with their data, or reads. -/
def State.sendChunk (s : State) (w : EngSite) (c : Cmd) (d : FabDesc) (put : Bool) : List (Nat × Nat) → State × Eng Unit
  | [] => (s, .ok ())
  | (l, n) :: rest =>
    let got := if put then s.readWords w d.place (d.laddr + l) (n / 4) else (s, .ok ([], []))
    match got with
    | (s, .fault k va) => (s, .fault k va)
    | (s, .bad) => (s, .bad)
    | (s, .ok (bs, ps)) =>
      let (psn, payload) := dataPayload bs ps
      let (t, s) := s.sendFlit d.window (if put then 2 else 1) (d.offset + l)
        (if put then payload.length / 4 else n / 4) psn payload none (some c.id) 0
      (s.modCmd c.id (fun c => { c with txns := c.txns ++ [t] })).sendChunk w c d put rest

/-- Drop the outstanding transactions of a chunk: it will be moved afresh. -/
def State.dropChunk (s : State) (c : Cmd) (d : FabDesc) (k : Nat) : State :=
  let gone := (s.txns.filter (fun t => c.txns.contains t.id && d.chunkOf t == k)).map (·.id)
  { (s.modCmd c.id (fun c => { c with txns := c.txns.filter (fun t => !gone.contains t) })) with
    txns := s.txns.filter (fun t => !gone.contains t.id) }

/-- The engines of a command's block are stopped: the block is not placed, or the Proofer has come to its engines (R348 step 6), or its
launch has still to start (R365): no new chunk starts (R142, R271). -/
def State.quiesced (s : State) (c : Cmd) : Bool :=
  match s.launch? c.ref.launch, s.block? c.ref.launch c.ref.blk with
  | some l, some b => !l.started || b.life != .placed || l.proofer.any (fun p => p.step ≥ 6 && p.blocks.contains c.ref.blk)
  | _, _ => true

/-- Start the next chunks, up to 16 in flight (R270). -/
def State.startChunks (s : State) (id : Nat) (put : Bool) : Nat → State
  | 0 => s
  | fuel + 1 =>
    match s.cmd? id with
    | none => s
    | some c =>
      match s.cmdSite c with
      | none => s
      | some w =>
        let d := FabDesc.of c.desc
        let fl := s.flying c d
        match (List.range d.chunks).find? (fun k => k ≥ c.resume && !c.chunks.contains k && !c.faulted.contains k
            && !fl.contains k) with
        | none => s
        | some k =>
          if fl.length ≥ 16 then s
          else
            match s.sendChunk w c d put (d.pieces k) with
            | (s, .ok _) => s.startChunks id put fuel
            | (s', .fault f va) =>
              match s'.cmd? id with
              | some c' => ((s'.dropChunk c' d k).chunkFault c w.pasid k f va).startChunks id put fuel
              | none => s
            | (s', .bad) => s'.modCmd id (fun c => { c with failed := true })

/-- An FPUT or FGET goes on: chunks start; once all have completed the signal is sent or the handle completes; one cancelled or
failed completes when nothing of it is in flight (R270, R404). -/
def State.pumpFab (s : State) (id : Nat) : State :=
  match s.cmd? id with
  | none => s
  | some c =>
    let go (put : Bool) : State :=
      let d := FabDesc.of c.desc
      let s := if c.signalled || c.cancel || c.failed || c.early || s.quiesced c then s else s.startChunks id put 16
      match s.cmd? id with
      | none => s
      | some c =>
        if !c.txns.isEmpty || (c.early && !c.cancel && !c.failed) then s
        else if c.signalled then s.finishCmd id stDone
        else if c.failed then s.finishCmd id stFault
        else if c.cancel then s.finishCmd id stCancelled
        else if (List.range d.chunks).all (fun k => c.chunks.contains k || k < c.resume) then
          if d.sig then
            let (t, s) := s.sendFlit d.window 3 (d.sigaddr % 2 ^ 40) 6 false
              (reqPayload ⟨0, BitVec.ofNat 57 d.sigaddr, .atom .add .b64, 1, 0⟩) none (some id) 0
            s.modCmd id (fun c => { c with txns := [t], signalled := true })
          else s.finishCmd id stDone
        else s
    match c.kind with
    | .put => go true
    | .get => go false
    | _ => s

/-- A transfer that is issued again is checked under R264 first (R271): refused it completes with ERROR, in a transition to its block's
generation it waits for the end. -/
def State.checkFab (s : State) (b : Block) (id : Nat) : State :=
  match s.topo b with
  | .go => (s.modCmd id (fun c => { c with early := false })).pumpFab id
  | .stale => s.finishCmd id stError
  | .wait => s.modCmd id (fun c => { c with early := true })

/-- The transfers that waited for the end of a transition are checked again. -/
def State.checkWaiting (s : State) : State :=
  (s.cmds.filter (fun c => c.early && (c.kind == .put || c.kind == .get))).foldl (fun (s : State) c =>
    match s.block? c.ref.launch c.ref.blk with
    | some b => s.checkFab b c.id
    | none => s) s

/-- A transaction of an FPUT or FGET is done: its chunk may be complete; the command goes on. -/
def State.fabDone (s : State) (id txn : Nat) (chunk : Nat) : State :=
  let s := s.modCmd id (fun c => { c with txns := c.txns.filter (· != txn) })
  match s.cmd? id with
  | none => s
  | some c =>
    let d := FabDesc.of c.desc
    let s := if c.signalled || (s.flying c d).contains chunk || c.faulted.contains chunk then s
      else
        let s := s.modCmd id (fun c => { c with chunks := chunk :: c.chunks })
        if c.kind == .get then
          s.landLines c (d.lines ((List.range d.chunks).filter (fun k => !(c.chunks.contains k || k = chunk))))
        else s
    s.pumpFab id

end Sys2Proof.Machine
end

