-- ==== Sys2Proof/Machine/Coll.lean ====
section
/-! DEFINITION. Collectives (11 R274-R277): what the members exchange, the fold in rank order, the end of a COLL. The payload of a
collective flit is laid out here: the head of Machine/Meet.lean, kind 0 data, 1 a wide barrier, 2 fn and n (log 99, DESIGN CHOICE,
unsafe). -/

namespace Sys2Proof.Machine

/-- The team launch that a peer's message concerns (R275). -/
def State.teamLaunch (s : State) (tag : Nat) : Option Launch :=
  s.launches.find? (fun l => l.lr.team.isSome && !l.done && l.teamTag == tag)

def State.coll? (s : State) (launch seq : Nat) : Option CollState := s.colls.find? (fun c => c.launch == launch && c.seq == seq)
def State.modColl (s : State) (launch seq : Nat) (f : CollState → CollState) : State :=
  { s with colls := modify (fun c => c.launch == launch && c.seq == seq) f s.colls }

/-- The record of a collective, made when its first message comes or its COLL is issued. -/
def State.openColl (s : State) (launch seq : Nat) : State :=
  if (s.coll? launch seq).isSome then s
  else { s with colls := s.colls ++ [⟨launch, seq, none, [], [], [], [], [], [], false⟩] }

/-- The function byte of a COLL (R274). -/
def collFn (ty : Ty) (op : RedOp) (kind : CollKind) : BitVec 8 :=
  BitVec.ofNat 8 (ty.code.toNat % 16 * 16 + op.code.toNat % 4 * 4 + kind.code.toNat)

/-- The kinds that fold (R274). -/
def collReduces : CollKind → Bool
  | .allreduce => true
  | .redscat => true
  | _ => false
/-- The source of these kinds holds a block for each rank. -/
def collScatters : CollKind → Bool
  | .redscat => true
  | .alltoall => true
  | _ => false
/-- The destination of these kinds holds a block for each rank. -/
def collGathers : CollKind → Bool
  | .allgather => true
  | .alltoall => true
  | _ => false

/-- A COLL's descriptor. -/
structure CollDesc where
  src : Nat
  dst : Nat
  n : Nat
  res0 : Bool
  deriving DecidableEq, Repr

def CollDesc.of (d : List (BitVec 32)) : CollDesc := ⟨pairWord d 0, pairWord d 2, word d 4, word d 5 == 0⟩

/-- The bytes of one block of a collective. -/
def CollDesc.block (d : CollDesc) (ty : Ty) : Nat := d.n * ty.size
def CollDesc.srcBytes (d : CollDesc) (ty : Ty) (kind : CollKind) (t : Nat) : Nat :=
  d.block ty * (if collScatters kind then t else 1)
def CollDesc.dstBytes (d : CollDesc) (ty : Ty) (kind : CollKind) (t : Nat) : Nat :=
  d.block ty * (if collGathers kind then t else 1)

/-- Send a message of a collective to a device. -/
def State.sendColl (s : State) (d off : Nat) (psn : Bool) (payload : List Byte) (cmd : Option Nat) : State :=
  let (t, s) := s.sendFlit d 6 off ((payload.length + 3) / 4) psn payload none cmd 0
  match cmd with
  | some c => s.modCmd c (fun c => { c with txns := c.txns ++ [t] })
  | none => s

/-- The device of a rank. -/
def Team.dev (t : Team) (k : Nat) : Nat := t.ranks.getD k 0

/-- Tell a device fn and n of a collective (R275). -/
def State.sendHead (s : State) (l : Launch) (t : Team) (d seq : Nat) (fn : BitVec 8) (n : Nat) (cmd : Nat) : State :=
  s.sendColl d 0 false (collHead 2 (s.rank t) seq l.teamTag ++ leBytes fn.toNat 4 ++ leBytes n 4) (some cmd)

/-- This device joins a collective: its own fn and n stand in the record and go to every other member (R275). -/
def State.joinColl (s : State) (l : Launch) (t : Team) (seq : Nat) (fn : BitVec 8) (n : Nat) (cmd : Nat) : State :=
  let me := s.rank t
  let s := (s.openColl l.id seq).modColl l.id seq (fun x =>
    { x with cmd := some cmd, heads := (me, fn, BitVec.ofNat 32 n) :: x.heads.filter (·.1 != me) })
  (t.ranks.filter (· != s.devid)).foldl (fun (s : State) d => s.sendHead l t d seq fn n cmd) s

/-- Send a block of data to a rank's device in pieces of 128 bytes, with the poison of its words. -/
def State.sendBlock (s : State) (d rank seq tag : Nat) (cmd : Nat) : Nat → List Byte → List Bool → Nat → State
  | _, _, _, 0 => s
  | off, bs, ps, fuel + 1 =>
    if bs.isEmpty then s
    else
      let p := ps.take 32
      let head := collHead 0 rank seq tag ++ bs.take 128
      let payload := if p.any id then leBytes (16 * maskOfWords p) 8 ++ head else head
      (s.sendColl d off (p.any id) payload (some cmd)).sendBlock d rank seq tag cmd (off + 128) (bs.drop 128) (ps.drop 32) fuel

/-- What a member's data comes to in a record: its bytes at their offsets, and their poison; a piece that has come before changes nothing
but itself. -/
def CollState.take (c : CollState) (rank off : Nat) (bs : List Byte) (ps : List Bool) : CollState :=
  let old := ((c.data.find? (·.1 == rank)).map (·.2)).getD []
  let bad := (List.range ps.length).filterMap (fun i => if ps.getD i false then some (rank, off + 4 * i) else none)
  { c with
    data := (rank, Store.setBytes old off bs) :: c.data.filter (·.1 != rank)
    got := if c.got.contains (rank, off, bs.length) then c.got else (rank, off, bs.length) :: c.got
    poison := bad ++ c.poison }

/-- The bytes of a rank's block that have come. -/
def CollState.extent (c : CollState) (rank : Nat) : Nat := ((c.got.filter (·.1 == rank)).map (·.2.2)).sum

/-- Element e of a rank's block. -/
def CollState.elem (c : CollState) (ty : Ty) (rank e : Nat) : Nat :=
  Store.le (((c.data.find? (·.1 == rank)).map (·.2)).getD []) (e * ty.size) ty.size

/-- The fold of R276 over the ranks, in rank order. -/
def CollState.fold (c : CollState) (ty : Ty) (op : RedOp) (t e : Nat) : Nat :=
  (List.range (t - 1)).foldl (fun acc k => redTwo ty op acc (c.elem ty (k + 1) e)) (c.elem ty 0 e)

/-- The bytes that a collective writes to its destination, and the poison of its words (R276). -/
def CollState.result (c : CollState) (d : CollDesc) (ty : Ty) (op : RedOp) (kind : CollKind) (t : Nat) :
    List Byte × List Bool :=
  if collReduces kind then
    ((List.range d.n).flatMap (fun e => leBytes (c.fold ty op t e) ty.size),
      List.replicate ((d.block ty + 3) / 4) false)
  else
    ((List.range t).flatMap (fun k => (List.range d.n).flatMap (fun e => leBytes (c.elem ty k e) ty.size)),
      (List.range ((d.block ty * t + 3) / 4)).map (fun i =>
        c.poison.any (fun p => p.1 * d.block ty + p.2 < 4 * i + 4 && 4 * i < p.1 * d.block ty + p.2 + 4)))

/-- Read bytes of global memory one by one, in the order of their addresses, with the poison of the word of each. -/
def State.readLine (s : State) (w : EngSite) : Nat → Nat → State × Eng (List (Byte × Bool))
  | _, 0 => (s, .ok [])
  | a, n + 1 =>
    match s.engLoad w (a % 2 ^ 57) 1 with
    | (s, .fault k va) => (s, .fault k va)
    | (s, .bad) => (s, .bad)
    | (s, .ok (bs, p)) =>
      match s.readLine w (a + 1) n with
      | (s, .ok r) => (s, .ok ((bs.headD 0, p) :: r))
      | (s, .fault k va) => (s, .fault k va)
      | (s, .bad) => (s, .bad)

/-- Write bytes of global memory word by word (R60), at most as many words as the first number. -/
def State.writeLine (s : State) (w : EngSite) : Nat → Nat → List (Byte × Bool) → State × Eng Unit
  | 0, _, _ => (s, .ok ())
  | n + 1, a, l =>
    if l.isEmpty then (s, .ok ())
    else
      let k := 4 - a % 4
      match s.engStore w (a % 2 ^ 57) ((l.take k).map (·.1)) ((l.take k).any (·.2)) with
      | (s, .ok _) => s.writeLine w n (a + k) (l.drop k)
      | (s, .fault k va) => (s, .fault k va)
      | (s, .bad) => (s, .bad)

/-- The poison of words of a list of bytes. -/
def wordPoison : Nat → List (Byte × Bool) → List Bool
  | 0, _ => []
  | n + 1, l => if l.isEmpty then [] else (l.take 4).any (·.2) :: wordPoison n (l.drop 4)

/-- A collective is over on this device with a status. -/
def State.endColl (s : State) (launch seq cmd : Nat) (st : BitVec 3) : State :=
  { s with colls := s.colls.filter (fun c => !(c.launch == launch && c.seq == seq)) }.finishCmd cmd st

/-- A collective is abandoned (R276): every word it would have written holds an unspecified value; its handle completes FAULT. -/
def State.abandonColl (s : State) (launch seq cmd : Nat) (ty : Ty) (kind : CollKind) (desc : List (BitVec 32)) : State :=
  match s.cmd? cmd, s.launch? launch with
  | some c, some l =>
    match l.lr.team, s.cmdSite c with
    | some t, some w =>
      let d := CollDesc.of desc
      let (s, bs) := s.freeBytes (d.dstBytes ty kind t.ranks.length)
      (s.writeLine w (bs.length + 1) d.dst (bs.map (fun b => (b, false)))).1.endColl launch seq cmd stFault
    | _, _ => s
  | _, _ => s

/-- This device's source is read and goes to the members that have not had it, once the heads agree (R275): a page fault holds this part;
poison in a reducing kind stops the context (R276). -/
def State.shareSource (s : State) (l : Launch) (t : Team) (w : EngSite) (c : Cmd) (x : CollState) (d : CollDesc) (ty : Ty)
    (kind : CollKind) (seq : Nat) : State :=
  let b := d.block ty
  let me := s.rank t
  match s.readLine w d.src (d.srcBytes ty kind t.ranks.length) with
  | (s, .fault k va) => s.chunkFault c w.pasid 0 k va
  | (s, .bad) => s.modCmd c.id (fun c => { c with failed := true })
  | (s, .ok bytes) =>
    if collReduces kind && bytes.any (·.2) then
      s.stopContext l.id .fatalDevice .memUncorrectable (whereThread c.ref ((laneList c.lanes).headD 0)) 0
    else
      let part (k : Nat) : List (Byte × Bool) := if collScatters kind then (bytes.drop (k * b)).take b else bytes
      let due := (List.range t.ranks.length).filter (fun k => !x.shared.contains k)
      due.foldl (fun (s : State) k =>
        let p := part k
        let bs := p.map (·.1)
        let ps := wordPoison p.length p
        let s := s.modColl l.id seq (fun x => { x with shared := k :: x.shared })
        if k = me then s.modColl l.id seq (fun x => x.take me 0 bs ps)
        else s.sendBlock (t.dev k) me seq l.teamTag c.id 0 bs ps (bs.length + 1)) s

/-- A COLL goes on (R275, R276): the heads are compared, the source is shared, and once every rank's data is here the destination
is written and the handle completes. -/
def State.pumpColl (s : State) (launch seq : Nat) : State :=
  match s.coll? launch seq, s.launch? launch with
  | some x, some l =>
    match l.lr.team, x.cmd.bind s.cmd? with
    | some t, some c =>
      match c.kind, s.cmdSite c with
      | .coll ty op kind _, some w =>
        let d := CollDesc.of c.desc
        let n := t.ranks.length
        if x.failed then s.abandonColl launch seq c.id ty kind c.desc
        else if !c.faulted.isEmpty || s.quiesced c || !(List.range n).all (fun k => x.heads.any (·.1 == k)) then s
        else if !x.heads.all (fun h => h.2.1 == collFn ty op kind && h.2.2.toNat == d.n) then s.endColl launch seq c.id stError
        else
          let s := if (List.range n).all x.shared.contains then s else s.shareSource l t w c x d ty kind seq
          match s.coll? launch seq, s.cmd? c.id with
          | some x, some c' =>
            if c'.failed then s.endColl launch seq c.id stFault
            else if !c'.faulted.isEmpty
                || !(List.range n).all (fun k => x.extent k ≥ d.block ty) then s
            else if collReduces kind && !x.poison.isEmpty then
              s.stopContext launch .fatalDevice .memUncorrectable (whereThread c.ref ((laneList c.lanes).headD 0)) 0
            else
              let (bs, ps) := x.result d ty op kind n
              let marked := (List.range bs.length).map (fun i => (bs.getD i 0, ps.getD (i / 4) false))
              match s.writeLine w (marked.length + 1) d.dst marked with
              | (s, .ok _) => s.endColl launch seq c.id stDone
              | (_, .fault k va) => s.chunkFault c' w.pasid 1 k va
              | (s, .bad) => s.endColl launch seq c.id stFault
          | _, _ => s
      | _, _ => s
    | _, _ => s
  | _, _ => s

end Sys2Proof.Machine
end

