-- ==== Sys2Proof/Machine/Crc.lean ====
section
/-! DEFINITION. CRC-32 as IEEE 802.3 defines it, in its reflected form (11 R254, R282; 14 R363). -/

namespace Sys2Proof.Machine

def crcBit (c : BitVec 32) : BitVec 32 := if c.getLsbD 0 then (c >>> 1) ^^^ 0xEDB88320 else c >>> 1

def crcBits : Nat → BitVec 32 → BitVec 32
  | 0, c => c
  | n + 1, c => crcBits n (crcBit c)

def crcStep (c : BitVec 32) (b : Byte) : BitVec 32 := crcBits 8 (c ^^^ b.setWidth 32)

/-- CRC-32 of a byte string. -/
def crc32 (bs : List Byte) : BitVec 32 := ~~~(bs.foldl crcStep (BitVec.allOnes 32))

end Sys2Proof.Machine
end

