-- ==== Sys2Proof/Machine/Topo.lean ====
section
/-! DEFINITION. Reconfiguration (11 R279-R282): the generations a device accepts (R260), the steps of a RECONF, its failures, the
frames of the circuit-control port. -/

namespace Sys2Proof.Machine

/-- The generations accepted on arriving flits (R260). -/
def State.accepted (s : State) : List (BitVec 32) :=
  match s.trans with
  | none => [s.tgen]
  | some t => if t.old = 0 then [t.new] else if t.gone then [t.old, t.new] else [t.old]

/-- The ports whose entries differ between the current plan and another (R280 step 4). -/
def State.changedPorts (s : State) (new : BitVec 1024) : List Nat :=
  let old := (s.curPlan.map (·.2)).getD 0
  (List.range (Config.ports s.part)).filter (fun i => planEntry old i != planEntry new i)

/-- Send a short flit to a device. -/
def State.sendShort (s : State) (dst type : Nat) (gen : BitVec 32) (body : BitVec 128) (off : Nat := 0) : State :=
  s.sendItem (.short ⟨mkHdr off gen 0 0 false false dst s.devid type, body⟩)

/-- The body of READY, GO and ABORT (R251). -/
def readyBody (kind : Nat) (new : BitVec 32) (slot : Nat) : BitVec 128 :=
  BitVec.ofNat 128 (kind + new.toNat * 2 ^ 32 + slot % 64 * 2 ^ 64)

/-- Everything issued under the old generation has completed or been acknowledged, and no old flit waits here for relay (R280
step 2). -/
def State.drained (s : State) : Bool :=
  s.txns.isEmpty
    && s.cmds.all (fun c => match c.kind with
      | .put => c.early
      | .get => c.early
      | .fatom _ _ _ _ _ => false
      | .coll _ _ _ _ => false
      | _ => true)
    && s.ports.all (fun p => !p.out.any OutItem.relayed)
    && !s.stranded.any (fun x => x.1.relayed && !s.lostPath x.2)

/-- The last READY of every member has come (R280 step 3). -/
def State.allReady (s : State) (t : Transition) (p : BitVec 1024) : Bool :=
  (List.range 16).all (fun d => !(planMembers p).getLsbD d || s.readies.contains (d, t.new, t.plan))

/-! The circuit-control port (R282). -/

/-- The connections of a plan: each port's circuit-switch port with that of the far end's entry. -/
def State.connections (s : State) (slot : Nat) (p : BitVec 1024) : List (BitVec 16 × BitVec 16) :=
  ((List.range (Config.ports s.part)).filter (planV p)).map (fun i => (BitVec.ofNat 16 (planCport p i), Config.peerCport slot i))
    ++ Config.otherConnections slot

/-- A connect frame. -/
def connectFrame (l : List (BitVec 16 × BitVec 16)) : List Byte :=
  let b := [0x4F#8, 0x01#8] ++ leBytes l.length 2 ++ l.flatMap (fun x => leBytes x.1.toNat 2 ++ leBytes x.2.toNat 2)
  b ++ leBytes (crc32 b).toNat 4

def State.sendCircuit (s : State) (slot : Nat) (p : BitVec 1024) : State :=
  { s with circuit := s.circuit ++ [connectFrame (s.connections slot p)] }

/-- A reply that tells the switch has moved: its magic, its command, status 0, a zero byte and a good CRC. -/
def replyGood (bs : List Byte) : Bool :=
  bs.length == 8 && bs.take 2 == [0x4F#8, 0x01#8] && fieldAt bs 2 2 == 0 && fieldAt bs 4 4 == (crc32 (bs.take 4)).toNat

/-! Ports that change. -/

/-- A port leaves service; it trains with a generation where the plan uses it. -/
def Port.retrain (p : Port) (train : Bool) (gen : BitVec 32) : Port :=
  { Port.fresh p.idx with st := if train then .training 0 0 else .down, trainGen := gen }

/-- The changed ports retrain under a plan and a generation. -/
def State.retrain (s : State) (ports : List Nat) (p : BitVec 1024) (gen : BitVec 32) : State :=
  ports.foldl (fun (s : State) i => s.modPort i (·.retrain (planV p i) gen)) s

/-- The changed ports are taken down. -/
def State.takeDown (s : State) (ports : List Nat) : State :=
  ports.foldl (fun (s : State) i => s.modPort i (·.retrain false 0)) s

/-- Every changed port that a plan uses is up. -/
def State.trained (s : State) (ports : List Nat) (p : BitVec 1024) : Bool := ports.all (fun i => !planV p i || s.portUp i)

/-- The changed ports have sent all that is queued on them. -/
def State.sentAll (s : State) (ports : List Nat) : Bool :=
  ports.all (fun i => ((s.port? i).map (fun p => p.out.isEmpty && p.replay.isEmpty)).getD true)

/-! The steps. -/

/-- Step 5 begins: its bound counts from GO, or from here where old is 0 and there was none (R280). -/
def Transition.light (t : Transition) (time : Nat) : Transition :=
  { t with step := 5, since := if t.old = 0 then time else t.since }

/-- The command of a transition ends, and the transition with it. -/
def State.endReconf (s : State) (t : Transition) (st : BitVec 3) : State :=
  let s := { s with
    trans := none
    readies := s.readies.filter (fun r => !(r.2.1 == t.new && r.2.2 == t.plan)) }
  (s.finishCmd t.cmd st).checkWaiting.unstrand

/-- A failure is logged with the command's thread (R281, R386) (log 117, DEDUCED, safe). -/
def State.logReconf (s : State) (t : Transition) : State :=
  match s.cmd? t.cmd with
  | some c =>
    s.log .reconfFail 0 ((s.launch? c.ref.launch).map (·.pasid) |>.getD 0)
      (whereThread c.ref ((laneList c.lanes).headD 0))
  | none => s.log .reconfFail 0 s.owner 0

/-- The RECONF fails before anything is switched (R281). -/
def State.failEarly (s : State) (t : Transition) : State := (s.logReconf t).endReconf t stError

/-- The RECONF fails once ports have changed (R281): the coordinator has the switch moved back, the changed ports retrain under
old. -/
def State.failLate (s : State) (t : Transition) : State :=
  let s := s.logReconf t
  let coord := match s.planAt t.plan with
    | some p => planCoord p == s.devid && !planIdent p
    | none => false
  match s.curPlan with
  | some (slot, old) =>
    let s := if coord then s.sendCircuit slot old else s
    { (s.retrain t.changed old t.old) with trans := some { t with step := 7, since := s.time } }
  | none => (s.takeDown t.changed).endReconf t stError

/-- Commit (R280 step 6). -/
def State.commit (s : State) (t : Transition) : State :=
  { s with tgen := t.new, plan := some t.plan }.endReconf t stDone

/-- A RECONF is performed (R279): refused, or it enters transition (R280 step 1). -/
def State.beginReconf (s : State) (c : Cmd) (slot : Nat) (new : BitVec 32) : State :=
  match s.planAt slot with
  | none => s.finishCmd c.id stError
  | some p =>
    if !(planMembers p).getLsbD s.devid || new = s.tgen || (!planIdent p && !s.cswitch) then s.finishCmd c.id stError
    else { s with trans := some ⟨s.tgen, new, slot, c.id, 2, false, [], s.time⟩ }

/-- One move of the reconfiguration under way, or the start of the next; none where it waits (R279, R280). -/
def State.reconfMove (s : State) : Option State :=
  match s.trans with
  | none =>
    (s.cmds.findSome? (fun c => match c.kind with
      | .reconf slot new => some (c, slot, new)
      | _ => none)).map (fun x => s.beginReconf x.1 x.2.1 x.2.2)
  | some t =>
    match s.planAt t.plan with
    | none => none
    | some p =>
      let coord := planCoord p == s.devid
      let at_ (n : Nat) : Transition := { t with step := n, since := s.time }
      match t.step with
      | 2 =>
        if !s.drained then none
        else if t.old = 0 then some { s with trans := some { at_ 4 with gone := true, changed := s.changedPorts p } }
        else
          let s := { s with trans := some (at_ 3) }
          some (if coord then { s with readies := (s.devid, t.new, t.plan) :: s.readies }
            else s.sendShort (planCoord p) 0x13 t.old (readyBody 0 t.new t.plan))
      | 3 =>
        if t.gone then
          if s.sentAll t.changed then some { s with trans := some { t with step := 4 } } else none
        else if coord && s.allReady t p then
          let s := (List.range 16).foldl (fun (s : State) d =>
            if (planMembers p).getLsbD d && d != s.devid then s.sendShort d 0x13 t.old (readyBody 1 t.new t.plan) else s) s
          some { s with trans := some { at_ 3 with gone := true, changed := s.changedPorts p } }
        else none
      | 4 =>
        if planIdent p then some (s.commit t)
        else if coord then
          some { ((s.takeDown t.changed).sendCircuit t.plan p) with trans := some { t with step := 6 } }
        else some { (s.retrain t.changed p t.new) with trans := some (t.light s.time) }
      | 5 => if s.trained t.changed p then some (s.commit t) else none
      | 7 =>
        match s.curPlan with
        | some (_, old) => if s.trained t.changed old then some (s.endReconf t stError) else none
        | none => some (s.endReconf t stError)
      | _ => none

/-- Move on until the reconfiguration waits. -/
def State.moveReconf : Nat → State → State
  | 0, s => s
  | n + 1, s =>
    match s.reconfMove with
    | some s' => s'.moveReconf n
    | none => s

/-- A RECONF takes at most eight moves, and each command is performed once. -/
def State.runReconf (s : State) : State := s.moveReconf (8 * (s.cmds.length + 1))

end Sys2Proof.Machine
end

