-- ==== Sys2Proof/Machine/Fabric.lean ====
section
/-! DEFINITION. The fabric instructions (11 R268-R279): FPUT, FGET, FATOM, COLL, TGSET, RECONF. -/

namespace Sys2Proof.Machine

/-- A range of n bytes touches a peer aperture. -/
def touchesAperture (a n : Nat) : Bool :=
  n != 0 && ((aperture (a % 2 ^ 57)).isSome || (aperture ((a + n - 1) % 2 ^ 57)).isSome)

/-- A range lies in one window that has a peer (R259, R269). -/
def State.inWindow (s : State) (a n : Nat) : Option Nat :=
  match aperture (a % 2 ^ 57), aperture ((a + n - 1) % 2 ^ 57) with
  | some (p, _), some (q, _) => if p = q && s.isPeer p then some p else none
  | _, _ => none

/-- Some page of a range lies in the host window. -/
def inHostWindow (s : State) (cluster : Nat) (pasid : BitVec 20) (a n : Nat) : Bool :=
  (List.range ((a % 4096 + n + 4095) / 4096)).any (fun i =>
    match (s.translate cluster pasid ((a / 4096 + i) * 4096 % 2 ^ 57) .read true).2 with
    | .ok pa _ _ => inHost pa
    | _ => false)

/-- The traps of FPUT and FGET behind the topology check (R269). -/
def fabDescTrap (s : State) (cx : Ctx) (d : FabDesc) : Option Trap :=
  if d.laddr % 4 != 0 || d.raddr % 4 != 0 || (d.sig && d.sigaddr % 8 != 0) then some misaligned
  else
    match s.inWindow d.raddr d.len with
    | none => some accessViolation
    | some p =>
      if d.len < 4 || d.len > 2 ^ 31 || d.len % 4 != 0 || d.flagsBad
          || (d.sig && (aperture (d.sigaddr % 2 ^ 57)).map (·.1) != some p)
          || (d.lsp && d.laddr + d.len > cx.launch.lr.scratchBytes)
          || (!d.lsp && touchesAperture d.laddr d.len) then some accessViolation
      else none

/-- A fabric command's issue: the check of R264 before every other, then the mould of engine commands. -/
def fabNeed (s : State) (c : Common) (d : Opnd) (reads : List Names) (cls : EngClass) : CmdNeed :=
  { common := c, d := d, reads := reads, roles := copyRoles, cls := cls, ends := true
    pre := fun cx _ => fabTrap s cx, hold := fun cx _ => fabHold s cx }

/-- The remote bytes of a transfer: what it moves, and its signal. -/
def fabRanges (d : FabDesc) : List (Nat × Nat) := (d.raddr, d.len) :: if d.sig then [(d.sigaddr, 8)] else []

/-- A thread of the issuing run has work outstanding at a word of some remote ranges: what comes next there waits (R262, R284). -/
def State.runBusyAt (s : State) (cx : Ctx) (l : List (Nat × Nat)) : Bool :=
  l.any (fun x => match aperture (x.1 % 2 ^ 57) with
    | some (p, o) => cx.threads.any (fun t => s.farBusy cx.run.ref t.lane p o x.2)
    | none => false)

/-- FPUT and FGET (R268-R270). -/
def fabCopy (c : Common) (kind : CmdKind) (d a : Opnd) (s : State) : Out :=
  engineOp (fabNeed s c d [(a, 8)] .fabric)
    (fun s cx => fabDescTrap s cx (FabDesc.of (descOf cx.group a 8)))
    (fun s cx => s.queueFull cx.group.core 2 || s.runBusyAt cx (fabRanges (FabDesc.of (descOf cx.group a 8))))
    (fun cx ex h s =>
      let desc := descOf cx.group a 8
      let f := FabDesc.of desc
      let lines := if kind == .get then f.lines (List.range f.chunks) else []
      let s := s.clearLines cx.run.ref.launch cx.run.ref.blk lines
      let (id, s) := s.addCmd cx ex kind desc h lines
      .done (s.pumpFab id)) s

/-- FPUT (R268). -/
def execFput (c : Common) (d a : Opnd) (s : State) : Out := fabCopy c .put d a s
/-- FGET (R268). -/
def execFget (c : Common) (d a : Opnd) (s : State) : Out := fabCopy c .get d a s

/-- The scratchpad offset of an FATOM's result; none for 0xFFFF_FFFF (R272). -/
def fatomRes (d : List (BitVec 32)) : Option Nat := if word d 4 = 0xFFFFFFFF then none else some (word d 4)

/-- FATOM (R272, R273). -/
def execFatom (c : Common) (ty : Ty) (op : AtomOp) (d a b : Opnd) (mc : MemCtl) (s : State) : Out :=
  let addr (cx : Ctx) : BitVec 64 := BitVec.ofNat 64 (pairWord (descOf cx.group a 2) 0) + mc.offset.signExtend 64
  engineOp (fabNeed s c d [nm a true, (b, 5)] .fabric)
    (fun s cx =>
      let x := (vaOf (addr cx)).toNat
      let r := fatomRes (descOf cx.group b 5)
      if x % ty.size != 0 || r.any (· % ty.size != 0) then some misaligned
      else if (s.inWindow x ty.size).isNone || r.any (· + ty.size > cx.launch.lr.scratchBytes) then some accessViolation
      else none)
    (fun s cx => s.queueFull cx.group.core 2 || s.runBusyAt cx [((vaOf (addr cx)).toNat, ty.size)])
    (fun cx ex h s =>
      let desc := descOf cx.group b 5
      let x := vaOf (addr cx)
      let lines := match fatomRes desc with
        | some r => [spLine r]
        | none => []
      let s := s.clearLines cx.run.ref.launch cx.run.ref.blk lines
      let (id, s) := s.addCmd cx ex (.fatom op ty mc.order mc.scope x) desc h lines
      let mask (n : Nat) : BitVec 64 := BitVec.ofNat 64 (if ty.wide then n else n % 2 ^ 32)
      let q : MemReq := ⟨0, x, .atom op ty, mask (pairWord desc 0), mask (pairWord desc 2)⟩
      match aperture x.toNat with
      | some (p, off) =>
        let (t, s) := s.sendFlit p 3 off 6 false (reqPayload q) none (some id) 0
        .done (s.modCmd id (fun c => { c with txns := [t] }))
      | none => .done s) s

/-- The traps of COLL behind the topology check (R274). -/
def collTrap (s : State) (cx : Ctx) (ty : Ty) (kind : CollKind) (d : CollDesc) : Option Trap :=
  if d.src % ty.size != 0 || d.dst % ty.size != 0 then some misaligned
  else
    match cx.launch.lr.team with
    | none => some accessViolation
    | some t =>
      let n := t.ranks.length
      let a := d.srcBytes ty kind n
      let b := d.dstBytes ty kind n
      let cl := clusterOf cx.group.core
      if d.n < 1 || d.n > 2 ^ 26 || !d.res0 || touchesAperture d.src a || touchesAperture d.dst b
          || inHostWindow s cl cx.launch.pasid d.src a || inHostWindow s cl cx.launch.pasid d.dst b
          || (d.src % 2 ^ 57 < d.dst % 2 ^ 57 + b && d.dst % 2 ^ 57 < d.src % 2 ^ 57 + a)
          || t.ranks.any (fun k => k != s.devid && !s.isPeer k) then some accessViolation
      else none

/-- COLL (R274-R276): the k-th of the launch joins the k-th of every other member. -/
def execColl (c : Common) (ty : Ty) (op : RedOp) (kind : CollKind) (d a : Opnd) (s : State) : Out :=
  engineOp (fabNeed s c d [(a, 6)] .coll)
    (fun s cx => collTrap s cx ty kind (CollDesc.of (descOf cx.group a 6)))
    (fun s cx => s.queueFull cx.group.core 3)
    (fun cx ex h s =>
      let desc := descOf cx.group a 6
      let id := cx.run.ref.launch
      let seq := ((s.launch? id).map (·.collseq)).getD 0
      let (cmd, s) := s.addCmd cx ex (.coll ty op kind seq) desc h []
      let s := s.modLaunch id (fun l => { l with collseq := l.collseq + 1 })
      match cx.launch.lr.team with
      | none => .done s
      | some t =>
        .done ((s.joinColl cx.launch t seq (collFn ty op kind) (word desc 4) cmd).pumpColl id seq)) s

/-- TGSET (R278): once for a run with a guard that holds. -/
def execTgset (c : Common) (a : Opnd) (k : BitVec 32) (s : State) : Out :=
  issue { common := c, reads := [nm a false], recallFirst := true } noTrap noTrap
    (fun cx ex s =>
      match ex with
      | t :: _ =>
        .done (s.modBlock cx.run.ref.launch cx.run.ref.blk
          (fun b => { b with etgen := loWord (readOp cx.group t k .sint false a) }))
      | [] => .done s) s

/-- RECONF (R279, R280): one at a time, in issue order. -/
def execReconf (c : Common) (d a b : Opnd) (k : BitVec 32) (s : State) : Out :=
  let val (cx : Ctx) (o : Opnd) : BitVec 32 := match cx.threads with
    | t :: _ => loWord (readOp cx.group t k .sint false o)
    | [] => 0
  engineOp { common := c, d := d, reads := [nm a false, nm b false], roles := [0], cls := .fabric, ends := true }
    (fun s cx =>
      if (val cx a).toNat > 63 || val cx b = 0 || !(s.ownv && cx.launch.pasid == s.owner) then some accessViolation else none)
    (fun s cx => s.queueFull cx.group.core 2)
    (fun cx ex h s => .done (s.addCmd cx ex (.reconf (val cx a).toNat (val cx b)) [] h []).2.runReconf) s

end Sys2Proof.Machine
end

