-- ==== Sys2Proof/Machine/Engines.lean ====
section
/-! DEFINITION. The engine instructions of chapter 06: ACOPY (R137-R144), DCMP (R145-R148), FWAIT, FTEST, FCANCEL (R133-R135),
WAITC (R136), and the events that carry copies and decompression jobs to their end. -/

namespace Sys2Proof.Machine

/-! ACOPY. -/

/-- A place holds a footprint (R139). -/
def placeOk (cx : Ctx) (c : CopyDesc) (at_ : Place) (r : Int × Int) (dst : Bool) : Bool :=
  match at_ with
  | .sp => within r cx.launch.lr.scratchBytes
  | .wb => within r 2097152
  | .mem => !c.inAperture dst

/-- The block of the issuing run holds its pair's reservation (R227). -/
def State.holdsPair (s : State) (cx : Ctx) : Bool :=
  match s.pair? cx.block.pair with
  | some p => p.holder == some (cx.block.launch, cx.block.idx)
  | none => false

/-- A virtual address translates into the host window, whether or not that may be used now. -/
def State.leadsToHost (s : State) (cluster : Nat) (pasid : BitVec 20) (va : Nat) : Bool :=
  match (State.translate { s with fwcfg := s.fwcfg ||| 2 } cluster pasid va .read true).2 with
  | .ok pa _ _ => inHost pa
  | _ => false

/-- A completion-barrier object may not lie in a peer aperture or the host window (R139). One in the empty range fails its command (R46). -/
def objectBad (s : State) (cx : Ctx) (obj : Nat) : Bool :=
  (aperture (obj % 2 ^ 57)).isSome || s.leadsToHost (clusterOf cx.group.core) cx.launch.pasid (obj % 2 ^ 57)

/-- The traps of ACOPY at issue (R139). -/
def acopyTrap (s : State) (cx : Ctx) (ex : List Thread) (c : CopyDesc) (dir : CopyDir) (obj : Option Nat) : Option Trap :=
  if c.src % 4 != 0 || c.dst % 4 != 0 || obj.any (· % 16 != 0) then some misaligned
  else if !c.shapeOk || !placeOk cx c (CopyDir.from_ dir) c.srcRange false || !placeOk cx c (CopyDir.to_ dir) c.dstRange true
      || obj.any (objectBad s cx)
      || (obj.isSome && ex.any (·.region.isSome) && cx.block.reserved ≥ 1024) then some accessViolation
  else if dir == .g2wb && !s.holdsPair cx then some ⟨.matrixNotReserved, 0, 0⟩ else none

/-- Read a barrier object's tag at its home slice (R144). -/
def State.readTag (s : State) (w : EngSite) (obj : Nat) : State × Eng (BitVec 64 × Bool) :=
  match s.engLoad w ((obj + 8) % 2 ^ 57) 8 with
  | (s, .ok (bs, p)) => (s, .ok (BitVec.ofNat 64 (leNat bs), p))
  | (s, .fault k va) => (s, .fault k va)
  | (s, .bad) => (s, .bad)

/-- A job card (R146). -/
structure Card where
  res0 : Bool
  outsp : Bool
  insp : Bool
  capacity : Nat
  out : Nat
  inlen : Nat
  inp : Nat
  deriving DecidableEq, Repr

def Card.ofBytes (bs : List Byte) : Card :=
  let x := leNat bs
  { res0 := bits x 511 288 != 0 || bits x 223 194 != 0, outsp := bits x 193 193 == 1, insp := bits x 192 192 == 1
    capacity := bits x 191 160, out := bits x 159 96, inlen := bits x 95 64, inp := bits x 63 0 }

/-- A range is outside the scratchpad, or touches a peer aperture. -/
def rangeBad (l : LaunchRec) (sp : Bool) (a n : Nat) : Bool :=
  if sp then a + n > l.scratchBytes
  else n != 0 && ((aperture (a % 2 ^ 57)).isSome || (aperture ((a + n - 1) % 2 ^ 57)).isSome)

def Card.malformed (l : LaunchRec) (c : Card) : Bool :=
  c.res0 || rangeBad l c.insp c.inp c.inlen || rangeBad l c.outsp c.out c.capacity

/-- The address of a card in its space. -/
def cardPlace (sp : Bool) : Place := if sp then .sp else .mem

/-- Write a field of a card. -/
def State.cardWrite (s : State) (w : EngSite) (sp : Bool) (card off x : Nat) : State × Eng Unit :=
  s.engWrite w (cardPlace sp) (card + off) (leBytes x 4) false

/-- The 64 bytes of a card. -/
def State.cardRead (s : State) (w : EngSite) (sp : Bool) (card : Nat) : State × Eng (List Byte × Bool) :=
  if sp then
    match s.readSp w.launch w.blk w.pasid card 64 with
    | (s, some r) => (s, .ok r)
    | (s, none) => (s, .bad)
  else s.engLoad w (card % 2 ^ 57) 64

/-- Read a card and mark it RUNNING, but for a poisoned one (R146). -/
def State.openCard (s : State) (w : EngSite) (sp : Bool) (card : Nat) : State × Eng (List Byte × Bool) :=
  match s.cardRead w sp card with
  | (s, .ok (bs, false)) =>
    match s.cardWrite w sp card 32 0 with
    | (s, .ok _) => (s, .ok (bs, false))
    | (s, .fault k va) => (s, .fault k va)
    | (s, .bad) => (s, .bad)
  | x => x

/-- The lines of the scratchpad that a card's output range covers (R146). -/
def Card.outLines (l : LaunchRec) (c : Card) : List Nat :=
  if c.outsp then spLines c.out (min c.capacity (l.scratchBytes - c.out)) else []

/-- The presence of a job's output lines is cleared; those of an earlier reading of its card are its own no longer (R146, R141). -/
def State.jobLines (s : State) (c : Cmd) (ls : List Nat) : State :=
  let s := s.clearLines c.ref.launch c.ref.blk (ls.filter (fun l => !c.lines.contains l))
  let s := s.modCmd c.id (fun c => { c with lines := ls })
  let gone := c.lines.filter (fun l => !ls.contains l)
  if gone.isEmpty then s else s.releaseLines c.ref.launch c.ref.blk gone

/-- An engine that computes from a poisoned word stops its context (R60). -/
def State.stopEngine (s : State) (c : Cmd) : State :=
  s.stopContext c.ref.launch .fatalDevice .memUncorrectable (whereThread c.ref 0) 0

/-- What the engine does when a command is issued: it reads the tag of a copy's completion-barrier object (R144), or a job's card, which
it marks RUNNING (R146). A page fault holds the command (R80), a place outside memory fails it (R46), a poisoned word stops the context
(R60; for the tag see log 53, DESIGN CHOICE, unsafe) (log 66, DEDUCED, safe). -/
def State.beginCmd (s : State) (id : Nat) : State :=
  match s.cmd? id with
  | none => s
  | some c =>
    match s.cmdSite c, s.launch? c.ref.launch with
    | some w, some l =>
      if !c.early || c.failed || !c.faulted.isEmpty then s
      else
        match c.kind with
        | .copy dims dir (some (obj, _)) =>
          match s.readTag w obj.toNat with
          | (s, .fault k va) => s.chunkFault c w.pasid 0 k va
          | (s, .bad) => s.modCmd id (fun c => { c with failed := true })
          | (s, .ok (tag, poison)) =>
            if poison then s.stopEngine c
            else s.modCmd id (fun c => { c with kind := .copy dims dir (some (obj, tag)), early := false })
        | .dcmp sp card =>
          match s.openCard w sp card.toNat with
          | (s, .fault k va) => s.chunkFault c w.pasid 0 k va
          | (s, .bad) => s.modCmd id (fun c => { c with failed := true })
          | (s, .ok (bs, poison)) =>
            if poison then s.stopEngine c
            else
              (s.modCmd id (fun c =>
                { c with desc := (List.range 16).map (fun i => BitVec.ofNat 32 (fieldAt bs (4 * i) 4)), early := false })).jobLines c
                ((Card.ofBytes bs).outLines l.lr)
        | _ => s
    | _, _ => s

/-- Enter a copy: its destination's lines lose their presence; inside a region its arrival reserves an entry (R141, R144). -/
def State.enterCopy (s : State) (cx : Ctx) (ex : List Thread) (dims : BitVec 2) (dir : CopyDir) (obj : Option Nat)
    (desc : List (BitVec 32)) (h : BitVec 64) : State :=
  let c := CopyDesc.of dims desc
  let lines := if CopyDir.to_ dir == .sp then c.linesOf (List.range c.chunks) else []
  let s := s.clearLines cx.run.ref.launch cx.run.ref.blk lines
  let s := if obj.isSome && ex.any (·.region.isSome) then
      s.modBlock cx.run.ref.launch cx.run.ref.blk (fun b => { b with reserved := b.reserved + 1 })
    else s
  let (id, s) := s.addCmd cx ex (.copy dims dir (obj.map (fun o => (BitVec.ofNat 64 o, 0)))) desc h lines obj.isSome
  s.beginCmd id

/-- ACOPY (R137-R144). -/
def execAcopy (c : Common) (_cb : Bool) (dims : BitVec 2) (dir : CopyDir) (d a : Opnd) (b : Option Opnd) (s : State) : Out :=
  let n := 5 + 3 * dims.toNat
  let obj (cx : Ctx) : Option Nat := b.map (fun o => pairWord (descOf cx.group o 2) 0)
  engineOp
    { common := c, d := d, reads := (a, n) :: nmOpt b true, roles := copyRoles, cls := .copy }
    (fun s cx => acopyTrap s cx (cx.exec c) (CopyDesc.of dims (descOf cx.group a n)) dir (obj cx))
    (fun s cx => s.queueFull cx.group.core 0)
    (fun cx ex h s => .done (s.enterCopy cx ex dims dir (obj cx) (descOf cx.group a n) h)) s

/-- The chunks of a copy that may be in flight: the lowest eight that are not complete (R142). -/
def inWindow (resume : Nat) (done : List Nat) (k : Nat) : Bool :=
  ((List.range k).filter (fun j => resume ≤ j && !done.contains j)).length < 8

/-- A chunk of a copy may move: nothing holds the copy or the chunk, and after a request of its cancellation it was in flight then
(R135, R142). -/
def Cmd.mayMove (c : Cmd) (d : CopyDesc) (k : Nat) : Bool :=
  !c.early && !c.failed && k < d.chunks && c.resume ≤ k && !c.chunks.contains k && !c.faulted.contains k
    && inWindow c.resume c.chunks k && (!c.cancel || c.flying.contains k)

/-- A chunk of a copy moves; the lines that no chunk still writes are released (R141, R142) (log 71, DESIGN CHOICE, safe). -/
def State.moveChunk (s : State) (c : Cmd) (w : EngSite) (d : CopyDesc) (dir : CopyDir) (chunk : Nat) : State :=
  let later := ((c.chunks.filter (· > chunk)).flatMap (chunkWords d.total)).map (fun l => (d.at_ l).2)
  match s.copyWordsOf w d dir later (chunkWords d.total chunk) with
  | (s', .ok _) =>
    let s := s'.modCmd c.id (fun c => { c with chunks := chunk :: c.chunks })
    let rest := (List.range d.chunks).filter (fun k => !(c.chunks.contains k || k = chunk || k < c.resume))
    if CopyDir.to_ dir == .sp then s.landLines c (d.linesOf rest) else s
  | (s', .fault k va) => if s.hostBarred s' then s' else s.chunkFault c w.pasid chunk k va
  | (_, .bad) => s.modCmd c.id (fun c => { c with failed := true })

/-- COPY_CHUNK_COMPLETE (R142): one chunk of a copy moves. -/
def execCopyChunkComplete (cmd chunk : Nat) (s : State) : Out := waitLocked s <|
  match s.cmd? cmd with
  | none => .next s
  | some c =>
    match c.kind, s.cmdSite c with
    | .copy dims dir _, some w =>
      let d := CopyDesc.of dims c.desc
      if !c.mayMove d chunk || s.quiesced c then .next s else .next (s.moveChunk c w d dir chunk)
    | _, _ => .next s

/-- The arrival of a copy whose work is done, issued inside a region: due at once, or held for the threads still in it (R144). -/
def State.holdArrival (s : State) (c : Cmd) (obj tag : BitVec 64) : State :=
  let waits := c.inRegion.map (fun x => (c.ref.gid, x.1))
  let s := s.modBlock c.ref.launch c.ref.blk (fun b =>
    { b with
      arrivals := b.arrivals.filter (·.seq < c.id) ++ ⟨c.id, obj, tag, waits, waits.isEmpty⟩ :: b.arrivals.filter (c.id < ·.seq) })
  s.arriveDue c.ref.launch c.ref.blk

/-- A copy with all its work done, or stopped, or failed, completes (R135, R139, R144). A copy without a region completes when
its arrival is performed. -/
def State.completeCopy (s : State) (c : Cmd) (bar : Option (BitVec 64 × BitVec 64)) (whole : Bool) : State :=
  let free (s : State) : State :=
    if bar.isSome && c.inside then
      s.modBlock c.ref.launch c.ref.blk (fun b => { b with reserved := b.reserved - 1 })
    else s
  if c.failed then (free s).finishCmd c.id stFault
  else if !whole then (free s).finishCmd c.id stCancelled
  else
    match bar, s.cmdSite c with
    | some (obj, tag), some w =>
      if c.inside then (s.finishCmd c.id stDone).holdArrival c obj tag
      else
        match s.arriveAt (clusterOf w.core) w.pasid obj tag with
        | (s, .counted) => s.finishCmd c.id stDone
        | (s, .stale) => s.finishCmd c.id stStaleBarrier
        | (s, .bad) => s.finishCmd c.id stFault
        | (s, .poison) => s.stopContext c.ref.launch .fatalDevice .memUncorrectable (whereThread c.ref 0) 0
        | (s, .fault k) =>
          let (id, s) := s.fresh
          { s with
            oplog := s.oplog ++
              [⟨id, c.core, w.pasid, k, obj.setWidth 57, .arrival c.ref.launch c.ref.blk obj tag (some c.id), 0, none⟩] }
    | _, _ => s.finishCmd c.id stDone

/-- An arrival of the command stands in the log: it waits for its fault. -/
def State.arrivalLogged (s : State) (cmd : Nat) : Bool :=
  s.oplog.any (fun e => match e.site with
    | .arrival _ _ _ _ (some c) => c == cmd
    | _ => false)

/-- Every chunk of a copy has moved (log 68, DEDUCED, safe). -/
def Cmd.moved (c : Cmd) (dims : BitVec 2) : Bool :=
  (List.range (CopyDesc.of dims c.desc).chunks).all (fun k => c.chunks.contains k || k < c.resume)

/-- A copy is over: every chunk is complete; or it has failed; or it was cancelled, and those in flight then are complete or held by a
fault (R135, R139). -/
def Cmd.copied (c : Cmd) (dims : BitVec 2) : Bool :=
  c.failed || (if c.cancel then c.flying.all (fun k => c.chunks.contains k || c.faulted.contains k) else !c.early && c.moved dims)

/-- A copy is cancelled: no new chunk starts; which of the lowest eight are in flight is the engine's choice (R135) (log 67, DESIGN CHOICE,
safe). -/
def State.cancelCopy (s : State) (c : Cmd) (dims : BitVec 2) : State :=
  if c.cancel || c.copied dims then s
  else
    let d := CopyDesc.of dims c.desc
    let ks := (List.range d.chunks).filter (c.mayMove d)
    let (m, s) := s.choose (2 ^ ks.length)
    s.modCmd c.id (fun c => { c with cancel := true, flying := ks.filter (fun k => m.testBit (ks.idxOf k)) })

/-- What is in flight of a copy that stops completes (R135, R142). -/
def State.landFlying (s : State) (c : Cmd) (dims : BitVec 2) (dir : CopyDir) : State :=
  let d := CopyDesc.of dims c.desc
  c.flying.foldl (fun (s : State) k =>
    match s.cmd? c.id, s.cmdSite c with
    | some c, some w => if c.mayMove d k then s.moveChunk c w d dir k else s
    | _, _ => s) s

/-- COPY_COMPLETE (R141, R144). -/
def execCopyComplete (cmd : Nat) (s : State) : Out := waitLocked s <|
  match s.cmd? cmd with
  | none => .next s
  | some c =>
    match c.kind with
    | .copy dims _ bar =>
      if s.arrivalLogged cmd || !c.copied dims then .next s
      else .next (s.completeCopy c bar (c.moved dims && !c.cancel))
    | _ => .next s

/-! DCMP. -/

/-- DCMP (R145, R146): the card is read and marked RUNNING at issue; an output in scratchpad loses its presence. -/
def execDcmp (c : Common) (sp : Bool) (d a : Opnd) (s : State) : Out :=
  let addr (cx : Ctx) : Nat := if sp then word (descOf cx.group a 1) 0 else pairWord (descOf cx.group a 2) 0
  engineOp
    { common := c, d := d, reads := [nm a (!sp)], roles := copyRoles, cls := .copy }
    (fun _ cx =>
      let x := addr cx
      if x % 64 != 0 then some misaligned
      else if rangeBad cx.launch.lr sp x 64 then some accessViolation else none)
    (fun s cx => s.queueFull cx.group.core 1)
    (fun cx ex h s =>
      let (id, s) := s.addCmd cx ex (.dcmp sp (BitVec.ofNat 64 (addr cx))) [] h [] true
      .done (s.beginCmd id)) s

/-- A match of n bytes from off back, on the output newest first (R147). -/
def copyBack (off : Nat) : Nat → List Byte → List Byte
  | 0, o => o
  | n + 1, o => copyBack off n (o.getD (off - 1) 0 :: o)

/-- The input bytes, from the first, that a token at i reads, its first byte being c and n output bytes made (R147). -/
def tokenReads (inlen cap i n c : Nat) : Nat :=
  if c < 0x80 then (if i + 1 + (c + 1) > inlen || n + (c + 1) > cap then i + 1 else i + 1 + (c + 1))
  else
    let hdr := if c / 16 % 8 = 7 then 3 else 2
    if i + hdr > inlen then i + 1 else i + hdr

/-- One token of an OBR stream (R147), of whose bytes those it reads are given: the card status of a failing one, or the position after
it and the output, newest first. -/
def obrToken (inp : List Byte) (inlen cap i : Nat) (out : List Byte) : Except Nat (Nat × List Byte) :=
  let n := out.length
  let c := (inp.getD i 0).toNat
  if c < 0x80 then
    let l := c + 1
    if i + 1 + l > inlen then .error 2
    else if n + l > cap then .error 4
    else .ok (i + 1 + l, ((inp.drop (i + 1)).take l).reverse ++ out)
  else
    let k := c / 16 % 8
    let hdr := if k = 7 then 3 else 2
    if i + hdr > inlen then .error 2
    else
      let l := if k = 7 then 10 + (inp.getD (i + 1) 0).toNat else k + 3
      let off := c % 16 * 256 + (inp.getD (i + hdr - 1) 0).toNat + 1
      if off > n then .error 3
      else if n + l > cap then .error 4
      else .ok (i + hdr, copyBack off l out)

/-- n bytes for an engine from a place, one by one, with whether one is poisoned (log 70, DEDUCED, safe). -/
def State.engBytes (s : State) (w : EngSite) (sp : Bool) : Nat → Nat → State × Eng (List Byte × Bool)
  | _, 0 => (s, .ok ([], false))
  | a, n + 1 =>
    let one := if sp then
        match s.readSp w.launch w.blk w.pasid a 1 with
        | (s, some r) => (s, Eng.ok r)
        | (s, none) => (s, Eng.bad)
      else s.engLoad w (a % 2 ^ 57) 1
    match one with
    | (s, .ok (bs, p)) =>
      match s.engBytes w sp (a + 1) n with
      | (s, .ok (r, q)) => (s, .ok (bs ++ r, p || q))
      | (s, .fault k va) => (s, .fault k va)
      | (s, .bad) => (s, .bad)
    | (s, .fault k va) => (s, .fault k va)
    | (s, .bad) => (s, .bad)

/-- Write bytes for an engine, codeword by codeword, at most as many as the first number. -/
def State.engPut (s : State) (w : EngSite) (sp : Bool) : Nat → Nat → List Byte → State × Eng Unit
  | 0, _, _ => (s, .ok ())
  | n + 1, a, bs =>
    if bs.isEmpty then (s, .ok ())
    else
      let k := 8 - a % 8
      match if sp then (s.putSp w.launch w.blk [(a, bs.take k)], Eng.ok ()) else s.engStore w (a % 2 ^ 57) (bs.take k) false with
      | (s, .ok _) => s.engPut w sp n (a + k) (bs.drop k)
      | (s, .fault k va) => (s, .fault k va)
      | (s, .bad) => (s, .bad)

/-- The output, then produced, then the status of a job (R147, R148). -/
def State.jobWrite (s : State) (w : EngSite) (sp : Bool) (card : Nat) (k : Card) (out : List Byte) (st : Nat) :
    State × Eng Unit :=
  match s.engPut w k.outsp (out.length + 1) k.out out with
  | (s, .ok _) =>
    match s.cardWrite w sp card 28 out.length with
    | (s, .ok _) => s.cardWrite w sp card 32 st
    | x => x
  | x => x

/-- Read on in a job's input until n bytes of it are there. -/
def State.jobRead (s : State) (w : EngSite) (k : Card) (inp : List Byte) (n : Nat) : State × Eng (List Byte × Bool) :=
  match s.engBytes w k.insp (k.inp + inp.length) (n - inp.length) with
  | (s, .ok (bs, poison)) => (s, .ok (inp ++ bs, poison))
  | x => x

/-- Decode tokens until the input ends, a token fails, or a number of them is done, reading what each token needs: the status and the
output, newest first; none where a byte that was read is poisoned (R147). -/
def State.obrRun (s : State) (w : EngSite) (k : Card) : Nat → Nat → List Byte → List Byte → State × Eng (Option (Nat × List Byte))
  | 0, _, _, out => (s, .ok (some (1, out)))
  | fuel + 1, i, inp, out =>
    if i ≥ k.inlen then (s, .ok (some (1, out)))
    else
      match s.jobRead w k inp (i + 1) with
      | (s, .fault f va) => (s, .fault f va)
      | (s, .bad) => (s, .bad)
      | (s, .ok (_, true)) => (s, .ok none)
      | (s, .ok (inp, false)) =>
        match s.jobRead w k inp (tokenReads k.inlen k.capacity i out.length (inp.getD i 0).toNat) with
        | (s, .fault f va) => (s, .fault f va)
        | (s, .bad) => (s, .bad)
        | (s, .ok (_, true)) => (s, .ok none)
        | (s, .ok (inp, false)) =>
          match obrToken inp k.inlen k.capacity i out with
          | .error st => (s, .ok (some (st, out)))
          | .ok (i', out') => s.obrRun w k fuel i' inp out'

/-- A whole job: what it writes and the handle's status; a cancelled one stops before some token (R147, R148). -/
def State.runJob (s : State) (w : EngSite) (sp : Bool) (card : Nat) (k : Card) (cancel : Bool) : State × Eng (Option (BitVec 3)) :=
  let (stop, s) := if cancel then s.choose (k.inlen + 1) else (k.inlen, s)
  match s.obrRun w k stop 0 [] [] with
  | (s, .fault f va) => (s, .fault f va)
  | (s, .bad) => (s, .bad)
  | (s, .ok none) => (s, .ok none)
  | (s, .ok (some (st, out))) =>
    match s.jobWrite w sp card k out.reverse (if cancel then 6 else st) with
    | (s, .ok _) => (s, .ok (some (if cancel then stCancelled else stDone)))
    | (s, .fault f va) => (s, .fault f va)
    | (s, .bad) => (s, .bad)

/-- The card of a job, as read when it was issued. -/
def Cmd.card (c : Cmd) : Card := Card.ofBytes (c.desc.flatMap (fun x => leBytes x.toNat 4))

/-- A job on its card: BAD_CARD, or the stream decoded; none where it met poison. -/
def State.doJob (s : State) (w : EngSite) (sp : Bool) (card : Nat) (l : LaunchRec) (k : Card) (cancel : Bool) :
    State × Eng (Option (BitVec 3)) :=
  if k.malformed l then
    match s.cardWrite w sp card 32 5 with
    | (s, .ok _) => (s, .ok (some stError))
    | (s, .fault f va) => (s, .fault f va)
    | (s, .bad) => (s, .bad)
  else s.runJob w sp card k cancel

/-- DCMP_JOB_COMPLETE (R146-R148). A page fault holds a cancelled job as it does another (R80) (log 158, DEDUCED, safe). -/
def execDcmpJobComplete (cmd : Nat) (s : State) : Out := waitLocked s <|
  match s.cmd? cmd with
  | none => .next s
  | some c =>
    match c.kind, s.cmdSite c, s.launch? c.ref.launch with
    | .dcmp sp card, some w, some l =>
      if c.failed then .next (s.finishCmd cmd stFault)
      else if c.early || !c.faulted.isEmpty || s.quiesced c then .next s
      else
        match s.doJob w sp card.toNat l.lr c.card c.cancel with
        | (s, .ok (some st)) => .next (s.finishCmd cmd st)
        | (s, .ok none) => .next (s.stopEngine c)
        | (s', .fault f va) => .next (if s.hostBarred s' then s' else s.chunkFault c w.pasid 0 f va)
        | (_, .bad) => .next (s.finishCmd cmd stFault)
    | _, _, _ => .next s

/-- A job that a roll-back discards stops before some token, the first one where its input or its output cannot be reached: `produced` and the
status reach its card where that can be written (R148, R135) (log 69, DEDUCED, safe). -/
def State.stopJob (s : State) (c : Cmd) (sp : Bool) (card : Nat) : State :=
  match s.cmdSite c, s.launch? c.ref.launch with
  | some w, some l =>
    if c.early || c.failed then s
    else
      match s.doJob w sp card l.lr c.card true with
      | (s, .ok (some _)) => s
      | (s, .ok none) => s.stopEngine c
      | _ =>
        match s.jobWrite w sp card c.card [] 6 with
        | (s, .ok _) => s
        | _ => s
  | _, _ => s

/-! Handles and counters. -/

/-- The scope at which observing a handle's completion acquires (R123, R124) (log 73, DEDUCED, safe). -/
def observeScope (hs : List (Nat × BitVec 64)) : Scope :=
  if hs.all (fun h => EngClass.ofHandle h.2 == .matrix) then .blk else .sys

/-- FWAIT (R134): counts as a load; its status is bound when each thread's handle has completed. It is an acquire there, so that the
thread's later memory instructions wait for it (R112, R124). -/
def execFwait (c : Common) (d a : Opnd) (s : State) : Out :=
  issue { common := c, writes := [nm d false], reads := [nm a false], recallFirst := true } noTrap noTrap
    (fun cx ex s =>
      let hs := ex.map (fun t => (t.lane, readOp cx.group t 0 .uint false a))
      match s.fly cx c (lanesOf (ex.map (·.lane)))
          { dst := some (d, false), wait := .handle hs, fences := true, acq := some (observeScope hs) } with
      | some (_, s) => .done s
      | none => .stall) s

/-- FTEST (R134): a true answer is an acquire. -/
def execFtest (c : Common) (d a : Opnd) (s : State) : Out :=
  issue { common := c, writes := [nm d false], reads := [nm a false], recallFirst := true } noTrap noTrap
    (fun cx ex s =>
      let h (t : Thread) : BitVec 64 := readOp cx.group t 0 .uint false a
      let ready (t : Thread) : Bool := cx.block.stale (h t) || !cx.block.pendingHandle (h t)
      let s := s.writeAll cx.run.ref ex (fun t => [⟨d, false, if ready t then 1 else 0⟩])
      .done (if ex.any ready then
        s.acquireAt cx.site (s.wider (observeScope (ex.map (fun t => (t.lane, h t)))) cx.block cx.run.ref) else s)) s

/-- A matrix command leaves its pair's queue with a status (R131, R136, R141). -/
def State.finishMatrix (s : State) (pair : Nat) (m : MatrixCmd) (st : BitVec 3) : State :=
  let s := s.modPair pair (fun p => { p with queue := p.queue.erase m })
  let s := if m.lines.isEmpty then s else s.releaseLines m.ref.launch m.ref.blk m.lines
  (s.finishHandle m.ref.launch m.ref.blk m.handle st).countCmd m.ref .matrix false

/-- No request of a fabric command has left the device in a frame (R404). -/
def State.unsent (s : State) (c : Cmd) : Bool := c.txns.all (fun t => s.txns.any (fun x => x.id == t && !x.sent))

/-- The requests of a command that have not left the device leave it with their transactions. -/
def State.withdraw (s : State) (c : Cmd) : State :=
  let mine := s.txns.filter (fun x => c.txns.contains x.id)
  { s with
    txns := s.txns.filter (fun x => !c.txns.contains x.id)
    ports := s.ports.map (fun p => { p with out := p.out.filter (fun o => !mine.any (fun x => o == .flit x.flit)) }) }

/-- Request the cancellation of a command (R134, R135, R247, R404). -/
def State.cancelHandle (s : State) (b : Block) (h : BitVec 64) : State :=
  match s.cmds.find? (fun c => inBlock c.ref b.launch b.idx && c.handle == h) with
  | some c =>
    match c.kind with
    | .fatom _ _ _ _ _ =>
      if s.unsent c then (s.withdraw c).finishCmd c.id stCancelled else s
    | .coll _ _ _ _ => s
    | .reconf _ _ => s
    | .put => (s.modCmd c.id (fun c => { c with cancel := true })).pumpFab c.id
    | .get => (s.modCmd c.id (fun c => { c with cancel := true })).pumpFab c.id
    | .copy dims _ _ => s.cancelCopy c dims
    | .dcmp _ _ => s.modCmd c.id (fun c => { c with cancel := true })
  | none =>
    match s.pair? b.pair with
    | some p =>
      match p.queue.find? (fun m => inBlock m.ref b.launch b.idx && m.handle == h && !m.started) with
      | some m => s.finishMatrix b.pair m stCancelled
      | none => s
    | none => s

/-- FCANCEL (R134). -/
def execFcancel (c : Common) (a : Opnd) (s : State) : Out :=
  issue { common := c, reads := [nm a false], recallFirst := true } noTrap noTrap
    (fun cx ex s =>
      .done (ex.foldl (fun (s : State) t =>
        let h := readOp cx.group t 0 .uint false a
        match s.block? cx.block.launch cx.block.idx with
        | some b => if b.stale h || !b.pendingHandle h then s else s.cancelHandle b h
        | none => s) s)) s

/-- WAITC (R136): counts as a load without a destination, and later ordered instructions wait for it. -/
def execWaitc (c : Common) (scope : Scope) (cls : EngClass) (a : Opnd) (s : State) : Out :=
  issue { common := c, reads := [nm a false], recallFirst := true } noTrap noTrap
    (fun cx ex s =>
      let n := match ex with
        | t :: _ => loWord (readOp cx.group t 0 .uint false a)
        | [] => 0
      match s.fly cx c (lanesOf (ex.map (·.lane))) { wait := .count cls n, fences := true, acq := some scope } with
      | some (_, s) => .done s
      | none => .stall) s

end Sys2Proof.Machine
end

