-- ==== Sys2Proof/Machine/Queues.lean ====
section
/-! DEFINITION. Named scratchpad queues (06 R149-R151): QPUSH, QPOP, QTRY push and pop, and the service of the threads that wait
on a queue, in the order of their arrival. -/

namespace Sys2Proof.Machine

/-- Slot i of a queue reads as full for a lap phase (R149, R151). -/
def Queue.slotPhase (q : Queue) (i : Nat) : Bool := !q.slotClear.contains i
def Queue.full (q : Queue) : Bool := q.slotPhase q.head == q.headPh

/-- Record a slot's phase. -/
def Queue.markSlot (q : Queue) (i : Nat) (ph : Bool) : Queue :=
  { q with slotClear := if ph then q.slotClear.filter (· != i) else i :: q.slotClear.filter (· != i) }

/-- The queue after a push and after a pop, for a ring of n entries (R151). -/
def Queue.pushed (q : Queue) (n : Nat) : Queue :=
  let q := q.markSlot q.tail q.tailPh
  { q with
    tail := if q.tail + 1 ≥ n then 0 else q.tail + 1
    tailPh := if q.tail + 1 ≥ n then !q.tailPh else q.tailPh
    allow := q.allow - 1 }
def Queue.popped (q : Queue) (n : Nat) : Queue :=
  { q with
    head := if q.head + 1 ≥ n then 0 else q.head + 1
    headPh := if q.head + 1 ≥ n then !q.headPh else q.headPh
    allow := q.allow + 1 }

/-- Change queue i of a block. -/
def Block.modQueue (b : Block) (i : Nat) (f : Queue → Queue) : Block := { b with queues := b.queues.modify i f }

/-- The ring of queue i: its scratchpad offset and its entries. -/
def LaunchRec.ring (l : LaunchRec) (i : Nat) : Nat × Nat :=
  match l.queues[i]? with
  | some (off, n, _) => (off, n)
  | none => (0, 0)

/-- Push a value (R151) where the queue's tail is: allowance has been found. -/
def Block.push (b : Block) (l : LaunchRec) (i : Nat) (x : BitVec 64) : Block :=
  match b.queues[i]? with
  | none => b
  | some q =>
    let (off, n) := l.ring i
    (b.put (off + 8 * q.tail) (leBytes x.toNat 8)).modQueue i (·.pushed n)

/-- The same in the device: an error in the slot goes with what it held (02 R58). -/
def State.pushVal (s : State) (l : LaunchRec) (launch blk i : Nat) (x : BitVec 64) : State :=
  match (s.block? launch blk).bind (fun b => b.queues[i]?) with
  | none => s
  | some q => (s.overScratch launch blk ((l.ring i).1 + 8 * q.tail) 8).modBlock launch blk (·.push l i x)

/-- The value at the head of a block's queue i, or a number of entries behind it, is read; none where a word of it is poisoned. -/
def State.headVal (s : State) (l : Launch) (blk i : Nat) (behind : Nat := 0) : State × Option (BitVec 64) :=
  match (s.block? l.id blk).bind (fun b => b.queues[i]?) with
  | none => (s, none)
  | some q =>
    match s.readSp l.id blk l.pasid ((l.lr.ring i).1 + 8 * ((q.head + behind) % max 1 (l.lr.ring i).2)) 8 with
    | (s, some (bs, false)) => (s, some (BitVec.ofNat 64 (leNat bs)))
    | (s, _) => (s, none)

/-- The lanes of a QPOP in flight that have no entry yet. -/
def Inflight.popLanes (i : Inflight) : List Nat :=
  if i.dst.any (fun d => d.1.isUni) then (if i.vals.isEmpty then (laneList i.lanes).take 1 else [])
  else (laneList i.lanes).filter (fun l => !i.vals.any (·.1 == l))

/-- The oldest waiting pop takes the entry at the head (R151). -/
def State.popStep (s : State) (launch blk i : Nat) : Option State :=
  match s.launch? launch, s.block? launch blk with
  | some l, some b =>
    match b.queues[i]? with
    | none => none
    | some q =>
      let drop (f : Queue → Queue) : State := s.modBlock launch blk (·.modQueue i f)
      match q.poppers with
      | id :: rest =>
        match s.inflight.find? (·.id == id) with
        | none => some (drop (fun q => { q with poppers := rest }))
        | some fl =>
          match fl.popLanes with
          | [] => some (drop (fun q => { q with poppers := rest }))
          | lane :: _ =>
            if q.full then
              match s.headVal l blk i with
              | (s, some x) => some ((s.modBlock launch blk (·.modQueue i (·.popped (l.lr.ring i).2))).arrive id lane x)
              | (s, none) => some (s.trapFlight id (lanesOf [lane]) memUncorrectable)
            else none
      | [] => none
  | _, _ => none

/-- The oldest waiting push enters its next value when allowance admits it (R151). -/
def State.pushStep (s : State) (launch blk i : Nat) : Option State :=
  match s.launch? launch, s.block? launch blk with
  | some l, some b =>
    match b.queues[i]? with
    | none => none
    | some q =>
      match q.pushers with
      | [] => none
      | id :: rest =>
        match s.inflight.find? (·.id == id) with
        | some fl =>
          match fl.wait with
          | .push _ ((lane, x) :: r) =>
            if q.allow = 0 then none
            else
              let s := s.pushVal l.lr launch blk i x
              some ({ s with
                inflight := modify (·.id == id) (fun f => { f with wait := .push i r }) s.inflight }.arrive id lane 0)
          | _ => some (s.modBlock launch blk (·.modQueue i (fun q => { q with pushers := rest })))
        | none => some (s.modBlock launch blk (·.modQueue i (fun q => { q with pushers := rest })))
  | _, _ => none

/-- Serve a queue until nothing more can be served. -/
def State.serveQueue (s : State) (launch blk i : Nat) : Nat → State
  | 0 => s
  | fuel + 1 =>
    match (s.popStep launch blk i).orElse (fun _ => s.pushStep launch blk i) with
    | some s' => s'.serveQueue launch blk i fuel
    | none => s

/-- As many services as the instructions in flight can ask for. -/
def State.settleQueue (s : State) (launch blk i : Nat) : State := s.serveQueue launch blk i (130 * s.inflight.length + 2)

/-- The queue an operand names, the same for every thread of the run. -/
def queueOf (cx : Ctx) (a : Opnd) : Nat :=
  match cx.threads with
  | t :: _ => (loWord (readOp cx.group t 0 .uint false a)).toNat
  | [] => 0

/-- A queue number at or above the declared count (R150). -/
def queueTrap (cx : Ctx) (a : Opnd) : Option Trap := if queueOf cx a ≥ cx.block.queues.length then some accessViolation else none

/-- Outside any region a thread is held until its queue operation completes; inside one it goes on (R151, R241). -/
def State.holdOutside (s : State) (cx : Ctx) (k : Common) (ex : List Thread) (id : Nat) : Act :=
  let out := lanesOf ((ex.filter (·.region.isNone)).map (·.lane))
  if out = 0 then .done s else .over (s.holdSome cx k out (.inflight id k.bnd))

/-- QPUSH (R151): the values enter as allowance admits them; the instruction is in flight until the last has. It is a release (R110), for
which the threads' accesses at peers have ended (R97). -/
def execQpush (c : Common) (a b : Opnd) (s : State) : Out :=
  issue { common := c, reads := [nm a false, nm b true], recallFirst := true, ordered := true, afterLog := true } noTrap
    (fun cx _ => queueTrap cx a)
    (fun cx ex s =>
      let r := cx.run.ref
      let q := queueOf cx a
      let vals := ex.map (fun t => (t.lane, readOp cx.group t 0 .uint true b))
      if ex.any s.remoteWait then .stall
      else
        let s := s.releaseAt cx.site (s.wider .blk cx.block r)
        match s.fly cx c (lanesOf (ex.map (·.lane))) { wait := .push q vals, fences := true, ends := true } with
        | none => .stall
        | some (id, s) =>
          let s := s.modBlock r.launch r.blk (·.modQueue q (fun q => { q with pushers := q.pushers ++ [id] }))
          (s.settleQueue r.launch r.blk q).holdOutside cx c ex id) s

/-- QPOP (R151): an acquire, so that what the thread asks of memory behind it waits for its entry (R112). -/
def execQpop (c : Common) (d a : Opnd) (s : State) : Out :=
  issue
    { common := c, writes := [nm d true], reads := [nm a false], recallFirst := true, ordered := true, afterLog := true } noTrap
    (fun cx _ => queueTrap cx a)
    (fun cx ex s =>
      let r := cx.run.ref
      let q := queueOf cx a
      match s.fly cx c (lanesOf (ex.map (·.lane))) { dst := some (d, true), wait := .pop q, fences := true, acq := some .blk, ends := true } with
      | none => .stall
      | some (id, s) =>
        let s := s.modBlock r.launch r.blk (·.modQueue q (fun q => { q with poppers := q.poppers ++ [id] }))
        (s.settleQueue r.launch r.blk q).holdOutside cx c ex id) s

/-- The outcome of a QTRY push by a thread, in lane order (R151). -/
def State.tryPushes (s : State) (cx : Ctx) (q : Nat) : List (Nat × BitVec 64) → State × List (Nat × Bool)
  | [] => (s, [])
  | (lane, x) :: rest =>
    let r := cx.run.ref
    let can := match s.block? r.launch r.blk with
      | some b => match b.queues[q]? with
        | some k => k.pushers.isEmpty && k.allow > 0
        | none => false
      | none => false
    let s := if can then
        (s.pushVal cx.launch.lr r.launch r.blk q x).settleQueue r.launch r.blk q
      else s
    let (s, l) := s.tryPushes cx q rest
    (s, (lane, can) :: l)

/-- QTRY push (R151): P tells whether the push was performed. -/
def execQtryPush (c : Common) (d a b : Opnd) (s : State) : Out :=
  issue
    { common := c, writes := [nm d false], reads := [nm a false, nm b true], recallFirst := true, ordered := true
      afterLog := true, ends := true } noTrap
    (fun cx _ => queueTrap cx a)
    (fun cx ex s =>
      let vals := ex.map (fun t => (t.lane, readOp cx.group t 0 .uint true b))
      if ex.any s.remoteWait then .stall
      else
        let (s, l) := (s.releaseAt cx.site (s.wider .blk cx.block cx.run.ref)).tryPushes cx (queueOf cx a) vals
        .done (s.writeAll cx.run.ref ex (fun t => [⟨d, false, if l.contains (t.lane, true) then 1 else 0⟩]))) s

/-- The outcomes of a QTRY pop, in lane order: the values taken, and the first lane whose entry is poisoned, where it stops (log 74,
DEDUCED, safe). -/
def State.tryPops (s : State) (cx : Ctx) (q : Nat) : List Nat → State × List (Nat × BitVec 64) × Option Nat
  | [] => (s, [], none)
  | lane :: rest =>
    let r := cx.run.ref
    let can := match (s.block? r.launch r.blk).bind (fun b => b.queues[q]?) with
      | some k => k.poppers.isEmpty && k.full
      | none => false
    if !can then (s, [], none)
    else
      match s.headVal cx.launch r.blk q with
      | (s, none) => (s, [], some lane)
      | (s, some x) =>
        let s := (s.modBlock r.launch r.blk (·.modQueue q (·.popped (cx.launch.lr.ring q).2))).settleQueue r.launch r.blk q
        let (s, l, bad) := s.tryPops cx q rest
        (s, (lane, x) :: l, bad)

/-- QTRY pop (R151): once per run where its destination is uniform (R23). A thread that would take a poisoned entry traps, and the others
execute again without it (R60, 14 R337). -/
def execQtryPop (c : Common) (d a e : Opnd) (s : State) : Out :=
  let who (cx : Ctx) : List Nat := ((if e.isUni then (cx.exec c).take 1 else cx.exec c).map (·.lane))
  let met (cx : Ctx) : List (Nat × BitVec 64) × Option Nat := (s.tryPops cx (queueOf cx a) (who cx)).2
  issue
    { common := c, writes := [nm d false, nm e true], reads := [nm a false], recallFirst := true, ordered := true
      afterLog := true, ends := true
      noted := fun cx l s =>
        if l.any (·.2 == memUncorrectable) then 
          (s.headVal cx.launch cx.run.ref.blk (queueOf cx a) (met cx).1.length).1 else s } noTrap
    (fun cx t => (queueTrap cx a).orElse (fun _ =>
      match (met cx).2 with
      | some lane => if e.isUni || lane = t.lane then some memUncorrectable else none
      | none => none))
    (fun cx ex s =>
      let (s, l, _) := s.tryPops cx (queueOf cx a) (who cx)
      let got (t : Thread) : Option (BitVec 64) :=
        (if e.isUni then l.head? else l.find? (·.1 == t.lane)).map (·.2)
      let s := s.writeAll cx.run.ref ex (fun t =>
        ⟨d, false, if (got t).isSome then 1 else 0⟩ :: (match got t with
          | some x => if e.isUni then [] else [⟨e, true, x⟩]
          | none => []))
      let s := match l.head? with
        | some (_, x) => if e.isUni then s.modGroup cx.run.ref (·.write e true x) else s
        | none => s
      .done (if l.isEmpty then s else s.acquireAt cx.site (s.wider .blk cx.block cx.run.ref))) s

end Sys2Proof.Machine
end

