-- ==== Sys2Proof/Machine/Matrix.lean ====
section
/-! DEFINITION. The matrix engine (10): the pair's reservation (R225-R228), the command stream (R229), the layouts of operands in
the weight buffers (R231-R233), the commands MLDW, MZERO, MMA, MMAS and MST (R234-R240) with the summation orders of 07
R169-R172, MCOMMIT and the shadows (R241, R242), and the events that start and complete commands. -/

namespace Sys2Proof.Machine

/-! The reservation (R227, R228). -/

/-- Grant a pair to a block: the weight buffers are cleared unless the last holder was the same block (R227). -/
def Pair.grant (p : Pair) (launch blk : Nat) : Pair :=
  let same := p.last == some (launch, blk)
  { p with
    holder := some (launch, blk)
    lead := if same then p.lead else []
    follow := if same then p.follow else []
    poison := if same then p.poison else [] }

/-- The same on record: errors of buffers that are cleared go with what they held (02 R58). -/
def State.grantPair (s : State) (i launch blk : Nat) : State :=
  let s := if (s.pair? i).any (fun p => p.last == some (launch, blk)) then s else s.overWeights i 0 2097152
  s.modPair i (·.grant launch blk)

/-- MRES (R227): decided at once for the run, in a long-latency step. -/
def execMres (c : Common) (d : Opnd) (s : State) : Out :=
  issue { common := c, writes := [nm d false], roles := some matrixRoles, recallFirst := true, ordered := true, afterLog := true }
    noTrap noTrap
    (fun cx ex s =>
      let me := (cx.block.launch, cx.block.idx)
      let holder := (s.pair? cx.block.pair).bind (·.holder)
      let won := holder == some me || (holder.isNone && (s.pair? cx.block.pair).isSome)
      let s := if holder.isNone then s.grantPair cx.block.pair me.1 me.2 else s
      match s.fly cx c (lanesOf (ex.map (·.lane)))
          { dst := some (d, false), vals := ex.map (fun t => (t.lane, if won then 1 else 0)) } with
      | some (_, s) => .done s
      | none => .stall) s

/-- MREL (R228): waits for the reservation's commands, and later ordered instructions wait for it. -/
def execMrel (c : Common) (s : State) : Out :=
  issue { common := c, roles := some matrixRoles, recallFirst := true, ordered := true, afterLog := true } noTrap noTrap
    (fun cx ex s =>
      match s.fly cx c (lanesOf (ex.map (·.lane))) { wait := .drain, fences := true } with
      | some (_, s) => .done s
      | none => .stall) s

/-- The block's reservation is given up (R228). -/
def Pair.release (p : Pair) (launch blk : Nat) : Pair :=
  if p.holder == some (launch, blk) then { p with holder := none, last := some (launch, blk) } else p

/-! Operand layouts (R159, R231-R233). -/

/-- Bytes per row of B for one core (R231). -/
def ElemFmt.rowBytes (f : ElemFmt) : Nat :=
  match f with
  | .bf16 => 256
  | .fp16 => 256
  | .int4 => 64
  | .q4 => 64
  | _ => 128

/-- Element i of a packed row of a format, at a byte offset (R159, R231, R238). -/
def rawElem (st : Store 8) (f : ElemFmt) (base i : Nat) : Nat :=
  match f with
  | .bf16 => st.le (base + 2 * i) 2
  | .fp16 => st.le (base + 2 * i) 2
  | .int4 => (st.get (base + i / 2)).toNat / 16 ^ (i % 2) % 16
  | .q4 => (st.get (base + i / 2)).toNat / 16 ^ (i % 2) % 16
  | _ => (st.get (base + i)).toNat

/-- Set bits of a mask below a place. -/
def bitsBelow (m i : Nat) : Nat := ((List.range i).filter (fun k => m / 2 ^ k % 2 = 1)).length

/-- The bytes of a sparse unit: 1,024 of masks and N rows (R232). -/
def sparseUnit (n r : Nat) : Nat := 1024 + n * r

/-- Element (j, n) of B in one core's buffer: none where sparsity marks it absent (R231, R232). -/
def bElem (st : Store 8) (sl : Slot) (boff j n : Nat) : Option Ex :=
  let r := sl.bfmt.rowBytes
  if sl.sparse = 0 then some (sl.bfmt.value (rawElem st sl.bfmt (boff + j * r) n))
  else
    let nn := sparseN sl.sparse
    let u := boff + j / 48 * sparseUnit nn r
    let m := st.le (u + 8 * n) 6
    let i := j % 48
    let slot := bitsBelow m i
    if m / 2 ^ i % 2 = 1 && slot < nn then some (sl.bfmt.value (rawElem st sl.bfmt (u + 1024 + slot * r) n)) else none

/-- The scale and the zero point of a group of a column (R233). -/
def groupParams (st : Store 8) (sl : Slot) (g0 g n : Nat) : Ex × Int :=
  let gi := (g0 + g) * 128 + n
  (fp16.value (st.le (sl.scoff + 2 * gi) 2),
    if sl.zpMode = 1 then (sl.zpConst : Int)
    else if sl.bfmt == .q8 then ((st.get (sl.zpoff + gi)).toNat : Int)
    else (((st.get (sl.zpoff + gi / 2)).toNat / 16 ^ (gi % 2) % 16 : Nat) : Int))

/-- The original channel of a permuted position (R169). -/
def channel (l : LaunchRec) (sl : Slot) (j : Nat) : Nat :=
  if sl.perm && sl.permLen != 0 then
    j / sl.permLen * sl.permLen + fieldAt l.bytes (sl.permOff + 2 * (j % sl.permLen)) 2
  else j

/-- Bytes of one row of A (R237). -/
def aRowBytes (f : ElemFmt) (k : Nat) : Nat :=
  match f with
  | .bf16 => 2 * k
  | .fp16 => 2 * k
  | .int4 => k / 2
  | _ => k

/-! The summation orders (07 R170-R172). -/

/-- Split a list into pieces of n. -/
def pieces {α : Type} (n : Nat) : Nat → List α → List (List α)
  | 0, _ => []
  | fuel + 1, l => if l.isEmpty then [] else l.take n :: pieces n fuel (l.drop n)

/-- The products of the present positions. -/
def products (ps : List (Ex × Option Ex)) : List Ex :=
  ps.filterMap (fun p => match p.2 with
    | some b => some (p.1.mul b)
    | none => none)

/-- R170: blocks of 16 positions, one rounding each, then one into the accumulator. -/
def accFloat (acc : Nat) (ps : List (Ex × Option Ex)) : Nat :=
  (pieces 16 ps.length ps).foldl (fun acc blk =>
    match products blk with
    | [] => acc
    | t => roundRne (exactSum [fp32.value acc, fp32.value (roundRne (exactSum t) fp32)]) fp32) acc

/-- R171: group by group, the zero point taken off exactly, one rounding after the scale, then one into the accumulator. -/
def accQuant (params : Nat → Ex × Int) (group : Nat) (acc : Nat) (ps : List (Ex × Option Ex)) : Nat :=
  ((pieces group ps.length ps).foldl (fun (r : Nat × Nat) blk =>
    let (g, acc) := r
    match products blk with
    | [] => (g + 1, acc)
    | t =>
      let (sc, z) := params g
      let a := exactSum (blk.filterMap (fun p => p.2.map (fun _ => p.1)))
      let x := (exactSum t).add ((Ex.int z).mul a).neg
      let sg := roundRne (sc.mul x) fp32
      (g + 1, roundRne (exactSum [fp32.value acc, fp32.value sg]) fp32)) (0, acc)).2

/-- R172: exact integer products, modulo 2^32. -/
def accInt (acc : Nat) (ps : List (Ex × Option Ex)) : Nat :=
  match exactSum (products ps) with
  | .fin s n _ => ((((acc : Int) + (if s then -(n : Int) else n)) % 2 ^ 32)).toNat
  | _ => acc

/-- One element of a tile under a slot (R238). -/
def accElem (sl : Slot) (params : Nat → Ex × Int) (acc : Nat) (ps : List (Ex × Option Ex)) : Nat :=
  if sl.bfmt.isQ then accQuant params sl.group acc ps
  else if sl.afmt.isFloat then accFloat acc ps else accInt acc ps

/-! Tiles. -/

def Block.tile? (b : Block) (t : BitVec 5) : Option Tile := b.tiles[t.toNat]?
def Block.modTile (b : Block) (t : BitVec 5) (f : Tile → Tile) : Block := { b with tiles := b.tiles.modify t.toNat f }

/-- The 32,768 words of a tile in order (R226): word 256 m + n. -/
def denseFrom : Nat → Nat → Store 32 → List (BitVec 32)
  | 0, _, _ => []
  | n + 1, k, [] => 0 :: denseFrom n (k + 1) []
  | n + 1, k, (a, v) :: r => if a = k then v :: denseFrom n (k + 1) r else 0 :: denseFrom n (k + 1) ((a, v) :: r)

/-- A store from its words in order. -/
def sparseFrom : Nat → List (BitVec 32) → Store 32
  | _, [] => []
  | k, v :: r => if v = 0 then sparseFrom (k + 1) r else (k, v) :: sparseFrom (k + 1) r

def Tile.dense (t : Tile) : List (BitVec 32) := denseFrom 32768 0 t.words

/-- A command about to write a clean tile copies it to its shadow first (R242). -/
def Tile.open_ (t : Tile) : Tile :=
  if t.dirty then t else { t with dirty := true, shadow := t.words, shadowInt := t.isInt }

/-- MCOMMIT: every tile is clean (R241). -/
def Block.commit (b : Block) : Block := { b with tiles := b.tiles.map (fun t => { t with dirty := false }) }

/-! What a command reads, and its checks. -/

/-- The scratchpad range that a command reads: its offset and length. -/
def mldwUnit (sl : Slot) : Nat :=
  let r := sl.bfmt.rowBytes
  if sl.sparse = 0 then r else sparseUnit (sparseN sl.sparse) r

def mldwRange (sl : Slot) (d : List (BitVec 32)) : Nat × Nat := (word d 0, 2 * word d 2 * mldwUnit sl)

/-- Bytes of B's footprint in a buffer (R237). -/
def bBytes (sl : Slot) (k : Nat) : Nat :=
  let r := sl.bfmt.rowBytes
  if sl.sparse = 0 then k * r else k / 48 * sparseUnit (sparseN sl.sparse) r

def mmaRange (sl : Slot) (d : List (BitVec 32)) : Nat × Nat :=
  (word d 0, 127 * word d 1 + aRowBytes sl.afmt (word d 2))

/-- The traps of MLDW (R234). -/
def mldwTrap (cx : Ctx) (sl : Slot) (d : List (BitVec 32)) : Option Trap :=
  if word d 0 % 64 != 0 || word d 1 % 64 != 0 then some misaligned
  else if word d 2 = 0 || (mldwRange sl d).1 + (mldwRange sl d).2 > cx.launch.lr.scratchBytes
      || word d 1 + word d 2 * mldwUnit sl > 1048576 then some accessViolation else none

/-- A scale or zero-point entry of a command's groups lies beyond the buffer (R237). -/
def paramsBeyond (sl : Slot) (g0 k : Nat) : Bool :=
  let last := (g0 + k / sl.group) * 128
  sl.bfmt.isQ && (sl.scoff + 2 * last > 1048576
    || (sl.zpMode = 0 && sl.zpoff + (if sl.bfmt == .q8 then last else last / 2) > 1048576))

/-- The traps of MMA and MMAS (R237). -/
def mmaTrap (cx : Ctx) (sl : Slot) (sparse : Bool) (d : List (BitVec 32)) : Option Trap :=
  let k := word d 2
  if word d 0 % 4 != 0 || word d 1 % 4 != 0 || word d 3 % 64 != 0 then some misaligned
  else if k < 16 || k > 65536 || k % (if sparse then 48 else 16) != 0 || (sl.bfmt.isQ && k % sl.group != 0)
      || (sl.perm && k % sl.permLen != 0) || (!sl.bfmt.isQ && word d 4 != 0) || word d 1 < aRowBytes sl.afmt k
      || (mmaRange sl d).1 + (mmaRange sl d).2 > cx.launch.lr.scratchBytes || word d 3 + bBytes sl k > 1048576
      || paramsBeyond sl (word d 4) k then some accessViolation
  else none

/-- The size of an MST output element (R239). -/
def mstSize (ty : Ty) : Nat := ty.size

def mstRange (ty : Ty) (d : List (BitVec 32)) : Nat × Nat := (word d 0, 127 * word d 1 + 256 * mstSize ty)

/-- The traps of MST (R239). -/
def mstTrap (cx : Ctx) (ty : Ty) (bias rs : Bool) (d : List (BitVec 32)) : Option Trap :=
  let n := cx.launch.lr.scratchBytes
  if word d 0 % 4 != 0 || word d 1 % 4 != 0 || (rs && word d 2 % 2 != 0) || (bias && word d 3 % 4 != 0) then some misaligned
  else if word d 1 < 256 * mstSize ty || (mstRange ty d).1 + (mstRange ty d).2 > n || (rs && word d 2 + 256 > n)
      || (bias && word d 3 + 1024 > n) then some accessViolation
  else none

/-- The scratchpad lines of an MST's rows (R240). -/
def mstLines (ty : Ty) (d : List (BitVec 32)) : List Nat :=
  ((List.range 128).flatMap (fun m => spLines (word d 0 + m * word d 1) (256 * mstSize ty))).eraseDups

/-! The issue of a matrix command (R229). -/

/-- A matrix command without a reservation traps before its other checks (R229). -/
def reservedTrap (s : State) (cx : Ctx) (_t : Thread) : Option Trap :=
  if s.holdsPair cx then none else some ⟨.matrixNotReserved, 0, 0⟩

/-- The pair's queue is full (R229). -/
def pairFull (s : State) (cx : Ctx) : Bool :=
  match s.pair? cx.block.pair with
  | some p => p.queue.length ≥ 64
  | none => false

/-- A command enters the pair's queue. -/
def State.enqueueMatrix (s : State) (cx : Ctx) (ex : List Thread) (op : MatrixOp) (desc : List (BitVec 32)) (h : BitVec 64)
    (lines : List Nat) : State :=
  s.modPair cx.block.pair (fun p =>
    { p with
      queue := p.queue ++
        [⟨cx.run.ref, op, desc, h, lanesOf (ex.map (·.lane)), inRegions ex, lines, false⟩] })

/-- A slot that is empty, or does not suit an instruction, is RESERVED_FIELD (R168, R234, R236). -/
def slotUnfit (s : State) (slot : BitVec 3) (fits : Slot → Bool) : Bool :=
  match s.ctx? with
  | some cx => let sl := cx.launch.lr.slot slot; sl.afmt == .none || !fits sl
  | none => false

/-- A matrix command with a handle: its descriptor is read, it takes an entry of the future table and a place in the queue. -/
def matrixOp (c : Common) (d desc : Opnd) (n : Nat) (tile : List Names) (formBad : Bool)
    (own : Ctx → List (BitVec 32) → Option Trap) (op : MatrixOp) (lines : List (BitVec 32) → List Nat) (s : State) : Out :=
  engineOp
    { common := c, d := d, reads := (desc, n) :: tile, roles := matrixRoles, cls := .matrix, formBad := formBad
      wide := fun cx => s.wider .blk cx.block cx.run.ref, pre := reservedTrap s }
    (fun _ cx => own cx (descOf cx.group desc n)) pairFull
    (fun cx ex h s =>
      let ds := descOf cx.group desc n
      let ls := lines ds
      .done ((s.clearLines cx.run.ref.launch cx.run.ref.blk ls).enqueueMatrix cx ex op ds h ls)) s

/-- The tile an operand names. -/
def tileOf (o : Opnd) : BitVec 5 :=
  match o with
  | .a i => i
  | _ => 0

/-- MLDW (R234). -/
def execMldw (c : Common) (slot : BitVec 3) (d a : Opnd) (s : State) : Out :=
  matrixOp c d a 3 [] (slotUnfit s slot (fun sl => sl.bfmt != .none))
    (fun cx ds => mldwTrap cx (cx.launch.lr.slot slot) ds) (.mldw slot) (fun _ => []) s

/-- The live-in check of a tile that a command writes (R229, R31). -/
def tileTrap (s : State) (tile : Opnd) (cx : Ctx) (t : Thread) : Option Trap :=
  (reservedTrap s cx t).orElse (fun _ => match t.region with
    | some r => if r.names (tile, 1) then some ⟨.regionViolation, 0, 0⟩ else none
    | none => none)

/-- MMA and MMAS (R236-R238): one mould, dense or sparse. -/
def mmaOp (c : Common) (sparse : Bool) (slot : BitVec 3) (d a b : Opnd) (s : State) : Out :=
  engineOp
    { common := c, d := d, reads := [(b, 5), (a, 1)], roles := matrixRoles, cls := .matrix
      formBad := slotUnfit s slot (fun sl => (sl.sparse != 0) == sparse)
      wide := fun cx => s.wider .blk cx.block cx.run.ref, pre := tileTrap s a }
    (fun _ cx => mmaTrap cx (cx.launch.lr.slot slot) sparse (descOf cx.group b 5)) pairFull
    (fun cx ex h s => .done (s.enqueueMatrix cx ex (.mma slot sparse (tileOf a)) (descOf cx.group b 5) h [])) s

/-- MMA (R236). -/
def execMma (c : Common) (slot : BitVec 3) (d a b : Opnd) (s : State) : Out := mmaOp c false slot d a b s

/-- MMAS (R236). -/
def execMmas (c : Common) (slot : BitVec 3) (d a b : Opnd) (s : State) : Out := mmaOp c true slot d a b s

/-- MZERO (R235): counted, but without a handle (R229). -/
def execMzero (c : Common) (d : Opnd) (s : State) : Out :=
  issue
    { common := c, writes := [nm d false], roles := some matrixRoles, recallFirst := true, ordered := true, afterLog := true }
    (reservedTrap s) noTrap
    (fun cx ex s =>
      if pairFull s cx || ex.any s.remoteWait then .stall
      else
        let s := s.releaseAt cx.site (s.wider .blk cx.block cx.run.ref)
        .done ((s.enqueueMatrix cx ex (.mzero (tileOf d)) [] 0 []).countCmd cx.run.ref .matrix true)) s

/-- MST (R239). -/
def execMst (c : Common) (ty : Ty) (bias rs : Bool) (rm : Rm) (d a b : Opnd) (s : State) : Out :=
  matrixOp c d b 4 [nm a false] false (fun cx ds => mstTrap cx ty bias rs ds) (.mst ty bias rs rm (tileOf a)) (mstLines ty) s

/-- MCOMMIT (R241): at its place in the pair's queue, or at once without a reservation. -/
def execMcommit (c : Common) (s : State) : Out :=
  issue { common := c, recallFirst := true, ordered := true, afterLog := true } noTrap noTrap
    (fun cx ex s =>
      let lanes := lanesOf (ex.map (·.lane))
      if s.holdsPair cx then
        if pairFull s cx then .stall
        else match s.fly cx c lanes { wait := .commit, fences := true, ends := true } with
          | none => .stall
          | some (id, s) => (s.enqueueMatrix cx ex (.mcommit id) [] 0 []).holdOutside cx c ex id
      else
        match s.fly cx c lanes { vals := ex.map (fun t => (t.lane, 0)), fences := true, ends := true } with
        | none => .stall
        | some (id, s) => (s.modBlock cx.run.ref.launch cx.run.ref.blk (·.commit)).holdOutside cx c ex id) s

/-! The performance of commands (R229). -/

/-- A range of the scratchpad is present (R90). -/
def Block.present (b : Block) (r : Nat × Nat) : Bool := (spLines r.1 r.2).all (fun l => !b.lineAbsent l)

/-- The operands a command waits for are present (R234, R238). -/
def MatrixCmd.ready (m : MatrixCmd) (l : LaunchRec) (b : Block) : Bool :=
  match m.op with
  | .mldw slot => b.present (mldwRange (l.slot slot) m.desc)
  | .mma slot _ _ =>
    (List.range 128).all (fun i =>
      b.present (word m.desc 0 + i * word m.desc 1, aRowBytes (l.slot slot).afmt (word m.desc 2)))
  | _ => true

/-- The tile a command writes. -/
def MatrixOp.writes : MatrixOp → Option (BitVec 5)
  | .mzero t => some t
  | .mma _ _ t => some t
  | _ => none

/-- The Proofer has brought every thread of a command's block to a canonical point: no queued command of it starts, and one executing is
abandoned (R243 step 1, R348 steps 5 and 6). -/
def State.matrixHeld (s : State) (m : MatrixCmd) : Bool :=
  (s.launch? m.ref.launch).any (fun l => l.proofer.any (fun p => p.step ≥ 5 && p.blocks.contains m.ref.blk))

/-- MATRIX_COMMAND_START (R229, R241, R242): the head of the pair's queue starts once its operands are present; a commit is
performed at the head; a command that writes a clean tile copies it to its shadow. -/
def execMatrixCommandStart (pair : Nat) (s : State) : Out :=
  match s.pair? pair with
  | none => .next s
  | some p =>
    match p.queue with
    | [] => .next s
    | m :: rest =>
      match s.launch? m.ref.launch, s.block? m.ref.launch m.ref.blk with
      | some l, some b =>
        match m.op with
        | .mcommit op =>
          let s := s.modPair pair (fun p => { p with queue := rest })
          let s := s.modBlock m.ref.launch m.ref.blk (·.commit)
          .next { s with
            inflight := modify (·.id == op)
              (fun i => { i with wait := .ready, vals := (laneList i.lanes).map (fun x => (x, 0)) }) s.inflight }
        | op =>
          if m.started || !m.ready l.lr b || s.matrixHeld m then .next s
          else
            let s := s.modPair pair (fun p => { p with queue := { m with started := true } :: rest })
            .next (match op.writes with
              | some t => s.modBlock m.ref.launch m.ref.blk (·.modTile t (·.open_))
              | none => s)
      | _, _ => .next (s.modPair pair (fun p => { p with queue := rest }))

/-- A word lies in a range. -/
def hits (w a n : Nat) : Bool := w < a + n && a < w + 4

/-- Copy the units of an MLDW (R234). -/
def mldwCopy (sp : Store 8) (u src wo : Nat) : Nat → Store 8 × Store 8 → Store 8 × Store 8
  | 0, r => r
  | i + 1, r =>
    let (a, b) := mldwCopy sp u src wo i r
    (a.setBytes (wo + i * u) (sp.bytes (src + 2 * i * u) u), b.setBytes (wo + i * u) (sp.bytes (src + 2 * i * u + u) u))

/-- A value slot of a sparse unit is read for a poisoned word of it: some column of the word has that many elements (R232). -/
def slotRead (st : Store 8) (sl : Slot) (u off : Nat) : Bool :=
  let r := sl.bfmt.rowBytes
  let n := sparseN sl.sparse
  let per := r / 128
  let cols := if per = 0 then (List.range 8).map (fun i => 2 * (off % r) + i)
    else (List.range (4 / per)).map (fun i => off % r / per + i)
  cols.any (fun c => min (bitsBelow (st.le (u + 8 * c) 6) 48) n > off / r)

/-- A poisoned word of a weight buffer is read by a command (R246, R232). -/
def wordMet (st : Store 8) (sl : Slot) (d : List (BitVec 32)) (w : Nat) : Bool :=
  let k := word d 2
  let boff := word d 3
  let r := sl.bfmt.rowBytes
  let inB := w < boff + bBytes sl k && boff < w + 4
  let unit := sparseUnit (sparseN sl.sparse) r
  let met := if sl.sparse = 0 then inB
    else inB && (let o := (w - boff) % unit
      o < 1024 || slotRead st sl (boff + (w - boff) / unit * unit) (o - 1024))
  let g0 := word d 4
  let gs := k / sl.group * 128
  met || (sl.bfmt.isQ && (hits w (sl.scoff + 2 * (g0 * 128)) (2 * gs)
    || (sl.zpMode = 0 && (if sl.bfmt == .q8 then hits w (sl.zpoff + g0 * 128) gs
        else hits w (sl.zpoff + g0 * 64) (gs / 2)))))

/-- A command reads some of n bytes of the scratchpad (R234, R238, R240). -/
def MatrixCmd.readsSp (m : MatrixCmd) (l : LaunchRec) (w n : Nat) : Bool :=
  let on (a k : Nat) : Bool := w < a + k && a < w + n
  match m.op with
  | .mldw slot => on (mldwRange (l.slot slot) m.desc).1 (mldwRange (l.slot slot) m.desc).2
  | .mma slot _ _ =>
    (List.range 128).any (fun i => on (word m.desc 0 + i * word m.desc 1) (aRowBytes (l.slot slot).afmt (word m.desc 2)))
  | .mst _ bias rs _ _ => (rs && on (word m.desc 2) 256) || (bias && on (word m.desc 3) 1024)
  | _ => false

/-- A command reads a word of its pair's weight buffers. -/
def MatrixCmd.readsWb (m : MatrixCmd) (l : LaunchRec) (p : Pair) (w : Nat) : Bool :=
  match m.op with
  | .mma slot _ _ =>
    if w < 1048576 then wordMet p.lead (l.slot slot) m.desc w else wordMet p.follow (l.slot slot) m.desc (w - 1048576)
  | _ => false

/-- The tile a command reads. -/
def MatrixOp.reads : MatrixOp → Option (BitVec 5)
  | .mma _ _ t => some t
  | .mst _ _ _ _ t => some t
  | _ => none

/-- A command reads a poisoned word (R246). -/
def MatrixCmd.poisoned (m : MatrixCmd) (l : LaunchRec) (b : Block) (p : Pair) : Bool :=
  (m.op.reads.bind b.tile?).any (fun t => !t.poison.isEmpty) || b.spoison.any (fun w => m.readsSp l w 4)
    || p.poison.any (m.readsWb l p)

/-- A codeword that a command reads (02 R58). -/
def MatrixCmd.readsAt (m : MatrixCmd) (l : LaunchRec) (p : Pair) : ErrPlace → Bool
  | .scratch i b ea => inBlock m.ref i b && m.readsSp l ea 8
  | .tile i b t _ => inBlock m.ref i b && m.op.reads.any (·.toNat == t)
  | .weights q off => q == p.idx && (m.readsWb l p off || m.readsWb l p (off + 4))
  | _ => false

/-- The tile words after an MMA or MMAS (R238). -/
def mmaWords (l : LaunchRec) (sl : Slot) (d : List (BitVec 32)) (sp : Store 8) (p : Pair) (acc : List (BitVec 32)) :
    List (BitVec 32) :=
  let k := word d 2
  let rows := (List.range 128).map (fun m =>
    (List.range k).map (fun j => sl.afmt.value (rawElem sp sl.afmt (word d 0 + m * word d 1) (channel l sl j))))
  let cols := (List.range 256).map (fun n =>
    let st := if n < 128 then p.lead else p.follow
    ((List.range k).map (fun j => bElem st sl (word d 3) j (n % 128)), fun g => groupParams st sl (word d 4) g (n % 128)))
  let old := pieces 256 128 acc
  (rows.zip old).flatMap (fun ra =>
    (cols.zip ra.2).map (fun ca => BitVec.ofNat 32 (accElem sl ca.1.2 ca.2.toNat (ra.1.zip ca.1.1))))

/-- One output element of MST (R240). -/
def mstElem (ty : Ty) (rm : Rm) (isInt : Bool) (w : BitVec 32) (scale : Option Ex) (bias : Option Ex) : Nat :=
  let v : Ex := if isInt then Ex.int w.toInt else fp32.value w.toNat
  let e := match scale with
    | some x => v.mul x
    | none => v
  let e := match bias with
    | some x => exactSum [e, x]
    | none => e
  match ty with
  | .n32 => w.toNat
  | .i8 => (e.clampInt rm 0 (-128) 127 % 256).toNat
  | _ => roundDir e (floatFmt' ty) rm
where
  /-- the format of an MST type -/
  floatFmt' : Ty → Fmt
    | .f16 => fp16
    | .bf16 => Machine.bf16
    | _ => fp32

/-- The rows of an MST, as bytes with their offsets (R240). -/
def mstRows (ty : Ty) (bias rs : Bool) (rm : Rm) (d : List (BitVec 32)) (b : Block) (t : Tile) : List (Nat × List Byte) :=
  ((List.range 128).zip (pieces 256 128 t.dense)).map (fun mr =>
    let sc := if rs then some (fp16.value (b.scratch.le (word d 2 + 2 * mr.1) 2)) else none
    (word d 0 + mr.1 * word d 1,
      ((List.range 256).zip mr.2).flatMap (fun nw =>
        leBytes (mstElem ty rm t.isInt nw.2 sc
          (if bias then some (fp32.value (b.scratch.le (word d 3 + 4 * nw.1) 4)) else none)) (mstSize ty))))

/-- Perform a command whose operands are good: the block and the pair after it. -/
def MatrixCmd.perform (m : MatrixCmd) (l : LaunchRec) (b : Block) (p : Pair) : Block × Pair :=
  match m.op with
  | .mldw slot =>
    let u := mldwUnit (l.slot slot)
    let n := word m.desc 2
    let (x, y) := mldwCopy b.scratch u (word m.desc 0) (word m.desc 1) n (p.lead, p.follow)
    let left := clearPoison (clearPoison p.poison (word m.desc 1) (n * u)) (1048576 + word m.desc 1) (n * u)
    (b, { p with lead := x, follow := y, poison := left })
  | .mzero t => (b.modTile t (fun t => { t with words := [], isInt := false, poison := [] }), p)
  | .mma slot _ t =>
    let sl := l.slot slot
    (b.modTile t (fun x =>
      { x with words := sparseFrom 0 (mmaWords l sl m.desc b.scratch p x.dense), isInt := sl.accInt }), p)
  | .mst ty bias rs rm t =>
    match b.tile? t with
    | some x => ((mstRows ty bias rs rm m.desc b x).foldl (fun b r => b.put r.1 r.2) b, p)
    | none => (b, p)
  | .mcommit _ => (b, p)

/-- What a command writes whole loses the errors that stood there (02 R58, R59). -/
def State.overMatrix (s : State) (l : LaunchRec) (b : Block) (pair : Nat) (m : MatrixCmd) : State :=
  match m.op with
  | .mldw slot =>
    let n := word m.desc 2 * mldwUnit (l.slot slot)
    (s.overWeights pair (word m.desc 1) n).overWeights pair (1048576 + word m.desc 1) n
  | .mzero t =>
    s.writeOver (ErrPlace.inTile m.ref.launch m.ref.blk t.toNat) (ErrPlace.inTile m.ref.launch m.ref.blk t.toNat)
  | .mst ty bias rs rm t =>
    match b.tile? t with
    | some x => (mstRows ty bias rs rm m.desc b x).foldl (fun (s : State) r => s.overScratch m.ref.launch m.ref.blk r.1 r.2.length) s
    | none => s
  | _ => s

/-- The performance of a started command, what it reads having been looked at: one that reads a poisoned word stops its context. -/
def State.performMatrix (s : State) (pair : Nat) (m : MatrixCmd) : State :=
  match s.launch? m.ref.launch, s.block? m.ref.launch m.ref.blk, s.pair? pair with
  | some l, some b, some p =>
    if m.poisoned l.lr b p then
      (s.notePoison l.pasid 0 true).stopContext m.ref.launch .fatalDevice .memUncorrectable (whereThread m.ref 0) 0
    else
      let s := s.overMatrix l.lr b pair m
      match s.block? m.ref.launch m.ref.blk, s.pair? pair with
      | some b, some p =>
        let (b', p') := m.perform l.lr b p
        ((s.modBlock m.ref.launch m.ref.blk (fun _ => b')).modPair pair (fun _ => p')).finishMatrix pair m stDone
      | _, _ => s
  | _, _, _ => s

/-- MATRIX_COMMAND_COMPLETE (R229, R238, R240, R246): the started head of the queue is performed and completes DONE. All its reads and
writes are made here, at one of the moments between issue and completion that R230 leaves open (log 75, DESIGN CHOICE, unsafe). -/
def execMatrixCommandComplete (pair : Nat) (s : State) : Out :=
  match s.pair? pair with
  | none => .next s
  | some p =>
    match p.queue with
    | [] => .next s
    | m :: _ =>
      if !m.started || s.matrixHeld m then .next s
      else
        match s.launch? m.ref.launch with
        | some l => .next ((s.meetAll l.pasid .uncorrectable (m.readsAt l.lr p)).performMatrix pair m)
        | none => .next s

end Sys2Proof.Machine
end

