-- ==== Sys2Proof/Machine/Blocks.lean ====
section
/-! DEFINITION. Blocks on the device (13 R315, R319-R324, R331; 06 R132; 10 R228): claiming and placing, planting again what was imaged
out, retiring; the end of a grid (R313, R334), child launches, the watchdog (R316). -/

namespace Sys2Proof.Machine

/-! Placing. -/

/-- The groups of a block on its cores: group g on core g mod c, on a pipe of that core (R319, R325) (log 13, DESIGN CHOICE, unsafe). -/
def blockGroups (l : Launch) (idx core : Nat) : List Group :=
  let rs := l.lr.groupRoles
  (List.range rs.length).map (fun g =>
    { Group.fresh ⟨l.id, idx, g⟩ (rs.getD g 0) (core + g % l.lr.cores) with pipe := g / l.lr.cores % 4 })

/-- The threads of a block at their start (R320). -/
def freshThreads (l : Launch) (idx : Nat) : List Thread :=
  let rs := l.lr.groupRoles
  (List.range rs.length).flatMap (fun g => startThreads l ⟨l.id, idx, g⟩ (rs.getD g 0))

/-- A pair nobody has used (R227) (log 19, DESIGN CHOICE, unsafe). -/
def Pair.fresh (i : Nat) : Pair := ⟨i, none, none, [], [], [], []⟩

/-- A pair is on record. -/
def State.ensurePair (s : State) (i : Nat) : State :=
  if (s.pair? i).isSome then s else { s with pairs := s.pairs ++ [Pair.fresh i] }

/-- A block starts on a core, with a pair (R320, R225). It begins with an acquire on each of its cores, so that it finds what was written
before its launch (05 R110, R115). -/
def State.placeBlock (s : State) (l : Launch) (idx core pair : Nat) : State :=
  let s := (List.range l.lr.cores).foldl (fun (s : State) i => s.acquireCore (core + i)) (s.ensurePair pair)
  { s with
    blocks := s.blocks ++ [Block.fresh l idx core pair]
    groups := s.groups ++ blockGroups l idx core
    threads := s.threads ++ freshThreads l idx }

/-- Blocks start one after another at their places. -/
def State.placeBlocks (s : State) (l : Launch) : Nat → List (Nat × Nat) → State
  | _, [] => s
  | i, p :: ps => (s.placeBlock l i p.1 p.2).placeBlocks l (i + 1) ps

/-! Planting a block that was imaged out (R331, R365 steps 2 and 5). -/

/-- A pair is given to a block whose image holds its weight buffers (R365). -/
def Pair.regrant (p : Pair) (launch blk : Nat) (h : Store 8 × Store 8 × List Nat) : Pair :=
  { p with holder := some (launch, blk), last := some (launch, blk), lead := h.1, follow := h.2.1, poison := h.2.2 }

/-- A block stands again, on a core and a pair: its groups and its commands with it. -/
def State.plant (s : State) (b : Block) (core pair : Nat) : State :=
  let s := s.ensurePair pair
  let mine (r : GroupRef) : Bool := inBlock r b.launch b.idx
  let at_ (r : GroupRef) : Nat := core + r.gid % b.cores
  let s := match b.held with
    | some h => (s.overWeights pair 0 2097152).modPair pair (·.regrant b.launch b.idx h)
    | none => s
  let s := s.modBlock b.launch b.idx (fun b => { b with life := .placed, core := core, pair := pair, held := none })
  { s with
    groups := modify (fun (g : Group) => mine g.ref) (fun g => { g with core := at_ g.ref, pipe := g.ref.gid / b.cores % 4 })
      s.groups
    cmds := modify (fun (c : Cmd) => mine c.ref) (fun c => { c with core := at_ c.ref }) s.cmds }

/-- A command of a planted block is issued again (R365 step 5): an FPUT or FGET is checked again under R264, a collective starts
afresh where this device still stands under the block's generation (R271, R277). -/
def State.reissue (s : State) (b : Block) (c : Cmd) : State :=
  match c.kind with
  | .dcmp _ _ => s.beginCmd c.id
  | .put => s.checkFab b c.id
  | .get => s.checkFab b c.id
  | .coll ty op kind seq =>
    if s.curPlan.isNone || s.tgen != b.etgen then s.endColl b.launch seq c.id stError
    else
      match s.launch? b.launch, (s.launch? b.launch).bind (·.lr.team) with
      | some l, some t =>
        (s.joinColl l t seq (collFn ty op kind) (word c.desc 4) c.id).pumpColl b.launch seq
      | _, _ => s
  | _ => s

/-- A block that stands again reads memory as it is now, and its commands go on. -/
def State.resumeBlock (s : State) (launch blk : Nat) : State :=
  match s.block? launch blk with
  | none => s
  | some b =>
    let s := (List.range b.cores).foldl (fun (s : State) i => s.acquireCore (b.core + i)) s
    (s.cmds.filter (fun c => inBlock c.ref launch blk)).foldl (fun (s : State) c => s.reissue b c) s

/-! Claiming (R315, R322, R324). -/

/-- An ADMIT_ALL grid that waits holds back new blocks of the same and lower classes (R324); of two that wait in one class the earlier
goes first (log 85, DEDUCED, safe). -/
def State.heldForAll (s : State) (l : Launch) : Bool :=
  s.launches.any (fun m => m.id != l.id && m.lr.admitall && !m.started && !m.done
    && (m.cls > l.cls || (m.cls == l.cls && (l.started || !l.lr.admitall || m.id < l.id))))

/-- The cluster in which a block of a cohort stands (R322). -/
def State.cohortCluster (s : State) (l : Launch) (idx : Nat) : Option Nat :=
  ((s.blocks.filter (fun b => b.launch == l.id && b.life == .placed && b.idx != idx && b.idx / l.lr.cohort = idx / l.lr.cohort)).head?).map
    (fun b => clusterOf b.core)

/-- Where a block and further ones of its cohort stand when the first takes a place (R322): in one cluster, that of the cohort's blocks
that stand already; those that hold a reservation on pairs of their own that are free (R365). None where they do not fit. -/
def State.cohortPlan (s : State) (l : Launch) (idx : Nat) (holds : Bool) (mates : List Bool) (core pair : Nat) :
    Option (List (Nat × Nat)) :=
  let st := s.standing
  let held := (s.pairs.filter (·.holder.isSome)).map (·.idx)
  if s.fitsAt st l.pasid l.lr core pair && (s.cohortCluster l idx).all (· == clusterOf core) && !(holds && held.contains pair) then
    (s.placeFrom l.pasid l.lr mates (idx / l.lr.cohort * l.lr.cohort + 1) (some (clusterOf core))
      (if holds then pair :: held else held) (⟨l.pasid, l.lr, core, pair⟩ :: st)).map ((core, pair) :: ·)
  else none

/-- A thread stands at a wide meeting point, or has exited. -/
def Thread.atWide (t : Thread) : Bool :=
  match t.cond with
  | .exited => true
  | .held (.wbar _ _) => true
  | .held (.flushpt _) => true
  | _ => false

/-- A block has threads that have something to do. -/
def State.wantsCore (s : State) (b : Block) : Bool := (s.blockThreads b.launch b.idx).any (fun t => !t.atWide)

/-- The imaged-out blocks of a launch. -/
def State.outBlocks (s : State) (l : Launch) : List Block := s.blocks.filter (fun b => b.launch == l.id && b.life == .imagedOut)

/-- The blocks that are planted with an imaged-out one: those of its cohort that have something to do, where none of the cohort
stands. -/
def State.matesOf (s : State) (l : Launch) (b : Block) : List Block :=
  if (s.cohortCluster l b.idx).isSome then []
  else (s.outBlocks l).filter (fun x => x.idx != b.idx && x.idx / l.lr.cohort == b.idx / l.lr.cohort && s.wantsCore x)

/-- Where an imaged-out block, with those planted with it, stands when it takes a place. -/
def State.plantPlan (s : State) (l : Launch) (b : Block) (core pair : Nat) : Option (List (Nat × Nat)) :=
  s.cohortPlan l b.idx b.held.isSome ((s.matesOf l b).map (·.held.isSome)) core pair

/-- Where the next block of a grid, with the rest of its cohort, stands when it takes a place. -/
def State.claimPlan (s : State) (l : Launch) (core pair : Nat) : Option (List (Nat × Nat)) :=
  if l.started && l.ticket < l.lr.nblk then
    s.cohortPlan l l.ticket false (List.replicate (cohortEnd l l.ticket - l.ticket - 1) false) core pair
  else none

/-- Plant a block, with those planted with it, where they may stand; in a launch that runs already their work goes on at once (R365). -/
def State.tryPlant (s : State) (l : Launch) (b : Block) (core pair : Nat) : State :=
  match s.plantPlan l b core pair with
  | none => s
  | some ps =>
    let bs := (b :: s.matesOf l b).zip ps
    let s := bs.foldl (fun (s : State) x => s.plant x.1 x.2.1 x.2.2) s
    if l.started then bs.foldl (fun (s : State) x => s.resumeBlock l.id x.1.idx) s else s

/-- Claim the next block with the rest of its cohort: one fetch-add for each (R315, R322) (log 81, DEDUCED, safe). -/
def State.claim (s : State) (l : Launch) (core pair : Nat) : State :=
  match s.claimPlan l core pair with
  | none => s
  | some ps => (s.modLaunch l.id (fun l => { l with ticket := l.ticket + ps.length })).placeBlocks l l.ticket ps

/-- An ADMIT_ALL grid is placed at once, or waits (R324). -/
def State.claimAll (s : State) (l : Launch) : State :=
  match s.placeAll l.pasid l.lr s.standing with
  | none => s
  | some ps => (s.modLaunch l.id (fun l => { l with ticket := l.lr.nblk, started := true })).placeBlocks l 0 ps

/-- An agent works for a launch: firmware runs, the interface is not in ERROR, the launch is neither over nor being saved, and no page
fetched at once for it is still to come, nor, before a re-planted launch starts, a shoot-down of its PASID (R365 step 1, R366). -/
def State.agentFor (s : State) (l : Launch) : Bool :=
  s.ready && s.tdi != .error && (!l.done || !l.started) && !l.frozen && !s.fetches.any (·.launch == some l.id)
    && !(l.recAddr.isNone && !l.started && s.maint.any (fun m => match m.op with
      | .shootdown 1 p _ _ _ => p == l.pasid
      | _ => false))

/-- The device as it would be if no other launch stood on it. -/
def State.alone (s : State) (l : Launch) : State :=
  { s with
    blocks := s.blocks.filter (·.launch == l.id)
    pairs := s.pairs.map (fun p => if p.holder.any (·.1 != l.id) then { p with holder := none } else p) }

/-- An imaged-out block finds a place. -/
def State.plantable (s : State) (l : Launch) (b : Block) : Bool := (s.places l.lr).any (fun p => (s.plantPlan l b p.1 p.2).isSome)

/-- Each recorded block of a re-planted launch stands, but for those for which its other blocks leave no room on this part (R331, R365
step 2) (log 127, DEDUCED, safe). -/
def State.mayStart (s : State) (l : Launch) : Bool := (s.outBlocks l).all (fun b => !l.lr.admitall && !(s.alone l).plantable l b)

/-- The block of a re-planted launch that is placed next: one that finds a place, before the others one that has something to do. -/
def State.nextRecorded (s : State) (l : Launch) : Option Block :=
  let out := s.outBlocks l
  let busy (b : Block) : Bool := s.wantsCore b || s.cmds.any (fun c => inBlock c.ref b.launch b.idx)
  ((out.filter busy ++ out).find? (s.plantable l)).orElse (fun _ => out.head?)

/-- What an agent places next of a launch: an ADMIT_ALL grid as a whole, a block that was imaged out, or the next of the ticket. -/
inductive ToPlace where
  | whole
  | out (b : Block)
  | next
  /-- a re-planted launch starts (R365 step 6) -/
  | start
  | nothing
  deriving DecidableEq, Repr

/-- What is to be placed of a launch (R315, R322-R324, R331): what was imaged out and has something to do, else the next block of the
grid, else anything imaged out. -/
def State.toPlace (s : State) (l : Launch) : ToPlace :=
  if !s.agentFor l || s.heldForAll l then .nothing
  else if l.lr.admitall && !l.started && l.ticket = 0 then .whole
  else if !l.started then
    if s.mayStart l then .start
    else match s.nextRecorded l with
      | some b => .out b
      | none => .nothing
  else
    match (s.outBlocks l).find? s.wantsCore with
    | some b => .out b
    | none =>
      if l.ticket < l.lr.nblk then .next
      else
        match s.outBlocks l with
        | b :: _ => .out b
        | [] => .nothing

/-- A context is over when its grids are, and no child waits: its packet completes DONE (R313, R334). -/
def State.finishContext (s : State) (id : Nat) : State :=
  let ctx := s.context id
  let over_ (i : Nat) : Bool := (s.launch? i).any (·.done)
  if ctx.all over_ && !s.children.any (fun c => ctx.contains c.parent) then
    match s.launch? (s.root id) with
    | none => s
    | some l =>
      let s := s.removeLaunches ctx
      match l.packet with
      | some (q, i) => (s.endSaves q i 1 22).packetDone q i 0 0
      | none => s
  else s

/-- A re-planted launch starts (R365): its deterministic entries are written back, its engines' work is issued again, its threads may issue,
and what its barriers and meeting points waited for in vain while it was away is looked at (R328, R331). -/
def State.startReplanted (s : State) (id : Nat) : State :=
  match s.launch? id with
  | none => s
  | some l =>
    let mine := (s.blocks.filter (fun b => b.launch == id && b.life == .placed)).map (·.idx)
    let s := (s.blocks.filter (·.launch == id)).foldl (fun (s : State) b => s.restoreLog l b) s
    let s := mine.foldl (fun (s : State) b => s.resumeBlock id b) (s.modLaunch id (fun l => { l with started := true }))
    ((mine.foldl (fun (s : State) b => s.settleBars id b) s).settleWide id).finishContext id

/-- BLOCK_CLAIM (R315, R322-R324, R331): an agent reads the cap table and places what is to be placed next of a launch (log 83, DEDUCED, safe). -/
def execBlockClaim (launch core pair : Nat) (s : State) : Out :=
  match s.launch? launch with
  | none => .next s
  | some l =>
    match s.toPlace l with
    | .whole => .next (s.readCaps.claimAll l)
    | .out b => .next (s.readCaps.tryPlant l b core pair)
    | .next => .next (s.readCaps.claim l core pair)
    | .start => .next (s.startReplanted launch)
    | .nothing => .next s

/-- The first place that serves what is to be placed next of a launch. -/
def State.placeFor (s : State) (l : Launch) : Option (Nat × Nat) :=
  let at_ (f : Nat × Nat → Bool) : Option (Nat × Nat) := (s.places l.lr).find? f
  match s.toPlace l with
  | .whole => if (s.placeAll l.pasid l.lr s.standing).isSome then some (0, 0) else none
  | .out b => at_ (fun p => (s.plantPlan l b p.1 p.2).isSome)
  | .next => at_ (fun p => (s.claimPlan l p.1 p.2).isSome)
  | .start => some (0, 0)
  | .nothing => none

/-- A launch under MIGRATE has a block to place and finds no place for it (R323). -/
def State.lacksPlace (s : State) (l : Launch) : Bool :=
  !l.lr.admitall && s.toPlace l != .nothing && (s.placeFor l).isNone

/-! Retiring and the end of a grid. -/

/-- The Proofer works on a block (R348). -/
def State.proofed (s : State) (launch blk : Nat) : Bool :=
  ((s.launch? launch).bind (·.proofer)).any (·.blocks.contains blk)

/-- A block may retire (R132, R228): every thread has exited, every entry of its future table is complete, no arrival is held and no
matrix command of it is queued (log 87, DEDUCED, safe). -/
def State.retires (s : State) (b : Block) : Bool :=
  b.life == .placed && !(s.launch? b.launch).any (·.agent) && !s.proofed b.launch b.idx && (s.blockThreads b.launch b.idx).all (·.cond == .exited)
    && b.futures.all (!·.pending) && b.arrivals.isEmpty && b.reserved == 0
    && ((s.pair? b.pair).all (fun p => !p.queue.any (fun m => inBlock m.ref b.launch b.idx)))

/-- The block leaves: its cores' words reach their home slices, its reservation is given up, wide meeting points count it as
arrived. -/
def State.retire (s : State) (b : Block) : State :=
  let s := (List.range b.cores).foldl (fun (s : State) i => s.releaseCore (b.core + i)) s
  let s := s.modPair b.pair (·.release b.launch b.idx)
  let s := { s with
    blocks := s.blocks.filter (fun x => !(x.launch == b.launch && x.idx == b.idx))
    groups := s.groups.filter (fun g => !inBlock g.ref b.launch b.idx)
    threads := s.threads.filter (fun t => !inBlock t.ref b.launch b.idx) }
  let s := s.modLaunch b.launch (fun l =>
    { l with retired := b.idx :: l.retired, done := l.retired.length + 1 ≥ l.lr.nblk })
  (s.settleWide b.launch).finishContext b.launch

/-- BLOCK_RETIRE (R132, R228). -/
def execBlockRetire (launch blk : Nat) (s : State) : Out :=
  match s.block? launch blk with
  | none => .next s
  | some b => if s.retires b then .next (s.retire b) else .next s

/-! Child launches (R334). -/

/-- The first pending child of a context. -/
def State.firstChild (s : State) (root : Nat) : Option Child := s.children.find? (fun c => s.root c.parent == root)

/-- The record of a child: 512 bytes as copied, the tables as they stand now. -/
def State.childRecord (s : State) (pasid : BitVec 20) (c : Child) : State × Option (List Byte) :=
  let n := fieldAt c.bytes 0xD0 4
  if n ≤ 512 || n > 1048576 then (s, some c.bytes)
  else
    match s.readVirt 0 pasid (c.addr.toNat + 512) (n - 512) with
    | (s, some t) => (s, some (c.bytes ++ t))
    | (s, none) => (s, some c.bytes)

/-- CHILD_ADMISSION (R334): the agents admit a context's children in order; a refused one is dropped and logged. -/
def execChildAdmission (entry : Nat) (s : State) : Out :=
  match s.children.find? (·.id == entry) with
  | none => .next s
  | some c =>
    match s.launch? c.parent, s.launch? (s.root c.parent) with
    | some l, some r =>
      if !s.ready || s.tdi == .error || r.frozen || !l.started || (s.firstChild r.id).any (·.id != entry) then .next s
      else
        let (s, rec_) := s.childRecord l.pasid c
        let s := { s with children := s.children.filter (·.id != entry) }
        match s.takeOn l.pasid l.cls none (some l.id) (if c.stands then some c.addr else none) rec_ with
        | (s, none) => .next s
        | (s, some reason) => .next ((s.log .childRefused reason l.pasid c.wh 1 c.pc).finishContext l.id)
    | _, _ => .next s

/-! The watchdog (R316). -/

/-- WATCHDOG_EXPIRY: no millisecond is left of a launch with blocks placed or waiting to be placed. -/
def execWatchdogExpiry (launch : Nat) (s : State) : Out :=
  match s.launch? launch with
  | none => .next s
  | some l => if l.wdleft = 0 && !l.done then .next (s.stopContext launch .fatalContext .watchdog 0 0) else .next s

end Sys2Proof.Machine
end

