-- ==== Sys2Proof/Machine/Complete.lean ====
section
/-! DEFINITION. Events that end what a kernel waits for: the completion of long-latency instructions (01 R27, 06 R134, R136, 10 R228,
12 R296), the agent's binding of a CALLT entry (12 R295), the end of a deterministic flush (04 R104, R105). -/

namespace Sys2Proof.Machine

/-- A matrix command of a block other than a commit stands in its pair's queue (R228). -/
def State.matrixBusy (s : State) (launch blk pair : Nat) : Bool :=
  match s.pair? pair with
  | some p => p.queue.any (fun m => inBlock m.ref launch blk && match m.op with
    | .mcommit _ => false
    | _ => true)
  | none => false

/-- The values that an instruction in flight finds now, for lanes that have none: what it waits for has come about. -/
def State.found (s : State) (i : Inflight) : List (Nat × BitVec 64) :=
  let lanes := (laneList i.lanes).filter (fun l => !i.laneDone l && !i.vals.any (·.1 == l))
  match s.block? i.ref.launch i.ref.blk, s.group? i.ref with
  | some b, some g =>
    match i.wait with
    | .ready => lanes.map (fun l => (l, 0))
    | .handle hs =>
      (hs.filter (fun h => lanes.contains h.1 && (b.stale h.2 || !b.pendingHandle h.2))).map
        (fun h => (h.1, (b.statusOf h.2).setWidth 64))
    | .count cls n => if (g.outstanding.get (handleClass cls)).toNat ≤ n.toNat then lanes.map (fun l => (l, 0)) else []
    | .drain => if s.matrixBusy i.ref.launch i.ref.blk b.pair then [] else lanes.map (fun l => (l, 0))
    | _ => []
  | _, _ => []

/-- Bind what has been found; a drain that ends releases the pair (R228). -/
def State.bindFound (s : State) (i : Inflight) : State :=
  let vs := s.found i
  if vs.isEmpty then s
  else
    let s := { s with inflight := modify (·.id == i.id) (fun i => { i with vals := i.vals ++ vs }) s.inflight }
    match i.wait, s.block? i.ref.launch i.ref.blk with
    | .drain, some b => s.modPair b.pair (·.release i.ref.launch i.ref.blk)
    | _, _ => s

/-- The instruction in flight has something to complete. -/
def State.completable (s : State) (i : Inflight) : Bool := i.doneLanes != 0 || !(s.found i).isEmpty

/-- LONG_LATENCY_COMPLETE (R27, R28): the lanes whose part is done get their results. -/
def execLongLatencyComplete (op : Nat) (s : State) : Out :=
  match s.inflight.find? (·.id == op) with
  | none => .next s
  | some i => .next ((s.bindFound i).completeLanes op)

/-! The binding table (R295). -/

/-- Threads of the launches that share a binding table. -/
def sharesTable (l m : Launch) : Bool := m.pasid == l.pasid && m.lr.bindaddr == l.lr.bindaddr

/-- Threads that await an entry: sent to the resolver, or held. -/
def awaits (k : Nat) (t : Thread) : Bool :=
  match t.cond with
  | .trapped i => i = k
  | .held (.callt i) => i = k
  | _ => false

/-- The agent writes an entry's two words at its home slice, with a release at `.dev`, and every thread that awaits it executes its
CALLT again: the target with bound set, or, without a target, failed; resolving cleared. A write held for a harvest is made when the
harvest ends (R79). -/
def State.writeBinding (s : State) (launch k : Nat) (target : Option (BitVec 32)) : State :=
  match s.launch? launch with
  | none => s
  | some l =>
    if k ≥ l.lr.bindcount.toNat then s
    else
      match s.translate (clusterOf (s.launchCore launch)) l.pasid (bindAddr l.lr k) .write true with
      | (s', .ok pa _ _) =>
        let s' := s'.recallWords (lineOf pa) (wordMask pa 8)
        match Binding.ofNat (s'.mem.le pa 8) with
        | .resolving =>
          let h := s'.mem.le (pa + 4) 4
          let s := match target with
            | some t => s'.writeHome pa (leBytes t.toNat 4 ++ leBytes (2 ^ 31) 4)
            | none => s'.writeHome (pa + 4) (leBytes (h - h / 2 ^ 30 % 2 * 2 ^ 30 + 2 ^ 29) 4)
          let ls := (s.launches.filter (sharesTable l)).map (·.id)
          s.modThreads (fun t => ls.contains t.ref.launch && awaits k t) (fun t => { t with cond := .issuable })
        | _ => s'
      | (s', .fault .held) =>
        let (id, s') := s'.fresh
        { s' with
          oplog := s'.oplog ++ [⟨id, s.launchCore launch, l.pasid, .held, BitVec.ofNat 57 (bindAddr l.lr k), .binding launch k target, 0, none⟩] }
      | (s', _) => s'

/-- BINDING_RESOLVED (R295): target written, bound set, resolving cleared. -/
def execBindingResolved (launch k : Nat) (target : BitVec 32) (s : State) : Out := .next (s.writeBinding launch k (some target))

/-- BINDING_FAILED (R295): failed set, resolving cleared; the target is as it was. -/
def execBindingFailed (launch k : Nat) (s : State) : Out := .next (s.writeBinding launch k none)

/-! The end of a flush. -/

/-- FLUSH_COMPLETE (R104): every entry is applied; the threads that took part go on. -/
def execFlushComplete (launch : Nat) (s : State) : Out :=
  match s.launch? launch with
  | none => .next s
  | some l =>
    match l.flush with
    | some f => if f.left.isEmpty && f.fault.isNone then .next (s.finishFlush launch) else .next s
    | none => .next s

/-- A flush that a fault halted goes on at its entry (R105). -/
def State.resumeFlush (s : State) (launch : Nat) : State :=
  let s := { s with
    oplog := s.oplog.filter (fun e => match e.site with
      | .flush l => l != launch
      | _ => true) }
  (s.modLaunch launch (fun l => { l with flush := l.flush.map (fun f => { f with fault := none }) })).applyFlush launch

/-- FLUSH_FAULT_RESOLVED (R105). -/
def execFlushFaultResolved (launch : Nat) (s : State) : Out :=
  match (s.launch? launch).bind (·.flush) with
  | some f => if f.fault.isSome then .next (s.resumeFlush launch) else .next s
  | none => .next s

end Sys2Proof.Machine
end

