-- ==== Sys2Proof/Machine/Device.lean ====
section
/-! DEFINITION. What the device does of itself: a step of a scrubber (02 R57-R63), device reset with the check of the firmware (02 R51,
15 R380), the millisecond of the power controller (15 R388), an unassigned opcode (01 R38). -/

namespace Sys2Proof.Machine

/-! Scrubbing (R58, R59, R61, R63). -/

/-- The codeword that a scrubber reads; none where there is no main memory, or no line of the slice (R54, R58). -/
def State.codeword (s : State) : Codeword → Option ErrPlace
  | .half a => if s.inMain a then some (.half (a / 64 * 64)) else none
  | .slice a => if s.slices.any (·.line == lineOf a) then some (.slice (a / 8 * 8)) else none

/-- What a scrub of a codeword finds: the error that stands there; without one what the storage gives now, from outside the machine. -/
def State.scrubbed (s : State) (at_ : ErrPlace) (err : ErrorFound) : Option Damage :=
  match s.damage.find? (·.place == at_), err with
  | some d, _ => some d
  | none, .clean => none
  | none, .corrected => some ⟨at_, true⟩
  | none, .uncorrectable => some ⟨at_, false⟩

/-- SCRUB_STEP (R63): a correctable error is corrected and logged; an uncorrectable one is poisoned and logged as deferred. -/
def execScrubStep (codeword : Codeword) (err : ErrorFound) (s : State) : Out :=
  match s.codeword codeword with
  | none => .next s
  | some at_ =>
    match s.scrubbed at_ err with
    | none => .next s
    | some d => .next (s.meet 0 .deferred d)

/-! Reset (R51, R380). -/

/-- What a reset leaves as it was: the part, its fuses, the numbers of images written so far, what has been sent, and the model's own
count of free values (log 22, DEDUCED, unsafe). -/
def State.resetKeeping (s : State) : State :=
  { State.reset with
    part := s.part
    plimit := s.part.designLimit
    fuseMin := s.fuseMin
    nonces := s.nonces
    hostOut := s.hostOut
    frames := s.frames
    circuit := s.circuit
    freeCtr := s.freeCtr }

/-- The agents (R2, R315): one launch of the firmware's, of class 3, with a block of one group in the privileged slot of each core. The
registers of that group and its threads are the agent's store. What program it runs is the firmware's own, of which the spec gives nothing:
each thread waits, or issues at a PC that nothing fixes (log 88, DESIGN CHOICE, unsafe). -/
def firmwareRec (cores : Nat) : LaunchRec :=
  { LaunchRec.ofBytes [] with nblk := cores, cohort := 1, cores := 1, width := 32, codesize := 2 ^ 32 - 1, roles := [⟨192, 256, 1, 0⟩] }
def firmwareLaunch (id cores : Nat) : Launch :=
  { newLaunch id 0 3 none none none (firmwareRec cores) 1 with agent := true, ticket := cores, started := true }
def agentThreads (l : Launch) (fw : List Byte) (core : Nat) : List Thread :=
  (startThreads l ⟨l.id, core, 0⟩ 0).map (fun t =>
    match Config.agentPc fw core t.lane with
    | some pc => { t with pc := pc }
    | none => { t with cond := .held .firmware })
def agentGroups (p : Part) (id : Nat) : List Group :=
  (List.range (Config.cores p)).map (fun c => Group.fresh ⟨id, c, 0⟩ 0 c)

/-- The agents start. -/
def State.startAgents (s : State) (id : Nat) (fw : List Byte) : State :=
  let cores := List.range (Config.cores s.part)
  let l := firmwareLaunch id (Config.cores s.part)
  { s with
    launches := s.launches ++ [l]
    blocks := s.blocks ++ cores.map (fun c => Block.fresh l c c (c / 2))
    groups := s.groups ++ agentGroups s.part id
    threads := s.threads ++ cores.flatMap (agentThreads l fw) }

/-- The firmware runs, and its agents; its package may have raised the fuse minimum, to its own version and no higher. -/
def State.boot (s : State) (pkg : FirmwarePackage) : State :=
  let (k, s) := s.choose (pkg.version.toNat - s.fuseMin.toNat + 1)
  let (id, s) := s.fresh
  { s.startAgents id pkg.bytes with
    firmware := pkg.bytes, fwver := pkg.version, ready := true, fuseMin := s.fuseMin + BitVec.ofNat 32 k }

/-- DEVICE_RESET (R51, R380): memory is zero, no slice line valid; a package that verifies and is not too old starts the agents. -/
def execDeviceReset (pkg : FirmwarePackage) (s : State) : Out :=
  let s := s.resetKeeping
  if Config.firmwareVerifies pkg.bytes && s.fuseMin.toNat ≤ pkg.version.toNat then .next (s.boot pkg)
  else .next (s.log .fwRefused 0 0 0)

/-! The power controller (R388). -/

/-- The throttle step after a millisecond. -/
def nextThrottle (step : BitVec 3) (plimit pnow : BitVec 16) (tj : BitVec 8) : BitVec 3 :=
  if tj.toNat ≥ 105 then 5
  else if pnow.toNat > plimit.toNat || tj.toNat > 100 then (if step.toNat < 5 then step + 1 else 5)
  else if 100 * pnow.toNat < 95 * plimit.toNat && tj.toNat < 95 then (if step = 0 then 0 else step - 1)
  else step

/-- Every context stops, and the device is not ready until it is reset. -/
def State.meltdown (s : State) : State :=
  { (s.stopAll.log .thermal 0 0 0) with ready := false }

/-- THROTTLE_TICK (R388, R387, R316): a millisecond passes. -/
def execThrottleTick (pnow : BitVec 16) (tj : BitVec 8) (s : State) : Out :=
  let s := { s with
    throttle := nextThrottle s.throttle s.plimit pnow tj
    pnow := pnow
    tj := tj
    energy := s.energy + pnow.setWidth 64
    launches := modify (fun l => !l.done && !l.agent) (fun l => { l with wdleft := l.wdleft - 1 }) s.launches }
  .next (if tj.toNat ≥ 115 then s.meltdown else s)

/-! An unassigned opcode (R38). -/

/-- UNASSIGNED_OPCODE: a word whose opcode no instruction has, whatever its other bits, or whose function code none of its opcode has
(R39 rows 1 and 2); at a clause start it is no header (R25) (log 27, DEDUCED, safe) (log 28, DESIGN CHOICE, safe). -/
def execUnassignedOpcode (w : BitVec 96) (s : State) : Out :=
  match s.ctx? with
  | none => .fault .noIssuingRun
  | some c =>
    match decodeRaw (Raw.ofWord w) with
    | .error .illegalOp => .next (s.trapRun c (if c.run.start then ⟨.clauseForm, 0, 0⟩ else ⟨.illegalOp, 0, 0⟩))
    | _ => .next s

end Sys2Proof.Machine
end

