-- ==== Sys2Proof/Machine/Pages.lean ====
section
/-! DEFINITION. Pages that live elsewhere (14 R362, R366; 03 R69, R70): the leaf that serves an address whatever its V and RH hold, and
the fetch of a page, line by line, from the device that saved it into its frame. -/

namespace Sys2Proof.Machine

/-- log2 of the size of a page entry's page (R362). -/
def PageRec.log (p : PageRec) : Nat :=
  match (p.flags.extractLsb' 4 2).toNat with
  | 0 => 12
  | 1 => 16
  | 2 => 21
  | _ => 30

def PageRec.covers (p : PageRec) (va : Nat) : Bool := p.va.toNat ≤ va && va < p.va.toNat + 2 ^ p.log

/-- The leaf for an address from a table at a level down, whatever its V and RH hold (R67-R69, R366): the head of a group heads a page
of 64 KiB where C says so and it is valid, remote-home or that page's own (log 97, DEDUCED, safe). -/
def findLeaf (mem : Memory) (cap va log : Nat) : Nat → Nat → Option Leaf
  | base, 0 =>
    let head := base + 8 * (va / 2 ^ 16 % 32 * 16)
    let h := mem.le head 8
    if pteC h && (pteV h || pteRh h || log = 16) then some ⟨head, h, 0, true⟩
    else
      let a := base + 8 * levelIndex va 0
      some ⟨a, mem.le a 8, 0, false⟩
  | base, level + 1 =>
    let a := base + 8 * levelIndex va (level + 1)
    let e := mem.le a 8
    if pteP e then some ⟨a, e, level + 1, false⟩
    else match readEntry e (level + 1) cap false with
      | .table b => findLeaf mem cap va log b level
      | _ => none

/-- The leaf of a PASID's address. -/
def State.leafOf (s : State) (pasid : BitVec 20) (va log : Nat) : Option Leaf :=
  match s.pasidEntry pasid with
  | none => none
  | some p => findLeaf s.mem (Config.cap s.part) va log p.root 4

/-- The leaf that a fetched page is given (R366): V and A set, RH clear, the entry's PIN, W, X, U, G and D; the frame, C and P
stay. -/
def pageLeaf (e : Nat) (p : PageRec) : Nat :=
  let b (i j : Nat) : Nat := if p.flags.getLsbD i then 2 ^ j else 0
  pteAddr e + 2 ^ 9 * bits e 9 9 + 2 ^ 8 * bits e 8 8 + 1 + 2 ^ 5 + b 11 58 + b 10 7 + b 9 4 + b 8 3 + b 7 2 + b 6 6

/-! What R366 makes of a page. -/

/-- What R366 makes of a page's leaf. -/
inductive PageFate where
  | present | follows | rewrite | refused
  deriving DecidableEq, Repr

def State.pageFate (s : State) (pasid : BitVec 20) (p : PageRec) : PageFate :=
  match s.leafOf pasid p.va.toNat p.log with
  | none => .refused
  | some l =>
    if leafLog l.level l.c != p.log then .refused
    else if pteRh l.e then .follows
    else if pteV l.e then .present
    else if pteAddr l.e != 0 then .rewrite
    else .refused

/-- A location can be reached: the host window where it may be used, this device, or a device with a path. -/
def State.reaches (s : State) (p : PageRec) : Bool :=
  if p.host then s.fwcfg.getLsbD 1 else p.srcdev == s.devid || (s.pathTo p.srcdev p.loc.toNat).isSome

/-- A page has to follow and its location cannot be reached (R364 reason 20); one that the host has placed needs none (R366; 17 R395)
(log 171, DEDUCED, unsafe). -/
def State.lacks (s : State) (pasid : BitVec 20) (p : PageRec) : Bool := s.pageFate pasid p != .present && !s.reaches p

/-- A page that has come is put into its frame, its poison with it, and its leaf is written; not where the host has placed it since. -/
def State.landPage (s : State) (f : Fetch) : State :=
  match s.pageFate f.pasid f.page, s.leafOf f.pasid f.page.va.toNat f.page.log with
  | .follows, some l =>
    let frame := pteAddr l.e
    let s := (s.writeLines (f.bytes.length + 1) frame f.bytes).spoilAll (f.bad.map (frame + ·))
    s.writeHome l.at_ (leBytes (pageLeaf l.e f.page) 8)
  | _, _ => s

/-- The page entry that tells where an address of a PASID lives (R366). -/
def State.pageFor (s : State) (pasid : BitVec 20) (va : Nat) : Option PageRec :=
  ((s.launches.filter (·.pasid == pasid)).flatMap (·.pages)).find? (·.covers va)

/-- A page has followed: its entry is done with. -/
def State.unpage (s : State) (pasid : BitVec 20) (p : PageRec) : State :=
  { s with launches := s.launches.map (fun l => if l.pasid == pasid then { l with pages := l.pages.filter (· != p) } else l) }

/-- The addresses of an entry of the operand log that fault on pages which live elsewhere. -/
def LogEntry.away (e : LogEntry) : List Nat :=
  match e.site with
  | .instr _ reqs => (reqs.filter (·.2 == .remoteHome)).map (·.1.va.toNat)
  | _ => if e.kind == .remoteHome then [e.va.toNat] else []

/-! The fetch of a page. -/

/-- Once the pages fetched at once have come, the Starter performs a shoot-down of kind 1 for the PASID, and the launch may start
(R366). -/
def State.pagesCome (s : State) (launch : Nat) (pasid : BitVec 20) : State :=
  if s.fetches.any (·.launch == some launch) then s
  else
    let op : MaintOp := ⟨.shootdown 1 pasid 0 0 false, []⟩
    { s with maint := s.maint ++ [op] }

/-- A page has still to come. -/
def Fetch.waits (f : Fetch) : Bool := !f.lost && f.bytes.length < 2 ^ f.page.log

/-- A fetch is over. The Starter, checking an image, keeps the page. Otherwise it lands, and what waits for it is done again; a page that
cannot be had makes the faults on it unresolvable (R366); one that was to be fetched at once is left to follow (log 124, DESIGN CHOICE,
unsafe). -/
def State.endFetch (s : State) (f : Fetch) : State :=
  match f.early with
  | some _ => s
  | none =>
    let held := s.oplog.filter (fun e => e.pasid == f.pasid && e.away.any f.page.covers)
    let s := { s with
      fetches := s.fetches.filter (·.id != f.id)
      agenda := s.agenda ++ held.map (fun e => if f.lost then .faultUnresolvable e.id else .faultResolved e.id) }
    let s := if f.lost || !s.launches.any (·.pages.contains f.page) then s else (s.landPage f).unpage f.pasid f.page
    match f.launch with
    | some l => s.pagesCome l f.pasid
    | none => s

/-- The state of a fetch is set. -/
def State.setFetch (s : State) (f : Fetch) : State := { s with fetches := modify (·.id == f.id) (fun _ => f) s.fetches }

/-- Ask the saving device for the next line: a read that names no words, and carries the image's nonce, its PASID and the physical address
(R362; the form of the request is the model's, log 124, DESIGN CHOICE, unsafe). -/
def State.askLine (s : State) (f : Fetch) : State :=
  let a := f.page.loc.toNat + f.bytes.length
  let (t, s) := s.sendFlit f.page.srcdev 1 (a % 2 ^ 40) 0 false
    (leBytes f.page.nonce.toNat 8 ++ leBytes f.page.source.toNat 8 ++ leBytes a 8) none none 0
  s.setFetch { f with txn := some t }

/-- This device has kept a line for the context that was saved under a nonce (R362). -/
def State.keeps (s : State) (nonce : BitVec 64) (pasid : BitVec 20) (a : Nat) : Bool :=
  s.saved.any (fun x => x.nonce == nonce && x.pasid == pasid && x.frames.any (fun f => f.1 ≤ a && a + 128 ≤ f.1 + f.2))

/-- Read lines of this device's own main memory: their bytes, and the offsets of their poisoned words. -/
def State.ownLines (s : State) (pasid : BitVec 20) (a : Nat) : Nat → State × List Byte × List Nat
  | 0 => (s, [], [])
  | n + 1 =>
    let (s, bs, _) := s.readHome a 128 pasid
    let bad := ((wordsUnder a 128).filter s.poisonedHome).map (· - a)
    let (s, r, q) := s.ownLines pasid (a + 128) n
    (s, bs ++ r, bad ++ q.map (· + 128))

/-- A fetch begins: in the host window of what the host answers, on this device of its own memory, elsewhere through the fabric. -/
def State.runFetch (s : State) (f : Fetch) : State :=
  let n := 2 ^ f.page.log
  let over_ (s : State) (f : Fetch) : State := (s.setFetch f).endFetch f
  if f.page.host then
    if !s.fwcfg.getLsbD 1 then over_ s { f with lost := true }
    else
      let (s, bs) := s.freeBytes n
      over_ { s with hostOut := s.hostOut ++ [HostMsg.read f.pasid f.page.loc n] } { f with bytes := bs }
  else if f.page.srcdev = s.devid then
    if s.keeps f.page.nonce f.page.source f.page.loc.toNat then
      let (s, bs, bad) := s.ownLines f.page.source f.page.loc.toNat (n / 128)
      over_ s { f with bytes := bs, bad := bad }
    else over_ s { f with lost := true }
  else s.askLine f

/-- Fetch pages for one purpose, but for those that are being fetched for it already (log 126, DEDUCED, safe). -/
def State.startFetches (s : State) (pasid : BitVec 20) (early : Option (QueueRef × Nat)) (launch : Option Nat) (ps : List PageRec) : State :=
  let new := ps.filter (fun p => !s.fetches.any (fun f => f.pasid == pasid && f.page == p && f.early == early))
  let (s, fs) := new.foldl (fun (r : State × List Fetch) p =>
    let (id, s) := r.1.fresh
    (s, r.2 ++ [⟨id, pasid, p, [], [], none, false, early, launch⟩])) (s, [])
  fs.foldl (fun (s : State) f => s.runFetch f) { s with fetches := s.fetches ++ fs }

/-- A line has come. -/
def State.lineCame (s : State) (txn : Nat) (bs : List Byte) (ps : List Bool) : State :=
  match s.fetches.find? (·.txn == some txn) with
  | none => s
  | some f =>
    let bad := (List.range ps.length).filterMap (fun i => if ps.getD i false then some (f.bytes.length + 4 * i) else none)
    let f := { f with bytes := f.bytes ++ bs, bad := f.bad ++ bad, txn := none }
    if f.waits then s.askLine f else (s.setFetch f).endFetch f

/-- A line cannot be had: the saving device refuses, or there is no path. -/
def State.lineLost (s : State) (txn : Nat) : Option State :=
  (s.fetches.find? (·.txn == some txn)).map (fun f =>
    let f := { f with txn := none, lost := true }
    (s.setFetch f).endFetch f)

/-- The page of an address follows on demand (R366), unless the host has placed it. -/
def State.follow (s : State) (pasid : BitVec 20) (va : Nat) : State :=
  match s.pageFor pasid va with
  | none => s
  | some p => if s.pageFate pasid p == .follows then s.startFetches pasid none none [p] else s.unpage pasid p

end Sys2Proof.Machine
end

