-- ==== Sys2Proof/Machine/Faults.lean ====
section
/-! DEFINITION. What the agents make of reported page faults (03 R80; 04 R105; 06 R139, R144; 11 R270, R276; 13 R312; 14 R366). -/

namespace Sys2Proof.Machine

/-! Replay. -/

/-- Replay the logged accesses of an instruction in flight (R80): what performs is bound, what traps traps, what faults again
re-enters the log. -/
def State.replay (s : State) (op : Nat) (reqs : List (MemReq × FaultKind)) : State :=
  match s.inflight.find? (·.id == op) with
  | none => s
  | some i =>
    match s.siteOf i with
    | none => s
    | some (w, l, _, _) =>
      let mine := (reqs.map (·.1)).filter (fun q => i.lanes.getLsbD q.lane)
      let (s, res) := s.accessAll w i.dst.isSome mine
      match droppedOf res with
      | q :: _ =>
        s.stopContext l.id .fatalDevice .memUncorrectable (whereThread i.ref q.lane) ((i.pc - l.lr.codeaddr).setWidth 32)
      | [] =>
        let s := { s with
          inflight := modify (·.id == op) (fun i => { i with vals := i.vals ++ valsOf res, wait := .remote [] }) s.inflight }
        let s := s.logFaults w op i.pc i.clause (faultsOf res)
        let s := (trapsOf res).foldl (fun (s : State) x => s.trapFlight op (lanesOf [x.1]) x.2) s
        s.completeLanes op

/-- Threads that wait at their PC for a fault execute it again. -/
def State.unwait (s : State) (entry : Nat) : State :=
  s.modThreads (fun t => t.cond == .held (.fetch entry)) (fun t => { t with cond := .issuable })

/-- A command's chunk is held no longer: it is moved again (R80, R139, R270, R276). -/
def State.unfault (s : State) (cmd chunk : Nat) : State :=
  match s.cmd? cmd with
  | none => s
  | some c =>
    let s := s.modCmd cmd (fun c => { c with faulted := c.faulted.filter (· != chunk) })
    match c.kind with
    | .put => (s.dropChunk c (FabDesc.of c.desc) chunk).pumpFab cmd
    | .get => (s.dropChunk c (FabDesc.of c.desc) chunk).pumpFab cmd
    | .coll _ _ _ seq => s.pumpColl c.ref.launch seq
    | _ => s.beginCmd cmd

/-- A logged arrival is performed (R144): its command's handle completes, or its reserved entry is freed. -/
def State.rearrive (s : State) (e : LogEntry) (launch blk : Nat) (obj tag : BitVec 64) (cmd : Option Nat) : State :=
  let ended (s : State) (st : BitVec 3) : State :=
    match cmd with
    | some c => s.finishCmd c st
    | none => s.modBlock launch blk (fun b => { b with reserved := b.reserved - 1 })
  match s.arriveAt (clusterOf e.core) e.pasid obj tag with
  | (s, .counted) => ended s stDone
  | (s, .stale) => ended s stStaleBarrier
  | (s, .bad) => ended s stFault
  | (s, .poison) => s.stopContext launch .fatalDevice .memUncorrectable (whereThread ⟨launch, blk, 0⟩ 0) 0
  | (s, .fault k) =>
    let (id, s) := s.fresh
    { s with oplog := s.oplog ++ [{ e with id := id, kind := k }] }

/-- The work of an entry that has left the log is done again. -/
def State.retry (s : State) (e : LogEntry) : State :=
  match e.site with
  | .instr op reqs => s.replay op reqs
  | .fetch _ _ => s.unwait e.id
  | .ret _ _ => s.unwait e.id
  | .chunk cmd chunk => s.unfault cmd chunk
  | .signal q i =>
    match s.packets.find? (fun p => p.q == q && p.idx == i) with
    | some p => s.pumpPacket p
    | none => s
  | .arrival l b obj tag cmd => s.rearrive e l b obj tag cmd
  | .flush l => s.resumeFlush l
  | .entry l b slot => s.rewriteEntry e.core l b slot
  | .binding l k target => s.writeBinding l k target

/-- The entries of one request (R80's table): an entry, and those of other cores for the same page. -/
def State.sameRequest (s : State) (e : LogEntry) : List LogEntry :=
  s.oplog.filter (fun x => x.id == e.id
    || (x.core != e.core && x.pasid == e.pasid && x.va.toNat / 4096 == e.va.toNat / 4096 && x.kind == e.kind))

def State.dropEntries (s : State) (es : List LogEntry) : State :=
  { s with oplog := s.oplog.filter (fun x => !es.any (·.id == x.id)) }

/-- FAULT_RESOLVED (R80, R366): the agent brings what lives elsewhere, and the logged work is done again, at once or when the last of it
has come. A write held for a harvest is no agent's to resolve: it goes on when the harvest is over (R79). -/
def execFaultResolved (entry : Nat) (s : State) : Out :=
  match s.oplog.find? (·.id == entry) with
  | none => .next s
  | some e =>
    if !s.ready || (e.kind == .held && s.harvesting e.pasid) then .next s
    else
      let es := s.sameRequest e
      let away := es.flatMap LogEntry.away
      let before := s
      let s := away.foldl (fun (s : State) va => s.follow e.pasid va) s
      if before.askedHost s then .next before
      else if away.any (fun va => (s.pageFor e.pasid va).isSome) then .next s
      else .next (es.foldl (fun (s : State) e => if s.oplog.any (·.id == e.id) then (s.dropEntries [e]).retry e else s) s)

/-! Faults that cannot be resolved. -/

/-- The trap of a fault given up (R80, R339). -/
def faultTrap (k : FaultKind) : Trap := ⟨if k == .permission then .accessViolation else .pageUnresolved, k.code, 0⟩

/-- Threads waiting at their PC trap there. -/
def State.trapWaiting (s : State) (e : LogEntry) : State :=
  (s.threads.filter (fun t => t.cond == .held (.fetch e.id))).foldl
    (fun (s : State) t => s.trapThread t.ref t.lane (faultTrap e.kind) t.pc t.resume) s

/-- A member tells the others that a collective is abandoned (R276): a restart flit with bit 32 set. -/
def State.tellAbandoned (s : State) (launch seq : Nat) : State :=
  match s.launch? launch, (s.launch? launch).bind (·.lr.team) with
  | some l, some t =>
    (t.ranks.filter (· != s.devid)).foldl
      (fun (s : State) d => s.sendShort d 0x14 s.tgen (BitVec.ofNat 128 (seq % 2 ^ 32 + 2 ^ 32)) l.teamTag) s
  | _, _ => s

/-- A command whose chunk cannot be moved fails (R80, R139, R270, R276): the copy engines complete their handle with FAULT. -/
def State.failCmd (s : State) (cmd chunk : Nat) : State :=
  match s.cmd? cmd with
  | none => s
  | some c =>
    let s := s.modCmd cmd (fun c => { c with failed := true, faulted := c.faulted.filter (· != chunk) })
    match c.kind with
    | .put => (s.dropChunk c (FabDesc.of c.desc) chunk).pumpFab cmd
    | .get => (s.dropChunk c (FabDesc.of c.desc) chunk).pumpFab cmd
    | .coll ty _ kind seq => (s.tellAbandoned c.ref.launch seq).abandonColl c.ref.launch seq cmd ty kind c.desc
    | _ => s

/-- The lanes of a list, each once. -/
def reqLanes (reqs : List (MemReq × FaultKind)) : List (Nat × FaultKind) := reqs.map (fun x => (x.1.lane, x.2))

/-- The work of an entry that has left the log is given up. -/
def State.giveUp (s : State) (e : LogEntry) : State :=
  match e.site with
  | .instr op reqs => (reqLanes reqs).foldl (fun (s : State) x => s.trapFlight op (lanesOf [x.1]) (faultTrap x.2)) s
  | .fetch _ _ => s.trapWaiting e
  | .ret _ _ => s.trapWaiting e
  | .chunk cmd chunk => s.failCmd cmd chunk
  | .signal q i =>
    match s.packets.find? (fun p => p.q == q && p.idx == i) with
    | some p => if p.result.isSome then s.loseSignal p else s.packetDone q i 3 0
    | none => s
  | .arrival l b _ _ cmd =>
    match cmd with
    | some c => s.finishCmd c stFault
    | none => s.modBlock l b (fun b => { b with reserved := b.reserved - 1 })
  | .flush l =>
    match (s.launch? l).bind (·.flush) with
    | some f =>
      let wh := match f.left with
        | d :: _ => whereThread ⟨l, d.block, d.gid⟩ d.lane
        | [] => 0
      s.stopContext l .fatalContext (faultTrap e.kind).cause wh 0
    | none => s
  | .entry _ _ _ => s
  | .binding _ _ _ => s

/-- FAULT_UNRESOLVABLE (R80). -/
def execFaultUnresolvable (entry : Nat) (s : State) : Out :=
  match s.oplog.find? (·.id == entry) with
  | none => .next s
  | some e =>
    if !s.ready || e.kind == .held then .next s
    else
      .next ((s.sameRequest e).foldl
        (fun (s : State) e => if s.oplog.any (·.id == e.id) then (s.dropEntries [e]).giveUp e else s) s)

end Sys2Proof.Machine
end

