-- ==== Sys2Proof/Machine/Flits.lean ====
section
/-! DEFINITION. What flits and short flits do on arrival (11 R249-R251, R260-R267, R270, R273, R275-R277, R280, R281; 03 R73): the
relay, the check of generations, the service of a peer's accesses, the replies. -/

namespace Sys2Proof.Machine

/-! Arrival at a port. -/

/-- A short flit in answer to a flit: its transaction, its generation and its body. A relay answers in place of the device that the flit
was for (R265) (log 106, DEDUCED, safe). -/
def State.sendBack (s : State) (hdr : BitVec 128) (type : Nat) (body : BitVec 128) : State :=
  s.sendItem (.short ⟨mkHdr (hdr.extractLsb' 88 40).toNat (hdr.extractLsb' 56 32) (hdr.extractLsb' 40 16).toNat 0 false false (hdrSrc hdr)
    (hdrDst hdr) type, body⟩)

/-- A reply to a request flit, with its payload. -/
def State.sendReply (s : State) (f : Flit) (type : Nat) (psn : Bool) (payload : List Byte) : State :=
  s.sendItem (.flit ⟨mkHdr (flitOffset f) (flitGen f) (flitTxn f) ((payload.length + 3) / 4) false psn (hdrSrc f.hdr) s.devid type, payload⟩)

/-- The generations held, as a stale-reject's body tells them (R251): the first. -/
def State.heldBody (s : State) : BitVec 128 := (s.accepted.headD 0).setWidth 128

/-- A stale-reject goes back (R265, R73), and the event is logged here (log 103, DEDUCED, unsafe). -/
def State.reject (s : State) (hdr : BitVec 128) : State :=
  (s.sendBack hdr 0x12 s.heldBody).log .fatalContext Cause.remoteFatal.code 0 0

/-- An item for another device goes on through the crossbar (R261); its buffer entry is free when it leaves (R256). One that has been
relayed already goes no further. -/
def State.relay (s : State) (port type : Nat) (it : OutItem) : State :=
  if it.hdr.getLsbD 31 then s.oweCredit port type
  else
    let h := it.hdr ||| (1#128 <<< 31)
    let it' : OutItem := match it with
      | .flit f => .flit { f with hdr := h }
      | .short f => .short { f with hdr := h }
    ({ s with relaying := s.relaying ++ [(port, h)] }).sendItem it'

/-- A flit arrives at a port that is up (R261, R265): one of a generation that is not accepted goes back; one for another device is relayed;
another does what its type does. -/
def State.takeFlit (s : State) (port type : Nat) (f : Flit) (act : State → State) : State :=
  if !s.portUp port || hdrType f.hdr != type then s
  else if !s.accepted.contains (flitGen f) then (s.oweCredit port type).reject f.hdr
  else if hdrDst f.hdr != s.devid then s.relay port type (.flit f)
  else act (s.oweCredit port type)

/-- A short flit arrives at a port that is up: one for another device is relayed (log 113, DEDUCED, safe). -/
def State.takeShort (s : State) (port type : Nat) (f : ShortFlit) (act : State → State) : State :=
  if !s.portUp port || hdrType f.hdr != type then s
  else if hdrDst f.hdr != s.devid then s.relay port type (.short f)
  else act (s.oweCredit port type)

/-! The export (R266). -/

/-- What the translation of an incoming access comes to (R73). -/
inductive Served where
  | ok (pa : Nat)
  | retry
  | fatal
  deriving DecidableEq, Repr

/-- The cluster that serves a port, of which the spec says nothing: the port's number modulo the clusters, or the next one whose power is
on (log 58, DESIGN CHOICE, unsafe). -/
def State.portCluster (s : State) (port : Nat) : Nat :=
  let n := Config.clusters s.part
  (((List.range n).map (fun i => (port + i) % n)).find? (fun c => !s.gated.contains c)).getD (port % n)

/-- A place that a peer may reach: main memory. -/
def Xlat.served : Xlat → Served
  | .ok pa _ _ => if inHost pa then .fatal else .ok pa
  | _ => .fatal

/-- Translate an incoming access of n bytes at an aperture offset (R73, R266). In the serving cluster's TLB: outside the export, without
PIN, or without W on a write, a fault. On a miss it is refused, and a walk begins; if such a walk has ended in a fault, and does so still,
the refusal is the last (log 104, DEDUCED, safe). -/
def State.serveAt (s : State) (port off n : Nat) (write : Bool) : State × Served :=
  match s.exported with
  | none => (s, .fatal)
  | some t =>
    if off + n > t.expsize.toNat then (s, .fatal)
    else
      let va := (t.expbase.toNat + off) % 2 ^ 57
      let cl := s.portCluster port
      let acc : Access := if write then .write else .read
      match s.tlb.find? (·.covers cl t.exppasid va) with
      | some e =>
        if !e.pin || (write && !e.w) then (s, .fatal)
        else
          let (s', x) := s.translate cl t.exppasid va acc true
          if s.hostBarred s' then (s, .retry) else (s', x.served)
      | none =>
        let key := (cl, t.exppasid, va / 4096, write)
        let again (s : State) : State := { s with agenda := s.agenda ++ [.pageWalk cl t.exppasid (BitVec.ofNat 57 va) acc] }
        if !s.walkFails.contains key then (again s, .retry)
        else
          let told : State := { s with walkFails := s.walkFails.erase key }
          match s.walkFor cl t.exppasid va acc true with
          | (_, .ok _ _ _) => (again told, .retry)
          | (s', _) => if s.hostBarred s' then (s, .retry) else (told, .fatal)

/-- Refuse a request with a hint from 1 to 255 (R73). -/
def State.retryAfter (s : State) (f : Flit) : State :=
  let (h, s) := s.choose 255
  s.sendBack f.hdr 0x11 (BitVec.ofNat 128 (h + 1))

/-- Serve a request at an address: performed, refused, or a fault that ends the initiator's context. -/
def State.serveFlit (s : State) (port : Nat) (f : Flit) (n : Nat) (write : Bool) (act : State → Nat → State) : State :=
  match s.serveAt port (flitOffset f) n write with
  | (s, .ok pa) => act s pa
  | (s, .retry) => s.retryAfter f
  | (s, .fatal) => s.reject f.hdr

/-- The PASID that incoming accesses use. -/
def State.exportPasid (s : State) : BitVec 20 := (s.exported.map (·.exppasid)).getD 0

/-- The payload bytes that a flit's len counts, and its data with their poison. -/
def flitData (f : Flit) : List Byte × List Bool := payloadData { f with payload := f.payload.take (4 * flitLen f) }

/-! Requests (R267, R270, R273). -/

/-- The words of n bytes at their home slices go back, with their poison. -/
def State.replyWords (s : State) (f : Flit) (pasid : BitVec 20) (pa n : Nat) : State :=
  let (s, bs, _) := s.readHome pa n pasid
  let (psn, payload) := dataPayload bs ((List.range (n / 4)).map (fun i => s.poisonedRange (pa + 4 * i) 4))
  (s.notePoison pasid pa psn).sendReply f 4 psn payload

/-- Serve a line of a page to the device that re-plants a context saved here (14 R362): only under the image's nonce and PASID, and while
the frame is kept. -/
def State.servePage (s : State) (f : Flit) : State :=
  let pasid := BitVec.ofNat 20 (fieldAt f.payload 8 8)
  let a := fieldAt f.payload 16 8
  if s.keeps (BitVec.ofNat 64 (fieldAt f.payload 0 8)) pasid a then s.replyWords f pasid a 128 else s.sendBack f.hdr 0x12 s.heldBody

/-- FLIT_READ: the words at the home slice, with their poison; one that names no words asks for a page (log 124, DESIGN CHOICE, unsafe). -/
def execFlitRead (port : Nat) (f : Flit) (s : State) : Out :=
  .next (s.takeFlit port 1 f (fun s =>
    if flitLen f = 0 then s.servePage f
    else s.serveFlit port f (4 * flitLen f) false (fun s pa => s.replyWords f s.exportPasid pa (4 * flitLen f))))

/-- The bytes of a write flit: whole words, or part of a word with its count before it. -/
def flitWritten (f : Flit) : List Byte × List Bool :=
  if flitLen f = 0 then
    let n := ((f.payload.headD 0).toNat) % 4
    ((f.payload.drop 1).take n, [])
  else flitData f

/-- FLIT_WRITE: performed at the home slice, its poison with it; tracked in the export's bitmap (R78). -/
def execFlitWrite (port : Nat) (f : Flit) (s : State) : Out :=
  .next (s.takeFlit port 2 f (fun s =>
    let (bs, ps) := flitWritten f
    s.serveFlit port f bs.length true (fun s pa =>
      let s := s.writeHome pa bs
      let bad := (List.range ps.length).filterMap (fun i => if ps.getD i false then some (pa + 4 * i) else none)
      (s.spoilAll bad).sendReply f 5 false [])))

/-- The operation of an atomic flit: operation, type, operand, comparand. -/
def flitAtom (f : Flit) : Option (AtomOp × Ty × BitVec 64 × BitVec 64) :=
  let b (i : Nat) : BitVec 4 := (f.payload.getD i 0).setWidth 4
  match AtomOp.ofCode (b 0), Ty.ofCode (b 1) with
  | some op, some ty => some (op, ty, BitVec.ofNat 64 (fieldAt f.payload 8 8), BitVec.ofNat 64 (fieldAt f.payload 16 8))
  | _, _ => none

/-- FLIT_ATOMIC: the operation of R99 at the word's home slice; a poisoned word is told by psn, and nothing is written (log 102, DEDUCED,
safe). -/
def execFlitAtomic (port : Nat) (f : Flit) (s : State) : Out :=
  .next (s.takeFlit port 3 f (fun s =>
    match flitAtom f with
    | none => s.reject f.hdr
    | some (op, ty, v, cmp) =>
      s.serveFlit port f ty.size true (fun s' pa =>
        let n := ty.size
        let (s', bs, bad) := s'.readPlace pa n s'.exportPasid
        if bad then (s'.notePoison s'.exportPasid pa true).sendReply f 7 true (leBytes 1 8)
        else
          let o := BitVec.ofNat 64 (leNat bs)
          let s'' := if op == .cas && o != cmp then ((s.serveAt port (flitOffset f) n false).1.readPlace pa n s.exportPasid).1
            else s'.writeHome pa (leBytes (atomNew op ty o v cmp).toNat n)
          s''.sendReply f 7 false (leBytes o.toNat 8))))

/-! Replies (R267, R270, R273). -/

/-- The transaction that a reply answers. -/
def State.txnFor (s : State) (hdr : BitVec 128) : Option Txn :=
  s.txns.find? (fun t => t.id % 2 ^ 16 == (hdr.extractLsb' 40 16).toNat && t.dst == hdrSrc hdr)

/-- A transaction is over. -/
def State.dropTxn (s : State) (id : Nat) : State := { s with txns := s.txns.filter (·.id != id) }

/-- After a transaction has ended, a reconfiguration may go on (R280 step 2). -/
def State.endTxn (s : State) (id : Nat) : State := (s.dropTxn id).runReconf

/-- A command's transaction is over, with nothing more to do for it. -/
def State.forgetTxn (s : State) (cmd id : Nat) : State := s.modCmd cmd (fun c => { c with txns := c.txns.filter (· != id) })

/-- The value of a load from the word that a peer sent (R89). -/
def remoteValue (t : Txn) (bs : List Byte) : BitVec 64 :=
  match Ty.ofCode ((t.flit.payload.getD 0 0).setWidth 4) with
  | some ty => loadValue ty (fieldAt bs (t.flit.payload.getD 1 0).toNat ty.size)
  | none => 0

/-- A value comes for a lane of an instruction in flight, which may complete. -/
def State.arriveAndComplete (s : State) (op lane : Nat) (x : BitVec 64) : State := (s.arrive op lane x).completeLanes op

/-- The words of an FGET's piece land here (R270): a page fault holds their chunk. -/
def State.landPiece (s : State) (c : Cmd) (t : Txn) (bs : List Byte) (ps : List Bool) : State :=
  let d := FabDesc.of c.desc
  let k := d.chunkOf t
  match s.cmdSite c with
  | none => s
  | some w =>
    match s.writeWords w d.place (d.laddr + (flitOffset t.flit - d.offset)) bs ps with
    | (s, .ok _) => s.fabDone c.id t.id k
    | (s, .fault f va) => ((s.dropChunk c d k).chunkFault c w.pasid k f va).pumpFab c.id
    | (s, .bad) => ((s.modCmd c.id (fun c => { c with failed := true })).dropChunk c d k).pumpFab c.id

/-- FLIT_READ_REPLY: a load's value, or its trap on poison; a piece of an FGET; or a line of a page. -/
def execFlitReadReply (port : Nat) (f : Flit) (s : State) : Out :=
  .next (s.takeFlit port 4 f (fun s =>
    match s.txnFor f.hdr with
    | none => s
    | some t =>
      let (bs, ps) := flitData f
      let s := s.dropTxn t.id
      let s := match t.op, t.cmd with
        | some op, _ =>
          if ps.any id then s.trapFlight op (lanesOf [t.lane]) memUncorrectable else s.arriveAndComplete op t.lane (remoteValue t bs)
        | none, some cmd =>
          match s.cmd? cmd with
          | some c => s.landPiece c t bs ps
          | none => s
        | none, none => s.lineCame t.id bs ps
      s.runReconf))

/-- FLIT_WRITE_ACK: a store has been performed; or a piece of an FPUT, or a message of a collective, has been taken. -/
def execFlitWriteAck (port : Nat) (f : Flit) (s : State) : Out :=
  .next (s.takeFlit port 5 f (fun s =>
    match s.txnFor f.hdr with
    | none => s
    | some t =>
      let s := s.dropTxn t.id
      let s := match t.op, t.cmd with
        | some op, _ => s.arriveAndComplete op t.lane 0
        | none, some cmd =>
          match s.cmd? cmd with
          | some c =>
            match c.kind with
            | .put => s.fabDone cmd t.id ((FabDesc.of c.desc).chunkOf t)
            | _ => s.forgetTxn cmd t.id
          | none => s
        | none, none => s
      s.runReconf))

/-- An FATOM completes (R273): the old value lands, its acquire is made. -/
def State.endFatom (s : State) (c : Cmd) (ty : Ty) (order : Order) (old : BitVec 64) : State :=
  let s := match fatomRes c.desc with
    | some r => s.putSp c.ref.launch c.ref.blk [(r, leBytes old.toNat ty.size)]
    | none => s
  let s := if order.isAcquire then s.acquireCore c.core else s
  s.finishCmd c.id stDone

/-- The fatal device fault of an update at a peer that met poison (R267, R60). -/
def State.poisonFar (s : State) (ref : GroupRef) (lane : Nat) (pc : BitVec 32) : State :=
  s.stopContext ref.launch .fatalDevice .memUncorrectable (whereThread ref lane) pc

/-- The code offset of an instruction in flight. -/
def State.offsetOf (s : State) (i : Inflight) : BitVec 32 :=
  match s.launch? i.ref.launch with
  | some l => (i.pc - l.lr.codeaddr).setWidth 32
  | none => 0

/-- An update at a peer met poison: with a result a trap, without one the context stops. -/
def State.poisonReplied (s : State) (op lane : Nat) : State :=
  match s.inflight.find? (·.id == op) with
  | some i =>
    if i.dst.isSome then s.trapFlight op (lanesOf [lane]) memUncorrectable else s.poisonFar i.ref lane (s.offsetOf i)
  | none => s

/-- The reply to an engine's atomic: an FATOM's, or the signal of a transfer. -/
def State.fatomReplied (s : State) (c : Cmd) (txn : Nat) (old : BitVec 64) (bad : Bool) : State :=
  match c.kind with
  | .fatom _ ty order _ _ =>
    if bad then
      let pasid := match s.launch? c.ref.launch with
        | some l => l.pasid
        | none => 0
      (s.log .poisonRead 0 pasid 0).finishCmd c.id stFault
    else s.endFatom c ty order old
  | _ => if bad then s.poisonFar c.ref ((laneList c.lanes).headD 0) 0 else (s.forgetTxn c.id txn).pumpFab c.id

/-- FLIT_ATOMIC_REPLY: an old value, or poison. -/
def execFlitAtomicReply (port : Nat) (f : Flit) (s : State) : Out :=
  .next (s.takeFlit port 7 f (fun s =>
    match s.txnFor f.hdr with
    | none => s
    | some t =>
      let old := BitVec.ofNat 64 (fieldAt f.payload 0 8)
      let bad := flitPsn f
      let s := s.dropTxn t.id
      let s := match t.op, t.cmd.bind s.cmd? with
        | some op, _ => if bad then s.poisonReplied op t.lane else s.arriveAndComplete op t.lane old
        | none, some c => s.fatomReplied c t.id old bad
        | none, none => s
      s.runReconf))

/-! Collectives (R275-R277, R330). -/

/-- The launch tag in a collective flit's payload. -/
def flitTag (f : Flit) : Nat := fieldAt (flitData f).1 8 8

/-- A member's fn and n come: one that has restarted is told this device's own again (R275, R277). -/
def State.takeHead (s : State) (l : Launch) (t : Team) (seq rank : Nat) (fn : BitVec 8) (n : BitVec 32) : State :=
  let s := s.modColl l.id seq (fun x => { x with heads := (rank, fn, n) :: x.heads.filter (·.1 != rank) })
  match s.coll? l.id seq with
  | some x =>
    match x.cmd, x.heads.find? (·.1 == s.rank t), x.owes.contains (t.dev rank) with
    | some cmd, some h, true =>
      (s.modColl l.id seq (fun x => { x with owes := x.owes.filter (· != t.dev rank) })).sendHead l t (t.dev rank) seq h.2.1 h.2.2.toNat cmd
    | _, _, _ => s
  | none => s

/-- A message of a collective for a launch: kind, rank, sequence number, the bytes behind them and their poison. -/
def State.takeColl (s : State) (l : Launch) (t : Team) (f : Flit) : State :=
  let (bs, ps) := flitData f
  let kind := fieldAt bs 0 1
  let rank := fieldAt bs 1 1
  let seq := fieldAt bs 4 4
  let body := bs.drop 16
  if kind = 1 then
    let x := (l.teamTag, seq, rank)
    let s := if s.wideArrivals.contains x || seq < l.wbarseq then s else { s with wideArrivals := s.wideArrivals ++ [x] }
    s.settleWide l.id
  else if seq < l.collseq && (s.coll? l.id seq).isNone then s
  else
    let s := s.openColl l.id seq
    let s := if kind = 2 then s.takeHead l t seq rank (BitVec.ofNat 8 (fieldAt body 0 1)) (BitVec.ofNat 32 (fieldAt body 4 4))
      else if rank < t.ranks.length then s.modColl l.id seq (fun x => x.take rank (flitOffset f) body (ps.drop 4))
      else s
    s.pumpColl l.id seq

/-- FLIT_COLLECTIVE_DATA: taken for the team's launch, and acknowledged; refused while there is none (log 99, DESIGN CHOICE, unsafe) (log
115, DEDUCED, safe). -/
def execFlitCollectiveData (port : Nat) (f : Flit) (s : State) : Out :=
  .next (s.takeFlit port 6 f (fun s =>
    match s.teamLaunch (flitTag f) with
    | none => s.retryAfter f
    | some l =>
      match l.lr.team with
      | none => s.retryAfter f
      | some t => (s.takeColl l t f).sendReply f 5 false []))

/-- What a restart withdraws (R277): every partial result, and fn and n of the device that restarts (log 114, DEDUCED, safe). -/
def CollState.restart (c : CollState) (rank dev : Nat) : CollState :=
  { c with
    heads := c.heads.filter (·.1 != rank), data := [], poison := [], got := [], shared := []
    owes := if c.owes.contains dev then c.owes else dev :: c.owes }

/-- The team launch of a restart flit, its offset field telling which (log 99, DESIGN CHOICE, unsafe). -/
def State.restartLaunch (s : State) (f : ShortFlit) : Option Launch := s.teamLaunch (f.hdr.extractLsb' 88 40).toNat

/-- COLLECTIVE_RESTART (R276, R277): a member restarts a collective, which then waits for it; or gives it up. -/
def execCollectiveRestart (port : Nat) (f : ShortFlit) (s : State) : Out :=
  .next (s.takeShort port 0x14 f (fun s =>
    match s.restartLaunch f with
    | none => s
    | some l =>
      match l.lr.team with
      | none => s
      | some t =>
        let seq := (f.body.extractLsb' 0 32).toNat
        let dev := hdrSrc f.hdr
        if seq < l.collseq && (s.coll? l.id seq).isNone then s
        else if f.body.getLsbD 32 then
          ((s.openColl l.id seq).modColl l.id seq (fun x => { x with failed := true })).pumpColl l.id seq
        else s.modColl l.id seq (·.restart (t.ranks.findIdx (· == dev)) dev)))

/-! Refusals (R73, R265). -/

/-- A request has failed at the peer: its context stops (R73, R265); a page that it was to bring is lost (R366). -/
def State.failTxn (s : State) (t : Txn) : State :=
  let stop (s : State) (ref : GroupRef) (lane : Nat) (pc : BitVec 32) : State :=
    s.stopContext ref.launch .fatalContext .remoteFatal (whereThread ref lane) pc
  let s := s.dropTxn t.id
  match t.op, t.cmd with
  | some op, _ =>
    match s.inflight.find? (·.id == op) with
    | some i => stop s i.ref t.lane (s.offsetOf i)
    | none => s
  | none, some cmd =>
    match s.cmd? cmd with
    | some c => stop s c.ref ((laneList c.lanes).headD 0) 0
    | none => s
  | none, none =>
    match s.lineLost t.id, s.teamLaunch (flitTag t.flit) with
    | some s, _ => s
    | none, some l => s.stopContext l.id .fatalContext .remoteFatal 0 0
    | none, none => s

/-- RETRY_AFTER (R73): the request waits h × 64 clocks; the 1,024th refusal in a row is a failure, but of a collective's message, whose
launch may yet come (R277). -/
def execRetryAfter (port : Nat) (f : ShortFlit) (s : State) : Out :=
  .next (s.takeShort port 0x11 f (fun s =>
    match s.txnFor f.hdr with
    | none => s
    | some t =>
      if t.refused + 1 ≥ 1024 && hdrType t.flit.hdr != 6 then (s.failTxn t).runReconf
      else
        let at_ := s.clock + BitVec.ofNat 64 (64 * (f.body.extractLsb' 0 8).toNat)
        { s with
          txns := modify (fun (x : Txn) => x.id == t.id) (fun x => { x with refused := x.refused + 1, resendAt := some at_ }) s.txns }))

/-- STALE_REJECT (R265). -/
def execStaleReject (port : Nat) (f : ShortFlit) (s : State) : Out :=
  .next (s.takeShort port 0x12 f (fun s =>
    match s.txnFor f.hdr with
    | none => s
    | some t => (s.failTxn t).runReconf))

/-- A flit in flight leaves again, by the path there now is (R263); without one it waits. -/
def State.resend (s : State) (t : Txn) : State :=
  let s := s.dropTxn t.id
  let port := s.pathTo t.dst (flitOffset t.flit)
  let lost := if port.isSome then none else some (t.lost.getD s.time)
  let t' : Txn := { t with port := port, resendAt := none, lost := lost }
  let s := { s with txns := s.txns ++ [t'] }
  match port with
  | some i => s.enqueue i (.flit t.flit)
  | none => s

/-- REMOTE_RESEND (R73, R263): a refused request whose time has come, or one without a path that now has one. -/
def execRemoteResend (txn : Nat) (s : State) : Out :=
  match s.txns.find? (·.id == txn) with
  | none => .next s
  | some t =>
    match t.resendAt with
    | some c => if c.toNat ≤ s.clock.toNat then .next (s.resend t) else .next s
    | none =>
      if t.lost.isSome && (s.pathTo t.dst (flitOffset t.flit)).isSome then .next (s.resend t) else .next s

/-- REROUTE_TIMEOUT (R263): no path has appeared within 1 ms. -/
def execRerouteTimeout (txn : Nat) (s : State) : Out :=
  match s.txns.find? (·.id == txn) with
  | none => .next s
  | some t =>
    if t.lost.any s.lostPath && t.resendAt.isNone && (s.pathTo t.dst (flitOffset t.flit)).isNone then .next (s.failTxn t).runReconf
    else .next s

/-! The link's own short flits (R251, R252, R256). -/

/-- BUFFER_RELEASE: credits come back, and the far end's queue depths are told. -/
def execBufferRelease (port : Nat) (f : ShortFlit) (s : State) : Out :=
  if !s.portUp port || hdrType f.hdr != 0x10 then .next s
  else
    let back (c : Nat) : Nat := (f.body.extractLsb' (4 * c) 4).toNat
    .next (s.modPort port (fun p =>
      { p with
        credits := (List.range 4).map (fun c => p.credits.getD c 0 + back c)
        depths := (List.range 16).map (fun i => (f.body.extractLsb' (16 + 4 * i) 4).toNat) }))

/-- LINK_PROBE: its pattern says nothing. -/
def execLinkProbe (port : Nat) (f : ShortFlit) (s : State) : Out := .next (s.takeShort port 0x15 f (fun s => s))

/-! Readiness (R280 step 3, R281). -/

/-- The fields of a READY, GO or ABORT. -/
def readyKind (f : ShortFlit) : Nat := (f.body.extractLsb' 0 2).toNat
def readyGen (f : ShortFlit) : BitVec 32 := f.body.extractLsb' 32 32
def readyPlan (f : ShortFlit) : Nat := (f.body.extractLsb' 64 6).toNat

/-- A message of this kind arrives. -/
def State.takeReady (s : State) (port kind : Nat) (f : ShortFlit) (act : State → State) : State :=
  if readyKind f != kind then s else s.takeShort port 0x13 f act

/-- A message of the coordinator is for this device's reconfiguration under way, in some of its first steps. -/
def State.transFor (s : State) (f : ShortFlit) (steps : List Nat) : Option Transition :=
  s.trans.filter (fun t => steps.contains t.step && !t.gone && readyGen f == t.new && readyPlan f == t.plan
    && (s.planAt t.plan).any (fun p => planCoord p == hdrSrc f.hdr))

/-- READY: the coordinator keeps it, and goes on when it has all. -/
def execReady (port : Nat) (f : ShortFlit) (s : State) : Out :=
  .next (s.takeReady port 0 f (fun s =>
    let r := (hdrSrc f.hdr, readyGen f, readyPlan f)
    State.runReconf (if s.readies.contains r then s else { s with readies := s.readies ++ [r] })))

/-- GO: the device accepts the new generation from now on. -/
def execGo (port : Nat) (f : ShortFlit) (s : State) : Out :=
  .next (s.takeReady port 1 f (fun s =>
    match s.transFor f [3] with
    | some t =>
      let changed := ((s.planAt t.plan).map s.changedPorts).getD []
      State.runReconf { s with trans := some { t with gone := true, changed := changed, since := s.time } }
    | none => s))

/-- ABORT: the reconfiguration fails with nothing switched, also where this device drains still (log 116, DEDUCED, safe). -/
def execAbort (port : Nat) (f : ShortFlit) (s : State) : Out :=
  .next (s.takeReady port 2 f (fun s =>
    match s.transFor f [2, 3] with
    | some t => (s.failEarly t).runReconf
    | none => s))

end Sys2Proof.Machine
end

