-- ==== Sys2Proof/Machine/Crypto.lean ====
section
/-! DEFINITION. SHA-384, and ECDSA signatures over Brainpool P-384, their check and the making of one (14 R355, R363; 15 R374, R381, R382): the spec names
both and leaves them to their standards, FIPS 180-4 and RFC 5639 with FIPS 186-4 (log 142, PRESUMED, unsafe). -/

namespace Sys2Proof.Machine

/-! SHA-384. -/

/-- The eighty constants of the rounds. -/
def shaKs : List (BitVec 64) := [
  0x428A2F98D728AE22, 0x7137449123EF65CD, 0xB5C0FBCFEC4D3B2F, 0xE9B5DBA58189DBBC,
  0x3956C25BF348B538, 0x59F111F1B605D019, 0x923F82A4AF194F9B, 0xAB1C5ED5DA6D8118,
  0xD807AA98A3030242, 0x12835B0145706FBE, 0x243185BE4EE4B28C, 0x550C7DC3D5FFB4E2,
  0x72BE5D74F27B896F, 0x80DEB1FE3B1696B1, 0x9BDC06A725C71235, 0xC19BF174CF692694,
  0xE49B69C19EF14AD2, 0xEFBE4786384F25E3, 0x0FC19DC68B8CD5B5, 0x240CA1CC77AC9C65,
  0x2DE92C6F592B0275, 0x4A7484AA6EA6E483, 0x5CB0A9DCBD41FBD4, 0x76F988DA831153B5,
  0x983E5152EE66DFAB, 0xA831C66D2DB43210, 0xB00327C898FB213F, 0xBF597FC7BEEF0EE4,
  0xC6E00BF33DA88FC2, 0xD5A79147930AA725, 0x06CA6351E003826F, 0x142929670A0E6E70,
  0x27B70A8546D22FFC, 0x2E1B21385C26C926, 0x4D2C6DFC5AC42AED, 0x53380D139D95B3DF,
  0x650A73548BAF63DE, 0x766A0ABB3C77B2A8, 0x81C2C92E47EDAEE6, 0x92722C851482353B] ++ [
  0xA2BFE8A14CF10364, 0xA81A664BBC423001, 0xC24B8B70D0F89791, 0xC76C51A30654BE30,
  0xD192E819D6EF5218, 0xD69906245565A910, 0xF40E35855771202A, 0x106AA07032BBD1B8,
  0x19A4C116B8D2D0C8, 0x1E376C085141AB53, 0x2748774CDF8EEB99, 0x34B0BCB5E19B48A8,
  0x391C0CB3C5C95A63, 0x4ED8AA4AE3418ACB, 0x5B9CCA4F7763E373, 0x682E6FF3D6B2B8A3,
  0x748F82EE5DEFB2FC, 0x78A5636F43172F60, 0x84C87814A1F0AB72, 0x8CC702081A6439EC,
  0x90BEFFFA23631E28, 0xA4506CEBDE82BDE9, 0xBEF9A3F7B2C67915, 0xC67178F2E372532B,
  0xCA273ECEEA26619C, 0xD186B8C721C0C207, 0xEADA7DD6CDE0EB1E, 0xF57D4F7FEE6ED178,
  0x06F067AA72176FBA, 0x0A637DC5A2C898A6, 0x113F9804BEF90DAE, 0x1B710B35131C471B,
  0x28DB77F523047D84, 0x32CAAB7B40C72493, 0x3C9EBE0A15C9BEBC, 0x431D67C49C100D4C,
  0x4CC5D4BECB3E42B6, 0x597F299CFC657E2A, 0x5FCB6FAB3AD6FAEC, 0x6C44198C4A475817]

/-- The eight words before the first block. -/
def shaStart : List (BitVec 64) := [
  0xCBBB9D5DC1059ED8, 0x629A292A367CD507, 0x9159015A3070DD17, 0x152FECD8F70E5939,
  0x67332667FFC00B31, 0x8EB44A8768581511, 0xDB0C2E0D64F98FA7, 0x47B5481DBEFA4FA4]

/-- The bytes of a block as sixteen big-endian words, the last first. -/
def shaWords (bs : List Byte) : List (BitVec 64) :=
  ((List.range 16).map (fun i =>
    ((bs.drop (8 * i)).take 8).foldl (fun (w : BitVec 64) b => (w <<< 8) ||| b.setWidth 64) 0)).reverse

def shaSmall0 (x : BitVec 64) : BitVec 64 := x.rotateRight 1 ^^^ x.rotateRight 8 ^^^ (x >>> 7)
def shaSmall1 (x : BitVec 64) : BitVec 64 := x.rotateRight 19 ^^^ x.rotateRight 61 ^^^ (x >>> 6)
def shaBig0 (x : BitVec 64) : BitVec 64 := x.rotateRight 28 ^^^ x.rotateRight 34 ^^^ x.rotateRight 39
def shaBig1 (x : BitVec 64) : BitVec 64 := x.rotateRight 14 ^^^ x.rotateRight 18 ^^^ x.rotateRight 41

/-- The message schedule: n more words before those there are, the last first. -/
def shaSchedule : Nat → List (BitVec 64) → List (BitVec 64)
  | 0, l => l
  | n + 1, l => shaSchedule n ((shaSmall1 (l.getD 1 0) + l.getD 6 0 + shaSmall0 (l.getD 14 0) + l.getD 15 0) :: l)

/-- A round. -/
def shaRound : List (BitVec 64) → BitVec 64 × BitVec 64 → List (BitVec 64)
  | [a, b, c, d, e, f, g, h], (k, w) =>
    let t := h + shaBig1 e + ((e &&& f) ^^^ (~~~e &&& g)) + k + w
    [t + shaBig0 a + ((a &&& b) ^^^ (a &&& c) ^^^ (b &&& c)), a, b, c, d + t, e, f, g]
  | l, _ => l

/-- A block of 128 bytes. -/
def shaBlock (h : List (BitVec 64)) (bs : List Byte) : List (BitVec 64) :=
  List.zipWith (· + ·) h ((shaKs.zip (shaSchedule 64 (shaWords bs)).reverse).foldl shaRound h)

/-- A message filled up to whole blocks: a one, zeros, and its length in bits as a big-endian number of 128 bits. -/
def shaPadded (m : List Byte) : List Byte :=
  m ++ 0x80#8 :: List.replicate ((239 - m.length % 128) % 128) 0#8
    ++ (List.range 16).map (fun i => BitVec.ofNat 8 (8 * m.length / 256 ^ (15 - i)))

def shaBlocks : Nat → List Byte → List (BitVec 64) → List (BitVec 64)
  | 0, _, h => h
  | n + 1, m, h => shaBlocks n (m.drop 128) (shaBlock h (m.take 128))

/-- The digest's bytes, in its own order. -/
def shaBytes (m : List Byte) : List Byte :=
  let p := shaPadded m
  ((shaBlocks (p.length / 128) p shaStart).take 6).flatMap (fun w =>
    (List.range 8).map (fun i => w.extractLsb' (8 * (7 - i)) 8))

/-- SHA-384 of a byte string, byte k of the digest in bits [8k + 7 : 8k] (R377). -/
def sha384 (m : List Byte) : BitVec 384 :=
  BitVec.ofNat 384 ((shaBytes m).foldr (fun b n => b.toNat + 256 * n) 0)

/-! ECDSA over brainpoolP384r1 (RFC 5639): the curve y² = x³ + ax + b over the integers modulo p, its base point and its order. -/

def curveP : Nat := 0x8CB91E82A3386D280F5D6F7E50E641DF152F7109ED5456B412B1DA197FB71123ACD3A729901D1A71874700133107EC53
def curveA : Nat := 0x7BC382C63D8C150C3C72080ACE05AFA0C2BEA28E4FB22787139165EFBA91F90F8AA5814A503AD4EB04A8C7DD22CE2826
def curveB : Nat := 0x04A8C7DD22CE28268B39B55416F0447C2FB77DE107DCD2A62E880EA53EEB62D57CB4390295DBC9943AB78696FA504C11
def curveBase : Nat × Nat := (
  0x1D1C64F068CF45FFA2A63A81B7C13F6B8847A3E77EF14FE3DB7FCAFE0CBD10E8E826E03436D646AAEF87B2E247D4AF1E,
  0x8ABE1D7520F9C2A45CB1EB8E95CFD55262B70B29FEEC5864E19C054FF99129280E4646217791811142820341263C5315)
def curveOrder : Nat := 0x8CB91E82A3386D280F5D6F7E50E641DF152F7109ED5456B31F166E6CAC0425A7CF3AB6AF6B7FC3103B883202E9046565

/-- A power modulo m, by the lowest n bits of the exponent. -/
def powMod (m : Nat) : Nat → Nat → Nat → Nat
  | 0, _, _ => 1 % m
  | n + 1, x, e => (if e % 2 = 1 then x else 1) * powMod m n (x * x % m) (e / 2) % m

/-- The inverse modulo a prime of 384 bits. -/
def invMod (m x : Nat) : Nat := powMod m 384 (x % m) (m - 2)

def subMod (x y : Nat) : Nat := (x + (curveP - y % curveP)) % curveP

/-- The sum of two points; none is the point at infinity. -/
def pointAdd : Option (Nat × Nat) → Option (Nat × Nat) → Option (Nat × Nat)
  | none, q => q
  | p, none => p
  | some (x₁, y₁), some (x₂, y₂) =>
    if x₁ = x₂ ∧ (y₁ + y₂) % curveP = 0 then none
    else
      let l := if x₁ = x₂ then (3 * x₁ * x₁ + curveA) * invMod curveP (2 * y₁) % curveP
        else subMod y₂ y₁ * invMod curveP (subMod x₂ x₁) % curveP
      let x := subMod (l * l) (x₁ + x₂)
      some (x, subMod (l * subMod x₁ x) y₁)

/-- A multiple of a point, by the lowest n bits of the number. -/
def pointMul : Nat → Nat → Option (Nat × Nat) → Option (Nat × Nat)
  | 0, _, _ => none
  | n + 1, k, p => pointAdd (if k % 2 = 1 then p else none) (pointMul n (k / 2) (pointAdd p p))

/-- A big-endian number. -/
def bigEndian (bs : List Byte) : Nat := bs.foldl (fun n b => 256 * n + b.toNat) 0

/-- The signature (r, s) of a message verifies under a public key: an uncompressed point of 97 bytes; r and s big-endian (R363). -/
def ecdsaVerify (key r s msg : List Byte) : Bool :=
  let x := bigEndian ((key.drop 1).take 48)
  let y := bigEndian ((key.drop 49).take 48)
  let r := bigEndian r
  let s := bigEndian s
  let w := invMod curveOrder s
  let e := bigEndian (shaBytes msg)
  key.headD 0 == 4#8 && x < curveP && y < curveP && y * y % curveP == (x * x * x + curveA * x + curveB) % curveP
    && 0 < r && r < curveOrder && 0 < s && s < curveOrder
    && match pointAdd (pointMul 384 (e * w % curveOrder) (some curveBase)) (pointMul 384 (r * w % curveOrder) (some (x, y))) with
      | some (v, _) => v % curveOrder == r
      | none => false

/-- A number as 48 big-endian bytes. -/
def bytes48 (x : Nat) : List Byte := (leBytes x 48).reverse

/-- A secret number of the curve, from 1 to its order less 1. -/
def secretOf (x : Nat) : Nat := 1 + x % (curveOrder - 1)

/-- The image key: the public point of its pair, uncompressed (R363, R382). -/
def imageKey : List Byte :=
  let q := (pointMul 384 (secretOf Config.imageSecret) (some curveBase)).getD (0, 0)
  4#8 :: bytes48 q.1 ++ bytes48 q.2

/-- The signature of a message by the image key: r and s (R363), by the first number tried that makes neither zero. -/
def imageSignFrom (msg : List Byte) : Nat → Nat → Nat × Nat
  | _, 0 => (0, 0)
  | i, n + 1 =>
    let k := secretOf (Config.signNumber msg i)
    let r := ((pointMul 384 k (some curveBase)).getD (0, 0)).1 % curveOrder
    let s := invMod curveOrder k * (bigEndian (shaBytes msg) + r * secretOf Config.imageSecret) % curveOrder
    if r = 0 || s = 0 then imageSignFrom msg (i + 1) n else (r, s)

def imageSign (msg : List Byte) : List Byte :=
  let x := imageSignFrom msg 0 64
  bytes48 x.1 ++ bytes48 x.2

end Sys2Proof.Machine
end

