-- ==== Sys2Proof/Machine/Proofer.lean ====
section
/-! DEFINITION. The Proofer (14 R347-R350; 06 R142, R148; 10 R243; 11 R271, R277): roll-back, the forms of a canonical point, the steps
of a pre-emption up to the stop of the engines, moves and image-outs (13 R323, R331). -/

namespace Sys2Proof.Machine

/-! Region entries. -/

/-- The region record at an offset (R30); none where it cannot be read. -/
def State.recordAt (s : State) (l : Launch) (core off : Nat) : Option Nat :=
  match (s.peekWords core l.pasid ((l.lr.regaddr.toNat + off) % 2 ^ 57) 20).2 with
  | .ok (x, _) => some x
  | .error _ => none

/-! What a roll-back withdraws. -/

/-- A lane leaves an instruction in flight that has not completed for it: the last one takes the instruction with it. -/
def State.dropLane (s : State) (id lane : Nat) : State :=
  match s.inflight.find? (·.id == id) with
  | none => s
  | some i =>
    let left := setBit i.lanes lane false
    if left = 0 then
      let s := { s with
        inflight := s.inflight.filter (·.id != id)
        pairs := s.pairs.map (fun (p : Pair) =>
          { p with queue := p.queue.filter (fun m => match m.op with
            | .mcommit op => op != id
            | _ => true) }) }
      let s := s.modBlock i.ref.launch i.ref.blk (fun b =>
        { b with queues := b.queues.map (fun q =>
          { q with pushers := q.pushers.filter (· != id), poppers := q.poppers.filter (· != id) }) })
      match i.flag with
      | some f => s.modFlags i.ref i.pip i.lanes (fun m => flagDown m f.toNat)
      | none => s
    else
      let cut (w : Wait) : Wait := match w with
        | .ldsp ty ls eas => .ldsp ty ls (eas.filter (·.1 != lane))
        | .stsp n ls d => .stsp n ls (d.filter (·.1 != lane))
        | .handle hs => .handle (hs.filter (·.1 != lane))
        | .push q vs => .push q (vs.filter (·.1 != lane))
        | w => w
      { s with
        inflight := modify (·.id == id)
          (fun i => { i with lanes := left, wait := cut i.wait, vals := i.vals.filter (·.1 != lane) }) s.inflight }

/-- A lane's access stands in the operand log. -/
def State.laneLogged (s : State) (id lane : Nat) : Bool :=
  s.oplog.any (fun e => match e.site with
    | .instr op reqs => op == id && reqs.any (·.1.lane == lane)
    | _ => false)

/-- An instruction in flight that a roll-back discards for a lane: it waits for something that another step must bring, so that it has
done nothing for it; a load already issued, an access at a peer, or a queue operation whose entry has been entered or taken runs on. -/
def State.droppable (s : State) (i : Inflight) (lane : Nat) : Bool :=
  i.isRet || s.laneLogged i.id lane || match i.wait with
    | .ldsp _ _ _ => true
    | .stsp _ _ _ => true
    | .handle _ => true
    | .count _ _ => true
    | .push _ vs => vs.any (·.1 == lane)
    | .pop _ => i.popLanes.contains lane
    | .drain => true
    | .commit => true
    | _ => false

/-- A thread's instructions in flight of this kind are discarded, its logged accesses with them (R81). -/
def State.cutFlights (s : State) (ref : GroupRef) (lane : Nat) : State :=
  let ids := (s.inflight.filter (fun i => i.ref == ref && i.lanes.getLsbD lane && s.droppable i lane)).map (·.id)
  let s := ids.foldl (fun (s : State) id => s.dropLane id lane) s
  { s with
    oplog := s.oplog.filterMap (fun e => match e.site with
      | .instr op reqs =>
        if ids.contains op then
          let left := reqs.filter (·.1.lane != lane)
          if left.isEmpty then none else some { e with site := .instr op left }
        else some e
      | _ => some e) }

/-- A thread's deterministic entries since its region entry are discarded (R106). -/
def State.dropDet (s : State) (t : Thread) (seq : Nat) : State :=
  let mine (e : DetEntry) : Bool :=
    e.launch == t.ref.launch && e.block == t.ref.blk && e.gid == t.ref.gid && e.lane == t.lane && seq ≤ e.seq
  let n := (s.det.filter mine).length
  ({ s with det := s.det.filter (fun e => !mine e) }).modBlock t.ref.launch t.ref.blk (fun b => { b with detUsed := b.detUsed - n })

/-- A pending command that a roll-back discards stops as under FCANCEL, what is in flight of it completing at once, and its handle reads
CANCELLED (R132, R142, R148). -/
def State.discardCmd (s : State) (c : Cmd) : State :=
  match c.kind with
  | .copy dims dir _ =>
    let s := s.cancelCopy c dims
    (match s.cmd? c.id with
      | some c => s.landFlying c dims dir
      | none => s).finishCmd c.id stCancelled
  | .dcmp sp card => (s.stopJob c sp card.toNat).finishCmd c.id stCancelled
  | _ => s.finishCmd c.id stCancelled

/-- The engine commands that a thread issued since its region entry are discarded (R132, R142, R144, R148), and their arrivals dropped.
Matrix commands go in step 6 (R243). -/
def State.dropCmds (s : State) (t : Thread) : State :=
  let x := (t.ref.gid, t.lane)
  let mine := s.cmds.filter (fun c => c.ref == t.ref && c.inRegion.any (·.1 == t.lane))
  let held (c : Cmd) : Bool := c.inside && match c.kind with
    | .copy _ _ (some _) => true
    | _ => false
  let s := mine.foldl (fun (s : State) c => s.discardCmd c) s
  s.modBlock t.ref.launch t.ref.blk (fun b =>
    let gone := (b.arrivals.filter (fun h => h.waits.contains x)).length + (mine.filter held).length
    { b with
      arrivals := b.arrivals.filter (fun h => !h.waits.contains x)
      reserved := b.reserved - gone
      futures := b.futures.map (fun f =>
        if f.region.contains x && !(f.cls == .matrix && f.pending) then
          { f with pending := false, status := stCancelled, region := [] }
        else f) })

/-- Roll a thread back to its region entry (R347). -/
def State.rollBack (s : State) (t : Thread) (r : Region) : State :=
  let s := (s.pullThread t.ref t.lane).withdrawBar t
  let s := ((s.cutFlights t.ref t.lane).dropDet t r.seq).dropCmds t
  (s.modThread t.ref t.lane (fun t =>
    { t with
      pc := r.entry, resume := none, region := none, d := r.d, seq := r.seq, cond := .issuable, inHandler := false
      trapClause := none, stepping := false, canonical := true, aging := 0, deferred := false })).sweepLog

/-! Steps 2 to 4. -/

/-- A thread is in a clause that is being issued. -/
def State.inRun (s : State) (t : Thread) : Bool := s.runs.any (fun r => r.ref == t.ref && r.lanes.getLsbD t.lane)

/-- The instructions in flight of a thread. -/
def State.flightsOf (s : State) (t : Thread) : List Inflight :=
  s.inflight.filter (fun i => i.ref == t.ref && i.lanes.getLsbD t.lane)

/-- A wait of QPUSH, QPOP or MCOMMIT (R349). -/
def Wait.blocked : Wait → Bool
  | .push _ _ => true
  | .pop _ => true
  | .commit => true
  | _ => false

/-- A wait for presence (R90, R94). -/
def Wait.parked : Wait → Bool
  | .ldsp _ _ _ => true
  | .stsp _ _ _ => true
  | _ => false

/-- A thread inside a region that is rolled back at once (R348 step 3): held, parked, stalled on the operand log, trapped to the agent,
halted, or in its handler (log 129, DEDUCED, safe). -/
def State.cutNow (s : State) (t : Thread) : Bool :=
  t.inHandler || (match t.cond with
    | .held .kept => false
    | .held _ => true
    | .trapped _ => true
    | .halted => true
    | _ => false)
    || (s.flightsOf t).any (fun i => s.droppable i t.lane && (i.wait.blocked || i.wait.parked || s.laneLogged i.id t.lane))

/-- An access at a peer whose completion ends the thread's region is in flight: it is waited for. -/
def State.endsSoon (s : State) (t : Thread) : Bool := (s.flightsOf t).any (fun i => i.ends && !s.droppable i t.lane)

/-- The threads of a thread's group that are in its region. -/
def State.mates (s : State) (t : Thread) (r : Region) : List Thread :=
  (s.groupThreads t.ref).filter (fun u => u.region.any (·.entry == r.entry) && !u.canonical && u.cond != .exited)

/-- A roll-back takes all threads of the group that are in the region with it: the replay of what they do together needs each of them (R32;
16 R391) (log 162, DEDUCED, unsafe). -/
def State.rollBackAll (s : State) (t : Thread) (r : Region) : State :=
  (s.mates t r).foldl (fun (s : State) u => match s.thread? u.ref u.lane, u.region with
    | some v, some x => if u.lane != t.lane && s.endsSoon v then s else s.rollBack v x
    | _, _ => s) s

/-- A thread has come to the end of its region: to the entry of the next, or to EXIT. -/
def State.atEnd (s : State) (t : Thread) : Bool := t.cond == .held .kept || (t.cond == .issuable && !s.inRun t && s.atEntry t)

/-- Threads that have come to the end of their region leave it: one at EXIT has executed it, one at an entry stands at a canonical point. -/
def State.endMates (s : State) (l : List Thread) : State :=
  l.foldl (fun (s : State) u =>
    let s := s.endRegion u.ref (lanesOf [u.lane])
    if u.cond == .held .kept then (s.modThread u.ref u.lane (fun t => { t with cond := .exited, stepping := false })).afterExit u.ref
    else s.modThread u.ref u.lane (fun t => { t with canonical := true })) s

/-- A thread outside any region is at its canonical point (R349): it executes its instruction again from there. -/
def State.standFull (s : State) (t : Thread) : State :=
  ((s.withdrawBar t).modThread t.ref t.lane (fun t => { t with cond := .issuable, stepping := false, canonical := true })).sweepLog

/-- One thread is brought on (R348 steps 2 to 4, R349) (log 128, DEDUCED, safe). -/
def State.quiet (s : State) (t : Thread) : State :=
  if t.canonical || t.atWide then s
  else if t.pip.isSome then s.recallThread t.ref t.lane
  else
    match t.region with
    | some r =>
      if s.cutNow t then (if s.endsSoon t then s else s.rollBackAll t r)
      else if (s.mates t r).all s.atEnd then s.endMates (s.mates t r)
      else s
    | none =>
      match t.cond with
      | .held (.inflight id _) =>
        if s.inflight.any (fun i => i.id == id && i.wait.blocked && s.droppable i t.lane) then (s.cutFlights t.ref t.lane).standFull t else s
      | .held .exiting => s
      | .held _ => s.standFull t
      | .trapped _ => s.standFull t
      | .halted => s.standFull t
      | .issuable => if !s.inRun t && (t.inHandler || s.atEntry t) then s.standFull t else s
      | _ => s

/-- The threads of the Proofer's blocks. -/
def State.proofThreads (s : State) (launch : Nat) (blks : List Nat) : List Thread :=
  s.threads.filter (fun t => t.ref.launch == launch && blks.contains t.ref.blk)

/-- Bring every thread of the blocks on. -/
def State.quietAll (s : State) (launch : Nat) (blks : List Nat) : State :=
  (s.proofThreads launch blks).foldl (fun (s : State) t => match s.thread? t.ref t.lane with
    | some t => s.quiet t
    | none => s) s

/-- Every thread of the blocks is at a canonical point and no clause of them issues. -/
def State.allCanonical (s : State) (launch : Nat) (blks : List Nat) : Bool :=
  (s.proofThreads launch blks).all (fun t => t.canonical || t.atWide)
    && !s.runs.any (fun r => r.ref.launch == launch && blks.contains r.ref.blk)

/-- PROOFER_CLAUSE_LIMIT (R348 step 4): a thread that has not arrived after 256 clauses is rolled back, or recorded where it
stands. -/
def execProoferClauseLimit (g : GroupRef) (lane : Nat) (s : State) : Out :=
  match s.thread? g lane with
  | none => .next s
  | some t =>
    let due := ((s.launch? g.launch).bind (·.proofer)).any (fun p => p.step = 4 && p.blocks.contains g.blk)
    if !due || t.canonical || t.clauses < 256 || t.cond != .issuable || s.inRun t then .next s
    else
      match t.region with
      | some r => if s.endsSoon t then .next s else .next (s.rollBackAll t r)
      | none => .next (s.standFull t)

/-! Step 6: the engines. -/

/-- The commands of the blocks. -/
def State.proofCmds (s : State) (launch : Nat) (blks : List Nat) : List Cmd :=
  s.cmds.filter (fun c => c.ref.launch == launch && blks.contains c.ref.blk)

/-- The resume point of a copy or a transfer (R142): the lowest chunk not complete. -/
def Cmd.resumePoint (c : Cmd) (chunks : Nat) : Nat :=
  ((List.range chunks).find? (fun k => !(k < c.resume || c.chunks.contains k))).getD chunks

/-- Cut a command at its resume point: lines that it will write again lose their presence (R142); a job starts again from its card
(R148). -/
def State.cutCmd (s : State) (c : Cmd) : State :=
  let go (chunks : Nat) (lines : List Nat → List Nat) : State :=
    let k := c.resumePoint chunks
    let ls := lines ((List.range chunks).filter (k ≤ ·))
    let s := s.clearLines c.ref.launch c.ref.blk (ls.filter (fun l => !c.lines.contains l))
    s.modCmd c.id (fun c => { c with resume := k, chunks := [], faulted := [], flying := [], lines := ls })
  match c.kind with
  | .copy dims dir _ =>
    let d := CopyDesc.of dims c.desc
    go d.chunks (fun ks => if CopyDir.to_ dir == .sp then d.linesOf ks else [])
  | .get => let d := FabDesc.of c.desc; go d.chunks d.lines
  | .put => go (FabDesc.of c.desc).chunks (fun _ => [])
  | .dcmp _ _ => s.modCmd c.id (fun c => { c with faulted := [], early := true })
  | _ => s.modCmd c.id (fun c => { c with faulted := [] })

/-- A collective is stopped (R277): the other members are told, and what has come is discarded. -/
def State.stopColl (s : State) (l : Launch) (c : Cmd) (seq : Nat) : State :=
  match l.lr.team with
  | none => s
  | some t =>
    let s := (t.ranks.filter (· != s.devid)).foldl
      (fun (s : State) d => s.sendShort d 0x14 s.tgen (BitVec.ofNat 128 (seq % 2 ^ 32)) l.teamTag) s
    let s := s.modColl l.id seq (fun x => { x with data := [], poison := [], got := [], shared := [] })
    (s.withdraw c).modCmd c.id (fun c => { c with txns := [] })

/-- A dirty tile comes back from its shadow (R242, R243). The shadow carries no poison, of which R59 says nothing for tiles: a restored
tile keeps that of its home copy (log 77, DESIGN CHOICE, unsafe). -/
def Tile.restored (t : Tile) : Tile :=
  if t.dirty then { t with words := t.shadow, isInt := t.shadowInt, dirty := false } else t

/-- Matrix work of a block is abandoned: its commands read CANCELLED, dirty tiles are restored (R243). Of the bytes that an executing MLDW
or MST was writing, each of which R243 leaves old or new, none is written (log 76, DESIGN CHOICE, unsafe). -/
def State.dropMatrix (s : State) (b : Block) : State :=
  let ms := (((s.pair? b.pair).map (·.queue)).getD []).filter (fun m => inBlock m.ref b.launch b.idx)
  let s := ms.foldl (fun (s : State) m => s.finishMatrix b.pair m stCancelled) s
  s.modBlock b.launch b.idx (fun b => { b with tiles := b.tiles.map Tile.restored })

/-- Something that step 6 waits for: an FATOM, a RECONF, chunks of a transfer in flight, an access at a peer whose instruction was rolled
back, a tag or an arrival that faulted, a flush (R267, R271, R273, R284, R348). -/
def State.enginesBusy (s : State) (l : Launch) (blks : List Nat) : Bool :=
  l.flush.isSome
    || s.txns.any (fun x => match x.op with
      | some id => !s.inflight.any (·.id == id)
      | none => false)
    || (s.proofCmds l.id blks).any (fun c => match c.kind with
      | .fatom _ _ _ _ _ => true
      | .reconf _ _ => true
      | .put => !c.txns.isEmpty
      | .get => !c.txns.isEmpty
      | .copy _ _ _ => s.arrivalLogged c.id || (c.early && !c.cancel && !c.failed)
      | _ => s.arrivalLogged c.id)
    || s.oplog.any (fun e => match e.site with
      | .arrival i b _ _ _ => i == l.id && blks.contains b
      | _ => false)

/-- Copies and transfers whose work is over complete. -/
def State.endWork (s : State) (c : Cmd) : State :=
  match c.kind with
  | .copy dims dir bar =>
    let s := s.landFlying c dims dir
    match s.cmd? c.id with
    | some c => if !s.arrivalLogged c.id && c.copied dims then s.completeCopy c bar (c.moved dims && !c.cancel) else s
    | none => s
  | .dcmp _ _ => if c.failed then s.finishCmd c.id stFault else s
  | .put => s.pumpFab c.id
  | .get => s.pumpFab c.id
  | _ => s

/-- The engines of the blocks stop (R348 step 6). -/
def State.stopEngines (s : State) (l : Launch) (blks : List Nat) : State :=
  let s := (s.proofCmds l.id blks).foldl (fun (s : State) c => match c.kind with
    | .coll _ _ _ seq => s.stopColl l c seq
    | _ => s.cutCmd c) s
  let ids := (s.proofCmds l.id blks).map (·.id)
  let s := s.drainBuffers (fun e => e.launch == l.id && blks.contains e.block)
  let s := { s with
    oplog := s.oplog.filter (fun e => match e.site with
      | .chunk c _ => !ids.contains c
      | _ => true) }
  (s.blocks.filter (fun b => b.launch == l.id && blks.contains b.idx)).foldl (fun (s : State) b => s.dropMatrix b) s

/-! Step 7 of a move or an image-out. -/

/-- n entries of a register file, those that are not kept taking unspecified values (R31, R365). -/
def State.freeStore {w : Nat} (s : State) (keep : Nat → Bool) : Nat → Store w → State × Store w
  | 0, st => (s, st)
  | n + 1, st =>
    if keep n then s.freeStore keep n st
    else
      let (x, s) := s.free
      s.freeStore keep n (st.set n (x.setWidth w))

/-- A thread imaged at a region entry keeps its live-ins alone (log 130, DESIGN CHOICE, safe). -/
def State.forgetRegs (s : State) (t : Thread) (vregs : Nat) (x : Nat) : State :=
  let (s, v) := s.freeStore (fun i => x.testBit i) vregs t.vregs
  let (s, h) := s.freeStore (fun i => x.testBit (480 + i)) 16 t.handles
  let (f, s) := s.free
  let livep := BitVec.ofNat 15 (bits x 462 448)
  s.modThread t.ref t.lane (fun t =>
    { t with
      vregs := v, handles := h, preds := (t.preds &&& livep) ||| (f.setWidth 15 &&& ~~~livep)
      vpoison := t.vpoison.filter x.testBit })

/-- A thread leaves its canonical point's record behind (R347, R359). -/
def State.recorded (s : State) (t : Thread) : State :=
  match s.launch? t.ref.launch, s.group? t.ref with
  | some l, some g =>
    if t.cond == .issuable && t.resume.isNone && !t.inHandler then
      match s.entryAt l g.core t.pc with
      | some off => s.forgetRegs t (l.role g).vregs ((s.recordAt l g.core off).getD 0)
      | none => s
    else s
  | _, _ => s

/-- A block leaves its cores: its words are home, its pair is free, its weight buffers are kept for it (R243). -/
def State.uproot (s : State) (b : Block) : State :=
  let s := (List.range b.cores).foldl (fun (s : State) i => s.releaseCore (b.core + i)) s
  let held := match s.pair? b.pair with
    | some p => if p.holder == some (b.launch, b.idx) then some (p.lead, p.follow, p.poison) else none
    | none => none
  (s.modPair b.pair (·.release b.launch b.idx)).modBlock b.launch b.idx (fun b =>
    { b with life := .imagedOut, held := held })

/-- The Proofer lets its blocks go: their threads may issue, their barriers are no longer frozen. -/
def State.letGo (s : State) (launch : Nat) (blks : List Nat) : State :=
  let s := s.modThreads (fun t => t.ref.launch == launch && blks.contains t.ref.blk) (fun t => { t with canonical := false })
  let s := { s with blocks := modify (fun b => b.launch == launch && blks.contains b.idx) (fun b => { b with frozen := false }) s.blocks }
  let s := s.modLaunch launch (fun l => { l with proofer := none, frozen := false })
  (s.blocks.filter (fun b => b.launch == launch && blks.contains b.idx)).foldl (fun (s : State) b => s.settleBars launch b.idx) s

/-- The blocks leave their places with what their records carry. -/
def State.takeOut (s : State) (launch : Nat) (blks : List Nat) : State :=
  let s := (s.proofThreads launch blks).foldl (fun (s : State) t => s.recorded t) s
  let s := (s.blocks.filter (fun b => b.launch == launch && blks.contains b.idx)).foldl (fun (s : State) b => s.uproot b) s
  s.letGo launch blks

/-- A move ends: the block stands at its new place, or waits until it can (R323). -/
def State.endMove (s : State) (l : Launch) (blks : List Nat) (core pair : Nat) : State :=
  let s := s.takeOut l.id blks
  match blks with
  | i :: _ =>
    match s.launch? l.id, s.block? l.id i with
    | some l, some b => s.tryPlant l b core pair
    | _, _ => s
  | [] => s

/-! Starting. -/

/-- The Proofer begins on blocks of a launch: their barriers are frozen (R348 step 1, R329). -/
def State.startProofer (s : State) (launch : Nat) (blks : List Nat) (p : Purpose) : State :=
  let s := { s with blocks := modify (fun b => b.launch == launch && blks.contains b.idx) (fun b => { b with frozen := true }) s.blocks }
  s.modLaunch launch (fun l =>
    { l with
      proofer := some ⟨2, blks, p⟩
      frozen := l.frozen || match p with
        | .save _ _ _ _ => true
        | _ => false })

/-- A running block may be moved for a launch that lacks a place: of a MIGRATE launch of the same or a lower class (R323). -/
def State.mayMove (s : State) (m : Launch) (b : Block) : Bool :=
  match s.launch? b.launch with
  | none => false
  | some l => !l.lr.admitall && l.started && s.agentFor l && l.proofer.isNone && b.life == .placed && l.cls ≤ m.cls

/-- The device without a block. -/
def State.withoutBlock (s : State) (launch blk : Nat) : State :=
  { s with blocks := modify (fun x => x.launch == launch && x.idx == blk) (fun x => { x with life := .imagedOut }) s.blocks }

/-- A block may stand at another place once it has left its own. -/
def State.movesTo (s : State) (l : Launch) (b : Block) (core pair : Nat) : Bool :=
  let holds := (s.pair? b.pair).any (·.holder == some (b.launch, b.idx))
  ((s.withoutBlock b.launch b.idx).cohortPlan l b.idx holds [] core pair).isSome

/-- A block's move to a place makes the room that a launch lacks. -/
def State.moveHelps (s : State) (m l : Launch) (b : Block) (p : Nat × Nat) : Bool :=
  p.1 != b.core && s.movesTo l b p.1 p.2
    && (State.placeFor { s with blocks := modify (· == b) (fun b => { b with core := p.1, pair := p.2 }) s.blocks } m).isSome

/-- BLOCK_MIGRATE (R323): a running block is to move, for a launch with a block that finds no place. -/
def execBlockMigrate (launch blk core pair : Nat) (s : State) : Out :=
  match s.launch? launch, s.block? launch blk with
  | some l, some b =>
    if s.launches.any (fun m => s.lacksPlace m && s.mayMove m b) && s.movesTo l b core pair then
      .next (s.startProofer launch [blk] (.move core pair))
    else .next s
  | _, _ => .next s

/-- Blocks of a launch have not arrived and are not placed (R331). -/
def State.wantsRoom (s : State) (l : Launch) : Bool := l.started && (l.ticket < l.lr.nblk || (s.outBlocks l).any s.wantsCore)

/-- BLOCK_IMAGE_OUT (R331): a block all of whose threads wait at a wide meeting point gives up its cores (log 84, DESIGN CHOICE, safe). -/
def execBlockImageOut (launch blk : Nat) (s : State) : Out :=
  match s.launch? launch, s.block? launch blk with
  | some l, some b =>
    let ts := s.blockThreads launch blk
    if !s.agentFor l || l.proofer.isSome || b.life != .placed || !s.wantsRoom l || !ts.all (·.atWide)
        || ts.all (·.cond == .exited) then .next s
    else .next (s.startProofer launch [blk] .out)
  | _, _ => .next s

end Sys2Proof.Machine
end

