-- ==== Sys2Proof/Machine/Yarind.lean ====
section
/-! DEFINITION. The Yarind context image as a byte string (14 R352-R363; 04 R103): its sections as the state gives them, its size, the
largest size it can take (R351). -/

namespace Sys2Proof.Machine

/-- Bytes, with the offsets of the poisoned words among them (R59). -/
structure Blob where
  bytes : List Byte
  bad : List Nat
  deriving DecidableEq, Repr

def blob (bs : List Byte) : Blob := ⟨bs, []⟩
def Blob.size (b : Blob) : Nat := b.bytes.length
def Blob.app (a b : Blob) : Blob := ⟨a.bytes ++ b.bytes, a.bad ++ b.bad.map (a.size + ·)⟩
def Blob.cat (l : List Blob) : Blob := l.foldr Blob.app ⟨[], []⟩
/-- n little-endian bytes, n zero bytes, and a whole number of 8-byte words. -/
def num (n x : Nat) : Blob := blob (leBytes x n)
def gap (n : Nat) : Blob := blob (List.replicate n 0)
def up8 (n : Nat) : Nat := (n + 7) / 8 * 8
def Blob.pad (b : Blob) : Blob := b.app (gap (up8 b.size - b.size))

/-- Registers of a file, in ascending order, padded to 8; poisoned ones marked. -/
def regsBlob (m : Store 32) (bad rs : List Nat) : Blob :=
  (Blob.cat (rs.map (fun i => ⟨leBytes (m.get i).toNat 4, if bad.contains i then [0] else []⟩))).pad

/-- Words of a poisonable storage: n bytes from its start. -/
def storeBlob (m : Store 8) (bad : List Nat) (n : Nat) : Blob := ⟨m.bytes 0 n, bad.filter (· < n)⟩

/-- The bits of a list as a number, bit i for its i-th. -/
def bitsNat : List Bool → Nat
  | [] => 0
  | b :: bs => (if b then 1 else 0) + 2 * bitsNat bs

/-! Threads and groups (R358, R359). -/

/-- The form of a thread's record (R347). -/
inductive Form where
  /-- at a region entry: its region record -/
  | entry (x : Nat)
  | full
  | exited
  deriving DecidableEq, Repr

def State.formOf (s : State) (l : Launch) (g : Group) (t : Thread) : Form :=
  if t.cond == .exited then .exited
  else if t.cond == .issuable && t.resume.isNone && !t.inHandler && t.region.isNone then
    match s.entryAt l g.core t.pc with
    | some off => .entry ((s.recordAt l g.core off).getD 0)
    | none => .full
  else .full

/-- The data of a thread's record. -/
def threadData (vregs : Nat) (t : Thread) : Form → Blob
  | .exited => blob []
  | .full =>
    ((regsBlob t.vregs t.vpoison (List.range vregs)).app (num 8 t.preds.toNat)).app
      (Blob.cat ((List.range 16).map (fun i => num 8 (t.handles.get i).toNat)))
  | .entry x =>
    ((regsBlob t.vregs t.vpoison ((List.range 256).filter x.testBit)).app
      (num 8 (t.preds &&& BitVec.ofNat 15 (bits x 462 448)).toNat)).app
      (Blob.cat (((List.range 16).filter (fun i => x.testBit (480 + i))).map (fun i => num 8 (t.handles.get i).toNat)))

/-- A code offset, or all ones. -/
def offOf (l : Launch) (pc : Option (BitVec 64)) : Nat :=
  match pc with
  | some p => (p - l.lr.codeaddr).toNat % 2 ^ 32
  | none => 0xFFFFFFFF

/-- A thread record; an ENTRY record names the region entry at its pc (17 R394) (log 119, DEDUCED, safe). -/
def State.threadBlob (s : State) (l : Launch) (b : Block) (g : Group) (t : Thread) : Blob :=
  let form := s.formOf l g t
  let full := form == .full
  let data := threadData (l.role g).vregs t form
  let mask := bitsNat ((List.range 16).map (fun i => (b.bars[i]?).any (fun x => t.arrived.contains (i, x.phase))))
  let kind := match form with
    | .entry _ => 0
    | .full => 1
    | .exited => 2
  let inhand := full && t.inHandler
  let inreg := full && t.region.isSome
  Blob.cat [
    num 2 (kind + (if inreg then 4 else 0) + (if inhand then 8 else 0)), num 2 mask,
    num 4 (t.d + (if inhand then t.trapDepth * 65536 else 0)), num 4 (offOf l (some t.pc)),
    num 4 (offOf l (if kind = 0 then some t.pc else if inreg then t.region.map (·.entry) else none)), num 8 (t.rsbase.toNat + 4 * t.d),
    num 8 t.trappc.toNat, num 4 t.trapcause.toNat, num 4 t.seq, num 4 (48 + data.size),
    num 4 (if full then offOf l (t.resume.map (·.hdr)) else 0xFFFFFFFF), data]

/-- A GROUP record. -/
def State.groupBlob (s : State) (l : Launch) (b : Block) (g : Group) : Blob :=
  let ts := Blob.cat (((List.range l.lr.width).filterMap (s.thread? g.ref)).map (s.threadBlob l b g))
  let body := Blob.cat [
    num 4 g.ref.blk, num 4 g.ref.gid, gap 16, Blob.cat ((List.range 8).map (fun i => num 8 (g.masks.get i).toNat)),
    regsBlob g.sregs g.spoison (List.range (l.role g).sregs), ts]
  (num 8 (8 + body.size)).app body

/-! Blocks (R357). -/

/-- The buffers of a block's reservation (R243): its pair's, or those kept for it. -/
def State.buffersOf (s : State) (b : Block) : Option (Store 8 × Store 8 × List Nat) :=
  if b.life == .placed then
    match s.pair? b.pair with
    | some p => if p.holder == some (b.launch, b.idx) then some (p.lead, p.follow, p.poison) else none
    | none => none
  else b.held

/-- A barrier's and a queue's word. -/
def barWord (x : Barrier) : Nat := x.phase.toNat + x.elatch % 8192 * 2 ^ 32 + x.arrivals % 8192 * 2 ^ 45
def queueWord (q : Queue) : Nat :=
  q.head % 1024 + (if q.headPh then 2 ^ 10 else 0) + q.tail % 1024 * 2 ^ 16 + (if q.tailPh then 2 ^ 26 else 0)
    + q.allow % 2048 * 2 ^ 32

/-- The words of a tile, by 256 m + n. -/
def Tile.blob (t : Tile) : Blob :=
  ⟨(List.range 32768).flatMap (fun i => leBytes (t.words.get i).toNat 4), (t.poison.filter (· < 32768)).map (4 * ·)⟩

/-- A BLOCK record. -/
def State.blockBlob (s : State) (l : Launch) (b : Block) : Blob :=
  let buf := s.buffersOf b
  let n := l.lr.scratchBytes
  let presence := (List.range (n / 1024)).map (fun j =>
    BitVec.ofNat 8 (bitsNat ((List.range 8).map (fun i => b.absent.get (8 * j + i) == 0))))
  let body := Blob.cat [
    num 4 b.idx, num 4 b.phase.toNat, num 4 (if buf.isSome then 1 else 0), num 4 b.etgen.toNat, num 4 l.lr.tiles,
    num 4 (bitsNat (b.tiles.map (·.isInt))), num 4 n, gap 28,
    Blob.cat ((List.range 16).map (fun i => num 8 (((b.bars[i]?).map barWord).getD 0))),
    Blob.cat ((List.range 16).map (fun i => num 8 (((b.queues[i]?).map queueWord).getD 0))), gap 192,
    blob presence, storeBlob b.scratch b.spoison n, Blob.cat (b.tiles.map Tile.blob),
    match buf with
    | some (a, f, bad) =>
      ⟨a.bytes 0 1048576 ++ f.bytes 0 1048576, bad.filter (· < 2097152)⟩
    | none => blob []]
  (num 8 (8 + body.size)).app body

/-! Engines (R360). -/

def engHead (kind len blk gid : Nat) (h : BitVec 64) : Blob := Blob.cat [num 4 kind, num 4 len, num 4 blk, num 4 gid, num 8 h.toNat]
/-- n descriptor words, unused ones 0. -/
def descBlob (d : List (BitVec 32)) (n : Nat) : Blob := Blob.cat ((List.range n).map (fun i => num 4 (word d i)))

/-- A COPY record: opcode, fn, object, tag, resume offset. -/
def copyBlob (c : Cmd) (op fn : Nat) (obj tag : BitVec 64) : Blob :=
  Blob.cat [
    engHead 1 0x70 c.ref.blk c.ref.gid c.handle, num 4 (op + 256 * fn), gap 4, descBlob c.desc 14, num 8 obj.toNat,
    num 8 tag.toNat, num 8 (4096 * c.resume)]

/-- The fn byte of an ACOPY (R137). -/
def copyFn (dims : BitVec 2) (dir : CopyDir) (bar : Bool) : Nat :=
  dir.code.toNat + 4 * dims.toNat + (if bar then 16 else 0)

/-- A pending command's record; commands that step 6 waits for have none. -/
def State.cmdBlob (s : State) (l : Launch) (c : Cmd) : Option Blob :=
  match c.kind with
  | .copy dims dir bar =>
    some (copyBlob c 0x90 (copyFn dims dir bar.isSome) ((bar.map (·.1)).getD 0) ((bar.map (·.2)).getD 0))
  | .put => some (copyBlob c 0xC0 0 0 0)
  | .get => some (copyBlob c 0xC1 0 0 0)
  | .dcmp sp card =>
    some (Blob.cat [engHead 2 0x28 c.ref.blk c.ref.gid c.handle, num 4 (if sp then 1 else 0), gap 4, num 8 card.toNat])
  | .coll ty op kind seq =>
    some (Blob.cat [
      engHead 3 0x40 c.ref.blk c.ref.gid c.handle, num 4 (collFn ty op kind).toNat, num 4 ((l.lr.team.map s.rank).getD 0),
      num 4 seq, gap 4, descBlob c.desc 6])
  | _ => none

/-- An entry of FUTURES (R131). -/
def futureWord (f : Future) : Nat :=
  f.gen.toNat + handleClass f.cls * 2 ^ 24 + (if f.pending then 2 ^ 26 else 0) + f.status.toNat * 2 ^ 32

def futuresBlob (b : Block) : Blob :=
  Blob.cat [
    engHead 4 0x2020 b.idx 0xFFFFFFFF 0, num 4 b.nextFuture, gap 4,
    Blob.cat ((List.range 1024).map (fun i => num 8 (((b.future? i).map futureWord).getD 0)))]

/-- The deterministic entries of a block. -/
def detBlob (b : Block) (es : List DetEntry) : Blob :=
  Blob.cat [engHead 5 (0x20 + 64 * es.length) b.idx 0xFFFFFFFF 0, num 4 es.length, gap 4,
    Blob.cat (es.map (fun e => num 64 e.toNat))]

/-- The ENGINE records of a block. -/
def State.engineBlobs (s : State) (l : Launch) (b : Block) : List Blob :=
  (s.cmds.filter (fun c => inBlock c.ref l.id b.idx)).filterMap (s.cmdBlob l)
    ++ [futuresBlob b]
    ++ (if l.lr.det then [detBlob b (globalOrder (s.det.filter (fun e => e.launch == l.id && e.block == b.idx)))] else [])

/-! The page map (R362). -/

/-- The leaves that serve pages below a table, with their virtual addresses: well formed, V set. -/
def leavesFrom (mem : Memory) (cap : Nat) (va : Nat) : Nat → Nat → List (Nat × Leaf)
  | base, 0 =>
    (List.range 32).flatMap (fun g =>
      let head := base + 128 * g
      let h := mem.le head 8
      let at_ := va + g * 2 ^ 16
      if pteC h && (pteV h || pteRh h) then
        match readEntry h 0 cap true with
        | .leaf => [(at_, ⟨head, h, 0, true⟩)]
        | _ => []
      else
        (List.range 16).filterMap (fun i =>
          let e := mem.le (head + 8 * i) 8
          match readEntry e 0 cap false with
          | .leaf => some (at_ + i * 4096, ⟨head + 8 * i, e, 0, false⟩)
          | _ => none))
  | base, level + 1 =>
    (List.range 512).flatMap (fun i =>
      let a := base + 8 * i
      let e := mem.le a 8
      let at_ := va + i * 2 ^ (12 + 9 * (level + 1))
      match readEntry e (level + 1) cap false with
      | .leaf => [(at_, ⟨a, e, level + 1, false⟩)]
      | .table b => leavesFrom mem cap at_ b level
      | .fault _ => [])

/-- The size code of a leaf's page. -/
def sizeCode (l : Leaf) : Nat :=
  match leafLog l.level l.c with
  | 12 => 0
  | 16 => 1
  | 21 => 2
  | _ => 3

/-- A page entry. -/
def State.pageEntry (s : State) (x : Nat × Leaf) : Nat :=
  let e := x.2.e
  let b (i j : Nat) : Nat := bits e i i * 2 ^ j
  let host := inHost (pteAddr e)
  (if host then 2 ^ 124 else s.devid % 16 * 2 ^ 120) + pteAddr e / 4096 * 2 ^ 64 + x.1 / 4096 % 2 ^ 45 * 2 ^ 12
    + b 58 11 + b 7 10 + b 4 9 + b 3 8 + b 2 7 + b 6 6 + sizeCode x.2 * 16

/-- The bytes of a PASID's dirty bitmap (R78). -/
def PasidEntry.bitmapBytes (p : PasidEntry) : Nat :=
  if p.dt then (p.tend - p.tbase) * 2 ^ 21 / 2 ^ ((if p.dg then 12 else 16) + 3) else 0

def State.pageMapBlob (s : State) (pasid : BitVec 20) : Blob :=
  match s.pasidEntry pasid with
  | none => gap 32
  | some p =>
    let pages := leavesFrom s.mem (Config.cap s.part) 0 p.root 4
    Blob.cat [
      num 4 ((if p.dt then 1 else 0) + (if p.dg then 2 else 0)), num 4 pages.length, num 8 p.tbase, num 8 p.tend,
      num 8 p.bitmapBytes, (blob (s.mem.bytes p.bitmap p.bitmapBytes)).pad, Blob.cat (pages.map (fun x => num 16 (s.pageEntry x)))]

/-! The other sections. -/

/-- Bytes of a PASID's memory; where they cannot be read, unspecified ones (log 123, DESIGN CHOICE, safe). -/
def State.readOrFree (s : State) (pasid : BitVec 20) (a n : Nat) : State × List Byte :=
  match s.readVirt 0 pasid a n with
  | (s, some bs) => (s, bs)
  | (s, none) => s.freeBytes n

/-- A binding table with every resolving bit clear (R355). -/
def unresolved : List Byte → List Byte
  | a :: b :: c :: d :: e :: f :: g :: h :: r => a :: b :: c :: d :: e :: f :: g :: (h &&& 0xBF#8) :: unresolved r
  | r => r

def State.codeBlob (s : State) (l : Launch) : State × Blob :=
  let r := l.lr
  let (s, code) := s.readOrFree l.pasid r.codeaddr.toNat r.codesize.toNat
  let (s, region) := s.readOrFree l.pasid r.regaddr.toNat r.regsize.toNat
  let (s, eject) := s.readOrFree l.pasid r.ejaddr.toNat (128 * r.ejcount.toNat)
  let (s, bind) := s.readOrFree l.pasid r.bindaddr.toNat (8 * r.bindcount.toNat)
  (s, Blob.cat [
    num 48 (sha384 code).toNat, num 4 r.codesize.toNat, num 4 r.regsize.toNat, num 4 r.ejcount.toNat,
    num 4 r.bindcount.toNat, (blob region).pad, (blob eject).pad, (blob (unresolved bind)).pad])

/-- The blocks that an image records, in order of their indices. -/
def State.imagedBlocks (s : State) (l : Launch) : List Block :=
  (List.range l.lr.nblk).filterMap (s.block? l.id)

/-- The pending children of a context, in issue order. -/
def State.contextChildren (s : State) (l : Launch) : List Child :=
  s.children.filter (fun c => (s.context l.id).contains c.parent)

def State.manifestBlob (s : State) (l : Launch) : Blob :=
  Blob.cat [
    num 4 l.pasid.toNat, num 4 ((if l.lr.det then 1 else 0) + (if l.lr.team.isSome then 2 else 0)),
    num 4 (s.imagedBlocks l).length, num 4 l.epoch, num 8 l.ticket, num 4 (s.contextChildren l).length, num 4 (max 1 l.wdleft),
    gap 32]

def State.fabricBlob (s : State) (l : Launch) : Blob :=
  if l.lr.team.isNone then gap 32
  else
    Blob.cat [
      num 4 s.tgen.toNat,
      num 4 ((s.plan.getD 0) % 64 + (if s.plan.isSome then 64 else 0) + s.devid % 16 * 256), num 4 l.collseq, num 4 l.wbarseq,
      gap 16]

/-! The whole image (R352, R353, R363). -/

/-- The entries of the section table, from a section's type and start on. -/
def tableFrom : Nat → Nat → List (Nat × Blob) → List Blob
  | _, _, [] => []
  | ty, off, (n, b) :: r =>
    Blob.cat [num 4 ty, num 4 n, num 8 off, num 8 b.size, gap 8] :: tableFrom (ty + 1) (off + b.size) r

/-- Header, table and section sizes. -/
def imageFixed : Nat := 0x40 + 9 * 32

/-- An image: the sections but for the signature, sealed. -/
def sealImage (nonce : Nat) (secs : List (Nat × Blob)) : Blob :=
  let total := imageFixed + (secs.map (·.2.size)).sum + 200
  let key := imageKey ++ List.replicate 7 0
  let front := Blob.cat ([num 4 0x32494359, num 4 2, num 8 total, num 4 9, gap 4, num 8 nonce, gap 32]
    ++ tableFrom 1 imageFixed (secs ++ [(1, gap 200)]) ++ secs.map (·.2) ++ [blob key])
  front.app (blob (imageSign front.bytes))

/-- The image of a launch whose blocks stand at their canonical points, under a nonce. -/
def State.image (s : State) (l : Launch) (nonce : Nat) : State × Blob :=
  let bs := s.imagedBlocks l
  let gs := bs.flatMap (fun b =>
    ((List.range l.lr.groups).filterMap (fun g => s.group? ⟨l.id, b.idx, g⟩)).map (s.groupBlob l b))
  let es := bs.flatMap (s.engineBlobs l)
  let kids := s.contextChildren l
  let (s', code) := s.codeBlob l
  (s', sealImage nonce [
    (1, s.manifestBlob l), (1, code),
    (1, Blob.cat (blob l.lr.bytes :: kids.map (fun c => blob ((c.bytes ++ List.replicate 512 0).take 512)))),
    (bs.length, Blob.cat (bs.map (s.blockBlob l))), (gs.length, Blob.cat gs), (es.length, Blob.cat es),
    (1, s.fabricBlob l), (1, s.pageMapBlob l.pasid)])

/-- The largest size that the image of a launch can take (R351 reason 21). -/
def State.largestImage (s : State) (l : Launch) : Nat :=
  let r := l.lr
  let bs := s.imagedBlocks l
  let groupSize (b : Block) (i : Nat) : Nat :=
    match s.group? ⟨l.id, b.idx, i⟩ with
    | some g =>
      let role := l.role g
      0x60 + up8 (4 * role.sregs)
        + ((s.groupThreads g.ref).map (fun t => 48 + if t.cond == .exited then 0 else up8 (4 * role.vregs) + 136)).sum
    | none => 0
  let blockSize (b : Block) : Nat :=
    0x200 + r.scratchBytes / 1024 + r.scratchBytes + r.tiles * 131072 + (if (s.buffersOf b).isSome then 2097152 else 0)
      + ((List.range r.groups).map (groupSize b)).sum
      + ((s.cmds.filter (fun c => inBlock c.ref l.id b.idx)).map (fun c => ((s.cmdBlob l c).map (·.size)).getD 0)).sum
      + 0x2020 + (if r.det then 0x20 + 64 * detShare r else 0)
  imageFixed + 64 + (0x40 + up8 r.regsize.toNat + 128 * r.ejcount.toNat + 8 * r.bindcount.toNat)
    + (r.bytes.length + 512 * (s.contextChildren l).length) + (bs.map blockSize).sum + 32 + (s.pageMapBlob l.pasid).size + 200

end Sys2Proof.Machine
end

