-- ==== Sys2Proof/Machine/ImageForm.lean ====
section
/-! DEFINITION. What an image must hold to be read (14 R352-R364 reason 16): the header, the section table, and every record's lengths,
res0 bits and field values. -/

namespace Sys2Proof.Machine

/-- A section of an image: its type's line of the table. -/
structure Sec where
  count : Nat
  off : Nat
  len : Nat
  deriving DecidableEq, Repr

def secOf (bs : List Byte) (ty : Nat) : Sec :=
  let a := 0x40 + 32 * (ty - 1)
  ⟨fieldAt bs (a + 4) 4, fieldAt bs (a + 8) 8, fieldAt bs (a + 16) 8⟩

/-- n bytes at an offset are zero. -/
def zeroAt (bs : List Byte) (off n : Nat) : Bool := fieldAt bs off n == 0

/-- Header and table (R352, R353): the sections stand in order, each at a multiple of 8, within the image. -/
def headOk (bs : List Byte) : Bool :=
  let f := fieldAt bs
  f 0 4 == 0x32494359 && f 4 4 == 2 && f 8 8 == bs.length && f 0x10 4 == 9 && zeroAt bs 0x14 4 && zeroAt bs 0x20 32
    && imageFixed ≤ bs.length
    && (List.range 9).all (fun i =>
      let s := secOf bs (i + 1)
      let prev := if i = 0 then imageFixed else (secOf bs i).off + (secOf bs i).len
      f (0x40 + 32 * i) 4 == i + 1 && zeroAt bs (0x40 + 32 * i + 24) 8 && s.off % 8 == 0 && prev ≤ s.off
        && s.off + s.len ≤ bs.length && ((i = 3 || i = 4 || i = 5) || s.count == 1))

/-- The offsets of the records of a section, by a length found in each: count of them, ending with the section. -/
def recsFrom (len : Nat → Nat) (stop : Nat) : Nat → Nat → Option (List Nat)
  | 0, off => if off = stop then some [] else none
  | n + 1, off =>
    let k := len off
    if k < 8 || k % 8 != 0 || off + k > stop then none else (recsFrom len stop n (off + k)).map (off :: ·)

def blockRecs (bs : List Byte) : Option (List Nat) :=
  let s := secOf bs 4
  recsFrom (fun o => fieldAt bs o 8) (s.off + s.len) s.count s.off
def groupRecs (bs : List Byte) : Option (List Nat) :=
  let s := secOf bs 5
  recsFrom (fun o => fieldAt bs o 8) (s.off + s.len) s.count s.off
def engineRecs (bs : List Byte) : Option (List Nat) :=
  let s := secOf bs 6
  recsFrom (fun o => fieldAt bs (o + 4) 4) (s.off + s.len) s.count s.off

/-- The launch record of an image, with its tables. -/
def imageRecord (bs : List Byte) : List Byte :=
  let s := secOf bs 3
  ((bs.drop s.off).take s.len).take (fieldAt bs (s.off + 0xD0) 4)

/-! The records. -/

def manifestOk (bs : List Byte) (l : LaunchRec) : Bool :=
  let a := (secOf bs 1).off
  let f (off n : Nat) : Nat := fieldAt bs (a + off) n
  (secOf bs 1).len == 64 && f 0 4 < 2 ^ 20 && f 4 4 < 4 && (bits (f 4 4) 1 1 == 1) == l.team.isSome && (bits (f 4 4) 0 0 == 1) == l.det
    && f 8 4 == (secOf bs 4).count && f 0x10 8 ≤ l.nblk && f 0x1C 4 != 0 && zeroAt bs (a + 0x20) 32
    && (secOf bs 3).len == (imageRecord bs).length + 512 * f 0x18 4

def codeOk (bs : List Byte) (l : LaunchRec) : Bool :=
  let a := (secOf bs 2).off
  let f (off n : Nat) : Nat := fieldAt bs (a + off) n
  let bind := 0x40 + up8 l.regsize.toNat + 128 * l.ejcount.toNat
  f 0x30 4 == l.codesize.toNat && f 0x34 4 == l.regsize.toNat && f 0x38 4 == l.ejcount.toNat && f 0x3C 4 == l.bindcount.toNat
    && (secOf bs 2).len == bind + 8 * l.bindcount.toNat
    && (List.range l.bindcount.toNat).all (fun k => bits (f (bind + 8 * k) 8) 62 62 == 0)

/-- The distance from head to tail of a queue of n entries. -/
def queueHeld (n head tail : Nat) (hp tp : Bool) : Nat := if hp == tp then tail - head else n + tail - head

def queueWordOk (w : Nat) : Option (Nat × Nat × Nat) → Bool
  | none => w == 0
  | some (_, n, a0) =>
    let h := bits w 9 0
    let t := bits w 25 16
    let hp := bits w 10 10 == 1
    let tp := bits w 26 26 == 1
    bits w 63 43 == 0 && bits w 31 27 == 0 && bits w 15 11 == 0 && h < n && t < n && (if hp == tp then h ≤ t else t ≤ h)
      && queueHeld n h t hp tp + bits w 42 32 == a0

def blockRecOk (bs : List Byte) (l : LaunchRec) (ticket a : Nat) : Bool :=
  let f (off n : Nat) : Nat := fieldAt bs (a + off) n
  let n := l.scratchBytes
  f 0x10 4 < 2 && f 0 8 == 0x200 + n / 1024 + n + 131072 * l.tiles + 2097152 * f 0x10 4 && f 8 4 < ticket && f 0x18 4 == l.tiles
    && f 0x1C 4 < 2 ^ l.tiles && f 0x20 4 == n && zeroAt bs (a + 0x24) 28 && zeroAt bs (a + 0x140) 192
    && (List.range 16).all (fun i =>
      let w := f (0x40 + 8 * i) 8
      if i < l.nbar then bits w 63 58 == 0 else w == 0)
    && (List.range 16).all (fun i => queueWordOk (f (0xC0 + 8 * i) 8) l.queues[i]?)

/-- The size of a thread record's data, by its kind: the largest, and the least. -/
def dataLimits (vregs : Nat) : Nat → Nat × Nat
  | 0 => (8, up8 (4 * vregs) + 136)
  | 1 => (up8 (4 * vregs) + 136, up8 (4 * vregs) + 136)
  | _ => (0, 0)

def threadRecOk (bs : List Byte) (l : LaunchRec) (vregs a : Nat) : Bool :=
  let f (off n : Nat) : Nat := fieldAt bs (a + off) n
  let w := f 0 4
  let kind := bits w 1 0
  let d := f 4 4
  let isOff (x : Nat) : Bool := x % 12 == 0 && x < l.codesize.toNat
  let (lo, hi) := dataLimits vregs kind
  kind != 3 && bits w 15 4 == 0 && (kind == 1 || bits w 3 2 == 0) && bits w 31 16 < 2 ^ l.nbar && bits d 31 25 == 0
    && bits d 15 9 == 0 && bits d 8 0 ≤ 256 && bits d 24 16 ≤ 256 && (bits w 3 3 == 1 || bits d 24 16 == 0)
    && (kind == 2 || isOff (f 8 4))
    && (if kind == 0 then f 0x0C 4 == f 8 4 else if bits w 2 2 == 1 then isOff (f 0x0C 4) else f 0x0C 4 == 0xFFFFFFFF)
    && f 0x24 4 < 2 ^ 24 && (f 0x2C 4 == 0xFFFFFFFF || (kind == 1 && isOff (f 0x2C 4) && f 0x2C 4 < f 8 4))
    && 48 + lo ≤ f 0x28 4 && f 0x28 4 ≤ 48 + hi

/-- The thread records of a GROUP record at an offset. -/
def threadRecs (bs : List Byte) (l : LaunchRec) (role : RoleRec) (a : Nat) : Option (List Nat) :=
  recsFrom (fun o => fieldAt bs (o + 0x28) 4) (a + fieldAt bs a 8) l.width (a + 0x60 + up8 (4 * role.sregs))

/-- The role of a group of a grid (R319). -/
def LaunchRec.roleAt (l : LaunchRec) (gid : Nat) : RoleRec := l.roles.getD (l.groupRoles.getD gid 0) ⟨0, 0, 0, 0⟩

def groupRecOk (bs : List Byte) (l : LaunchRec) (blks : List Nat) (a : Nat) : Bool :=
  let gid := fieldAt bs (a + 0x0C) 4
  blks.contains (fieldAt bs (a + 8) 4) && gid < l.groups && zeroAt bs (a + 0x10) 16
    && match threadRecs bs l (l.roleAt gid) a with
      | some ts => ts.all (threadRecOk bs l (l.roleAt gid).vregs)
      | none => false

/-- A COPY, DCMP or COLL body. -/
def engineBodyOk (bs : List Byte) (l : LaunchRec) (a : Nat) : Bool :=
  let f (off n : Nat) : Nat := fieldAt bs (a + off) n
  let len := f 4 4
  match f 0 4 with
  | 1 =>
    let op := f 0x18 1
    let fn := f 0x19 1
    len == 0x70 && f 0x0C 4 < l.groups && zeroAt bs (a + 0x1A) 6 && f 0x68 8 % 4096 == 0
      && (if op == 0x90 then fn < 32 && (bits fn 4 4 == 1 || (f 0x58 8 == 0 && f 0x60 8 == 0))
          else (op == 0xC0 || op == 0xC1) && fn == 0 && f 0x58 8 == 0 && f 0x60 8 == 0)
  | 2 => len == 0x28 && f 0x0C 4 < l.groups && f 0x18 4 < 2 && zeroAt bs (a + 0x1C) 4
  | 3 =>
    len == 0x40 && f 0x0C 4 < l.groups && f 0x18 4 < 256 && zeroAt bs (a + 0x24) 4 && l.team.isSome
      && (match Ty.ofCode (BitVec.ofNat 4 (bits (f 0x18 1) 7 4)) with
          | some t => t.isGroup
          | none => false)
      && bits (f 0x18 1) 3 2 != 3
  | 4 =>
    len == 0x2020 && f 0x0C 4 == 0xFFFFFFFF && zeroAt bs (a + 0x10) 8 && f 0x18 4 < 1024 && zeroAt bs (a + 0x1C) 4
      && (List.range 1024).all (fun i =>
        let w := f (0x20 + 8 * i) 8
        bits w 63 35 == 0 && bits w 31 27 == 0 && bits w 34 32 ≤ 5)
  | 5 =>
    l.det && f 0x0C 4 == 0xFFFFFFFF && zeroAt bs (a + 0x10) 8 && len == 0x20 + 64 * f 0x18 4 && zeroAt bs (a + 0x1C) 4
      && (List.range (f 0x18 4)).all (fun i =>
        let w := f (0x20 + 64 * i) 64
        bits w 326 320 == 0 && bits w 208 0 == 0 && (AtomOp.ofCode (BitVec.ofNat 4 (bits w 216 213))).isSome
          && (Ty.ofCode (BitVec.ofNat 4 (bits w 212 209))).isSome)
  | _ => false

def enginesOk (bs : List Byte) (l : LaunchRec) (blks : List Nat) (recs : List Nat) : Bool :=
  let of_ (kind b : Nat) : Nat := (recs.filter (fun a => fieldAt bs a 4 == kind && fieldAt bs (a + 8) 4 == b)).length
  recs.all (fun a => blks.contains (fieldAt bs (a + 8) 4) && engineBodyOk bs l a)
    && blks.all (fun b => of_ 4 b == 1 && of_ 5 b == (if l.det then 1 else 0))

def fabricOk (bs : List Byte) (l : LaunchRec) : Bool :=
  let a := (secOf bs 7).off
  (secOf bs 7).len == 32 && zeroAt bs (a + 0x10) 16
    && (if l.team.isNone then zeroAt bs a 16
        else bits (fieldAt bs (a + 4) 4) 31 12 == 0 && bits (fieldAt bs (a + 4) 4) 7 7 == 0)

/-- The page entries of an image, as numbers. -/
def pageNats (bs : List Byte) : List Nat :=
  let a := (secOf bs 8).off
  let start := a + 0x20 + up8 (fieldAt bs (a + 0x18) 8)
  (List.range (fieldAt bs (a + 4) 4)).map (fun i => fieldAt bs (start + 16 * i) 16)

def pageMapOk (bs : List Byte) : Bool :=
  let a := (secOf bs 8).off
  let f (off n : Nat) : Nat := fieldAt bs (a + off) n
  let ps := pageNats bs
  f 0 4 < 4 && f 8 8 < 2 ^ 36 && f 0x10 8 < 2 ^ 36 && (bits (f 0 4) 0 0 == 1 || f 0x18 8 == 0)
    && (secOf bs 8).len == 0x20 + up8 (f 0x18 8) + 16 * f 4 4
    && ps.all (fun x => bits x 127 124 < 2 && bits x 119 100 == 0 && bits x 63 57 == 0 && bits x 3 0 == 0)
    && rising (ps.map (bits · 56 12))

/-- Reason 16: the whole image. -/
def imageOk (bs : List Byte) : Bool :=
  headOk bs && (
    let l := LaunchRec.ofBytes (imageRecord bs)
    let sig := secOf bs 9
    512 ≤ (imageRecord bs).length && manifestOk bs l && codeOk bs l && fabricOk bs l && pageMapOk bs && sig.len == 200
      && zeroAt bs (sig.off + 0x61) 7
      && match blockRecs bs, groupRecs bs, engineRecs bs with
        | some rs, some gs, some es =>
          let blks := rs.map (fun a => fieldAt bs (a + 8) 4)
          let ids := gs.map (fun a => fieldAt bs (a + 8) 4 * 2 ^ 32 + fieldAt bs (a + 0x0C) 4)
          rs.all (blockRecOk bs l (fieldAt bs ((secOf bs 1).off + 0x10) 8)) && blks.eraseDups.length == blks.length
            && gs.length == rs.length * l.groups && gs.all (groupRecOk bs l blks) && ids.eraseDups.length == ids.length
            && enginesOk bs l blks es
        | _, _, _ => false)

end Sys2Proof.Machine
end

