-- ==== Sys2Proof/Machine/System.lean ====
section
/-! DEFINITION. The clause header (01 R25, R26), REGION (R29, R30), NOP (R37), TRAP and BRK (14 R343), RDSR and WRSR (R344,
R345). -/

namespace Sys2Proof.Machine

/-- The selections of a clause's instructions fit in the counts of its flags, 1,023 at most (R27). -/
def selectionsFit (fs : Store 16) (fx fy : BitVec 4) (body : List (BitVec 96)) : Bool :=
  let fits (f : BitVec 4) (sel : BitVec 2) : Bool :=
    f == 15 || (fs.get f.toNat).toNat + (body.filter (fun w => (Raw.ofWord w).fsel == sel)).length ≤ 1023
  fits fx 1 && fits fy 2

/-- CLAUSE (R25-R27): the clause's form, then its wait mask; the run goes on behind the header. Where a flag it waits for is
set, the clause does not start. -/
def execClause (flagX flagY : BitVec 4) (wait : BitVec 12) (s : State) : Out :=
  match s.ctx? with
  | none => .fault .noIssuingRun
  | some c =>
    if !c.run.start then .next (s.trapRun c ⟨.clauseForm, 0, 0⟩ true)
    else
      match s.checkClause c (clauseForm flagX flagY) with
      | (s, .malformed) => .next (s.trapRun c ⟨.clauseForm, 0, 0⟩)
      | (s, .stop x) => .next (s.fetchStop c x)
      | (s, .good body) =>
        if waitDone c.flags wait && selectionsFit c.flags flagX flagY body then
          .next (s.modRun (fun r =>
            { r with hdr := r.pc, pc := r.pc + 12, fx := flagX, fy := flagY, start := false, stalled := false })).rotate
        else .next s.dropRun

/-- The live-in sets of a region record (R30), as a number of 640 bits. -/
def regionRes0 (x : Nat) : Bool :=
  bits x 639 544 == 0 && bits x 511 496 == 0 && bits x 479 472 == 0 && bits x 463 463 == 0

def regionOf (x : Nat) (entry : BitVec 64) (t : Thread) (serial : Nat) : Region where
  entry := entry
  livev := BitVec.ofNat 256 (bits x 255 0)
  lives := BitVec.ofNat 192 (bits x 447 256)
  livep := BitVec.ofNat 15 (bits x 462 448)
  livem := BitVec.ofNat 8 (bits x 471 464)
  liveh := BitVec.ofNat 16 (bits x 495 480)
  livea := BitVec.ofNat 32 (bits x 543 512)
  d := t.d
  seq := t.seq
  serial := serial

/-- REGION (R29): each thread of the run ends its region and opens the one of the record; the entry is the header's PC. -/
def execRegion (bnd : Bool) (off : BitVec 32) (s : State) : Out :=
  match s.ctx? with
  | none => .fault .noIssuingRun
  | some c =>
    let l := c.launch.lr
    if off.toNat % 16 != 0 || off.toNat + 80 > l.regsize.toNat then .next (s.trapRun c ⟨.reservedField, 0, 0⟩)
    else
      match s.peekWords c.run.core c.launch.pasid ((l.regaddr.toNat + off.toNat) % 2 ^ 57) 20 with
      | (s, .error (.fault k)) => .next (s.fetchStop c (.fault k ((l.regaddr + off.setWidth 64).setWidth 57)))
      | (s, .error _) => .next (s.fetchStop c .bad)
      | (s, .ok (x, poisoned)) =>
        if poisoned then .next (s.trapRun c ⟨.memUncorrectable, 0, 0⟩)
        else if !regionRes0 x then .next (s.trapRun c ⟨.reservedField, 0, 0⟩)
        else
          let (n, s) := (s.endRegion c.run.ref c.run.lanes).fresh
          let s := s.modThreads (fun t => t.ref == c.run.ref && c.run.lanes.getLsbD t.lane)
            (fun t => { t with region := some (regionOf x c.run.hdr t n) })
          .next (s.goOnRun c.run ⟨false, 15, bnd, .none, false, false, false⟩)

/-- NOP (R37): no effect but the common fields'. -/
def execNop (c : Common) (s : State) : Out :=
  issue { common := c } noTrap noTrap (fun _ _ s => .done s) s

/-- TRAP (R343): each executing thread traps with cause SOFTWARE and the code A[15:0]. -/
def execTrap (c : Common) (a : Opnd) (s : State) : Out :=
  issue { common := c, reads := [nm a false] } noTrap
    (fun cx t => some ⟨.software, 0, (readOp cx.group t 0 .uint false a).toNat % 65536⟩) (fun _ _ s => .done s) s

/-- BRK (R343): each executing thread traps with cause BREAKPOINT. -/
def execBrk (c : Common) (s : State) : Out :=
  issue { common := c } noTrap (fun _ _ => some ⟨.breakpoint, 0, 0⟩) (fun _ _ s => .done s) s

/-- The value of a special register for a thread (R24). -/
def readSr (s : State) (c : Ctx) (t : Thread) : SReg → BitVec 64
  | .lane => BitVec.ofNat 64 t.lane
  | .gwidth => BitVec.ofNat 64 c.launch.lr.width
  | .gid => BitVec.ofNat 64 c.group.ref.gid
  | .bid => BitVec.ofNat 64 c.block.idx
  | .nblk => BitVec.ofNat 64 c.launch.lr.nblk
  | .bsize => BitVec.ofNat 64 c.launch.lr.bsize
  | .role => BitVec.ofNat 64 c.group.role
  | .phase => c.block.phase.setWidth 64
  | .seed => c.launch.lr.seed.setWidth 64
  | .det => if c.launch.lr.det then 1 else 0
  | .tgen => s.tgen.setWidth 64
  | .etgen => c.block.etgen.setWidth 64
  | .clock => s.clock
  | .trapcause => t.trapcause.setWidth 64
  | .trappc => t.trappc

/-- RDSR (R344): `sr.clock` is long-latency, every other read completes within its clause. -/
def execRdsr (c : Common) (d : Opnd) (sr : SReg) (s : State) : Out :=
  if sr == .clock then longOp c d true [] (fun s _ _ => s.clock) s
  else
    issue { common := c, writes := [nm d sr.wide] } noTrap noTrap
      (fun cx ex s => .done (s.writeAll cx.run.ref ex (fun t => [⟨d, sr.wide, readSr s cx t sr⟩]))) s

/-- WRSR (R345): `sr.etgen` is the agent's alone; the trap registers are written in each executing thread. -/
def execWrsr (c : Common) (sr : SReg) (a : Opnd) (k : BitVec 32) (s : State) : Out :=
  issue { common := c, reads := [nm a sr.wide], privileged := sr == .etgen, formBad := !sr.writable, recallFirst := true }
    noTrap noTrap
    (fun cx ex s =>
      let x (t : Thread) : BitVec 64 := readOp cx.group t k .sint sr.wide a
      match sr, ex with
      | .etgen, [] => .done s
      | .etgen, t :: _ => .done (s.modBlock cx.run.ref.launch cx.run.ref.blk (fun b => { b with etgen := loWord (x t) }))
      | _, _ =>
        .done (s.modThreads (fun t => t.ref == cx.run.ref && ex.any (·.lane == t.lane))
          (fun t => if sr == .trappc then { t with trappc := x t } else { t with trapcause := loWord (x t) &&& 0xFFFF0FFF }))) s

end Sys2Proof.Machine
end

