-- ==== Sys2Proof/Machine/Image.lean ====
section
/-! DEFINITION. Saving and re-planting a context (14 R348, R351, R362, R364-R368): the IMAGE_SAVE and IMAGE_LOAD packets, the Proofer's
moves, and the completion of packets (13 R312). -/

namespace Sys2Proof.Machine

/-! Buffers. -/

/-- A host buffer can be used (R377). -/
def State.bufferOpen (s : State) (a : Nat) : Bool := !inHost a || s.fwcfg.getLsbD 1

/-- Write an image to its buffer (log 121, DEDUCED, safe). -/
def State.writeBuffer (s : State) (pasid : BitVec 20) (a : Nat) (b : Blob) : State :=
  if inHost a then s.answer (.write pasid (BitVec.ofNat 48 a) b.bytes)
  else
    let s := s.writeLines (b.bytes.length + 1) a b.bytes
    s.spoilAll (b.bad.map (a + ·))

/-- Read an image: none where a byte is not there to read, or is poisoned. -/
def State.readBuffer (s : State) (pasid : BitVec 20) (a n : Nat) : State × Option (List Byte) :=
  if !s.bufferOpen a then (s, none)
  else if inHost a then
    let (s, bs) := s.freeBytes n
    (s.answer (.read pasid (BitVec.ofNat 48 a) n), some bs)
  else if a + n > Config.cap s.part then (s, none)
  else
    let (s, bs, bad) := s.ownLines pasid a ((n + 127) / 128)
    if bad.any (· < n) then (s.notePoison pasid a true, none) else (s, some (bs.take n))

/-! Saving (R351). -/

/-- The launch that an IMAGE_SAVE of a queue acts on: of its oldest LAUNCH or IMAGE_LOAD packet not completed. -/
def State.saveTarget (s : State) (q : QueueRef) : Option Launch :=
  match s.packets.find? (fun p => p.q == q && p.result.isNone && (pkOpcode p.bytes == 1 || pkOpcode p.bytes == 5)) with
  | some p => s.launches.find? (fun l => l.packet == some (q, p.idx))
  | none => none

/-- The blocks of a launch that stand. -/
def State.placedBlocks (s : State) (l : Launch) : List Nat :=
  (s.blocks.filter (fun b => b.launch == l.id && b.life == .placed)).map (·.idx)

/-- The Proofer begins a save, if it is free. -/
def State.beginSave (s : State) (l : Launch) (p : Packet) : State :=
  if l.proofer.isSome then s
  else
    s.startProofer l.id (s.placedBlocks l)
      (.save p.q p.idx (BitVec.ofNat 64 (pkAddr p.bytes)) (BitVec.ofNat 64 (pkWord p.bytes)))

/-- An IMAGE_SAVE starts: refused with a reason, or the Proofer begins. Of an IMAGE_LOAD that is still being checked there is nothing to
save (R351) (log 166, DESIGN CHOICE, unsafe). -/
def State.startSave (s : State) (p : Packet) : State :=
  match s.saveTarget p.q with
  | none => s.packetDone p.q p.idx 1 22
  | some l =>
    if !s.bufferOpen (pkAddr p.bytes) then s.packetDone p.q p.idx 3 0
    else if pkWord p.bytes < s.largestImage l then s.packetDone p.q p.idx 1 21
    else if (s.context l.id).any (fun i => i != l.id && (s.launch? i).any (!·.done)) then s.packetDone p.q p.idx 1 22
    else s.beginSave l p

/-- IMAGE_SAVE (R351). -/
def execImageSavePacket (q : QueueRef) (s : State) : Out :=
  .next (s.packet q 4 (fun _ i bs s => s.startSave ⟨q, i, bs, none⟩))

/-- The frames in main memory that the page entries of a PASID name are kept under the image's nonce (R362). -/
def State.keepFrames (s : State) (pasid : BitVec 20) (nonce : Nat) : State :=
  let leaves := ((s.pasidEntry pasid).map (fun p => leavesFrom s.mem (Config.cap s.part) 0 p.root 4)).getD []
  let frames := leaves.filterMap (fun x =>
    if inHost (pteAddr x.2.e) then none else some (pteAddr x.2.e, 2 ^ leafLog x.2.level x.2.c))
  { s with saved := s.saved ++ [⟨BitVec.ofNat 64 nonce, pasid, frames⟩] }

/-- The save's step 7 (R348, R351): the image is written and the context leaves; or, where it would not fit, the blocks resume. -/
def State.finishSave (s : State) (l : Launch) (blks : List Nat) (q : QueueRef) (idx : Nat) (buf cap : BitVec 64) : State :=
  let mine := s.blocks.filter (fun b => b.launch == l.id && blks.contains b.idx)
  let out := mine.foldl (fun (s : State) b => s.uproot b) s
  let (s', img) := { out with nonces := out.nonces + 1 }.image l (out.nonces + 1)
  if img.size > cap.toNat then
    let s := s.letGo l.id blks
    (blks.foldl (fun (s : State) b => s.resumeBlock l.id b) s).packetDone q idx 1 21
  else
    let s' := (s'.writeBuffer l.pasid buf.toNat img).keepFrames l.pasid s'.nonces
    let s' := s'.removeLaunches (s'.context l.id)
    let s' := match l.packet with
      | some (r, i) => s'.packetDone r i 2 0
      | none => s'
    s'.packetDone q idx 0 img.size

/-! The Proofer's moves (R348). -/

/-- The Proofer goes to a step. -/
def State.proofStep (s : State) (launch n : Nat) : State :=
  s.modLaunch launch (fun l => { l with proofer := l.proofer.map (fun p => { p with step := n }) })

/-- The Proofer's next action on a launch. -/
def State.proofMove (s : State) (l : Launch) (p : Proofer) : State :=
  let ts := s.proofThreads l.id p.blocks
  match p.step with
  | 2 =>
    let s := ts.foldl (fun (s : State) t => if t.pip.isSome then s.recallThread t.ref t.lane else s) s
    if (s.proofThreads l.id p.blocks).any (·.pip.isSome) then s else s.proofStep l.id 3
  | 3 =>
    let s := s.modThreads (fun t => t.ref.launch == l.id && p.blocks.contains t.ref.blk) (fun t => { t with clauses := 0 })
    (s.quietAll l.id p.blocks).proofStep l.id 4
  | 4 =>
    let s := s.quietAll l.id p.blocks
    if s.allCanonical l.id p.blocks then s.proofStep l.id 5 else s
  | 5 =>
    if s.inflight.any (fun i => i.ref.launch == l.id && p.blocks.contains i.ref.blk) then s else s.proofStep l.id 6
  | 6 =>
    let s := (s.proofCmds l.id p.blocks).foldl (fun (s : State) c => s.endWork c) s
    match s.launch? l.id with
    | none => s
    | some l => if s.enginesBusy l p.blocks then s else (s.stopEngines l p.blocks).proofStep l.id 7
  | _ =>
    match p.purpose with
    | .move core pair => s.endMove l p.blocks core pair
    | .out => s.takeOut l.id p.blocks
    | .save q i buf cap => s.finishSave l p.blocks q i buf cap

/-- PREEMPT (R348): the Proofer's next action on a launch; it begins where an IMAGE_SAVE waits for it. -/
def execPreempt (launch : Nat) (s : State) : Out := waitLocked s <|
  match s.launch? launch with
  | none => .next s
  | some l =>
    if !s.ready || s.tdi == .error then .next s
    else
      match l.proofer with
      | some p => .next (s.proofMove l p)
      | none =>
        let waits (p : Packet) : Bool :=
          pkOpcode p.bytes == 4 && p.result.isNone && (s.saveTarget p.q).any (·.id == launch)
        match s.packets.find? waits with
        | some p => .next (s.beginSave l p)
        | none => .next s

/-! Re-planting: what a record holds (R365). -/

/-- The resume point of a clause header at an offset of the code (R288). -/
def resumeAt (code : List Byte) (l : LaunchRec) (off : Nat) : Resume :=
  let w := fieldAt code off 4
  ⟨l.codeaddr + BitVec.ofNat 64 off, BitVec.ofNat 4 (bits w 15 12), BitVec.ofNat 4 (bits w 19 16)⟩

/-- The region record that the entry at a code offset names, from the image's own region table (log 120, DEDUCED, safe). -/
def imageRegion (bs code : List Byte) (off : Nat) : Nat :=
  fieldAt bs ((secOf bs 2).off + 0x40 + fieldAt code (off + 12) 4) 80

/-- The nearest header at or below an offset, k words up: the clause in which a thread trapped. -/
def headerBelow (code : List Byte) : Nat → Option Nat
  | 0 => none
  | k + 1 => if (codeAt code (12 * k)).1 == 0x01 then some (12 * k) else headerBelow code k

/-- Registers named by a list, from consecutive words. -/
def regsFrom (bs : List Byte) : Nat → List Nat → Store 32 → Store 32
  | _, [], m => m
  | a, r :: rs, m => regsFrom bs (a + 4) rs (m.set r (BitVec.ofNat 32 (fieldAt bs a 4)))

/-- Handles likewise. -/
def handlesFrom (bs : List Byte) : Nat → List Nat → Store 64 → Store 64
  | _, [], m => m
  | a, r :: rs, m => handlesFrom bs (a + 8) rs (m.set r (BitVec.ofNat 64 (fieldAt bs a 8)))

/-- A thread that its record puts at a WBAR or FLUSHPT which it would execute is held there: it had arrived, and its arrival comes with it (R331,
R347). -/
def meetsAt (code : List Byte) (l : LaunchRec) (off : Nat) (t : Thread) : Cond :=
  match decode (BitVec.ofNat 96 (fieldAt code off 12)) with
  | .ok (.wbar c ext) => if t.guard c then .held (.wbar (extentOf l ext) c.bnd) else .issuable
  | .ok (.flushpt c) => if t.guard c then .held (.flushpt c.bnd) else .issuable
  | _ => .issuable

/-- A thread from its record: what the record does not carry is unspecified (R31). -/
def State.loadThread (s : State) (bs code : List Byte) (l : LaunchRec) (ref : GroupRef) (lane a : Nat) (phases : List (BitVec 32)) :
    State × Thread :=
  let f (off n : Nat) : Nat := fieldAt bs (a + off) n
  let w := f 0 4
  let kind := bits w 1 0
  let vregs := (l.roleAt ref.gid).vregs
  let d := bits (f 4 4) 8 0
  let pc := l.codeaddr + BitVec.ofNat 64 (f 8 4)
  let x := if kind = 0 then imageRegion bs code (f 8 4) else 2 ^ 640 - 1
  let named (i : Nat) : Bool := x.testBit i
  let rs := (List.range vregs).filter named
  let after := a + 48 + up8 (4 * rs.length)
  let hs := (List.range 16).filter (fun i => named (480 + i))
  let (s, v) := s.freeStore named vregs (regsFrom bs (a + 48) rs [])
  let (s, h) := s.freeStore (fun i => named (480 + i)) 16 (handlesFrom bs (after + 8) hs [])
  let (free, s) := s.free
  let livep := BitVec.ofNat 15 (bits x 462 448)
  let t := { Thread.fresh ref lane pc (BitVec.ofNat 64 (f 0x10 8 + 2 ^ 64 - 4 * d)) with
    d := d
    trapcause := BitVec.ofNat 32 (f 0x20 4)
    trappc := BitVec.ofNat 64 (f 0x18 8)
    seq := f 0x24 4
    arrived := (List.range 16).filterMap (fun i => if bits w (16 + i) (16 + i) == 1 then some (i, phases.getD i 0) else none) }
  if kind = 2 then (s, { t with cond := .exited })
  else
    let off := (t.trappc - l.codeaddr).toNat
    let t := { t with
      resume := if f 0x2C 4 = 0xFFFFFFFF then none else some (resumeAt code l (f 0x2C 4))
      region := if bits w 2 2 = 1 then some { regionOf (imageRegion bs code (f 0x0C 4)) (l.codeaddr + BitVec.ofNat 64 (f 0x0C 4)) t 0 with d := d }
        else none
      inHandler := bits w 3 3 == 1
      trapDepth := bits (f 4 4) 24 16
      trapClause := if off < l.codesize.toNat then (headerBelow code (off / 12 + 1)).map (resumeAt code l) else none
      vregs := v
      handles := h
      preds := (BitVec.ofNat 15 (fieldAt bs after 8) &&& livep) ||| (free.setWidth 15 &&& ~~~livep) }
    (s, if kind = 1 && t.region.isNone then { t with cond := meetsAt code l (f 8 4) t } else t)

/-- The threads of a group, in lane order. -/
def State.loadThreads (s : State) (bs code : List Byte) (l : LaunchRec) (ref : GroupRef) (phases : List (BitVec 32)) :
    Nat → List Nat → State × List Thread
  | _, [] => (s, [])
  | lane, a :: rest =>
    let (s, t) := s.loadThread bs code l ref lane a phases
    let (s, ts) := s.loadThreads bs code l ref phases (lane + 1) rest
    (s, t :: ts)

/-- A group from its record. -/
def loadGroup (bs : List Byte) (l : LaunchRec) (launch a : Nat) : Group :=
  let gid := fieldAt bs (a + 0x0C) 4
  { Group.fresh ⟨launch, fieldAt bs (a + 8) 4, gid⟩ (l.groupRoles.getD gid 0) 0 with
    masks := handlesFrom bs (a + 0x20) (List.range 8) []
    sregs := regsFrom bs (a + 0x60) (List.range (l.roleAt gid).sregs) [] }

/-- A barrier and a queue from their words; the slots from head to tail read full (R365). -/
def loadBar (w : Nat) : Barrier := ⟨BitVec.ofNat 32 (bits w 31 0), bits w 44 32, bits w 57 45⟩
def loadQueue (n w : Nat) : Queue :=
  let h := bits w 9 0
  let t := bits w 25 16
  let hp := bits w 10 10 == 1
  let tp := bits w 26 26 == 1
  let full := (List.range (queueHeld n h t hp tp)).map (fun i => (h + i) % n)
  let lap (i : Nat) : Bool := if h ≤ i then hp else !hp
  ⟨h, hp, t, tp, bits w 42 32, (List.range n).filter (fun i => (lap i) != full.contains i), [], []⟩

/-- A tile from its words. -/
def loadTile (bs : List Byte) (a : Nat) (int : Bool) : Tile :=
  ⟨regsFrom bs a (List.range 32768) [], int, false, [], int, []⟩

/-- A future-table entry from its word. -/
def loadFuture (i w : Nat) : Option Future :=
  if bits w 23 0 = 0 then none
  else
    some ⟨i, BitVec.ofNat 24 (bits w 23 0), EngClass.ofCode (BitVec.ofNat 2 (bits w 25 24)), bits w 26 26 == 1,
      BitVec.ofNat 3 (bits w 34 32), []⟩

/-- A flush-log entry from its bits. -/
def loadDet (launch x : Nat) : Option DetEntry :=
  match AtomOp.ofCode (BitVec.ofNat 4 (bits x 216 213)), Ty.ofCode (BitVec.ofNat 4 (bits x 212 209)) with
  | some op, some ty =>
    some ⟨launch, BitVec.ofNat 64 (bits x 511 448), BitVec.ofNat 64 (bits x 447 384), BitVec.ofNat 57 (bits x 383 327),
      BitVec.ofNat 32 (bits x 319 288), bits x 287 256, bits x 255 247, bits x 246 241, bits x 240 217, op, ty, none, 0⟩
  | _, _ => none

/-- The command of a COPY, DCMP or COLL record: its kind, its descriptor, its resume point. -/
def loadKind (bs : List Byte) (a : Nat) : Option (CmdKind × List (BitVec 32) × Nat) :=
  let f (off n : Nat) : Nat := fieldAt bs (a + off) n
  let desc (n : Nat) : List (BitVec 32) := (List.range n).map (fun i => BitVec.ofNat 32 (f (0x20 + 4 * i) 4))
  match f 0 4 with
  | 1 =>
    let fn := f 0x19 1
    let kind : CmdKind :=
      if f 0x18 1 = 0xC0 then .put else if f 0x18 1 = 0xC1 then .get
      else .copy (BitVec.ofNat 2 (bits fn 3 2)) (CopyDir.ofCode (BitVec.ofNat 2 (bits fn 1 0)))
        (if bits fn 4 4 = 1 then some (BitVec.ofNat 64 (f 0x58 8), BitVec.ofNat 64 (f 0x60 8)) else none)
    some (kind, desc 14, f 0x68 8 / 4096)
  | 2 => some (.dcmp (f 0x18 4 == 1) (BitVec.ofNat 64 (f 0x20 8)), [], 0)
  | 3 =>
    let fn := f 0x18 1
    let d := (List.range 6).map (fun i => BitVec.ofNat 32 (f (0x28 + 4 * i) 4))
    match Ty.ofCode (BitVec.ofNat 4 (bits fn 7 4)), RedOp.ofCode (BitVec.ofNat 3 (bits fn 3 2)) with
    | some ty, some op => some (.coll ty op (CollKind.ofCode (BitVec.ofNat 2 (bits fn 1 0))) (f 0x20 4), d, 0)
    | _, _ => none
  | _ => none

/-- The scratchpad lines that a command issued again writes: a DCMP's as its card says, which may not be readable yet. -/
def State.linesAgain (s : State) (pasid : BitVec 20) (l : LaunchRec) (scratch : Store 8) (k : CmdKind × List (BitVec 32) × Nat) :
    Option (List Nat) :=
  match k.1 with
  | .copy dims dir _ =>
    let d := CopyDesc.of dims k.2.1
    some (if CopyDir.to_ dir == .sp then d.linesOf ((List.range d.chunks).filter (k.2.2 ≤ ·)) else [])
  | .get =>
    let d := FabDesc.of k.2.1
    some (d.lines ((List.range d.chunks).filter (k.2.2 ≤ ·)))
  | .dcmp sp card =>
    let lines (bs : List Byte) : List Nat :=
      let c := Card.ofBytes bs
      if c.outsp && !c.malformed l then spLines c.out c.capacity else []
    if sp then some (lines (scratch.bytes card.toNat 64)) else ((s.readVirt 0 pasid card.toNat 64).2).map lines
  | _ => some []

/-- The commands of a block from their records. -/
def State.loadCmds (s : State) (bs : List Byte) (pasid : BitVec 20) (l : LaunchRec) (launch : Nat) (scratch : Store 8)
    (clear : List Nat) : List Nat → State × List Cmd
  | [] => (s, [])
  | a :: rest =>
    match loadKind bs a with
    | none => s.loadCmds bs pasid l launch scratch clear rest
    | some k =>
      let (id, s) := s.fresh
      let lines := (s.linesAgain pasid l scratch k).getD clear
      let c : Cmd :=
        { id := id, ref := ⟨launch, fieldAt bs (a + 8) 4, fieldAt bs (a + 0x0C) 4⟩, core := 0, kind := k.1, fn := 0
          desc := k.2.1, handle := BitVec.ofNat 64 (fieldAt bs (a + 0x10) 8), lanes := 0, inside := false, inRegion := []
          chunks := [], faulted := [], resume := k.2.2, cancel := false, failed := false, flying := []
          early := match k.1 with
            | .dcmp _ _ => true
            | _ => false
          lines := lines.filter (fun x => clear.contains x), txns := [], signalled := false, gen := s.tgen }
      let (s, cs) := s.loadCmds bs pasid l launch scratch clear rest
      (s, c :: cs)

/-- A block from its record, with the commands, groups, threads and deterministic entries of its own records. -/
def State.loadBlock (s : State) (bs code : List Byte) (pasid : BitVec 20) (l : LaunchRec) (launch : Nat) (gs es : List Nat) (a : Nat) :
    State :=
  let f (off n : Nat) : Nat := fieldAt bs (a + off) n
  let idx := f 8 4
  let n := l.scratchBytes
  let sp := a + 0x200 + n / 1024
  let tiles := sp + n
  let wb := tiles + 131072 * l.tiles
  let scratch : Store 8 := Store.setBytes [] 0 ((bs.drop sp).take n)
  let clear := (List.range (n / 128)).filter (fun j => bits (f (0x200 + j / 8) 1) (j % 8) (j % 8) == 0)
  let mine (x : Nat) : Bool := fieldAt bs (x + 8) 4 == idx
  let es := es.filter mine
  let (s, cmds) := s.loadCmds bs pasid l launch scratch clear es
  let dets := (es.filter (fun x => fieldAt bs x 4 == 5)).flatMap (fun x =>
    (List.range (fieldAt bs (x + 0x18) 4)).filterMap (fun i => loadDet launch (fieldAt bs (x + 0x20 + 64 * i) 64)))
  let fut := (es.find? (fun x => fieldAt bs x 4 == 4)).getD 0
  let futures := (List.range 1024).filterMap (fun i => loadFuture i (fieldAt bs (fut + 0x20 + 8 * i) 8))
  let bars := (List.range l.nbar).map (fun i => loadBar (f (0x40 + 8 * i) 8))
  let buf (at_ : Nat) : Store 8 := Store.setBytes [] 0 ((bs.drop at_).take 1048576)
  let b : Block :=
    { launch := launch, idx := idx, core := 0, cores := l.cores, pair := 0, life := .imagedOut
      phase := BitVec.ofNat 32 (f 0x0C 4), etgen := BitVec.ofNat 32 (f 0x14 4), scratch := scratch, spoison := []
      absent := clear.foldl (fun (m : Store 16) j =>
        m.set j (BitVec.ofNat 16 (max 1 (cmds.filter (fun c => c.lines.contains j)).length))) []
      bars := bars
      queues := (List.range l.queues.length).map (fun i => loadQueue (l.ring i).2 (f (0xC0 + 8 * i) 8))
      futures := futures, nextFuture := fieldAt bs (fut + 0x18) 4, arrivals := [], reserved := 0
      tiles := (List.range l.tiles).map (fun i => loadTile bs (tiles + 131072 * i) (bits (f 0x1C 4) i i == 1))
      detUsed := dets.length, frozen := false
      held := if f 0x10 4 = 1 then some (buf wb, buf (wb + 1048576), []) else none }
  let pendings (g : Nat) (c : EngClass) : Nat := (cmds.filter (fun x => x.ref.gid == g && x.kind.cls == c)).length
  let withCounts (g : Group) : Group :=
    { g with
      outstanding := [EngClass.copy, .coll, .fabric].foldl (fun (m : Store 16) c =>
        m.set (handleClass c) (BitVec.ofNat 16 (pendings g.ref.gid c))) [] }
  let s := { s with blocks := s.blocks ++ [b], cmds := s.cmds ++ cmds, det := s.det ++ dets }
  (gs.filter mine).foldl (fun (s : State) x =>
    let g := withCounts (loadGroup bs l launch x)
    let ts := (threadRecs bs l (l.roleAt g.ref.gid) x).getD []
    let (s, ts) := s.loadThreads bs code l g.ref (bars.map (·.phase)) 0 ts
    { s with groups := s.groups ++ [g], threads := s.threads ++ ts }) s

/-! Pages (R366). -/

/-- A page entry of an image, with the image's nonce and PASID. -/
def pageOf (bs : List Byte) (x : Nat) : PageRec :=
  ⟨BitVec.ofNat 57 (bits x 56 12 * 4096), bits x 127 124 == 1, bits x 123 120, BitVec.ofNat 48 (bits x 99 64 * 4096),
    BitVec.ofNat 12 (bits x 11 0), BitVec.ofNat 64 (fieldAt bs 0x18 8), BitVec.ofNat 20 (fieldAt bs ((secOf bs 1).off) 4)⟩

def imagePages (bs : List Byte) : List PageRec := (pageNats bs).map (pageOf bs)

/-- A page overlaps a range. -/
def PageRec.meets (p : PageRec) (a n : Nat) : Bool := n != 0 && p.va.toNat < a + n && a < p.va.toNat + 2 ^ p.log

/-- A page must come before the image can be checked: the Starter reads the code and the ejection table. -/
def LaunchRec.checks (l : LaunchRec) (p : PageRec) : Bool :=
  p.meets l.codeaddr.toNat l.codesize.toNat || p.meets l.ejaddr.toNat (128 * l.ejcount.toNat)

/-- A leaf is rewritten with RH set. -/
def State.markRemote (s : State) (pasid : BitVec 20) (p : PageRec) : State :=
  match s.pageFate pasid p, s.leafOf pasid p.va.toNat p.log with
  | .rewrite, some l => s.writeHome l.at_ (leBytes (l.e + 2 ^ 59) 8)
  | _, _ => s

/-- A page is fetched at once: it is pinned, or lies in the team's export (R366). -/
def LaunchRec.fetchesNow (l : LaunchRec) (pasid : BitVec 20) (p : PageRec) : Bool :=
  p.flags.getLsbD 11 || match l.team with
    | some t => t.exppasid == pasid && p.meets t.expbase.toNat t.expsize.toNat
    | none => false

/-! The checks of R364. -/

/-- The image's signature verifies under its key, and the key is trusted (R363, R382). -/
def State.signatureOk (s : State) (bs : List Byte) : Bool :=
  let a := (secOf bs 9).off
  let key := (bs.drop a).take 97
  (key == imageKey || (List.range s.nkeys.toNat).any (fun i =>
      (((s.keydigs.find? (·.1 == i)).map (·.2)).getD 0) == sha384 key))
    && ecdsaVerify key ((bs.drop (a + 0x68)).take 48) ((bs.drop (a + 0x98)).take 48) (bs.take (a + 0x68))

/-- The first applicable reason to refuse an image that is well formed and signed, given the pages that have come for the check; the state
in which its pages follow, and the code, where there is none. -/
def State.imageRefusal (s : State) (pasid : BitVec 20) (bs : List Byte) (come : List Fetch) : Except Nat (State × List Byte) :=
  let r := imageRecord bs
  let l := LaunchRec.ofBytes r
  let ps := imagePages bs
  let s' := come.foldl (fun (s : State) f => s.landPage f) (ps.foldl (fun (s : State) p => s.markRemote pasid p) s)
  match s'.readVirt 0 pasid l.codeaddr.toNat l.codesize.toNat with
  | (s', code) =>
    if code.any (fun k => sha384 k != BitVec.ofNat 384 (fieldAt bs (secOf bs 2).off 48)) then .error 18
    else
      match s'.refusal pasid r true with
      | some n => .error n
      | none =>
        if l.team.isSome && bits (fieldAt bs ((secOf bs 7).off + 4) 4) 11 8 != s.devid then .error 19
        else if ps.any (fun p => s.pageFate pasid p == .refused || s.lacks pasid p) then .error 20
        else .ok (s', code.getD [])

/-! Acceptance (R364, R365). -/

/-- The launch of an image, before its blocks stand. -/
def State.imageLaunch (s : State) (bs : List Byte) (id : Nat) (pasid : BitVec 20) (cls : Nat) (packet : QueueRef × Nat)
    (blks : List Nat) (ps : List PageRec) : Launch :=
  let m := (secOf bs 1).off
  let fab := (secOf bs 7).off
  let l := LaunchRec.ofBytes (imageRecord bs)
  let ticket := fieldAt bs (m + 0x10) 8
  let gone := (List.range ticket).filter (fun i => !blks.contains i)
  { newLaunch id pasid cls (some packet) none none l (fieldAt bs (m + 0x1C) 4) with
    ticket := ticket
    retired := gone
    started := false
    epoch := fieldAt bs (m + 0x0C) 4
    collseq := fieldAt bs (fab + 8) 4
    wbarseq := fieldAt bs (fab + 0x0C) 4
    pages := ps.filter (fun p => s.pageFate pasid p == .follows)
    done := gone.length ≥ l.nblk }

/-- The pending children of an image (R356); the address of each one's tables is not recorded. -/
def State.loadChildren (s : State) (bs : List Byte) (launch : Nat) : Nat → Nat → State
  | _, 0 => s
  | a, n + 1 =>
    let (id, s) := s.fresh
    let (x, s) := s.free
    let c : Child := ⟨id, launch, x, (bs.drop a).take 512, 0, 0, false⟩
    State.loadChildren { s with children := s.children ++ [c] } bs launch (a + 512) n

/-- An accepted image acts as a launch of the re-planted grid: the pages that do not wait are fetched, its blocks wait for their places. -/
def State.replantImage (s : State) (bs code : List Byte) (pasid : BitVec 20) (cls : Nat) (packet : QueueRef × Nat) : State :=
  let l := LaunchRec.ofBytes (imageRecord bs)
  let rs := (blockRecs bs).getD []
  let gs := (groupRecs bs).getD []
  let es := (engineRecs bs).getD []
  let (id, s) := s.fresh
  let x := s.imageLaunch bs id pasid cls packet (rs.map (fun a => fieldAt bs (a + 8) 4)) (imagePages bs)
  let s := rs.foldl (fun (s : State) a => s.loadBlock bs code pasid l id gs es a) (s.enter x)
  let s := s.loadChildren bs id ((secOf bs 3).off + (imageRecord bs).length) (fieldAt bs ((secOf bs 1).off + 0x18) 4)
  match x.pages.filter (l.fetchesNow pasid) with
  | [] => s.pagesCome id pasid
  | now => s.startFetches pasid none (some id) now

/-- An image that is well formed and signed is checked further (R364): the pages that the Starter reads are brought first; then it is
refused, with nothing of it applied, or re-planted. One of those pages that cannot be had is a location that cannot be reached. -/
def State.checkImage (s : State) (x : Load) : State :=
  let pasid := x.q.pasid
  let l := LaunchRec.ofBytes (imageRecord x.bytes)
  let mine (f : Fetch) : Bool := f.early == some (x.q, x.idx)
  let away (p : PageRec) : Bool := s.pageFate pasid p == .follows || s.pageFate pasid p == .rewrite
  let want := (imagePages x.bytes).filter (fun p => l.checks p && away p && !s.fetches.any (fun f => mine f && f.page == p))
  if !want.isEmpty then s.startFetches pasid (some (x.q, x.idx)) none want
  else
    let come := s.fetches.filter mine
    if come.any (·.waits) then s
    else
      let s := { s with fetches := s.fetches.filter (fun f => !mine f), loads := s.loads.filter (· != x) }
      if come.any (·.lost) then s.packetDone x.q x.idx 1 20
      else
        match s.imageRefusal pasid x.bytes come with
        | .error r => s.packetDone x.q x.idx 1 r
        | .ok (s, code) => s.replantImage x.bytes code pasid x.cls (x.q, x.idx)

/-- An IMAGE_LOAD starts: the image is read and checked. -/
def State.startLoad (s : State) (e : QueueEntry) (p : Packet) : State :=
  match s.readBuffer p.q.pasid (pkAddr p.bytes) (pkWord p.bytes) with
  | (s, none) => s.packetDone p.q p.idx 3 0
  | (s, some bs) =>
    if !imageOk bs then s.packetDone p.q p.idx 1 16
    else if !s.signatureOk bs then s.packetDone p.q p.idx 1 17
    else
      let x : Load := ⟨p.q, p.idx, e.cls, bs⟩
      State.checkImage { s with loads := s.loads ++ [x] } x

/-- IMAGE_LOAD (R364). -/
def execImageLoadPacket (q : QueueRef) (s : State) : Out :=
  .next (s.packet q 5 (fun e i bs s => s.startLoad e ⟨q, i, bs, none⟩))

/-! Completion of packets (13 R312). -/

/-- An IMAGE_LOAD that waited for pages has them. -/
def State.loadDue (s : State) (p : Packet) : Bool :=
  s.loads.any (fun x => x.q == p.q && x.idx == p.idx) && !s.fetches.any (fun f => f.early == some (p.q, p.idx) && f.waits)

/-- A started packet goes on with its work: an IMAGE_LOAD with its checks, another as it can. -/
def State.workOn (s : State) (p : Packet) : State :=
  match s.loads.find? (fun x => x.q == p.q && x.idx == p.idx && p.result.isNone) with
  | some x => s.checkImage x
  | none => s.pumpPacket p

/-- PACKET_COMPLETE (R312): a packet whose work is over writes its signal; a waiting one looks again. In ERROR no packet completes and
no signal is written (R376). -/
def execPacketComplete (q : QueueRef) (idx : Nat) (s : State) : Out :=
  match s.packets.find? (fun p => p.q == q && p.idx == idx) with
  | none => .next s
  | some p =>
    if s.tdi == .error || (p.result.isNone && !s.queuesRun) || s.signalLogged q idx then .next s
    else waitLocked s (.next (s.workOn p))

end Sys2Proof.Machine
end

