-- ==== Sys2Proof/Machine/Rs.lean ====
section
/-! DEFINITION. The Reed–Solomon code of a link frame (11 R253): GF(2^16) by x^16 + x^12 + x^3 + x + 1, 160 symbols of which 24 check,
and the decoder that corrects up to 12 of them. -/

namespace Sys2Proof.Machine

abbrev Gf := BitVec 16

/-- Multiply by α = x. -/
def gfX (a : Gf) : Gf := if a.getLsbD 15 then (a <<< 1) ^^^ 0x100B else a <<< 1

def gfMulAt (a b : Gf) : Nat → Gf → Gf
  | 0, acc => acc
  | n + 1, acc => gfMulAt a b n (gfX acc ^^^ (if b.getLsbD n then a else 0))

/-- Product: the multiplier's bits from the highest down. -/
def gfMul (a b : Gf) : Gf := gfMulAt a b 16 0

/-- a to the power 2^16 - 2, its inverse: fifteen squarings, each but the first factor multiplied in. -/
def gfInvAt (a : Gf) : Nat → Gf → Gf
  | 0, acc => acc
  | n + 1, acc => let sq := gfMul a a; gfInvAt sq n (gfMul acc sq)

def gfInv (a : Gf) : Gf := gfInvAt a 15 1

/-- Powers of α from α^0, n of them. -/
def gfPowers : Nat → Gf → List Gf
  | 0, _ => []
  | n + 1, a => a :: gfPowers n (gfX a)

/-- Polynomials, the coefficient of x^i at place i. -/
def polyEval (p : List Gf) (x : Gf) : Gf := p.foldr (fun c acc => c ^^^ gfMul acc x) 0
def polyAdd : List Gf → List Gf → List Gf
  | a :: as, b :: bs => (a ^^^ b) :: polyAdd as bs
  | [], bs => bs
  | as, [] => as
def polyScale (c : Gf) (p : List Gf) : List Gf := p.map (gfMul c)
def polyMul : List Gf → List Gf → List Gf
  | [], _ => []
  | a :: as, q => polyAdd (polyScale a q) (0 :: polyMul as q)

/-- The generator: the product of x - α^i for i from 0 to 23. -/
def rsGen : List Gf := (gfPowers 24 1).foldl (fun g a => polyMul [a, 1] g) [1]

/-- One step of the division by the generator: the register's highest coefficient first. -/
def rsStep (reg : List Gf) (m : Gf) : List Gf :=
  let c := m ^^^ reg.headD 0
  let low := (rsGen.take 24).reverse
  List.zipWith (fun r g => r ^^^ gfMul c g) (reg.drop 1 ++ [0]) low

/-- The check symbols of 136 symbols. -/
def rsChecks (msg : List Gf) : List Gf := msg.foldl rsStep (List.replicate 24 0)

/-- Symbols of a frame's bytes: the low byte first. -/
def symbolsOf : List Byte → List Gf
  | a :: b :: r => (b ++ a : BitVec 16) :: symbolsOf r
  | _ => []
def bytesOf (l : List Gf) : List Byte := l.flatMap (fun (x : Gf) => [x.setWidth 8, (x >>> 8).setWidth 8])

/-- A frame from its 272 bytes. -/
def rsEncode (bs : List Byte) : List Byte := bs ++ bytesOf (rsChecks (symbolsOf bs))

/-- The syndromes of 160 symbols: the value at each root of the generator. -/
def syndromes (r : List Gf) : List Gf := (gfPowers 24 1).map (fun a => r.foldl (fun acc c => c ^^^ gfMul acc a) 0)

/-- The state of the Berlekamp–Massey search: the locator, its last version, its length, the shift and the last discrepancy. -/
structure Bm where
  c : List Gf
  b : List Gf
  len : Nat
  shift : Nat
  disc : Gf

/-- The discrepancy at step n. -/
def Bm.at_ (m : Bm) (s : List Gf) (n : Nat) : Gf :=
  (List.range (m.len + 1)).foldl (fun acc i => acc ^^^ (if i ≤ n then gfMul (m.c.getD i 0) (s.getD (n - i) 0) else 0)) 0

def Bm.step (s : List Gf) (m : Bm) (n : Nat) : Bm :=
  let d := m.at_ s n
  if d = 0 then { m with shift := m.shift + 1 }
  else
    let c := polyAdd m.c (List.replicate m.shift 0 ++ polyScale (gfMul d (gfInv m.disc)) m.b)
    if 2 * m.len ≤ n then ⟨c, m.c, n + 1 - m.len, 1, d⟩ else { m with c := c, shift := m.shift + 1 }

/-- The error locator of 24 syndromes, with its length. -/
def locator (s : List Gf) : List Gf × Nat :=
  let m := (List.range 24).foldl (Bm.step s) ⟨[1], [1], 0, 1, 1⟩
  (m.c, m.len)

/-- The formal derivative. -/
def polyDeriv (p : List Gf) : List Gf := (List.range (p.length - 1)).map (fun i => if i % 2 = 0 then p.getD (i + 1) 0 else 0)

/-- Corrected symbols: none where more than 12 are in error. The positions are those of the locator's roots, the values Forney's. -/
def rsDecode (r : List Gf) : Option (List Gf) :=
  let s := syndromes r
  if s.all (· == 0) then some r
  else
    let (c, n) := locator s
    let pw := gfPowers 160 1
    let omega := (polyMul s c).take 24
    let fix (k : Nat) (x : Gf) : Gf × Bool :=
      let loc := pw.getD (159 - k) 1
      let inv := gfInv loc
      if polyEval c inv = 0 then (x ^^^ gfMul loc (gfMul (polyEval omega inv) (gfInv (polyEval (polyDeriv c) inv))), true)
      else (x, false)
    let out := (List.range 160).map (fun k => fix k (r.getD k 0))
    let fixed := out.map (·.1)
    if n ≤ 12 && (out.filter (·.2)).length = n && (syndromes fixed).all (· == 0) then some fixed else none

/-- A received frame of 320 bytes, corrected: its first 272 bytes. -/
def rsReceive (bs : List Byte) : Option (List Byte) :=
  if bs.length = 320 then (rsDecode (symbolsOf bs)).map (fun r => (bytesOf r).take 272) else none

end Sys2Proof.Machine
end

