-- ==== Sys2Proof/Machine/Link.lean ====
section
/-! DEFINITION. The link layer of an optical port (11 R248, R249, R252-R256, R263): frames out and in, replay, credits, training. -/

namespace Sys2Proof.Machine

/-! Bodies of frames (R250, R251, R253). -/

/-- A flit's 256 bytes, and a short flit's 32. -/
def flitBytes (f : Flit) : List Byte := leBytes f.hdr.toNat 16 ++ (f.payload ++ List.replicate 240 0).take 240
def shortBytes (f : ShortFlit) : List Byte := leBytes f.hdr.toNat 16 ++ leBytes f.body.toNat 16
def flitFrom (bs : List Byte) : Flit := ⟨BitVec.ofNat 128 (fieldAt bs 0 16), (bs.drop 16).take 240⟩
def shortFrom (bs : List Byte) : ShortFlit := ⟨BitVec.ofNat 128 (fieldAt bs 0 16), BitVec.ofNat 128 (fieldAt bs 16 16)⟩

/-- A body of 256 bytes. -/
def body256 (bs : List Byte) : List Byte := (bs ++ List.replicate 256 0).take 256

/-- The items of a numbered frame's body: one flit, or the short flits of its slots that are not empty. -/
def itemsOf (kind : Nat) (bs : List Byte) : List OutItem :=
  if kind = 1 then [.flit (flitFrom bs)]
  else
    (List.range 8).filterMap (fun i =>
      let b := (bs.drop (32 * i)).take 32
      if b.all (· == 0) then none else some (.short (shortFrom b)))

/-- The step that an item of a type is, on arrival. -/
def arrivalOf (port : Nat) : OutItem → Option Instr
  | .flit f =>
    match hdrType f.hdr with
    | 1 => some (.flitRead port f)
    | 2 => some (.flitWrite port f)
    | 3 => some (.flitAtomic port f)
    | 4 => some (.flitReadReply port f)
    | 5 => some (.flitWriteAck port f)
    | 6 => some (.flitCollectiveData port f)
    | 7 => some (.flitAtomicReply port f)
    | _ => none
  | .short f =>
    match hdrType f.hdr with
    | 0x10 => some (.bufferRelease port f)
    | 0x11 => some (.retryAfter port f)
    | 0x12 => some (.staleReject port f)
    | 0x13 =>
      if readyKind f = 0 then some (.ready port f)
      else if readyKind f = 1 then some (.go port f)
      else if readyKind f = 2 then some (.abort port f) else none
    | 0x14 => some (.collectiveRestart port f)
    | 0x15 => some (.linkProbe port f)
    | _ => none

/-! Frames out (R253-R255). -/

/-- A frame: its body, its control word with the CRC, its check symbols. -/
def frameBytes (kind fseq aseq : Nat) (aval nak : Bool) (body : List Byte) : List Byte :=
  let w := fseq % 4096 + aseq % 4096 * 2 ^ 12 + (if aval then 2 ^ 24 else 0) + (if nak then 2 ^ 25 else 0) + kind * 2 ^ 26
  let front := body256 body ++ leBytes w 8
  rsEncode (front ++ leBytes (crc32 front).toNat 4 ++ List.replicate 4 0)

/-- A frame of a kind and a body leaves by a port, under a number. -/
def State.emit (s : State) (port kind fseq : Nat) (body : List Byte) : State :=
  match s.port? port with
  | none => s
  | some p =>
    let s := { s with frames := s.frames ++ [(port, frameBytes kind fseq p.aseq p.aval p.nak body)] }
    s.modPort port (fun p => { p with nak := false, nakWait := if p.nak then 0 else p.nakWait + 1 })

/-- A numbered frame leaves, and is kept until it is acknowledged. -/
def State.emitNew (s : State) (port kind : Nat) (body : List Byte) : State :=
  match s.port? port with
  | none => s
  | some p =>
    (s.emit port kind p.fseq body).modPort port (fun p =>
      { p with unacked := p.unacked ++ [(p.fseq, kind, body, 1)], fseq := (p.fseq + 1) % 4096 })

/-- The i-th buffer release of what a port owes: at most 15 credits of a class; the depths of this device's queues (R251). -/
def State.releaseFlit (s : State) (p : Port) (i : Nat) : ShortFlit :=
  let credit := (List.range 4).map (fun c => min 15 (p.owed.getD c 0 - 15 * i) * 2 ^ (4 * c))
  let depth := (List.range 16).map (fun i => min 15 (s.depth i / 16) * 2 ^ (16 + 4 * i))
  let d := (s.curPlan.map (fun x => planPeer x.2 p.idx)).getD 0
  ⟨mkHdr 0 s.tgen 0 0 false false d s.devid 0x10, BitVec.ofNat 128 (credit.sum + depth.sum)⟩

def Port.owes (p : Port) : Bool := p.owed.any (· != 0)

/-- A port has owed credits for 63 frames, and may send a numbered frame (R252, R255). -/
def Port.releaseDue (p : Port) : Bool := p.st == .up && p.owes && p.owedWait ≥ 63 && p.replay.isEmpty && p.unacked.length < 1024

/-- Send buffer releases in a frame of their own: as many as what is owed takes, at most eight; what is left over is due at once (log 110,
DEDUCED, safe). -/
def State.emitRelease (s : State) (port : Nat) : State :=
  match s.port? port with
  | none => s
  | some p =>
    let n := max 1 (min 8 ((p.owed.foldl max 0 + 14) / 15))
    (s.emitNew port 2 ((List.range n).flatMap (fun i => shortBytes (s.releaseFlit p i)))).modPort port (fun p =>
      let owed := p.owed.map (fun k => k - min (15 * n) k)
      { p with owed := owed, owedWait := if owed.any (· != 0) then 63 else 0 })

/-- The class of an item. -/
def OutItem.cls : OutItem → Option Nat
  | .flit f => creditClass (hdrType f.hdr)
  | .short f => creditClass (hdrType f.hdr)

/-- The first item of some classes that has a credit: none of its class that came earlier is passed. -/
def firstOut (credits : List Nat) (classes : List Nat) : List OutItem → List Nat → Option OutItem
  | [], _ => none
  | i :: r, dry =>
    match i.cls with
    | some c =>
      if classes.contains c && !dry.contains c then
        if credits.getD c 0 > 0 then some i else firstOut credits classes r (c :: dry)
      else firstOut credits classes r dry
    | none => firstOut credits classes r dry

/-- The classes that a slot of the wheel carries, its own first, and demand where they have nothing (R252, R57). -/
def slotClasses (slot : Nat) : List (List Nat) :=
  if slot = 9 then [[3], [0, 1]] else if slot = 14 then [[2], [0, 1]] else [[0, 1]]

/-- What a slot sends of a port's queue (log 111, DESIGN CHOICE, safe). -/
def slotItem (p : Port) : Option OutItem := (slotClasses p.slot).findSome? (fun cs => firstOut p.credits cs p.out [])

/-- Send an item: it leaves the queue and spends its credit. -/
def State.emitItem (s : State) (port : Nat) (it : OutItem) : State :=
  let s := s.modPort port (fun p =>
    { p with
      out := p.out.erase it
      credits := match it.cls with
        | some c => p.credits.modify c (· - 1)
        | none => p.credits })
  let s := s.forwarded it
  match it with
  | .flit f => State.emitNew { s with txns := modify (fun (t : Txn) => t.flit == f) (fun t => { t with sent := true }) s.txns } port 1 (flitBytes f)
  | .short f => s.emitNew port 2 (shortBytes f)

/-- Send a frame again (R255 items 5 and 6). -/
def State.emitAgain (s : State) (port n : Nat) (rest : List Nat) : State :=
  match s.port? port with
  | none => s
  | some p =>
    let s := s.modPort port (fun p =>
      { p with
        replay := rest
        unacked := p.unacked.map (fun (u : Nat × Nat × List Byte × Nat) => if u.1 = n then (u.1, u.2.1, u.2.2.1, u.2.2.2 + 1) else u) })
    match p.unacked.find? (·.1 == n) with
    | some (_, kind, body, _) => s.emit port kind n body
    | none => s.emit port 0 p.fseq []

/-! A port goes down (R249, R255 item 7, R263). -/

/-- An item is sent by another route: a request of this device's under its transaction, if it is not over; another by what path there is
(log 108, DEDUCED, safe). -/
def State.reroute (s : State) (it : OutItem) : State :=
  match it with
  | .flit f =>
    if hdrSrc f.hdr == s.devid && [1, 2, 3, 6].contains (hdrType f.hdr) then
      match s.txns.find? (fun t => t.flit.hdr == f.hdr) with
      | some t => s.resend t
      | none => s
    else s.sendItem it
  | .short f => if (creditClass (hdrType f.hdr)).isSome then s.sendItem it else s

/-- The port is down: what it has not been acknowledged for, and what waits on it, goes another way; the entries of its buffer are gone. -/
def State.dropPort (s : State) (port : Nat) : State :=
  match s.port? port with
  | none => s
  | some p =>
    let again := p.unacked.flatMap (fun u => itemsOf u.2.1 u.2.2.1)
    let s := { s.modPort port (fun p => Port.fresh p.idx) with relaying := s.relaying.filter (·.1 != port) }
    ((again ++ p.out).foldl (fun (s : State) it => s.reroute it) s).runReconf

/-- PORT_DOWN (R248, R249): a port that trains or is up loses a channel. -/
def execPortDown (port : Nat) (s : State) : Out :=
  match s.port? port with
  | some p => if p.st == .down then .next s else .next (s.dropPort port)
  | none => .next s

/-! One frame time (R252-R256). -/

/-- The body of a training frame (R256). -/
def trainingBody (gen : BitVec 32) (dev port : Nat) : List Byte :=
  leBytes gen.toNat 4 ++ [BitVec.ofNat 8 dev, BitVec.ofNat 8 port] ++ (List.range 250).map (fun k => BitVec.ofNat 8 (k + 6) ^^^ 0xA5#8)

/-- A port of the current plan that is down begins to train, unless a transition under way changes it, or the interface is in ERROR
(15 R376). -/
def State.mayTrain (s : State) (port : Nat) : Bool :=
  match s.curPlan with
  | some (_, p) => s.tdi != .error && port < Config.ports s.part && planV p port && !s.trans.any (fun t => t.changed.contains port)
  | none => false

/-- The frame of a port that trains: training frames until it has had 1,024, then idle ones. -/
def State.emitTraining (s : State) (port good : Nat) (gen : BitVec 32) (fseq : Nat) : State :=
  if good < 1024 then s.emit port 3 fseq (trainingBody gen s.devid port) else s.emit port 0 fseq []

/-- The frame of an up port: a replay, an overdue release, what its slot carries, a release, or an idle frame. -/
def State.emitUp (s : State) (port : Nat) (p : Port) : State :=
  match p.replay with
  | n :: rest =>
    if (p.unacked.find? (·.1 == n)).any (fun u => u.2.2.2 ≥ 8) then s.dropPort port else s.emitAgain port n rest
  | [] =>
    if p.unacked.length ≥ 1024 then s.emit port 0 p.fseq []
    else if p.releaseDue then s.emitRelease port
    else if p.slot = 4 then
      let (x, s) := s.free
      s.emitNew port 2 (shortBytes ⟨mkHdr 0 s.tgen 0 0 false false 0 s.devid 0x15, x.setWidth 128⟩)
    else
      match slotItem p with
      | some it => s.emitItem port it
      | none => if p.owes then s.emitRelease port else s.emit port 0 p.fseq []

/-- A frame time of an up port passes. -/
def Port.tick (p : Port) : Port :=
  { p with
    ackWait := if p.unacked.isEmpty then 0 else p.ackWait + 1
    owedWait := if p.owes then p.owedWait + 1 else 0 }

/-- FRAME_TIME (R252, R253): one frame leaves an up or training port. What has waited for a path is looked at each time (R263). -/
def execFrameTime (port : Nat) (s : State) : Out :=
  match s.port? port with
  | none => .next s
  | some p =>
    match p.st with
    | .down =>
      if s.mayTrain port then
        .next ((s.modPort port (fun p => { p with st := .training 0 0, trainGen := s.tgen })).emitTraining port 0 s.tgen p.fseq)
      else .next s
    | .training good _ => .next (s.unstrand.emitTraining port good p.trainGen p.fseq)
    | .up =>
      let s := (s.unstrand.modPort port (·.tick)).emitUp port p
      .next (s.modPort port (fun q => { q with slot := if q.st == .up then (p.slot + 1) % 16 else q.slot })).runReconf

/-- BUFFER_RELEASE_FORCED (R252): credits have been owed for 63 frames without a release; the next frame carries one, and the flit of its
slot waits. -/
def execBufferReleaseForced (port : Nat) (s : State) : Out :=
  match s.port? port with
  | none => .next s
  | some p =>
    .next (if p.releaseDue then (s.modPort port (·.tick)).emitRelease port else s)

/-- REPLAY_TIMEOUT (R255 item 6): no acknowledgement for 4,096 frame times. -/
def execReplayTimeout (port : Nat) (s : State) : Out :=
  match s.port? port with
  | none => .next s
  | some p =>
    if p.st == .up && !p.unacked.isEmpty && p.ackWait ≥ 4096 then
      .next (s.modPort port (fun p => { p with replay := p.unacked.map (·.1), ackWait := 0 }))
    else .next s

/-! Frames in (R253-R256). -/

/-- A frame as received: its body and its control word; none where it cannot be decoded, its CRC fails, its kind is illegal or a res0
bit is set (R254). -/
def receive (bs : List Byte) : Option (List Byte × Nat) :=
  match rsReceive bs with
  | none => none
  | some r =>
    let w := fieldAt r 256 16
    if bits w 127 96 == 0 && bits w 63 29 == 0 && bits w 28 26 ≤ 3 && bits w 95 64 == (crc32 (r.take 264)).toNat then some (r.take 256, w)
    else none

/-- Frames up to a number are acknowledged: those from the oldest to it (R255). -/
def ackTo (aseq : Nat) (l : List (Nat × Nat × List Byte × Nat)) : List (Nat × Nat × List Byte × Nat) :=
  if l.any (·.1 == aseq) then (l.dropWhile (·.1 != aseq)).drop 1 else l

/-- What a frame says of the frames sent: an acknowledgement, and a call for replay. -/
def Port.heard (p : Port) (w : Nat) : Port :=
  let aval := bits w 24 24 == 1
  let left := if aval then ackTo (bits w 23 12) p.unacked else p.unacked
  let p := { p with
    unacked := left
    ackWait := if left.length < p.unacked.length then 0 else p.ackWait
    replay := p.replay.filter (fun n => left.any (·.1 == n)) }
  if bits w 25 25 == 1 then { p with replay := left.map (·.1) } else p

/-- A frame is not taken: replay is asked for, at most once in 64 frames for one number (R255 item 3). -/
def Port.refuse (p : Port) : Port := if p.nakWait ≥ 64 then { p with nak := true } else p

/-- A numbered frame is accepted (R255 item 2). -/
def Port.accept (p : Port) : Port := { p with expected := (p.expected + 1) % 4096, aval := true, aseq := p.expected, nakWait := 64 }

/-- LINK_FRAME (R253-R255): a frame arrives at an up port; what it brings happens next. -/
def execLinkFrame (port : Nat) (bytes : List Byte) (s : State) : Out :=
  match s.port? port with
  | none => .next s
  | some p =>
    if p.st != .up then .next s
    else
      match receive bytes with
      | none => .next (s.modPort port (·.refuse))
      | some (body, w) =>
        let s := s.modPort port (·.heard w)
        let kind := bits w 28 26
        let s :=
          if kind = 0 || kind = 3 then s
          else if bits w 11 0 = p.expected then
            { (s.modPort port (·.accept)) with agenda := s.agenda ++ (itemsOf kind body).filterMap (arrivalOf port) }
          else s.modPort port (·.refuse)
        .next s.runReconf

/-- A training body is the pattern of R256. -/
def patternOk (body : List Byte) : Bool := (body.drop 6).take 250 == (List.range 250).map (fun k => BitVec.ofNat 8 (k + 6) ^^^ 0xA5#8)

/-- The far end that a training frame names agrees with this port's entry of the current or the pending plan. -/
def State.peerAgrees (s : State) (port dev : Nat) : Bool :=
  let fits (p : BitVec 1024) : Bool := planV p port && planPeer p port == dev
  s.curPlan.any (fun x => fits x.2) || (s.trans.bind (fun t => s.planAt t.plan)).any fits

/-- A port comes up as R256 item 4 says; what waited for it is still queued. -/
def Port.comeUp (p : Port) : Port := { Port.fresh p.idx with st := .up, trainGen := p.trainGen, out := p.out, nakWait := 64 }

/-- A training frame of a port: one more in a row, or a mismatch that leaves the port down. -/
def State.takeTraining (s : State) (port : Nat) (p : Port) (good : Nat) (body : List Byte) : State :=
  if !patternOk body then s.modPort port (fun p => { p with st := .training 0 0 })
  else if fieldAt body 0 4 != p.trainGen.toNat || !s.peerAgrees port (fieldAt body 4 1) then
    (s.modPort port (fun p => { p with st := .down })).log .reconfFail 0 s.owner 0
  else s.modPort port (fun p => { p with st := .training (min 1024 (good + 1)) 0 })

/-- TRAINING_FRAME (R256): a frame arrives while the port trains, or at a port of the plan that is down and begins to (log 112, DEDUCED,
safe). -/
def execTrainingFrame (port : Nat) (bytes : List Byte) (s : State) : Out :=
  match s.port? port with
  | none => .next s
  | some p =>
    let s := if p.st == .down && s.mayTrain port then
        s.modPort port (fun p => { p with st := .training 0 0, trainGen := s.tgen })
      else s
    match s.port? port with
    | none => .next s
    | some p =>
      match p.st with
      | .training good idle =>
        let s := match receive bytes with
          | none => s.modPort port (fun p => { p with st := .training (if good < 1024 then 0 else good) 0 })
          | some (body, w) =>
            let kind := bits w 28 26
            if kind = 3 then s.takeTraining port p good body
            else if kind = 0 && good ≥ 1024 then
              if idle + 1 ≥ 64 then (s.modPort port (·.comeUp)).unstrand else s.modPort port (fun p => { p with st := .training good (idle + 1) })
            else s.modPort port (fun p => { p with st := .training 0 0 })
        .next s.runReconf
      | _ => .next s

end Sys2Proof.Machine
end

