-- ==== Sys2Proof/Machine/Move.lean ====
section
/-! DEFINITION. Moves (08 R181, R182) and the handle moves HGET and HPUT (06 R133). -/

namespace Sys2Proof.Machine

/-- The upper register of a pair. -/
def upperHalf : Opnd → Opnd
  | .v i => .v (i + 1)
  | .s i => .s (i + 1)
  | o => o

/-- MOV (R181): a copy, of 32 or 64 bits. -/
def execMov (c : Common) (wide : Bool) (d a : Opnd) (k : BitVec 32) (s : State) : Out :=
  vecOp c [nm d wide] [nm a wide] (fun g t => [⟨d, wide, readOp g t k .sint wide a⟩]) s

/-- MOVI (R181): the value of C. -/
def execMovi (c : Common) (d : Opnd) (k : BitVec 32) (s : State) : Out :=
  vecOp c [nm d false] [] (fun _ _ => [⟨d, false, k.setWidth 64⟩]) s

/-- MOVI.W (R181): C sign-extended to a pair. -/
def execMoviW (c : Common) (d : Opnd) (k : BitVec 32) (s : State) : Out :=
  vecOp c [nm d true] [] (fun _ _ => [⟨d, true, k.signExtend 64⟩]) s

/-- MOVI.HI (R181): C into the upper register of the pair; the lower is unchanged. -/
def execMoviHi (c : Common) (d : Opnd) (k : BitVec 32) (s : State) : Out :=
  vecOp c [nm (upperHalf d) false] [] (fun _ _ => [⟨upperHalf d, false, k.setWidth 64⟩]) s

/-- UMOV function 0 (R182): a uniform copy. -/
def execUmov (c : Common) (wide : Bool) (d a : Opnd) (k : BitVec 32) (s : State) : Out :=
  vecOp c [nm d wide] [nm a wide] (fun g t => [⟨d, wide, readOp g t k .sint wide a⟩]) s

/-- UMOV function 1 (R182): a uniform value into every executing thread. -/
def execUmovBc (c : Common) (wide : Bool) (d a : Opnd) (k : BitVec 32) (s : State) : Out :=
  vecOp c [nm d wide] [nm a wide] (fun g t => [⟨d, wide, readOp g t k .sint wide a⟩]) s

/-- The executing thread that UMOV function 2 reads (R182): the lane that B names, as an unsigned number, mod `sr.gwidth`. -/
def laneNamed (g : Group) (ex : List Thread) (width : Nat) (b : Opnd) (k : BitVec 32) (t : Thread) : Option Thread :=
  ex.find? (·.lane == (readOp g t k .uint false b).toNat % width)

/-- UMOV function 2 (R182): once per issuing run, from the lane that B names; 0 where that lane does not execute in this run.
Only that lane's A is a source: its poison traps the run's executing threads, and a pending one is waited for. -/
def execUmovLn (c : Common) (wide : Bool) (d a b : Opnd) (k : BitVec 32) (s : State) : Out :=
  issue { common := c, writes := [nm d wide], reads := [nm b false], named := [nm a wide] } noTrap noTrap
    (fun cx ex s =>
      let lane := laneNamed cx.group ex cx.launch.lr.width b k
      if ex.any (fun t => (lane t).any (fun u => pending s.inflight u [nm a wide])) then .stall
      else
        match ex.filter (fun t => (lane t).any (fun u => poisoned cx.group u (nm a wide))) with
        | [] => .done (s.writeAll cx.run.ref ex (fun t =>
            [⟨d, wide, match lane t with
              | some u => readOp cx.group u k .sint wide a
              | none => 0⟩]))
        | bad => .trap s (bad.map (fun t => (t.lane, ⟨.memUncorrectable, 0, 0⟩)))) s

/-- HGET (R133): a handle into a pair. -/
def execHget (c : Common) (d a : Opnd) (s : State) : Out :=
  vecOp c [nm d true] [(a, 1)] (fun g t => [⟨d, true, readOp g t 0 .uint true a⟩]) s

/-- HPUT (R133): a pair into a handle. -/
def execHput (c : Common) (d a : Opnd) (s : State) : Out :=
  vecOp c [(d, 1)] [nm a true] (fun g t => [⟨d, true, readOp g t 0 .uint true a⟩]) s

end Sys2Proof.Machine
end

