-- ==== Sys2Proof/Machine/Topology.lean ====
section
/-! DEFINITION. The happenings of a reconfiguration that no flit brings (11 R280-R282): the end of the drain, the three bounds, the
reply of the circuit switch. -/

namespace Sys2Proof.Machine

/-- A transition at a step of R280. -/
def State.transAt (s : State) (n : Nat) : Option Transition := s.trans.filter (fun t => t.step == n)

/-- RECONF_DRAIN_DONE (R280 step 2): everything issued under the old generation is over, and the device goes on to step 3. -/
def execReconfDrainDone (s : State) : Out := .next (if (s.transAt 2).isSome && s.drained then s.runReconf else s)

/-- A bound in µs has passed since a transition's mark, whatever the throttle step has been meanwhile (R281, R389) (log 10, DEDUCED, safe). -/
def State.boundPast (s : State) (t : Transition) (us : Nat) : Bool := s.time ≥ t.since + us * microsecond

/-- drainbnd has passed in step 2. -/
def State.drainLate (s : State) : Option Transition :=
  (s.transAt 2).filter (fun t => !s.drained && (s.planAt t.plan).any (fun p => s.boundPast t (planDrain p)))

/-- RECONF_DRAIN_TIMEOUT (R281): drainbnd passes in step 2. -/
def execReconfDrainTimeout (s : State) : Out :=
  match s.drainLate with
  | some t => .next (s.failEarly t).runReconf
  | none => .next s

/-- The coordinator tells every other member of a plan that the reconfiguration is off (R280 step 3). -/
def State.sendAborts (s : State) (t : Transition) (p : BitVec 1024) : State :=
  ((List.range 16).filter (fun d => (planMembers p).getLsbD d && d != s.devid)).foldl
    (fun (s : State) d => s.sendShort d 0x13 t.old (readyBody 2 t.new t.plan)) s

/-- readybnd has passed at the coordinator in step 3, with the plan. -/
def State.readyLate (s : State) : Option (Transition × BitVec 1024) :=
  match s.transAt 3 with
  | none => none
  | some t => ((s.planAt t.plan).filter (fun p =>
      planCoord p == s.devid && !t.gone && !s.allReady t p && s.boundPast t (planReady p))).map (fun p => (t, p))

/-- READY_TIMEOUT (R280 step 3, R281): readybnd passes at the coordinator before every member is ready; it sends ABORT and fails. -/
def execReadyTimeout (s : State) : Out :=
  match s.readyLate with
  | some (t, p) => .next ((s.sendAborts t p).failEarly t).runReconf
  | none => .next s

/-- lightbnd has passed: since GO in steps 4 and 5, where they had begun, or since the ports began to retrain. -/
def State.lightLate (s : State) : Option Transition :=
  s.trans.filter (fun t => (t.step = 7 || (t.gone && t.step != 2)) && (s.planAt t.plan).any (fun p => s.boundPast t (planLight p)))

/-- RECONF_LIGHT_TIMEOUT (R281): lightbnd passes in step 4 or 5, or while the changed ports retrain under the old plan. -/
def execReconfLightTimeout (s : State) : Out :=
  match s.lightLate with
  | some t => .next (if t.step = 7 then s.endReconf t stError else s.failLate t).runReconf
  | none => .next s

/-- SWITCH_REPLY (R282): the circuit switch answers; the changed ports train, or the reconfiguration fails. -/
def execSwitchReply (bytes : List Byte) (s : State) : Out :=
  match s.transAt 6 with
  | none => .next s
  | some t =>
    match s.planAt t.plan with
    | none => .next s
    | some p =>
      if replyGood bytes then
        .next { (s.retrain t.changed p t.new) with trans := some (t.light s.time) }.runReconf
      else .next (s.failLate t).runReconf

end Sys2Proof.Machine
end

