-- ==== Sys2Proof/Machine/Trust.lean ====
section
/-! DEFINITION. The TEE device interface (15 R374-R379, R381): the SPDM, IDE_KM and TDISP requests, their order, what they change and
what they return; the losses that make a locked interface fall. -/

namespace Sys2Proof.Machine

/-! Requests and answers. A request is numbered by its family (0 SPDM, 1 IDE_KM, 2 TDISP) and its code there (log 145, PRESUMED, unsafe). -/

def spdmReq (code : Nat) : Nat := code
def ideReq (code : Nat) : Nat := 0x100 + code
def tdispReq (code : Nat) : Nat := 0x200 + code

/-- The response that a standard gives a request, in bytes the spec does not fix, with what this spec puts into it. -/
def State.respond (s : State) (code : Nat) (req more : List Byte) : State :=
  { s with
    hostOut := s.hostOut ++ [.response (Config.response code req s.freeCtr ++ more)]
    freeCtr := s.freeCtr + 1 }

/-- A request in a wrong state or form gets an error response and changes no state (R374). -/
def State.reply (s : State) (code : Nat) (req : List Byte) (ok : Bool) (more : List Byte) (f : State → State) : Out :=
  .next (if ok && Config.requestOk code req then f (s.respond code req more) else s.answer (.errorResponse .ofStandard))

/-! SPDM. A request is its message from the first byte: version, code, two parameters, and the rest (log 145, PRESUMED, unsafe). -/

/-- The versions of R374: 1.2 and 1.3; GET_VERSION itself is version 1.0. -/
def spdmVersion (req : List Byte) : Bool := fieldAt req 0 1 == 0x12 || fieldAt req 0 1 == 0x13

/-- The certificate slots of R374. -/
def slotKnown (n : Nat) : Bool := n == 0 || n == 1

/-- A signature of a message by the key of a slot's certificate: the identity key, or the image key. -/
def signedBy (slot : Nat) (m : List Byte) : List Byte := if slot = 1 then imageSign m else Config.identitySign m

/-- The algorithm structure of a type among n of four bytes each, its supported algorithms with a bit set. -/
def offersAlg (l : List Byte) (n typ bit : Nat) : Bool :=
  (List.range n).any (fun i => fieldAt l (4 * i) 1 == typ && (fieldAt l (4 * i + 2) 2).testBit bit)

/-- A NEGOTIATE_ALGORITHMS that offers those of R374: SHA-384, an extended asymmetric algorithm, SECP_384_R1, AES-256-GCM. -/
def offersOurs (req : List Byte) : Bool :=
  let asym := fieldAt req 28 1
  let rest := req.drop (32 + 4 * (asym + fieldAt req 29 1))
  (fieldAt req 12 4).testBit 1 && asym != 0 && offersAlg rest (fieldAt req 2 1) 2 4 && offersAlg rest (fieldAt req 2 1) 3 1

/-- How far a requester has come, as a number. -/
def Spdm.rank : Spdm → Nat
  | .start => 0 | .version => 1 | .capabilities => 2 | .negotiated => 3 | .exchanged => 4 | .session => 5

def State.reached (s : State) (x : Spdm) : Bool := x.rank ≤ s.spdm.rank

/-- The session is gone: the requester stands before the key exchange again; a locked interface falls (R376) (log 146, PRESUMED, unsafe). -/
def State.loseSession (s : State) (back : Spdm) : State :=
  let lost := s.spdm == .session
  let s := { s with spdm := back }
  if lost then s.fallIfLocked else s

/-- GET_VERSION: the exchange starts again. -/
def execGetVersion (req : List Byte) (s : State) : Out :=
  s.reply (spdmReq 0x84) req (fieldAt req 0 1 == 0x10) [] (·.loseSession .version)

/-- GET_CAPABILITIES. -/
def execGetCapabilities (req : List Byte) (s : State) : Out :=
  s.reply (spdmReq 0xE1) req (s.spdm == .version && spdmVersion req) [] (fun s => { s with spdm := .capabilities })

/-- NEGOTIATE_ALGORITHMS: those of R374. -/
def execNegotiateAlgorithms (req : List Byte) (s : State) : Out :=
  s.reply (spdmReq 0xE3) req (s.spdm == .capabilities && spdmVersion req && offersOurs req) [] (fun s => { s with spdm := .negotiated })

/-- GET_DIGESTS: of the certificate chains of slots 0 and 1. -/
def execGetDigests (req : List Byte) (s : State) : Out :=
  s.reply (spdmReq 0x81) req (s.reached .negotiated && spdmVersion req) [] id

/-- GET_CERTIFICATE: of slot 0 or 1. -/
def execGetCertificate (req : List Byte) (s : State) : Out :=
  s.reply (spdmReq 0x82) req (s.reached .negotiated && spdmVersion req && slotKnown (fieldAt req 2 1)) [] id

/-- CHALLENGE: answered with a signature by the key of the slot it names. -/
def execChallenge (req : List Byte) (s : State) : Out :=
  s.reply (spdmReq 0x83) req (s.reached .negotiated && spdmVersion req && slotKnown (fieldAt req 2 1))
    (signedBy (fieldAt req 2 1) req) id

/-! Measurements (R381). -/

def digestBytes (d : BitVec 384) : List Byte := leBytes d.toNat 48

/-- What measurement 3 covers, as it stands: trust words 0x08 and 0x10 and the key digests in use. -/
def State.trustBytes (s : State) : List Byte :=
  leBytes s.fwcfg.toNat 8 ++ leBytes s.nkeys.toNat 8
    ++ (List.range s.nkeys.toNat).flatMap (fun i => (List.range 6).flatMap (fun k => leBytes (s.keyWord i k).toNat 8))

/-- The digest at an index; none where there is no such index. -/
def State.measurement (s : State) (i : Nat) : Option (List Byte) :=
  match i with
  | 1 => some (digestBytes Config.romDigest)
  | 2 => some (digestBytes (sha384 s.firmware))
  | 3 => some (match s.meas3 with
    | some b => digestBytes (sha384 b)
    | none => List.replicate 48 0#8)
  | 4 => some (digestBytes (sha384 s.identBytes))
  | _ => none

/-- The digests a request asks for, by its second parameter: their number only, one, or all; none where there is no such index. -/
def State.measured (s : State) (op : Nat) : Option (List Byte) :=
  if op = 0 then some [4#8]
  else if op = 0xFF then some ([1, 2, 3, 4].flatMap (fun i => (s.measurement i).getD []))
  else s.measurement op

/-- GET_MEASUREMENTS (R381): signed with the identity key (R374). -/
def execGetMeasurements (req : List Byte) (s : State) : Out :=
  match s.measured (fieldAt req 3 1) with
  | some m => s.reply (spdmReq 0xE0) req (s.reached .negotiated && spdmVersion req) (m ++ Config.identitySign (req ++ m)) id
  | none => .next (s.answer (.errorResponse .ofStandard))

/-! Sessions. -/

/-- KEY_EXCHANGE: SECP_384_R1 and AES-256-GCM, signed with the key of the slot it names. -/
def execKeyExchange (req : List Byte) (s : State) : Out :=
  s.reply (spdmReq 0xE4) req (s.spdm == .negotiated && spdmVersion req && slotKnown (fieldAt req 3 1)) (signedBy (fieldAt req 3 1) req) (fun s => { s with spdm := .exchanged })

/-- FINISH: the secure session stands. -/
def execFinish (req : List Byte) (s : State) : Out :=
  s.reply (spdmReq 0xE5) req (s.spdm == .exchanged && spdmVersion req) [] (fun s => { s with spdm := .session })

/-- KEY_UPDATE: of the session's keys. -/
def execKeyUpdate (req : List Byte) (s : State) : Out := s.reply (spdmReq 0xE9) req (s.spdm == .session && spdmVersion req) [] id

/-- HEARTBEAT: the session is alive. -/
def execHeartbeat (s : State) : Out := s.reply (spdmReq 0xE8) [] (s.spdm == .session) [] id

/-- VENDOR_DEFINED_REQUEST. -/
def execVendorDefinedRequest (req : List Byte) (s : State) : Out :=
  s.reply (spdmReq 0xFE) req (s.reached .negotiated && spdmVersion req) [] id

/-- END_SESSION (R376): a locked interface falls. -/
def execEndSession (s : State) : Out :=
  s.reply (spdmReq 0xEC) [] (s.spdm == .session) [] (·.loseSession .negotiated)

/-- SPDM_SESSION_LOSS (R376): a locked interface falls. -/
def execSpdmSessionLoss (s : State) : Out := .next (if s.spdm == .session then s.loseSession .start else s)

/-! IDE_KM, within a secure session. -/

/-- QUERY. -/
def execIdeQuery (req : List Byte) (s : State) : Out := s.reply (ideReq 0) req (s.spdm == .session) [] id

/-- KEY_PROG: keys for the stream (log 148, PRESUMED, unsafe). -/
def execIdeKeyProg (req : List Byte) (s : State) : Out :=
  s.reply (ideReq 2) req (s.spdm == .session) [] (fun s => { s with ideKeyed := true })

/-- K_SET_GO: the stream is keyed and active. -/
def execIdeKSetGo (req : List Byte) (s : State) : Out :=
  s.reply (ideReq 4) req (s.spdm == .session && s.ideKeyed) [] (fun s => { s with ide := true })

/-- K_SET_STOP (R376): a locked interface falls. -/
def execIdeKSetStop (req : List Byte) (s : State) : Out :=
  s.reply (ideReq 5) req (s.spdm == .session) [] (fun s => { s with ide := false, ideKeyed := false }.fallIfLocked)

/-- IDE_INTEGRITY_FAILURE (R376): a locked interface falls. -/
def execIdeIntegrityFailure (s : State) : Out := .next (if s.ide then { s with ide := false }.fallIfLocked else s)

/-! TDISP. -/

/-- GET_TDISP_VERSION. -/
def execGetTdispVersion (s : State) : Out := s.reply (tdispReq 0x81) [] (s.spdm == .session) [] id

/-- GET_TDISP_CAPABILITIES. -/
def execGetTdispCapabilities (s : State) : Out := s.reply (tdispReq 0x82) [] (s.spdm == .session) [] id

/-- LOCK_INTERFACE_REQUEST (R376): with the stream keyed and active; measurement 3 is captured. -/
def execLockInterfaceRequest (req : List Byte) (s : State) : Out :=
  s.reply (tdispReq 0x83) req (s.spdm == .session && s.tdi == .unlocked && s.ide) []
    (fun s => { s with tdi := .locked, meas3 := some s.trustBytes })

/-- The 32 bytes of device-specific information (R379). -/
def State.deviceInfo (s : State) : List Byte :=
  leBytes (s.identWord 0).toNat 8 ++ leBytes (s.identWord 8).toNat 8 ++ leBytes s.fwcfg.toNat 8 ++ leBytes (s.nkeys.toNat % 32) 4
    ++ leBytes s.fwver.toNat 4

/-- The MMIO range of a BAR (R379): its first page, its pages, its range ID (log 149, PRESUMED, unsafe). -/
def State.mmioRange (s : State) (bar : Nat) : List Byte :=
  leBytes ((s.barReg (0x10 + 4 * bar)).toNat / 4096) 8 ++ leBytes (barBytes s.part bar / 4096) 4 ++ leBytes (bar * 65536) 4

/-- The interface report (R379): the ranges of BARs 0, 2 and 4 and the device-specific information. -/
def State.ifaceReport (s : State) : List Byte := [0, 2, 4].flatMap s.mmioRange ++ s.deviceInfo

/-- GET_DEVICE_INTERFACE_REPORT (R379): signed with the identity key (R374), answered in CONFIG_LOCKED and RUN (log 168, PRESUMED,
unsafe). -/
def execGetDeviceInterfaceReport (req : List Byte) (s : State) : Out :=
  s.reply (tdispReq 0x84) req (s.spdm == .session && (s.tdi == .locked || s.tdi == .run))
    (s.ifaceReport ++ Config.identitySign s.ifaceReport) id

/-- GET_DEVICE_INTERFACE_STATE. -/
def execGetDeviceInterfaceState (s : State) : Out :=
  s.reply (tdispReq 0x85) [] (s.spdm == .session) [BitVec.ofNat 8 (tdiCode s.tdi)] id

/-- START_INTERFACE_REQUEST (R376). -/
def execStartInterfaceRequest (s : State) : Out :=
  s.reply (tdispReq 0x86) [] (s.spdm == .session && s.tdi == .locked) [] (fun s => { s with tdi := .run })

/-- STOP_INTERFACE_REQUEST (R376): from any state but CONFIG_UNLOCKED, the scrub and CONFIG_UNLOCKED. -/
def execStopInterfaceRequest (s : State) : Out :=
  s.reply (tdispReq 0x87) [] (s.spdm == .session) [] (fun s => if s.tdi == .unlocked then s else s.scrub)

/-- UNSUPPORTED_REQUEST (R374): BIND_P2P_STREAM_REQUEST and SET_MMIO_ATTRIBUTE_REQUEST get the error of that name, every other request
outside the table an error of its standard. -/
def execUnsupportedRequest (req : OtherRequest) (s : State) : Out :=
  .next (s.answer (.errorResponse (match req with
    | .other _ => .ofStandard
    | _ => .unsupportedRequest)))

end Sys2Proof.Machine
end

