-- ==== Sys2Proof/Machine/Dispatch.lean ====
section
/-! DEFINITION. The one match on instructions: each arm calls its meaning, or refuses by name. -/

namespace Sys2Proof.Machine

def exec (i : Instr) (s : State) : Host.Outcome State Fault Refusal :=
  match i with
  | .clause flagX flagY wait => Sys2Proof.Machine.execClause flagX flagY wait s
  | .region bnd off => Sys2Proof.Machine.execRegion bnd off s
  | .nop c => Sys2Proof.Machine.execNop c s
  | .trap c a => Sys2Proof.Machine.execTrap c a s
  | .brk c => Sys2Proof.Machine.execBrk c s
  | .rdsr c d sr => Sys2Proof.Machine.execRdsr c d sr s
  | .wrsr c sr a k => Sys2Proof.Machine.execWrsr c sr a k s
  | .mov c wide d a k => Sys2Proof.Machine.execMov c wide d a k s
  | .movi c d k => Sys2Proof.Machine.execMovi c d k s
  | .moviW c d k => Sys2Proof.Machine.execMoviW c d k s
  | .moviHi c d k => Sys2Proof.Machine.execMoviHi c d k s
  | .umov c wide d a k => Sys2Proof.Machine.execUmov c wide d a k s
  | .umovBc c wide d a k => Sys2Proof.Machine.execUmovBc c wide d a k s
  | .umovLn c wide d a b k => Sys2Proof.Machine.execUmovLn c wide d a b k s
  | .hget c d a => Sys2Proof.Machine.execHget c d a s
  | .hput c d a => Sys2Proof.Machine.execHput c d a s
  | .bra c off => Sys2Proof.Machine.execBra c off s
  | .braDv c off => Sys2Proof.Machine.execBraDv c off s
  | .brx c a => Sys2Proof.Machine.execBrx c a s
  | .call c off => Sys2Proof.Machine.execCall c off s
  | .calli c a => Sys2Proof.Machine.execCalli c a s
  | .callt c a k => Sys2Proof.Machine.execCallt c a k s
  | .ret c => Sys2Proof.Machine.execRet c s
  | .exit c => Sys2Proof.Machine.execExit c s
  | .rejoin c => Sys2Proof.Machine.execRejoin c s
  | .mjoin c a => Sys2Proof.Machine.execMjoin c a s
  | .mset c d a k => Sys2Proof.Machine.execMset c d a k s
  | .mget c d a => Sys2Proof.Machine.execMget c d a s
  | .yield c => Sys2Proof.Machine.execYield c s
  | .iadd c ty sat d a b k => Sys2Proof.Machine.execIadd c ty sat d a b k s
  | .iadd3 c ty sat d a b e => Sys2Proof.Machine.execIadd3 c ty sat d a b e s
  | .isub c ty sat d a b k => Sys2Proof.Machine.execIsub c ty sat d a b k s
  | .imul c ty d a b k => Sys2Proof.Machine.execImul c ty d a b k s
  | .imulh c ty d a b k => Sys2Proof.Machine.execImulh c ty d a b k s
  | .imad c ty sat d a b e => Sys2Proof.Machine.execImad c ty sat d a b e s
  | .imadw c ty d a b e => Sys2Proof.Machine.execImadw c ty d a b e s
  | .iabs c ty sat d a k => Sys2Proof.Machine.execIabs c ty sat d a k s
  | .ineg c ty sat d a k => Sys2Proof.Machine.execIneg c ty sat d a k s
  | .imin c ty d a b k => Sys2Proof.Machine.execImin c ty d a b k s
  | .imax c ty d a b k => Sys2Proof.Machine.execImax c ty d a b k s
  | .isad c ty d a b e => Sys2Proof.Machine.execIsad c ty d a b e s
  | .lea c wide sh d a b k => Sys2Proof.Machine.execLea c wide sh d a b k s
  | .addc c wide d a b e => Sys2Proof.Machine.execAddc c wide d a b e s
  | .subc c wide d a b e => Sys2Proof.Machine.execSubc c wide d a b e s
  | .andb c wide d a b k => Sys2Proof.Machine.execAndb c wide d a b k s
  | .orb c wide d a b k => Sys2Proof.Machine.execOrb c wide d a b k s
  | .xorb c wide d a b k => Sys2Proof.Machine.execXorb c wide d a b k s
  | .notb c wide d a k => Sys2Proof.Machine.execNotb c wide d a k s
  | .tlog c tt d a b e => Sys2Proof.Machine.execTlog c tt d a b e s
  | .shl c wide d a b k => Sys2Proof.Machine.execShl c wide d a b k s
  | .shr c wide d a b k => Sys2Proof.Machine.execShr c wide d a b k s
  | .sar c wide d a b k => Sys2Proof.Machine.execSar c wide d a b k s
  | .funl c d a b e => Sys2Proof.Machine.execFunl c d a b e s
  | .funr c d a b e => Sys2Proof.Machine.execFunr c d a b e s
  | .rot c wide right d a b k => Sys2Proof.Machine.execRot c wide right d a b k s
  | .bfe c ty d a b k => Sys2Proof.Machine.execBfe c ty d a b k s
  | .bfi c wide d a b e => Sys2Proof.Machine.execBfi c wide d a b e s
  | .bmsk c d a b k => Sys2Proof.Machine.execBmsk c d a b k s
  | .popc c wide d a k => Sys2Proof.Machine.execPopc c wide d a k s
  | .clz c wide d a k => Sys2Proof.Machine.execClz c wide d a k s
  | .ctz c wide d a k => Sys2Proof.Machine.execCtz c wide d a k s
  | .brev c wide d a k => Sys2Proof.Machine.execBrev c wide d a k s
  | .bysel c d a b e => Sys2Proof.Machine.execBysel c d a b e s
  | .isetp c ty cmp d a b k => Sys2Proof.Machine.execIsetp c ty cmp d a b k s
  | .fsetp c cmp unord d a b k => Sys2Proof.Machine.execFsetp c cmp unord d a b k s
  | .hsetp2 c ty cmp unord d a b e => Sys2Proof.Machine.execHsetp2 c ty cmp unord d a b e s
  | .sel c wide d a b e => Sys2Proof.Machine.execSel c wide d a b e s
  | .pset c tt d a b e => Sys2Proof.Machine.execPset c tt d a b e s
  | .p2v c d => Sys2Proof.Machine.execP2v c d s
  | .v2p c a b k => Sys2Proof.Machine.execV2p c a b k s
  | .fadd c rm ftz d a b k => Sys2Proof.Machine.execFadd c rm ftz d a b k s
  | .fsub c rm ftz d a b k => Sys2Proof.Machine.execFsub c rm ftz d a b k s
  | .fmul c rm ftz d a b k => Sys2Proof.Machine.execFmul c rm ftz d a b k s
  | .ffma c rm ftz d a b e => Sys2Proof.Machine.execFfma c rm ftz d a b e s
  | .fmin c nan ftz d a b k => Sys2Proof.Machine.execFmin c nan ftz d a b k s
  | .fmax c nan ftz d a b k => Sys2Proof.Machine.execFmax c nan ftz d a b k s
  | .fdiv c rm ftz d a b k => Sys2Proof.Machine.execFdiv c rm ftz d a b k s
  | .fsqrt c rm ftz d a k => Sys2Proof.Machine.execFsqrt c rm ftz d a k s
  | .frcp c rm ftz d a k => Sys2Proof.Machine.execFrcp c rm ftz d a k s
  | .frsq c ftz d a k => Sys2Proof.Machine.execFrsq c ftz d a k s
  | .fex2 c ftz d a k => Sys2Proof.Machine.execFex2 c ftz d a k s
  | .flg2 c ftz d a k => Sys2Proof.Machine.execFlg2 c ftz d a k s
  | .fsin c ftz d a k => Sys2Proof.Machine.execFsin c ftz d a k s
  | .fcos c ftz d a k => Sys2Proof.Machine.execFcos c ftz d a k s
  | .ftanh c ftz d a k => Sys2Proof.Machine.execFtanh c ftz d a k s
  | .fclass c d a k => Sys2Proof.Machine.execFclass c d a k s
  | .hadd2 c ty rm d a b => Sys2Proof.Machine.execHadd2 c ty rm d a b s
  | .hmul2 c ty rm d a b => Sys2Proof.Machine.execHmul2 c ty rm d a b s
  | .hfma2 c ty rm d a b e => Sys2Proof.Machine.execHfma2 c ty rm d a b e s
  | .hmin2 c ty nan d a b => Sys2Proof.Machine.execHmin2 c ty nan d a b s
  | .hmax2 c ty nan d a b => Sys2Proof.Machine.execHmax2 c ty nan d a b s
  | .cvt c dty sty rm sat d a => Sys2Proof.Machine.execCvt c dty sty rm sat d a s
  | .cvth c dty sty rm sat d a b => Sys2Proof.Machine.execCvth c dty sty rm sat d a b s
  | .frnd c ty rm d a => Sys2Proof.Machine.execFrnd c ty rm d a s
  | .qnt c useB slot d a b => Sys2Proof.Machine.execQnt c useB slot d a b s
  | .dqnt c useB slot d a b => Sys2Proof.Machine.execDqnt c useB slot d a b s
  | .idiv c ty d a b k => Sys2Proof.Machine.execIdiv c ty d a b k s
  | .irem c ty d a b k => Sys2Proof.Machine.execIrem c ty d a b k s
  | .ld c ty scale d a idx mc => Sys2Proof.Machine.execLd c ty scale d a idx mc s
  | .st c ty scale d a idx mc => Sys2Proof.Machine.execSt c ty scale d a idx mc s
  | .ldsp c ty scale d a idx mc => Sys2Proof.Machine.execLdsp c ty scale d a idx mc s
  | .stsp c ty scale d a idx mc => Sys2Proof.Machine.execStsp c ty scale d a idx mc s
  | .ldc c ty lr scale d a idx mc => Sys2Proof.Machine.execLdc c ty lr scale d a idx mc s
  | .atom c ty op d a b mc => Sys2Proof.Machine.execAtom c ty op d a b mc s
  | .red c ty op a b mc => Sys2Proof.Machine.execRed c ty op a b mc s
  | .fence c rp scope order => Sys2Proof.Machine.execFence c rp scope order s
  | .pref c slice a idx offset => Sys2Proof.Machine.execPref c slice a idx offset s
  | .shfl c mode wide d a b msk => Sys2Proof.Machine.execShfl c mode wide d a b msk s
  | .vote c mode d a msk => Sys2Proof.Machine.execVote c mode d a msk s
  | .ballot c d a msk => Sys2Proof.Machine.execBallot c d a msk s
  | .gred c ty op d a msk => Sys2Proof.Machine.execGred c ty op d a msk s
  | .gscan c ty op excl d a msk => Sys2Proof.Machine.execGscan c ty op excl d a msk s
  | .garg c ty nanwin hash isMin d a b msk => Sys2Proof.Machine.execGarg c ty nanwin hash isMin d a b msk s
  | .matchOp c wide all d a msk => Sys2Proof.Machine.execMatchOp c wide all d a msk s
  | .elect c d msk => Sys2Proof.Machine.execElect c d msk s
  | .bxch c wide d a b e => Sys2Proof.Machine.execBxch c wide d a b e s
  | .acopy c cb dims dir d a b => Sys2Proof.Machine.execAcopy c cb dims dir d a b s
  | .dcmp c sp d a => Sys2Proof.Machine.execDcmp c sp d a s
  | .fwait c d a => Sys2Proof.Machine.execFwait c d a s
  | .ftest c d a => Sys2Proof.Machine.execFtest c d a s
  | .fcancel c a => Sys2Proof.Machine.execFcancel c a s
  | .waitc c scope cls a => Sys2Proof.Machine.execWaitc c scope cls a s
  | .qpush c a b => Sys2Proof.Machine.execQpush c a b s
  | .qpop c d a => Sys2Proof.Machine.execQpop c d a s
  | .qtryPush c d a b => Sys2Proof.Machine.execQtryPush c d a b s
  | .qtryPop c d a e => Sys2Proof.Machine.execQtryPop c d a e s
  | .mres c d => Sys2Proof.Machine.execMres c d s
  | .mrel c => Sys2Proof.Machine.execMrel c s
  | .mldw c slot d a => Sys2Proof.Machine.execMldw c slot d a s
  | .mzero c d => Sys2Proof.Machine.execMzero c d s
  | .mma c slot d a b => Sys2Proof.Machine.execMma c slot d a b s
  | .mmas c slot d a b => Sys2Proof.Machine.execMmas c slot d a b s
  | .mst c ty bias rs rm d a b => Sys2Proof.Machine.execMst c ty bias rs rm d a b s
  | .mcommit c => Sys2Proof.Machine.execMcommit c s
  | .bar c a b k => Sys2Proof.Machine.execBar c a b k s
  | .bara c a b k => Sys2Proof.Machine.execBara c a b k s
  | .barw c a => Sys2Proof.Machine.execBarw c a s
  | .wbar c ext => Sys2Proof.Machine.execWbar c ext s
  | .flushpt c => Sys2Proof.Machine.execFlushpt c s
  | .dlaunch c d a e => Sys2Proof.Machine.execDlaunch c d a e s
  | .fput c d a => Sys2Proof.Machine.execFput c d a s
  | .fget c d a => Sys2Proof.Machine.execFget c d a s
  | .fatom c ty op d a b mc => Sys2Proof.Machine.execFatom c ty op d a b mc s
  | .coll c ty op kind d a => Sys2Proof.Machine.execColl c ty op kind d a s
  | .reconf c d a b k => Sys2Proof.Machine.execReconf c d a b k s
  | .tgset c a k => Sys2Proof.Machine.execTgset c a k s
  | .issueArbitration core pipe => Sys2Proof.Machine.execIssueArbitration core pipe s
  | .pipIssue cluster pip => Sys2Proof.Machine.execPipIssue cluster pip s
  | .ejectSoftTimeout g => Sys2Proof.Machine.execEjectSoftTimeout g s
  | .ejectHardTimeout g lane => Sys2Proof.Machine.execEjectHardTimeout g lane s
  | .longLatencyComplete op => Sys2Proof.Machine.execLongLatencyComplete op s
  | .pageWalk cluster pasid va acc => Sys2Proof.Machine.execPageWalk cluster pasid va acc s
  | .faultResolved entry => Sys2Proof.Machine.execFaultResolved entry s
  | .faultUnresolvable entry => Sys2Proof.Machine.execFaultUnresolvable entry s
  | .bindingResolved launch k target => Sys2Proof.Machine.execBindingResolved launch k target s
  | .bindingFailed launch k => Sys2Proof.Machine.execBindingFailed launch k s
  | .shootdownStart w t => Sys2Proof.Machine.execShootdownStart w t s
  | .sddropClear w t => Sys2Proof.Machine.execSddropClear w t s
  | .shootdownAck cluster => Sys2Proof.Machine.execShootdownAck cluster s
  | .flushComplete launch => Sys2Proof.Machine.execFlushComplete launch s
  | .flushFaultResolved launch => Sys2Proof.Machine.execFlushFaultResolved launch s
  | .copyChunkComplete cmd chunk => Sys2Proof.Machine.execCopyChunkComplete cmd chunk s
  | .copyComplete cmd => Sys2Proof.Machine.execCopyComplete cmd s
  | .dcmpJobComplete cmd => Sys2Proof.Machine.execDcmpJobComplete cmd s
  | .matrixCommandStart pair => Sys2Proof.Machine.execMatrixCommandStart pair s
  | .matrixCommandComplete pair => Sys2Proof.Machine.execMatrixCommandComplete pair s
  | .scrubStep codeword err => Sys2Proof.Machine.execScrubStep codeword err s
  | .deviceReset pkg => Sys2Proof.Machine.execDeviceReset pkg s
  | .watchdogExpiry launch => Sys2Proof.Machine.execWatchdogExpiry launch s
  | .notify page off width w t => Sys2Proof.Machine.execNotify page off width w t s
  | .nopPacket q => Sys2Proof.Machine.execNopPacket q s
  | .launchPacket q => Sys2Proof.Machine.execLaunchPacket q s
  | .waitSignalPacket q => Sys2Proof.Machine.execWaitSignalPacket q s
  | .setSignalPacket q => Sys2Proof.Machine.execSetSignalPacket q s
  | .imageSavePacket q => Sys2Proof.Machine.execImageSavePacket q s
  | .imageLoadPacket q => Sys2Proof.Machine.execImageLoadPacket q s
  | .dirtyHarvestPacket q => Sys2Proof.Machine.execDirtyHarvestPacket q s
  | .planLoadPacket q => Sys2Proof.Machine.execPlanLoadPacket q s
  | .invalidPacket q => Sys2Proof.Machine.execInvalidPacket q s
  | .packetComplete q idx => Sys2Proof.Machine.execPacketComplete q idx s
  | .blockClaim launch core pair => Sys2Proof.Machine.execBlockClaim launch core pair s
  | .blockMigrate launch blk core pair => Sys2Proof.Machine.execBlockMigrate launch blk core pair s
  | .blockImageOut launch blk => Sys2Proof.Machine.execBlockImageOut launch blk s
  | .blockRetire launch blk => Sys2Proof.Machine.execBlockRetire launch blk s
  | .childAdmission entry => Sys2Proof.Machine.execChildAdmission entry s
  | .preempt launch => Sys2Proof.Machine.execPreempt launch s
  | .prooferClauseLimit g lane => Sys2Proof.Machine.execProoferClauseLimit g lane s
  | .remoteResend txn => Sys2Proof.Machine.execRemoteResend txn s
  | .flitRead port f => Sys2Proof.Machine.execFlitRead port f s
  | .flitWrite port f => Sys2Proof.Machine.execFlitWrite port f s
  | .flitAtomic port f => Sys2Proof.Machine.execFlitAtomic port f s
  | .flitReadReply port f => Sys2Proof.Machine.execFlitReadReply port f s
  | .flitWriteAck port f => Sys2Proof.Machine.execFlitWriteAck port f s
  | .flitCollectiveData port f => Sys2Proof.Machine.execFlitCollectiveData port f s
  | .flitAtomicReply port f => Sys2Proof.Machine.execFlitAtomicReply port f s
  | .bufferRelease port f => Sys2Proof.Machine.execBufferRelease port f s
  | .bufferReleaseForced port => Sys2Proof.Machine.execBufferReleaseForced port s
  | .retryAfter port f => Sys2Proof.Machine.execRetryAfter port f s
  | .staleReject port f => Sys2Proof.Machine.execStaleReject port f s
  | .ready port f => Sys2Proof.Machine.execReady port f s
  | .go port f => Sys2Proof.Machine.execGo port f s
  | .abort port f => Sys2Proof.Machine.execAbort port f s
  | .collectiveRestart port f => Sys2Proof.Machine.execCollectiveRestart port f s
  | .linkProbe port f => Sys2Proof.Machine.execLinkProbe port f s
  | .linkFrame port bytes => Sys2Proof.Machine.execLinkFrame port bytes s
  | .replayTimeout port => Sys2Proof.Machine.execReplayTimeout port s
  | .trainingFrame port bytes => Sys2Proof.Machine.execTrainingFrame port bytes s
  | .portDown port => Sys2Proof.Machine.execPortDown port s
  | .rerouteTimeout txn => Sys2Proof.Machine.execRerouteTimeout txn s
  | .switchReply bytes => Sys2Proof.Machine.execSwitchReply bytes s
  | .throttleTick pnow tj => Sys2Proof.Machine.execThrottleTick pnow tj s
  | .hostBar4Read addr len t => Sys2Proof.Machine.execHostBar4Read addr len t s
  | .hostBar4Write addr data t => Sys2Proof.Machine.execHostBar4Write addr data t s
  | .hostAtomicop op wide addr v cmp t => Sys2Proof.Machine.execHostAtomicop op wide addr v cmp t s
  | .registerWrite space off w t => Sys2Proof.Machine.execRegisterWrite space off w t s
  | .debugControlWrite w t => Sys2Proof.Machine.execDebugControlWrite w t s
  | .readReg w t => Sys2Proof.Machine.execReadReg w t s
  | .writeReg w t => Sys2Proof.Machine.execWriteReg w t s
  | .dbgStep w t => Sys2Proof.Machine.execDbgStep w t s
  | .dbgResume w t => Sys2Proof.Machine.execDbgResume w t s
  | .getVersion req => Sys2Proof.Machine.execGetVersion req s
  | .getCapabilities req => Sys2Proof.Machine.execGetCapabilities req s
  | .negotiateAlgorithms req => Sys2Proof.Machine.execNegotiateAlgorithms req s
  | .getDigests req => Sys2Proof.Machine.execGetDigests req s
  | .getCertificate req => Sys2Proof.Machine.execGetCertificate req s
  | .challenge req => Sys2Proof.Machine.execChallenge req s
  | .getMeasurements req => Sys2Proof.Machine.execGetMeasurements req s
  | .keyExchange req => Sys2Proof.Machine.execKeyExchange req s
  | .finish req => Sys2Proof.Machine.execFinish req s
  | .keyUpdate req => Sys2Proof.Machine.execKeyUpdate req s
  | .vendorDefinedRequest req => Sys2Proof.Machine.execVendorDefinedRequest req s
  | .ideQuery req => Sys2Proof.Machine.execIdeQuery req s
  | .ideKeyProg req => Sys2Proof.Machine.execIdeKeyProg req s
  | .ideKSetGo req => Sys2Proof.Machine.execIdeKSetGo req s
  | .ideKSetStop req => Sys2Proof.Machine.execIdeKSetStop req s
  | .lockInterfaceRequest req => Sys2Proof.Machine.execLockInterfaceRequest req s
  | .getDeviceInterfaceReport req => Sys2Proof.Machine.execGetDeviceInterfaceReport req s
  | .unsupportedRequest req => Sys2Proof.Machine.execUnsupportedRequest req s
  | .unassignedOpcode w => Sys2Proof.Machine.execUnassignedOpcode w s
  | .frameTime port => Sys2Proof.Machine.execFrameTime port s
  | .clusterPowerGate cluster off => Sys2Proof.Machine.execClusterPowerGate cluster off s
  | .reconfDrainDone => Sys2Proof.Machine.execReconfDrainDone s
  | .reconfDrainTimeout => Sys2Proof.Machine.execReconfDrainTimeout s
  | .readyTimeout => Sys2Proof.Machine.execReadyTimeout s
  | .reconfLightTimeout => Sys2Proof.Machine.execReconfLightTimeout s
  | .heartbeat => Sys2Proof.Machine.execHeartbeat s
  | .endSession => Sys2Proof.Machine.execEndSession s
  | .spdmSessionLoss => Sys2Proof.Machine.execSpdmSessionLoss s
  | .ideIntegrityFailure => Sys2Proof.Machine.execIdeIntegrityFailure s
  | .getTdispVersion => Sys2Proof.Machine.execGetTdispVersion s
  | .getTdispCapabilities => Sys2Proof.Machine.execGetTdispCapabilities s
  | .getDeviceInterfaceState => Sys2Proof.Machine.execGetDeviceInterfaceState s
  | .startInterfaceRequest => Sys2Proof.Machine.execStartInterfaceRequest s
  | .stopInterfaceRequest => Sys2Proof.Machine.execStopInterfaceRequest s

end Sys2Proof.Machine
end

