-- ==== Sys2Proof/Machine/Plan.lean ====
section
/-! DEFINITION. Which step the state plans next: a step named in the agenda, the next word of the issuing run, or one of the events
that the state makes due. The spec gives no order among events that are due: which comes next is a free choice. -/

namespace Sys2Proof.Machine

/-! Events due, by part of the device. -/

/-- Instructions in flight that have something to complete. -/
def State.dueFlights (s : State) : List Instr := (s.inflight.filter s.completable).map (fun i => .longLatencyComplete i.id)

/-- Work that was held for a harvest or for the interface, which neither holds now (R79; 15 R375). -/
def State.dueHeld (s : State) : List Instr :=
  if !s.ready || s.tdi == .locked || s.tdi == .error then []
  else (s.oplog.filter (fun e => e.kind == .held && !s.harvesting e.pasid)).map (fun e => .faultResolved e.id)

/-- Flushes whose entries are all applied. -/
def State.dueFlushes (s : State) : List Instr :=
  (s.launches.filter (fun l => l.flush.any (fun f => f.left.isEmpty && f.fault.isNone))).map (fun l => .flushComplete l.id)

/-- The next event of an engine command. -/
def State.dueCmd (s : State) (c : Cmd) : Option Instr :=
  match c.kind with
  | .copy dims _ _ =>
    if s.arrivalLogged c.id then none
    else if c.copied dims then some (.copyComplete c.id)
    else if s.quiesced c then none
    else
      let d := CopyDesc.of dims c.desc
      ((List.range d.chunks).find? (c.mayMove d)).map (.copyChunkComplete c.id)
  | .dcmp _ _ => if c.failed || (!c.early && c.faulted.isEmpty && !s.quiesced c) then some (.dcmpJobComplete c.id) else none
  | _ => none

/-- The next event of a pair's matrix queue. -/
def State.duePair (s : State) (p : Pair) : Option Instr :=
  match p.queue with
  | [] => none
  | m :: _ =>
    if s.matrixHeld m then none
    else if m.started then some (.matrixCommandComplete p.idx)
    else
      match s.launch? m.ref.launch, s.block? m.ref.launch m.ref.blk with
      | some l, some b => if m.ready l.lr b then some (.matrixCommandStart p.idx) else none
      | _, _ => some (.matrixCommandStart p.idx)

/-- The event of a packet that a queue reads next, by its opcode. -/
def packetEvent (q : QueueRef) (op : Nat) : Instr :=
  match op with
  | 0 => .nopPacket q
  | 1 => .launchPacket q
  | 2 => .waitSignalPacket q
  | 3 => .setSignalPacket q
  | 4 => .imageSavePacket q
  | 5 => .imageLoadPacket q
  | 6 => .dirtyHarvestPacket q
  | _ => .planLoadPacket q

/-- The next event of a queue. -/
def State.dueQueue (s : State) (q : QueueRef) : Option Instr :=
  match (s.nextPacket q).2 with
  | .packet _ _ bs => some (packetEvent q (pkOpcode bs))
  | .invalid _ _ => some (.invalidPacket q)
  | .ringFault _ => some (.invalidPacket q)
  | .none => none

/-- A started packet that looks again by itself: WAIT_SIGNAL, SET_SIGNAL, PLAN_LOAD (log 96, DEDUCED, safe). -/
def Packet.polls (p : Packet) : Bool := [2, 3, 7].contains (pkOpcode p.bytes)

/-- Packets that have started go on; queues read their next ones. -/
def State.duePackets (s : State) : List Instr :=
  (s.packets.filter (fun p => !s.signalLogged p.q p.idx && (p.result.isSome || ((p.polls || s.loadDue p) && s.queuesRun)) && s.tdi != .error)).map
      (fun p => .packetComplete p.q p.idx)
    ++ (if s.queuesRun then s.allQueues.filterMap (fun x => s.dueQueue x.1) else [])

/-- The Proofer's work, the threads it waited for in vain among it. -/
def State.dueProofer (s : State) : List Instr :=
  let late (l : Launch) : List Instr :=
    match l.proofer with
    | some p =>
      if p.step = 4 then
        ((s.proofThreads l.id p.blocks).filter (fun t => !t.canonical && t.clauses ≥ 256 && t.cond == .issuable)).map
          (fun t => .prooferClauseLimit t.ref t.lane)
      else []
    | none => []
  let waits (l : Launch) : Bool :=
    l.proofer.isSome || s.packets.any (fun p => pkOpcode p.bytes == 4 && p.result.isNone && (s.saveTarget p.q).any (·.id == l.id))
  s.launches.flatMap (fun l => late l ++ if waits l then [.preempt l.id] else [])

/-- Clusters that have a shoot-down or a harvest to acknowledge. -/
def State.dueMaint (s : State) : List Instr :=
  ((List.range (Config.clusters s.part)).filter (fun c => (nextMaint c [] s.maint).isSome)).map .shootdownAck

/-- Moves that would make the room that a launch lacks (R323). -/
def State.dueMoves (s : State) : List Instr :=
  (s.launches.filter s.lacksPlace).flatMap (fun m =>
    (s.blocks.filter (s.mayMove m)).flatMap (fun b =>
      match s.launch? b.launch with
      | none => []
      | some l =>
        ((s.places l.lr).filter (s.moveHelps m l b)).map (fun p => .blockMigrate b.launch b.idx p.1 p.2)))

/-- Claims, retirements, room made at wide meeting points, watchdogs of a launch. -/
def State.dueLaunch (s : State) (l : Launch) : List Instr :=
  let mine := s.blocks.filter (·.launch == l.id)
  let place := s.placeFor l
  let out := if place.isNone && s.toPlace l != .nothing && l.proofer.isNone && s.wantsRoom l then
      (mine.filter (fun b => b.life == .placed && (s.blockThreads b.launch b.idx).all (·.atWide)
        && !(s.blockThreads b.launch b.idx).all (·.cond == .exited))).map (fun b => Instr.blockImageOut b.launch b.idx)
    else []
  place.toList.map (fun p => .blockClaim l.id p.1 p.2) ++ out
    ++ (mine.filter s.retires).map (fun b => .blockRetire b.launch b.idx)
    ++ if l.wdleft = 0 && !l.done then [.watchdogExpiry l.id] else []

/-- Child launches that may be admitted. -/
def State.dueChildren (s : State) : List Instr := s.children.map (fun c => .childAdmission c.id)

/-- Requests to peers to be sent again, or given up after a millisecond without a path (R73, R263). -/
def State.dueTxns (s : State) : List Instr :=
  s.txns.filterMap (fun t =>
    match t.resendAt, t.lost with
    | some c, _ => if c.toNat ≤ s.clock.toNat then some (.remoteResend t.id) else none
    | none, some c =>
      if (s.pathTo t.dst (flitOffset t.flit)).isSome then some (.remoteResend t.id)
      else if s.lostPath c then some (.rerouteTimeout t.id) else none
    | none, none => none)

/-- Frame times of the ports, with what a port owes or waits for (R252, R255). -/
def State.duePorts (s : State) : List Instr :=
  s.ports.flatMap (fun p =>
    if p.st == .up && p.ackWait ≥ 4096 && !p.unacked.isEmpty then [.replayTimeout p.idx]
    else if p.releaseDue then [.bufferReleaseForced p.idx]
    else if p.st != .down || s.mayTrain p.idx then [.frameTime p.idx] else [])

/-- The end of a drain, and bounds that have passed (R280, R281). -/
def State.dueTopology (s : State) : List Instr :=
  (if (s.transAt 2).isSome && s.drained then [.reconfDrainDone] else [])
    ++ (if s.drainLate.isSome then [.reconfDrainTimeout] else []) ++ (if s.readyLate.isSome then [.readyTimeout] else [])
    ++ (if s.lightLate.isSome then [.reconfLightTimeout] else [])

/-- Pipes with a ready group, pip cores with a context to serve. -/
def State.dueIssue (s : State) : List Instr :=
  (((s.groups.filter (fun g => s.pipeFree false g.core g.pipe && (s.nextRun g).isSome)).map (fun g => (g.core, g.pipe))).eraseDups).map
      (fun x => .issueArbitration x.1 x.2)
    ++ (((s.threads.filterMap (fun t => match t.pip, s.group? t.ref with
          | some p, some g => some (clusterOf g.core, p.pip)
          | _, _ => none)).eraseDups).filter (fun x => !s.pipBusy x.1 x.2 && (s.pipNext x.1 x.2).isSome)).map
        (fun x => .pipIssue x.1 x.2)

/-- Timeouts of ejections (R304). -/
def State.dueTimeouts (s : State) : List Instr :=
  (s.groups.filter s.softDue).map (fun g => .ejectSoftTimeout g.ref)
    ++ (s.threads.filter (fun t => s.hardDue t && !s.inFlight t.ref t.lane)).map (fun t => .ejectHardTimeout t.ref t.lane)

/-- Every event that the state makes due. -/
def State.due (s : State) : List Instr :=
  s.dueIssue ++ s.dueHeld ++ s.dueFlights ++ s.dueFlushes ++ s.cmds.filterMap s.dueCmd ++ s.pairs.filterMap s.duePair ++ s.duePackets
    ++ s.dueProofer ++ s.dueMaint ++ s.launches.flatMap s.dueLaunch ++ s.dueMoves ++ s.dueChildren ++ s.dueTxns ++ s.duePorts ++ s.dueTopology
    ++ s.dueTimeouts

/-- The event that moves the device on when no clause is issuing: one of those due, by the device's own choice; with none due nothing
happens (log 1, DESIGN CHOICE, safe). -/
def State.nextEvent (s : State) : Instr :=
  match s.due with
  | [] => .issueArbitration 0 0
  | [e] => e
  | e :: l => (e :: l).getD (Config.choice s.freeCtr % (l.length + 1)) e

/-- Since when each group has been ready (R325): it is looked at before each word and each event (log 89, DEDUCED, safe). -/
def State.noteReady (s : State) : State :=
  { s with groups := s.groups.map (fun g =>
      { g with readySince := if (s.nextRun g).isSome then some (g.readySince.getD s.clock) else none }) }

/-- An event happens. -/
def State.nextExec (s : State) : Next := .exec s.noteReady.nextEvent s.noteReady

/-- What happens next: the agenda first; then the first run that does not wait; then an event, after which the waiting runs
try again (log 2, DESIGN CHOICE, unsafe). -/
def State.nextStep (s : State) : Next :=
  match s.agenda with
  | i :: rest => .exec i { s with agenda := rest }
  | [] =>
    match s.runs with
    | [] => s.nextExec
    | r :: _ =>
      if r.stalled then
        if s.runs.all (·.stalled) then
          State.nextExec { s with runs := s.runs.map (fun r => { r with stalled := false }) }
        else .done s.rotate
      else
        let s := s.noteReady
        match s.ctx? with
        | some c => s.fetchNext c
        | none => .done s.dropRun

end Sys2Proof.Machine
end

