-- ==== Sys2Proof/Machine/Step.lean ====
section
/-! DEFINITION. One step of the device: time passes, then the step the state plans is performed. -/

namespace Sys2Proof.Machine

/-- One step: the clock advances; then what State.nextStep names is executed, or its state is the next one. -/
def step (s : State) : Host.Outcome State Fault Refusal :=
  match s.tick.nextStep with
  | .exec i s' => exec i s'
  | .done s' => .next s'

/-- The state with an instruction's word where step fetches its next instruction (log 6, DESIGN CHOICE, safe: how a program comes to run). -/
def State.withFetchWord (s : State) (nbits w : Nat) : State := s.placeWord nbits w

end Sys2Proof.Machine
end

