-- ==== Sys2Proof/Safety.lean ====
section
/-! DEFINITION. The terms in which claims are stated: a safe step, the canonical form of every store of the state, and the
conditions on a state and its operands under which an instruction of the issuing run performs its own effect. -/

namespace Sys2Proof.Machine

/-- A step that neither faults nor is refused. -/
def Safe (o : Out) : Prop := ∃ s, o = .next s

/-- Main memory is in its canonical form: addresses strictly rising, no byte zero. -/
def State.memWf (s : State) : Bool := s.mem.wf

/-- The conditions under which an instruction acts (01 R39, R28, R31; 08 R179; 12 R305): a run issues; no check of R39 fails for it; no
undiscovered error stands in the storage; every thread's guard can be read, and some thread's holds; no ejected thread is recalled before
it; none of the registers it names is still to be written; it waits for no earlier instruction and for no transition; no source is poisoned
and no destination is a live-in. -/
structure Clear (n : Need) (s : State) (cx : Ctx) : Prop where
  stands : s.ctx? = some cx
  allowed : privTrap n cx = none
  unhurt : s.damage = []
  decided : ∀ t ∈ cx.threads, n.recallsGuard t = false ∧ pending s.inflight t n.guard = false
  executes : cx.exec n.common ≠ []
  stays : ∀ t ∈ cx.exec n.common, n.recalls t = false
  kept : cx.run.pip = true ∨ ∀ t ∈ s.groupThreads cx.run.ref, handedOver n t = false
  settled : ∀ t ∈ cx.exec n.common, pending s.inflight t n.names = false
  drained : n.ordered = true → ∀ t ∈ cx.exec n.common, orderedWait s.inflight t = false
  logged : n.afterLog = true → ∀ t ∈ cx.exec n.common, loggedWait s.inflight t = false
  unheld : ∀ t ∈ cx.exec n.common, n.hold cx t = false
  sound : ∀ t ∈ cx.exec n.common, commonTrap n cx t = none

/-- The same but for the checks that a thread makes of its own sources and destinations: the instruction is reached, and some thread of the
run may still trap at it (01 R39). -/
structure Reached (n : Need) (s : State) (cx : Ctx) : Prop where
  stands : s.ctx? = some cx
  allowed : privTrap n cx = none
  unhurt : s.damage = []
  decided : ∀ t ∈ cx.threads, n.recallsGuard t = false ∧ pending s.inflight t n.guard = false
  executes : cx.exec n.common ≠ []
  stays : ∀ t ∈ cx.exec n.common, n.recalls t = false
  kept : cx.run.pip = true ∨ ∀ t ∈ s.groupThreads cx.run.ref, handedOver n t = false
  settled : ∀ t ∈ cx.exec n.common, pending s.inflight t n.names = false
  drained : n.ordered = true → ∀ t ∈ cx.exec n.common, orderedWait s.inflight t = false
  logged : n.afterLog = true → ∀ t ∈ cx.exec n.common, loggedWait s.inflight t = false
  unheld : ∀ t ∈ cx.exec n.common, n.hold cx t = false

/-- The canonical forms of a state: main memory and every register file are sorted and list no zero, and the agenda names events alone. -/
structure State.Formed (s : State) : Prop where
  mem : s.memWf = true
  threads : ∀ t ∈ s.threads, t.vregs.wf = true ∧ t.handles.wf = true
  pips : ∀ t ∈ s.threads, ∀ p, t.pip = some p → p.vregs.wf = true ∧ p.sregs.wf = true ∧ p.flags.wf = true
  groups : ∀ g ∈ s.groups, g.sregs.wf = true ∧ g.masks.wf = true ∧ g.flags.wf = true ∧ g.outstanding.wf = true
  agenda : ∀ i ∈ s.agenda, encode i = none

/-- No error stands in the storage, and no word of it is poisoned (02 R58, R59). -/
structure State.Sound (s : State) : Prop where
  unhurt : s.damage = []
  home : s.poison = []
  slices : ∀ x ∈ s.slices, x.poison = 0
  l1 : ∀ x ∈ s.l1, x.poison = 0

/-- The L1 lines stand on multiples of 128 bytes, hold their bytes in canonical form, and a core has one line at most under a name. -/
structure State.LinesFit (s : State) : Prop where
  place : ∀ x ∈ s.l1, x.pline % 128 = 0 ∧ x.vline % 128 = 0
  form : ∀ x ∈ s.l1, x.bytes.wf = true
  one : ∀ x ∈ s.l1, (s.l1.filter (·.is x.core x.pasid x.vline)).length = 1

/-- The need of a register instruction: its destinations and its sources. -/
abbrev regNeed (c : Common) (writes reads : List Names) : Need := { common := c, writes := writes, reads := reads }

/-- The register instructions without checks of their own: common fields, destinations and sources as their operands name them (08 R180;
01 R19). -/
def registersOf : Instr → Option (Common × List Names × List Names)
  | .mov c w d a _ | .umov c w d a _ | .umovBc c w d a _ | .notb c w d a _ | .brev c w d a _ => some (c, [nm d w], [nm a w])
  | .movi c d _ => some (c, [nm d false], [])
  | .moviW c d _ => some (c, [nm d true], [])
  | .hget c d a => some (c, [nm d true], [(a, 1)])
  | .hput c d a => some (c, [(d, 1)], [nm a true])
  | .iadd c ty _ d a b _ | .isub c ty _ d a b _ | .imul c ty d a b _ | .imulh c ty d a b _ | .imin c ty d a b _ | .imax c ty d a b _
  | .idiv c ty d a b _ | .irem c ty d a b _ => some (c, [nm d ty.wide], [nm a ty.wide, nm b ty.wide])
  | .iadd3 c ty _ d a b e | .imad c ty _ d a b e | .isad c ty d a b e =>
    some (c, [nm d ty.wide], [nm a ty.wide, nm b ty.wide, nm e ty.wide])
  | .iabs c ty _ d a _ | .ineg c ty _ d a _ => some (c, [nm d ty.wide], [nm a ty.wide])
  | .imadw c _ d a b e => some (c, [nm d true], [nm a false, nm b false, nm e true])
  | .lea c w _ d a b _ | .shl c w d a b _ | .shr c w d a b _ | .sar c w d a b _ | .rot c w _ d a b _ =>
    some (c, [nm d w], [nm a w, nm b false])
  | .addc c w d a b e | .subc c w d a b e => some (c, [nm d w, nm e false], [nm a w, nm b w, nm e false])
  | .andb c w d a b _ | .orb c w d a b _ | .xorb c w d a b _ => some (c, [nm d w], [nm a w, nm b w])
  | .funl c d a b e | .funr c d a b e | .tlog c _ d a b e | .bysel c d a b e | .pset c _ d a b e | .ffma c _ _ d a b e
  | .hfma2 c _ _ d a b e => some (c, [nm d false], [nm a false, nm b false, nm e false])
  | .bfe c ty d a b _ => some (c, [nm d ty.wide], [nm a ty.wide, nm b false])
  | .bfi c w d a b e | .sel c w d a b e => some (c, [nm d w], [nm a w, nm b w, nm e false])
  | .popc c w d a _ | .clz c w d a _ | .ctz c w d a _ => some (c, [nm d false], [nm a w])
  | .isetp c ty _ d a b _ => some (c, [nm d false], [nm a ty.wide, nm b ty.wide])
  | .hsetp2 c _ _ _ d a b e => some (c, [nm d false, nm e false], [nm a false, nm b false])
  | .bmsk c d a b _ | .fsetp c _ _ d a b _ | .fadd c _ _ d a b _ | .fsub c _ _ d a b _ | .fmul c _ _ d a b _ | .fmin c _ _ d a b _
  | .fmax c _ _ d a b _ | .fdiv c _ _ d a b _ | .hadd2 c _ _ d a b | .hmul2 c _ _ d a b | .hmin2 c _ _ d a b | .hmax2 c _ _ d a b
  | .cvth c _ _ _ _ d a (some b) => some (c, [nm d false], [nm a false, nm b false])
  | .cvth c _ _ _ _ d a none => some (c, [nm d true], [nm a false])
  | .fsqrt c _ _ d a _ | .frcp c _ _ d a _ | .frsq c _ d a _ | .fex2 c _ d a _ | .flg2 c _ d a _ | .fsin c _ d a _ | .fcos c _ d a _
  | .ftanh c _ d a _ | .fclass c d a _ | .frnd c _ _ d a => some (c, [nm d false], [nm a false])
  | .cvt c dty sty _ _ d a => some (c, [nm d dty.wide], [nm a sty.wide])
  | .p2v c d => some (c, [nm d false], allPreds)
  | _ => none

/-- The executing threads' writes are made, and the run goes on. -/
def State.wrote (s : State) (cx : Ctx) (c : Common) (f : Thread → List Wr) : State :=
  (s.writeAll cx.run.ref (cx.exec c) f).goOnRun cx.run c

/-- An instruction goes in flight for the executing threads with the values bound to it, and the run goes on. -/
def State.launched (s : State) (cx : Ctx) (c : Common) (f : Flight) : Option State :=
  (s.fly cx c (lanesOf ((cx.exec c).map (·.lane))) f).map (fun x => x.2.goOnRun cx.run c)

/-- The need of an engine command (06 R132, 05 R123). -/
abbrev CmdNeed.need (n : CmdNeed) : Need :=
  { common := n.common, writes := [nm n.d false], reads := n.reads, roles := some n.roles, formBad := n.formBad
    recallFirst := true, ordered := true, afterLog := true, hold := n.hold, ends := n.ends }

/-- An engine command may be issued (06 R132): it is clear, its own checks pass (own is their trap), its engine's queue is not full, nothing
of its threads is outstanding at a peer, and the future table gives it handle h, leaving the block as b. -/
structure Issuable (n : CmdNeed) (own : Option Trap) (full : Bool) (s : State) (cx : Ctx) (h : BitVec 64) (b : Block) :
    Prop where
  clear : Clear n.need s cx
  first : ∀ t ∈ cx.exec n.common, n.pre cx t = none
  own : own = none
  room : full = false
  quiet : ∀ t ∈ cx.exec n.common, s.remoteWait t = false
  entry : cx.block.allocFuture n.cls ((inRegions (cx.exec n.common)).map (fun x => (cx.run.ref.gid, x.1))) = some (h, b)

/-- The command's entry is taken and its release made: what the command itself then acts on. -/
def State.readied (s : State) (n : CmdNeed) (cx : Ctx) (b : Block) : State :=
  (s.modBlock cx.run.ref.launch cx.run.ref.blk (fun _ => b)).releaseAt cx.site (n.wide cx)

/-- The command's handle is written, its class's count rises, a region it ends is ended, and the run goes on. -/
def State.handed (s : State) (n : CmdNeed) (cx : Ctx) (h : BitVec 64) : State :=
  let ex := cx.exec n.common
  let s := (s.writeAll cx.run.ref ex (fun _ => [⟨n.d, false, h⟩])).countCmd cx.run.ref n.cls true
  (if n.ends then s.endRegion cx.run.ref (lanesOf (ex.map (·.lane))) else s).goOnRun cx.run n.common

/-- The need of a cross-lane instruction (09 R211-R213): its member mask is among its sources, and an ejected thread is recalled
before it. -/
abbrev lanesNeed (c : Common) (writes reads : List Names) (msk : Option Opnd) : Need :=
  { common := c, writes := writes, reads := reads ++ maskNames msk, recallFirst := true
    noted := fun cx l s => s.noteOwing cx.run.ref cx.run.pc l }

/-- Every live named member of a cross-lane instruction has arrived, the threads held at its PC have joined the run, which then
stands as cx', and the instruction is clear to act; each executing thread is a named member (R211-R213). -/
structure Gathered (c : Common) (writes reads : List Names) (msk : Option Opnd) (s : State) (cx cx' : Ctx) : Prop where
  stands : s.ctx? = some cx
  allowed : privTrap (lanesNeed c writes reads msk) cx = none
  onPipe : cx.run.pip = false
  arrived : (s.arriveAgain cx.run.ref cx.run.pc cx.run.lanes).lanesMissing cx (memberMask cx msk) = []
  clear : Clear (lanesNeed c writes reads msk) (s.gather cx) cx'
  members : ∀ t ∈ cx'.exec c, (memberMask cx' msk).getLsbD t.lane = true

end Sys2Proof.Machine
end

