-- ==== Sys2Proof/Certificates/Slice0/Obligations.lean ====
section
/-! DEFINITION. The statements for the provers. A statement about an instruction says, under Clear, that exec answers the next
state the spec gives, State.wrote and State.launched saying how results are written and how the run goes on; the statements
about those two operations say what they do and what they leave alone. -/

open Sys2Proof Sys2Proof.Machine

/-- Decoding the word that encodes a well-formed instruction gives the instruction back, for every instruction and operand. For
every instruction of the instruction set whose operands its encoding admits, and every unassigned word: the word that the
encoder gives it decodes to that instruction, every field and operand at its value. (01 R14, 01 R15, 01 R18, 01 R22, 01 R35,
01 R38) -/
def Obligations.DecodeOfEncodeIsTheInstruction : Prop :=
  ∀ (i : Instr) (w : BitVec 96), i.wf = true → encode i = some w → decode w = .ok i

/-- Words the spec works out bit by bit decode to the instructions they stand for. Nine of the words that the spec's worked
examples give, one of most families, decode to the instructions written beside them. (01 R14, 01 R15, 01 R26, 14 R343, 14
R344, 08 R185, 10 R234, 13 R328) -/
def Obligations.WorkedWordsDecode : Prop :=
  let c (bnd : Bool) : Common := ⟨false, 15, bnd, .none, false, false, false⟩
  decode 0x01007800000000_00000F2001 = .ok (.clause 2 15 1) ∧
  decode 0x70607804_00200010_00000010 =
    .ok (.ld { c false with fsel := .x } .n32 0 (.v 8) (.v 4) none ⟨false, .weak, false, .th, 16⟩) ∧
  decode 0x20209804_8035FDC0_00000000 =
    .ok (.iadd { c true with gneg := true, guard := 3 } .i32 false (.v 9) (.v 6) (.imm 0x1FB) 0) ∧
  decode 0x2D607806_80280480_00000401 = .ok (.addc (c false) false (.v 13) (.v 5) (.v 9) (.p 1)) ∧
  decode 0x83A07801_00080000_00000000 = .ok (.gred (c false) .f32 .add (.v 2) (.v 1) none) ∧
  decode 0x04000800_50280000_00000000 = .ok (.trap { c false with guard := 1 } (.imm 5)) ∧
  decode 0x06007801_40700000_00000000 = .ok (.rdsr (c false) (.v 2) .trappc) ∧
  decode 0xA4007B09_B2010C00_00000000 = .ok (.mma (c false) 0 (.h 3) (.a 0) (.s 24)) ∧
  decode 0xC4007B08_50190640_00000000 = .ok (.reconf (c true) (.h 0) (.imm 3) (.s 12) 0)

/-- A step runs what stands on the agenda, else the decoded word at the first run's PC, else the event due next (order: the
model's choice). For every state, after the step's clocks have passed: an event on the agenda is executed and leaves it. With
none, each group's readiness being noted, a first run that does not wait, whose context stands, at whose PC no breakpoint
stops a thread and the code object holds a sound word (a header where a clause starts) that decodes to instruction i, executes
i in the state its fetch left; one whose context does not stand leaves; a first run that waits, while another does not, goes
last; with no run, or none that does not wait, no run waits any more, readiness is noted, and the event that is due next is
executed. That the agenda goes first is log 12, and that an event is taken only while every run waits is log 2: both the
model's choice (DESIGN CHOICE), no rule's. (01 R14, 01 R25, 13 R335, 15 R383, 12 R287) -/
def Obligations.StepRunsTheInstructionItFetches : Prop :=
  ∀ (s : State),
    (∀ i rest, s.tick.agenda = i :: rest → step s = exec i { s.tick with agenda := rest }) ∧
    (∀ (r : Run) (rest : List Run) (cx : Ctx) (s' : State) (w : BitVec 96) (i : Instr), s.tick.agenda = [] →
      s.tick.runs = r :: rest → r.stalled = false → s.tick.noteReady.ctx? = some cx →
      (s.tick.noteReady.forgetPass cx).breakHits cx = [] →
      (cx.run.pc - cx.launch.lr.codeaddr).toNat < cx.launch.lr.codesize.toNat →
      (s.tick.noteReady.forgetPass cx).fetchWord cx.run.core cx.launch.pasid cx.run.pc = (s', .word w false) →
      (cx.run.start = true → (Raw.ofWord w).opcode = 0x01#8) → decode w = .ok i → step s = exec i s') ∧
    (∀ (r : Run) (rest : List Run), s.tick.agenda = [] → s.tick.runs = r :: rest → r.stalled = false →
      s.tick.noteReady.ctx? = none → step s = .next { s.tick.noteReady with runs := rest }) ∧
    (∀ (r : Run) (rest : List Run), s.tick.agenda = [] → s.tick.runs = r :: rest → r.stalled = true →
      (∃ q ∈ rest, q.stalled = false) → step s = .next { s.tick with runs := rest ++ [r] }) ∧
    (s.tick.agenda = [] → (∀ r ∈ s.tick.runs, r.stalled = true) → ∀ u,
      u = ({ s.tick with runs := s.tick.runs.map (fun r => { r with stalled := false }) } : State).noteReady →
      step s = exec u.nextEvent u)

/-- From every state with only events on its agenda, a step answers a next state: it neither faults nor is refused. For every
state whose agenda holds no instruction of the instruction set (agendas hold events: an instruction there has no run to
perform it), whatever memory, tables and registers hold, step answers a next state: every trap, page fault, malformed clause
and unassigned word is taken as the spec says, and none of them stops the machine. An event whose condition does not hold
answers the state as it is: that is log 4, the model's choice (DESIGN CHOICE), no rule's. That agendas hold only events again
is StepsKeepTheForms. (01 R25, 01 R39, 12 R286, 14 R337, 14 R346) -/
def Obligations.EveryStepAnswers : Prop :=
  ∀ s : State, (∀ i ∈ s.agenda, encode i = none) → Safe (step s)

/-- NOP is opcode 0x03 and fn 0x00 with zero operand fields, and has no effect but through the common fields. For every common
fields c: NOP's word is that of opcode 0x03, fn 0x00 and zero opd, opa, opb and C, and decodes to NOP. For every state in
which a run issues it with its guard's predicate settled and no thread under single-step, the next state is the whole state
but for this: with bnd clear the run's PC is 12 further and it carries yld; with bnd set the clause ends: the run leaves, its
group carries yld and is no longer noted as ready, its threads stand at the next word with their aging at 0, the group's
others age (a run of an ejected thread leaves its thread at the next word alone). A count that fsel selects is up and down
again: no flag changes. (01 R37) -/
def Obligations.NopHasNoEffect : Prop :=
  ∀ (c : Common),
    (encode (.nop c) = some (mkRaw 0x03 0x00 c 0 0 0 0).toWord ∧ decode (mkRaw 0x03 0x00 c 0 0 0 0).toWord = .ok (.nop c)) ∧
    ∀ (s : State) (cx : Ctx) (r : Run) (rs : List Run), s.runs = r :: rs → s.ctx? = some cx →
      Clear (regNeed c [] []) s cx ∨ (privTrap (regNeed c [] []) cx = none ∧ s.damage = [] ∧ cx.exec c = [] ∧
        ∀ t ∈ cx.threads, (regNeed c [] []).recallsGuard t = false ∧
          pending s.inflight t (regNeed c [] []).guard = false) →
      (∀ t ∈ s.threads, t.stepping = false) →
      let own (t : Thread) : Bool := t.ref == r.ref && r.lanes.getLsbD t.lane
      exec (.nop c) s = .next
        (if c.bnd = false then
          { s with runs := rs ++ [{ r with pc := r.pc + 12, start := false, yld := r.yld || c.yld, stalled := false }] }
        else
          { s with
            runs := rs
            groups := if r.pip then s.groups else modify (·.ref == r.ref)
              (fun g => { g with yielded := r.yld || c.yld, readySince := none, returned := false }) s.groups
            threads := (if r.pip then s.threads else s.threads.map (ageThread r.ref r.lanes)).map (fun t =>
              if own t then { t with pc := r.pc + 12, resume := none, cond := if r.pip then .ejected else .issuable } else t) })

/-- Every word with an opcode of R38's list raises ILLEGAL_OP, the all-zero and the all-ones word among them. For every word whose
opcode byte lies in one of R38's ranges, whatever its other 88 bits, the decoder gives the row of unassigned opcodes; executed
within a clause by any issuing run, it traps the whole run with ILLEGAL_OP (at a clause start the word is no header, which R25
and R39 make CLAUSE_FORM). The all-zero word and the all-ones word are two of them. (01 R38) -/
def Obligations.UnassignedOpcodesTrap : Prop :=
  ∀ (w : BitVec 96),
    let op : Nat := (w >>> 88).toNat
    let is (a b : Nat) : Prop := a ≤ op ∧ op ≤ b
    let listed : Prop := is 0x00 0x00 ∨ is 0x0D 0x0F ∨ is 0x1C 0x1F ∨ is 0x2F 0x2F ∨ is 0x4A 0x4F ∨ is 0x6A 0x6F ∨
      is 0x79 0x7F ∨ is 0x89 0x8F ∨ is 0x99 0x9F ∨ is 0xA8 0xAF ∨ is 0xB6 0xBF ∨ is 0xC6 0xCF ∨ is 0xD2 0xFF
    (listed → decode w = .ok (.unassignedOpcode w) ∧ ∀ (s : State) (cx : Ctx), s.ctx? = some cx → cx.run.start = false →
      exec (.unassignedOpcode w) s = .next (s.trapRun cx ⟨.illegalOp, 0, 0⟩)) ∧
    (w = 0 ∨ w = BitVec.allOnes 96 → listed)

/-- A trapping thread enters its kernel's handler, halts for an attached debugger, or stops its context; nothing else changes. For
every state in which no thread is under single-step, and every thread of a launch present that traps at a PC: with a handler,
a precise cause and the thread not in its handler (and no debugger taking a breakpoint), the thread alone changes: trapcause
holds the code, the kind and the cause, trappc the PC, it is in its handler at a trap depth of d, at code base + handler, a
clause start. A breakpoint under an attached debugger halts it at the PC with the trap registers written, and is logged.
Otherwise its context stops: no launch of it is left, every other launch is, its packet completes STOPPED with the cause, one
entry is logged. Memory keeps every byte. (14 R337, 14 R338, 14 R339, 14 R340, 14 R342, 14 R346, 15 R383, 15 R385) -/
def Obligations.TrapsEnterTheHandlerOrStop : Prop :=
  ∀ (s : State) (r : GroupRef) (lane : Nat) (tr : Trap) (pc : BitVec 64) (clause : Option Resume) (t : Thread) (l : Launch),
    let off : BitVec 32 := (pc - l.lr.codeaddr).setWidth 32
    let word : BitVec 32 := BitVec.ofNat 32 (tr.code % 65536 * 65536 + tr.kind % 16 * 256 + tr.cause.code)
    let brk : Prop := tr.cause = .breakpoint ∧ s.attached l.pasid = true
    let takes : Prop := l.lr.handler ≠ 0xFFFFFFFF ∧ tr.cause ≠ .remoteFatal ∧ tr.cause ≠ .watchdog ∧ t.inHandler = false
    s.thread? r lane = some t → s.launch? r.launch = some l → (∀ u ∈ s.threads, u.stepping = false) →
    (¬ brk → takes → s.trapThread r lane tr pc clause = s.modThread r lane (fun t => { t with
      trapcause := word, trappc := pc, trapClause := clause, inHandler := true, trapDepth := t.d
      pc := l.lr.codeaddr + l.lr.handler.setWidth 64, resume := none, cond := .issuable })) ∧
    (brk → s.trapThread r lane tr pc clause = (s.modThread r lane (fun t => { t with
      trapcause := word, trappc := pc, trapClause := clause, cond := .halted, pc := pc, resume := clause })).log .debugStop
        tr.cause.code l.pasid (whereThread r lane) 1 off) ∧
    (¬ brk → ¬ takes → ∀ x root, x = s.trapThread r lane tr pc clause → s.launch? (s.root r.launch) = some root →
      x.mem = s.mem ∧ x.errHead = s.errHead + 1 ∧
      x.launches = s.launches.filter (fun m => !(s.context r.launch).contains m.id) ∧
      (∀ u ∈ x.threads, u.ref.launch ∉ s.context r.launch) ∧
      (∀ q i, root.packet = some (q, i) → ∀ p ∈ s.packets, p.q = q → p.idx = i → p.result = none →
        { p with result := some (2, BitVec.ofNat 32 tr.cause.code) } ∈ x.packets))

/-- The rows of R39's table: register beyond the allotment, privilege, role; then poison, live-ins, alignment and bounds, by the
threads concerned. For every state without an error to be found: an instruction naming a register beyond its run's allotment,
or a reserved form, traps the whole run with RESERVED_FIELD; WRSR of sr.etgen outside firmware with PRIVILEGE; a matrix, copy
or fabric command in a group whose role may not issue it with ROLE_VIOLATION, in this order, whatever the guards. Of a
register instruction that is reached, exactly the executing threads with a poisoned source (MEM_UNCORRECTABLE) or a live-in
destination (REGION_VIOLATION) trap, if there are any (that poison goes first is log 26, DESIGN CHOICE), and nothing is
written. An unaligned address is MISALIGNED; an offset past the constants or the scratchpad, a target past the code object and
what no access can reach are ACCESS_VIOLATION. (01 R39, 01 R31, 02 R59, 04 R83, 04 R86, 08 R179, 10 R229, 06 R132, 12 R292, 14
R345) -/
def Obligations.InstructionsTrapAsTheirChecksSay : Prop :=
  (∀ (i : Instr) (s : State) (cx : Ctx) (c : Common) (ws rs : List Names), registersOf i = some (c, ws, rs) → s.ctx? = some cx →
    s.damage = [] →
    ((ws ++ rs).any (Names.beyond cx.vregs cx.sregs cx.launch.lr.tiles) = true →
      exec i s = .next (s.trapRun cx ⟨.reservedField, 0, 0⟩)) ∧
    (Reached (regNeed c ws rs) s cx → ∀ l, l = (cx.exec c).filterMap (fun t =>
        if rs.any (poisoned cx.group t) then some (t.lane, (⟨.memUncorrectable, 0, 0⟩ : Trap))
        else if t.region.any (fun r => ws.any r.names) then some (t.lane, ⟨.regionViolation, 0, 0⟩) else none) →
      l ≠ [] → exec i s = .next (s.trapSome cx l))) ∧
  (∀ (s : State) (cx : Ctx) (c : Common) (a b d : Opnd) (ob idx : Option Opnd) (k off : BitVec 32) (dims sc : BitVec 2)
      (slot : BitVec 3) (dir : CopyDir) (f : Bool) (ty : Ty) (op : AtomOp) (mc : MemCtl) (rm : Rm) (red : RedOp) (kind : CollKind),
    s.ctx? = some cx → s.damage = [] →
    let sl : Slot := cx.launch.lr.slot slot
    let far (l : List Names) : Bool := l.any (Names.beyond cx.vregs cx.sregs cx.launch.lr.tiles)
    let row (i : Instr) (names : List Names) (ok : Bool) (x : Cause) : Prop :=
      (far names = true → exec i s = .next (s.trapRun cx ⟨.reservedField, 0, 0⟩)) ∧
      (far names = false → ok = false → exec i s = .next (s.trapRun cx ⟨x, 0, 0⟩))
    let roleOf (l : List Nat) : Bool := l.contains cx.group.role
    row (.wrsr c .etgen a k) [nm a false] cx.launch.agent .privilege ∧
    row (.mres c d) [nm d false] (roleOf [0, 2]) .roleViolation ∧ row (.mrel c) [] (roleOf [0, 2]) .roleViolation ∧
    row (.mzero c d) [nm d false] (roleOf [0, 2]) .roleViolation ∧
    row (.mst c ty f f rm d a b) [nm d false, (b, 4), nm a false] (roleOf [0, 2]) .roleViolation ∧
    (sl.afmt ≠ .none → sl.bfmt ≠ .none → row (.mldw c slot d a) [nm d false, (a, 3)] (roleOf [0, 2]) .roleViolation) ∧
    (sl.afmt ≠ .none → sl.sparse = 0 → row (.mma c slot d a b) [nm d false, (b, 5), (a, 1)] (roleOf [0, 2]) .roleViolation) ∧
    (sl.afmt ≠ .none → sl.sparse ≠ 0 → row (.mmas c slot d a b) [nm d false, (b, 5), (a, 1)] (roleOf [0, 2]) .roleViolation) ∧
    row (.fput c d a) [nm d false, (a, 8)] (roleOf [0, 1]) .roleViolation ∧
    row (.fget c d a) [nm d false, (a, 8)] (roleOf [0, 1]) .roleViolation ∧
    row (.fatom c ty op d a b mc) [nm d false, nm a true, (b, 5)] (roleOf [0, 1]) .roleViolation ∧
    row (.coll c ty red kind d a) [nm d false, (a, 6)] (roleOf [0, 1]) .roleViolation ∧
    row (.acopy c f dims dir d a ob) ([nm d false, (a, 5 + 3 * dims.toNat)] ++ nmOpt ob true) (roleOf [0, 1]) .roleViolation ∧
    row (.dcmp c f d a) [nm d false, nm a (!f)] (roleOf [0, 1]) .roleViolation ∧
    row (.reconf c d a b k) [nm d false, nm a false, nm b false] (roleOf [0]) .roleViolation ∧
    (sl.afmt = .none →
      exec (.qnt c f slot d a b) s = .next (s.trapRun cx ⟨.reservedField, 0, 0⟩) ∧
      exec (.dqnt c f slot d a b) s = .next (s.trapRun cx ⟨.reservedField, 0, 0⟩) ∧
      exec (.mma c slot d a b) s = .next (s.trapRun cx ⟨.reservedField, 0, 0⟩) ∧
      exec (.mmas c slot d a b) s = .next (s.trapRun cx ⟨.reservedField, 0, 0⟩)) ∧
    (cx.launch.lr.det = true → d ≠ .p 15 → exec (.atom c ty op d a b mc) s = .next (s.trapRun cx ⟨.reservedField, 0, 0⟩)) ∧
    (let ex : List Thread := cx.exec c
     let mis : Trap := ⟨.misaligned, 0, 0⟩
     let acc : Trap := ⟨.accessViolation, 0, 0⟩
     let all (x : Trap) : State := s.trapSome cx (ex.map (fun t => (t.lane, x)))
     let ea (g : Bool) (t : Thread) : BitVec 64 := effAddr cx.group t g a idx sc.toNat mc.offset
     let at0 (t : Thread) : BitVec 64 := effAddr cx.group t true a none 0 mc.offset
     let vn (x : BitVec 64) : Nat := (x.setWidth 57).toNat
     let flat (t : BitVec 64) : Prop := (aperture (vn t)).isSome = false
     let mem (ws rs : List Names) : Need := { common := c, writes := ws, reads := rs, ordered := true, afterLog := true }
     let sp (ws rs : List Names) (rel : Bool) : Need := { common := c, writes := ws, reads := rs, ordered := true, afterLog := rel }
     let code (n : Nat) (i : Instr) : Prop := (n % 12 ≠ 0 → exec i s = .next (all mis)) ∧
       (n % 12 = 0 → cx.launch.lr.codesize.toNat ≤ n → exec i s = .next (all acc))
     (Clear (mem [nm d ty.wide] (addrNames a true idx)) s cx → (∀ t ∈ ex, flat (ea true t) ∧ vn (ea true t) % ty.size ≠ 0) →
       exec (.ld c ty sc d a idx mc) s = .next (all mis)) ∧
     (Clear (mem [] (nm d ty.wide :: addrNames a true idx)) s cx → (∀ t ∈ ex, flat (ea true t) ∧ vn (ea true t) % ty.size ≠ 0) →
       exec (.st c ty sc d a idx mc) s = .next (all mis)) ∧
     (Clear (mem [] [nm a true, atomNames op ty b]) s cx → (∀ t ∈ ex, flat (at0 t) ∧ vn (at0 t) % ty.size ≠ 0) →
       exec (.red c ty op a b mc) s = .next (all mis) ∧ exec (.atom c ty op (.p 15) a b mc) s = .next (all mis)) ∧
     (Clear (mem [nm d ty.wide] (addrNames a false idx)) s cx →
       ((∀ t ∈ ex, (ea false t).toNat % ty.size ≠ 0) → exec (.ldc c ty f sc d a idx mc) s = .next (all mis)) ∧
       ((∀ t ∈ ex, (ea false t).toNat % ty.size = 0 ∧ cx.launch.lr.constsize.toNat < (ea false t).toNat + ty.size) →
         exec (.ldc c ty false sc d a idx mc) s = .next (all acc))) ∧
     (Clear (sp [nm d ty.wide] (addrNames a false idx) false) s cx →
       ((∀ t ∈ ex, (ea false t).toNat % ty.size ≠ 0) → exec (.ldsp c ty sc d a idx mc) s = .next (all mis)) ∧
       ((∀ t ∈ ex, (ea false t).toNat % ty.size = 0 ∧ cx.launch.lr.scratchBytes < (ea false t).toNat + ty.size) →
         exec (.ldsp c ty sc d a idx mc) s = .next (all acc))) ∧
     (Clear (sp [] (nm d ty.wide :: addrNames a false idx) mc.order.isRelease) s cx →
       ((∀ t ∈ ex, (ea false t).toNat % ty.size ≠ 0) → exec (.stsp c ty sc d a idx mc) s = .next (all mis)) ∧
       ((∀ t ∈ ex, (ea false t).toNat % ty.size = 0 ∧ cx.launch.lr.scratchBytes < (ea false t).toNat + ty.size) →
         exec (.stsp c ty sc d a idx mc) s = .next (all acc))) ∧
     (Clear (regNeed c [] []) s cx → (cx.run.pc + off.signExtend 64 - cx.launch.lr.codeaddr).msb = false →
       code (cx.run.pc + off.signExtend 64 - cx.launch.lr.codeaddr).toNat (.bra c off)) ∧
     (Clear (regNeed c [] [nm a false]) s cx → ∀ n, (∀ t ∈ ex, (loWord (readOp cx.group t 0 .uint false a)).toNat = n) →
       code n (.brx c a))))

/-- Results reach the executing threads' destinations alone; the run goes on by 12 bytes; all else is as it was. For every state
and results: writing them gives the state its errors under the written registers have left (the state itself where no error
stands; poison and the log aside never another), with the executing threads changed by their own writes and no other, and with
their group changed by the per-group writes they agree on and no other: the whole state otherwise. A register written reads
back, a pair's low word in the even register and its high word in the next, a uniform register, mask, predicate and handle
too; every other register and every other field is as before; predicate 15 discards; no write leaves the canonical form. The
run that goes on has its PC 12 further and, unless its clause ends, no thread or group changes; at the clause's end its
threads stand at the next clause start. (01 R16, 01 R19, 01 R21, 01 R23, 08 R179, 12 R287, 12 R288) -/
def Obligations.ResultsAreWrittenAndNothingElse : Prop :=
  (∀ (s : State) (ref : GroupRef) (ex : List Thread) (f : Thread → List Wr) (u : List Wr),
    let o : State := s.overRegs ref ex f
    (s.damage = [] → o = s) ∧
    { o with threads := s.threads, groups := s.groups, damage := s.damage, errHead := s.errHead, errLog := s.errLog
             corrections := s.corrections } = s ∧
    o.threads.map (fun t => { t with vpoison := [] }) = s.threads.map (fun t => { t with vpoison := [] }) ∧
    o.groups.map (fun g => { g with spoison := [] }) = s.groups.map (fun g => { g with spoison := [] }) ∧
    (ex ≠ [] → (∀ x ∈ ex, (f x).filter (perGroup ·.o) = u) → s.writeAll ref ex f = { o with
      threads := o.threads.map (fun x => if x.ref == ref && ex.any (·.lane == x.lane) then x.apply (f x) else x)
      groups := if u.isEmpty then o.groups else o.groups.map (fun g => if g.ref == ref then g.apply u else g) })) ∧
  (∀ (t : Thread) (g : Group) (w : Wr) (ws : List Wr), t.apply [] = t ∧ g.apply [] = g ∧
    t.apply (w :: ws) = (t.write w.o w.wide w.x).apply ws ∧ g.apply (w :: ws) = (g.write w.o w.wide w.x).apply ws) ∧
  (∀ (t : Thread) (i : BitVec 8) (p q : BitVec 4) (x : BitVec 64) (n : Nat),
    t.vregs.wf = true → t.handles.wf = true → (∀ e, t.pip = some e → e.vregs.wf = true) →
    (t.write (.v i) false x).v i.toNat = x.setWidth 32 ∧
    (t.write (.v i) true x).v i.toNat = x.setWidth 32 ∧ (t.write (.v i) true x).v (i.toNat + 1) = (x >>> 32).setWidth 32 ∧
    (n ≠ i.toNat → (t.write (.v i) false x).v n = t.v n) ∧
    (n ≠ i.toNat → n ≠ i.toNat + 1 → (t.write (.v i) true x).v n = t.v n) ∧
    (∀ wide, { t.write (.v i) wide x with vregs := t.vregs, vpoison := t.vpoison, pip := t.pip } = t ∧
      (t.write (.v i) wide x).p = t.p) ∧
    (p.toNat < 15 → (t.write (.p p) false x).p p.toNat = x.getLsbD 0) ∧
    (q ≠ p → (t.write (.p p) false x).p q.toNat = t.p q.toNat) ∧ t.write (.p 15) false x = t ∧
    { t.write (.p p) false x with preds := t.preds, pip := t.pip } = t ∧ (t.write (.p p) false x).v = t.v ∧
    (t.write (.h p) true x).handles.get p.toNat = x ∧
    (q ≠ p → (t.write (.h p) true x).handles.get q.toNat = t.handles.get q.toNat) ∧
    { t.write (.h p) true x with handles := t.handles } = t ∧
    (∀ o wide, (t.write o wide x).vregs.wf = true ∧ (t.write o wide x).handles.wf = true)) ∧
  (∀ (g : Group) (i : Fin 192) (p : BitVec 3) (x : BitVec 64) (n : Nat), g.sregs.wf = true → g.masks.wf = true →
    (g.write (.s i) false x).sregs.get i.val = x.setWidth 32 ∧
    (g.write (.s i) true x).sregs.get i.val = x.setWidth 32 ∧
    (g.write (.s i) true x).sregs.get (i.val + 1) = (x >>> 32).setWidth 32 ∧
    (n ≠ i.val → (g.write (.s i) false x).sregs.get n = g.sregs.get n) ∧
    (n ≠ i.val → n ≠ i.val + 1 → (g.write (.s i) true x).sregs.get n = g.sregs.get n) ∧
    (∀ wide, { g.write (.s i) wide x with sregs := g.sregs, spoison := g.spoison } = g) ∧
    (g.write (.m p) true x).masks.get p.toNat = x ∧
    (n ≠ p.toNat → (g.write (.m p) true x).masks.get n = g.masks.get n) ∧ { g.write (.m p) true x with masks := g.masks } = g ∧
    (∀ o wide, (g.write o wide x).sregs.wf = true ∧ (g.write o wide x).masks.wf = true)) ∧
  (∀ (s : State) (c : Common) (r : Run) (rs : List Run), s.runs = r :: rs → (∀ t ∈ s.threads, t.stepping = false) →
    (c.bnd = false → s.advance c = { s with
      runs := rs ++ [{ r with pc := r.pc + 12, start := false, yld := r.yld || c.yld, stalled := false }] }) ∧
    (c.bnd = true → r.pip = false → (s.advance c).mem = s.mem ∧ (s.advance c).runs = rs ∧
      ∀ t ∈ (s.advance c).threads, t.ref = r.ref → r.lanes.getLsbD t.lane = true →
        t.pc = r.pc + 12 ∧ t.resume = none ∧ t.cond = .issuable ∧ t.aging = 0))

/-- Every instruction, event and step keeps memory and every register file in canonical form, and an agenda of events alone. For
every state in which main memory is in canonical form (addresses rising, no zero listed), every thread's vector registers and
handles, every pip context's registers and flags, every group's uniform registers, masks, flags and counts are too, and the
agenda holds events alone: whatever instruction or event is executed, if a next state follows it has those forms again; so has
the state that a step gives. So equal contents are equal states, and what EveryStepAnswers asks of the agenda holds again.
(The reset state has them: ResetStateIsTheSpecs.) (00 R7, 01 R18, 01 R19, 02 R54, 08 R179) -/
def Obligations.StepsKeepTheForms : Prop :=
  (∀ (i : Instr) (s t : State), s.Formed → exec i s = .next t → t.Formed) ∧
  (∀ s t : State, s.Formed → step s = .next t → t.Formed)

/-- Memory stays sorted with no zero listed, reads back what was written, and keeps every other byte. For every memory in
canonical form (addresses rising, no zero listed): writing a byte keeps the form, the byte reads back and every other byte
reads as before; so for bytes written in a row; equal reads everywhere mean equal memories. A write at a home slice by an
engine, the host or a peer leaves its bytes there and keeps the form. A number's n little-endian bytes read back as the number
modulo 256 to the n. (02 R46, 02 R51, 02 R54, 00 R7) -/
def Obligations.MemoryKeepsItsFormAndReadsBack : Prop :=
  (∀ (m : Memory) (a b : Nat) (x : Byte) (bs : List Byte), m.wf = true →
    (Store.set m a x).wf = true ∧ Store.get (Store.set m a x) a = x ∧
    (b ≠ a → Store.get (Store.set m a x) b = Store.get m b) ∧
    (Store.setBytes m a bs).wf = true ∧ Store.bytes (Store.setBytes m a bs) a bs.length = bs ∧
    (b < a ∨ a + bs.length ≤ b → Store.get (Store.setBytes m a bs) b = Store.get m b)) ∧
  (∀ m k : Memory, m.wf = true → k.wf = true → (∀ a, Store.get m a = Store.get k a) → m = k) ∧
  (∀ (s : State) (pa : Nat) (bs : List Byte), s.memWf = true →
    (s.writeHome pa bs).memWf = true ∧ (s.writeHome pa bs).mem.bytes pa bs.length = bs) ∧
  (∀ x n : Nat, leNat (leBytes x n) = x % 256 ^ n)

/-- After reset memory lists nothing and is in its form, no line is held, nothing runs, the registers hold their reset values. At
reset: main memory lists nothing, so every byte reads zero; no slice or L1 line, launch, thread, command or packet; the
interface is CONFIG_UNLOCKED, the queue, translation, fabric and debug registers are zero, the clock and the log's head are
zero, every port is down, no firmware runs, the power limit is the part's design limit, and every store of the state has its
canonical form. The model's choices here, no rules': the part is GM2-A (log 15), no firmware runs (log 16), the L1 is empty
(log 18), there is no launch or thread (log 19), all DESIGN CHOICE; the ports are down (log 21, DEDUCED). (02 R51, 03 R65, 11
R260, 13 R308, 14 R344, 15 R375, 15 R377, 15 R384, 15 R386, 15 R387) -/
def Obligations.ResetStateIsTheSpecs : Prop :=
  State.reset.mem = [] ∧ State.reset.Formed ∧ (∀ a, State.reset.mem.get a = 0) ∧ State.reset.slices = [] ∧
  State.reset.l1 = [] ∧ State.reset.launches = [] ∧ State.reset.threads = [] ∧ State.reset.cmds = [] ∧
  State.reset.packets = [] ∧ State.reset.tdi = .unlocked ∧ State.reset.qtReg = 0 ∧ State.reset.ptReg = 0 ∧
  State.reset.sdCtl = 0 ∧ State.reset.fabReg = 0 ∧ State.reset.tgen = 0 ∧ State.reset.dbgCtl = 0 ∧ State.reset.clock = 0 ∧
  State.reset.errHead = 0 ∧ State.reset.errLog = [] ∧ (∀ p ∈ State.reset.ports, p.st = .down) ∧ State.reset.ready = false ∧
  State.reset.plimit = State.reset.part.designLimit

/-- MOV, MOVI, MOVI.W, MOVI.HI, UMOV 0 and 1, HGET and HPUT complete with their source in their destination. For every state and
operands that are clear (the run issues, its checks pass, its registers are settled), exec answers a next state: MOV, UMOV and
UMOV.BC write the source, of 32 or 64 bits, to the destination of each executing thread, or once to a uniform one; MOVI writes
the value of C, MOVI.W writes it sign-extended to a pair, MOVI.HI writes it to the upper register of the pair alone; HGET
copies a handle to a pair and HPUT a pair to a handle; then the run goes on. (08 R181, 08 R182, 06 R133, 01 R19, 01 R23) -/
def Obligations.MovesWriteTheirSource : Prop :=
  ∀ (s : State) (cx : Ctx) (c : Common) (wide : Bool) (d a : Opnd) (k : BitVec 32),
    (Clear (regNeed c [nm d wide] [nm a wide]) s cx →
      exec (.mov c wide d a k) s = .next (s.wrote cx c (fun t => [⟨d, wide, readOp cx.group t k .sint wide a⟩])) ∧
      exec (.umov c wide d a k) s = .next (s.wrote cx c (fun t => [⟨d, wide, readOp cx.group t k .sint wide a⟩])) ∧
      exec (.umovBc c wide d a k) s = .next (s.wrote cx c (fun t => [⟨d, wide, readOp cx.group t k .sint wide a⟩]))) ∧
    (Clear (regNeed c [nm d false] []) s cx →
      exec (.movi c d k) s = .next (s.wrote cx c (fun _ => [⟨d, false, k.setWidth 64⟩]))) ∧
    (Clear (regNeed c [nm d true] []) s cx →
      exec (.moviW c d k) s = .next (s.wrote cx c (fun _ => [⟨d, true, k.signExtend 64⟩]))) ∧
    (∀ i, d = .v i → Clear (regNeed c [(.v (i + 1), 1)] []) s cx →
      exec (.moviHi c d k) s = .next (s.wrote cx c (fun _ => [⟨.v (i + 1), false, k.setWidth 64⟩]))) ∧
    (∀ i, d = .s i → Clear (regNeed c [(.s (i + 1), 1)] []) s cx →
      exec (.moviHi c d k) s = .next (s.wrote cx c (fun _ => [⟨.s (i + 1), false, k.setWidth 64⟩]))) ∧
    (Clear (regNeed c [nm d true] [(a, 1)]) s cx →
      exec (.hget c d a) s = .next (s.wrote cx c (fun t => [⟨d, true, readOp cx.group t 0 .uint true a⟩]))) ∧
    (Clear (regNeed c [(d, 1)] [nm a true]) s cx →
      exec (.hput c d a) s = .next (s.wrote cx c (fun t => [⟨d, true, readOp cx.group t 0 .uint true a⟩])))

/-- IADD to ISAD and LEA complete with the exact integer of R184, clamped under .sat or wrapped. For every state and operands that
are clear, exec of IADD, ISUB, IADD3, IMUL, IMULH, IMAD, IMADW, IABS, INEG, IMIN, IMAX, ISAD and LEA answers the next state in
which each executing thread's destination holds the operation's exact integer, clamped to the type's range where the form
saturates, and reduced modulo 2^w; LEA adds the index shifted left by n. (08 R180, 08 R184, 08 R186, 07 R161) -/
def Obligations.IntegerArithmeticResults : Prop :=
  ∀ (s : State) (cx : Ctx) (c : Common) (ty : Ty) (sat wide : Bool) (sh : BitVec 3) (d a b e : Opnd) (k : BitVec 32),
    let out (x : Int) : BitVec 64 := wrapInt (tyBits ty) (if sat then min (max x (tyMin ty)) (tyMax ty) else x)
    let mod (x : Int) : BitVec 64 := wrapInt (tyBits ty) x
    let v (o : Opnd) (t : Thread) : Int := intVal ty (readOp cx.group t k (tyWiden ty) ty.wide o)
    let v0 (o : Opnd) (t : Thread) : Int := intVal ty (readOp cx.group t 0 (tyWiden ty) ty.wide o)
    let gives (f : Thread → BitVec 64) : Out := .next (s.wrote cx c (fun t => [⟨d, ty.wide, f t⟩]))
    (Clear (regNeed c [nm d ty.wide] [nm a ty.wide, nm b ty.wide]) s cx →
      exec (.iadd c ty sat d a b k) s = gives (fun t => out (v a t + v b t)) ∧
      exec (.isub c ty sat d a b k) s = gives (fun t => out (v a t - v b t)) ∧
      exec (.imul c ty d a b k) s = gives (fun t => mod (v a t * v b t)) ∧
      exec (.imulh c ty d a b k) s = gives (fun t => mod (v a t * v b t / 2 ^ tyBits ty)) ∧
      exec (.imin c ty d a b k) s = gives (fun t => mod (min (v a t) (v b t))) ∧
      exec (.imax c ty d a b k) s = gives (fun t => mod (max (v a t) (v b t)))) ∧
    (Clear (regNeed c [nm d ty.wide] [nm a ty.wide, nm b ty.wide, nm e ty.wide]) s cx →
      exec (.iadd3 c ty sat d a b e) s = gives (fun t => out (v0 a t + v0 b t + v0 e t)) ∧
      exec (.imad c ty sat d a b e) s = gives (fun t => out (v0 a t * v0 b t + v0 e t)) ∧
      exec (.isad c ty d a b e) s = gives (fun t => mod (|v0 a t - v0 b t| + v0 e t))) ∧
    (Clear (regNeed c [nm d ty.wide] [nm a ty.wide]) s cx →
      exec (.iabs c ty sat d a k) s = gives (fun t => out |v a t|) ∧
      exec (.ineg c ty sat d a k) s = gives (fun t => out (-v a t))) ∧
    (Clear (regNeed c [nm d true] [nm a false, nm b false, nm e true]) s cx →
      exec (.imadw c ty d a b e) s = .next (s.wrote cx c (fun t => [⟨d, true, wrapInt 64
        (v0 a t * v0 b t + (if ty.isSigned then (readOp cx.group t 0 .sint true e).toInt
          else (readOp cx.group t 0 .uint true e).toNat))⟩]))) ∧
    (Clear (regNeed c [nm d wide] [nm a wide, nm b false]) s cx →
      exec (.lea c wide sh d a b k) s = .next (s.wrote cx c (fun t => [⟨d, wide, fit wide
        (readOp cx.group t k .sint wide a + ((loWord (readOp cx.group t k .sint false b)).signExtend 64 <<< sh.toNat))⟩])))

/-- ADDC and SUBC write the sum and its carry; IDIV and IREM divide toward zero, with R207's results on a zero divisor. For every
state and operands that are clear, exec of ADDC and SUBC answers the next state with the sum or the difference modulo 2^w in
the destination and the carry or the borrow in the predicate; IDIV writes the quotient truncated toward zero and IREM the
remainder, all ones and the dividend where the divisor is zero. (08 R185, 08 R207) -/
def Obligations.CarryAndDivisionResults : Prop :=
  ∀ (s : State) (cx : Ctx) (c : Common) (ty : Ty) (wide : Bool) (d a b e : Opnd) (k : BitVec 32),
    let w : Nat := if wide then 64 else 32
    let u (o : Opnd) (t : Thread) : Nat := (readOp cx.group t 0 .uint wide o).toNat % 2 ^ w
    let carry (t : Thread) : Nat := (readOp cx.group t 0 .uint false e).toNat
    let v (o : Opnd) (t : Thread) : Int := intVal ty (readOp cx.group t k (tyWiden ty) ty.wide o)
    let gives (f : Thread → Int) : Out := .next (s.wrote cx c (fun t => [⟨d, ty.wide, wrapInt (tyBits ty) (f t)⟩]))
    (Clear (regNeed c [nm d wide, nm e false] [nm a wide, nm b wide, nm e false]) s cx →
      exec (.addc c wide d a b e) s = .next (s.wrote cx c (fun t =>
        [⟨d, wide, BitVec.ofNat 64 ((u a t + u b t + carry t) % 2 ^ w)⟩,
          ⟨e, false, if u a t + u b t + carry t ≥ 2 ^ w then 1 else 0⟩])) ∧
      exec (.subc c wide d a b e) s = .next (s.wrote cx c (fun t =>
        [⟨d, wide, wrapInt w ((u a t : Int) - u b t - carry t)⟩,
          ⟨e, false, if u a t < u b t + carry t then 1 else 0⟩]))) ∧
    (Clear (regNeed c [nm d ty.wide] [nm a ty.wide, nm b ty.wide]) s cx →
      exec (.idiv c ty d a b k) s = gives (fun t => if v b t = 0 then -1 else (v a t).tdiv (v b t)) ∧
      exec (.irem c ty d a b k) s = gives (fun t => if v b t = 0 then v a t else (v a t).tmod (v b t)))

/-- The logic, shift, funnel and rotate instructions, and BFE, BFI, BMSK, POPC, CLZ, CTZ, BREV and BYSEL, complete with the
results of R188 to R192. For every state and operands that are clear, exec answers the next state in which each executing
thread's destination holds the bitwise result, the truth table's bit at each place, or the shifted or rotated value: a shift
by the width or more gives zeros (SHL, SHR) or the sign (SAR), a funnel takes its amount up to 32, a rotation its amount
modulo the width. For every state and operands that are clear, exec answers the next state in which each executing thread's
destination holds: the field of min(len, w) bits from pos on, extended by the type (BFE); the base with that field replaced,
bit by bit (BFI); len ones from pos on (BMSK); the count of ones, of leading and of trailing zeros among the low w bits (POPC,
CLZ, CTZ); the bits in reverse order (BREV); four bytes chosen among eight, or their sign bytes, zeros or ones (BYSEL). (08
R188, 08 R189, 08 R190, 08 R191, 08 R192) -/
def Obligations.LogicShiftAndBitFieldResults : Prop :=
  (∀ (s : State) (cx : Ctx) (c : Common) (wide right : Bool) (tt : BitVec 8) (d a b e : Opnd) (k : BitVec 32),
      let w : Nat := if wide then 64 else 32
      let x (o : Opnd) (t : Thread) : BitVec 64 := readOp cx.group t k .sint wide o
      let n (t : Thread) : Nat := (readOp cx.group t k .sint false b).toNat
      let y (o : Opnd) (t : Thread) : BitVec 32 := loWord (readOp cx.group t 0 .sint false o)
      let gives (f : Thread → BitVec 64) : Out := .next (s.wrote cx c (fun t => [⟨d, wide, fit wide (f t)⟩]))
      (Clear (regNeed c [nm d wide] [nm a wide, nm b wide]) s cx →
        exec (.andb c wide d a b k) s = gives (fun t => x a t &&& x b t) ∧
        exec (.orb c wide d a b k) s = gives (fun t => x a t ||| x b t) ∧
        exec (.xorb c wide d a b k) s = gives (fun t => x a t ^^^ x b t)) ∧
      (Clear (regNeed c [nm d wide] [nm a wide]) s cx → exec (.notb c wide d a k) s = gives (fun t => ~~~(x a t))) ∧
      (Clear (regNeed c [nm d wide] [nm a wide, nm b false]) s cx →
        exec (.shl c wide d a b k) s = gives (fun t => if w ≤ n t then 0 else x a t <<< n t) ∧
        exec (.shr c wide d a b k) s = gives (fun t => if w ≤ n t then 0 else x a t >>> n t) ∧
        exec (.sar c wide d a b k) s = gives (fun t =>
          (if wide then x a t else (loWord (x a t)).signExtend 64).sshiftRight (min (n t) (w - 1))) ∧
        exec (.rot c wide right d a b k) s = gives (fun t =>
          let m := if right then (w - n t % w) % w else n t % w
          (x a t <<< m) ||| (x a t >>> (w - m)))) ∧
      (Clear (regNeed c [nm d false] [nm a false, nm b false, nm e false]) s cx →
        exec (.funl c d a b e) s = .next (s.wrote cx c (fun t =>
          [⟨d, false, (joinWords (y b t) (y a t) <<< min (readOp cx.group t 0 .sint false e).toNat 32) >>> 32⟩])) ∧
        exec (.funr c d a b e) s = .next (s.wrote cx c (fun t =>
          [⟨d, false, (loWord (joinWords (y b t) (y a t) >>> min (readOp cx.group t 0 .sint false e).toNat 32)).setWidth 64⟩])) ∧
        ∃ f : Thread → BitVec 32,
          exec (.tlog c tt d a b e) s = .next (s.wrote cx c (fun t => [⟨d, false, (f t).setWidth 64⟩])) ∧
          ∀ t i, i < 32 → (f t).getLsbD i =
            tt.getLsbD (((y e t).getLsbD i).toNat * 4 + ((y b t).getLsbD i).toNat * 2 + ((y a t).getLsbD i).toNat))) ∧
  (∀ (s : State) (cx : Ctx) (c : Common) (ty : Ty) (wide : Bool) (d a b e : Opnd) (k : BitVec 32),
      let w : Nat := if wide then 64 else 32
      let x (o : Opnd) (t : Thread) : BitVec 64 := readOp cx.group t k .sint wide o
      let x0 (o : Opnd) (t : Thread) : BitVec 64 := readOp cx.group t 0 .sint wide o
      let n (o : Opnd) (t : Thread) : Nat := (readOp cx.group t k .sint false o).toNat
      let n0 (o : Opnd) (t : Thread) : Nat := (readOp cx.group t 0 .sint false o).toNat
      (Clear (regNeed c [nm d ty.wide] [nm a ty.wide, nm b false]) s cx →
        exec (.bfe c ty d a b k) s = .next (s.wrote cx c (fun t => [⟨d, ty.wide,
          let len := min (n b t / 256 % 256) (tyBits ty)
          let f := intVal ty (readOp cx.group t k (tyWiden ty) ty.wide a) / 2 ^ (n b t % 256) % 2 ^ len
          if len = 0 then 0 else wrapInt (tyBits ty) (if ty.isSigned ∧ f ≥ 2 ^ (len - 1) then f - 2 ^ len else f)⟩]))) ∧
      (Clear (regNeed c [nm d wide] [nm a wide, nm b wide, nm e false]) s cx →
        ∃ f : Thread → BitVec 64,
          exec (.bfi c wide d a b e) s = .next (s.wrote cx c (fun t => [⟨d, wide, f t⟩])) ∧
          ∀ t i, i < w → (f t).getLsbD i =
            if n0 e t % 256 ≤ i ∧ i < n0 e t % 256 + n0 e t / 256 % 256 then (x0 a t).getLsbD (i - n0 e t % 256)
            else (x0 b t).getLsbD i) ∧
      (Clear (regNeed c [nm d false] [nm a false, nm b false]) s cx →
        ∃ f : Thread → BitVec 64,
          exec (.bmsk c d a b k) s = .next (s.wrote cx c (fun t => [⟨d, false, f t⟩])) ∧
          ∀ t i, (f t).getLsbD i = decide (i < 32 ∧ n a t ≤ i ∧ i < n a t + n b t)) ∧
      (Clear (regNeed c [nm d false] [nm a wide]) s cx →
        ∃ p l r : Thread → Nat,
          exec (.popc c wide d a k) s = .next (s.wrote cx c (fun t => [⟨d, false, BitVec.ofNat 64 (p t)⟩])) ∧
          exec (.clz c wide d a k) s = .next (s.wrote cx c (fun t => [⟨d, false, BitVec.ofNat 64 (l t)⟩])) ∧
          exec (.ctz c wide d a k) s = .next (s.wrote cx c (fun t => [⟨d, false, BitVec.ofNat 64 (r t)⟩])) ∧
          ∀ t, p t = ((List.range w).filter (x a t).getLsbD).length ∧
            (l t ≤ w ∧ (∀ i, w - l t ≤ i → i < w → (x a t).getLsbD i = false) ∧
              (l t < w → (x a t).getLsbD (w - 1 - l t) = true)) ∧
            (r t ≤ w ∧ (∀ i, i < r t → (x a t).getLsbD i = false) ∧ (r t < w → (x a t).getLsbD (r t) = true))) ∧
      (Clear (regNeed c [nm d wide] [nm a wide]) s cx →
        ∃ f : Thread → BitVec 64,
          exec (.brev c wide d a k) s = .next (s.wrote cx c (fun t => [⟨d, wide, f t⟩])) ∧
          ∀ t i, i < w → (f t).getLsbD i = (x a t).getLsbD (w - 1 - i)) ∧
      (Clear (regNeed c [nm d false] [nm a false, nm b false, nm e false]) s cx →
        ∃ f : Thread → Nat → BitVec 8,
          exec (.bysel c d a b e) s = .next (s.wrote cx c (fun t =>
            [⟨d, false, BitVec.ofNat 64 (leNat ((List.range 4).map (f t)))⟩])) ∧
          ∀ t i, i < 4 → f t i =
            let sel := n0 e t / 2 ^ (8 * i) % 256
            let byte := (joinWords (loWord (readOp cx.group t 0 .sint false a)) (loWord (readOp cx.group t 0 .sint false b))).toNat
              / 2 ^ (8 * (sel % 8)) % 256
            if sel / 8 % 4 = 0 then BitVec.ofNat 8 byte
            else if sel / 8 % 4 = 1 then (if byte ≥ 128 then 255 else 0)
            else if sel / 8 % 4 = 2 then 0 else 255))

/-- FADD, FSUB, FMUL, FFMA, FMIN, FMAX and FCLASS complete with one rounding of the exact value, flushed under .ftz. For every
state and operands that are clear, exec answers the next state in which each executing thread's destination holds the exact
sum, difference, product or fused product and sum of its FP32 sources rounded once under the instruction's mode, sources and
result flushed under .ftz; the smaller or larger source, a NaN losing to a number unless .nan asks for it; or the one-hot
class of the source. (08 R198, 08 R199, 08 R201, 07 R156, 07 R160, 07 R163) -/
def Obligations.Fp32ArithmeticResults : Prop :=
  ∀ (s : State) (cx : Ctx) (c : Common) (rm : Rm) (ftz nan : Bool) (d a b e : Opnd) (k : BitVec 32),
    let x (o : Opnd) (t : Thread) : Nat := flush ftz ((readOp cx.group t k .f32 false o).toNat % 2 ^ 32)
    let x0 (o : Opnd) (t : Thread) : Nat := flush ftz ((readOp cx.group t 0 .f32 false o).toNat % 2 ^ 32)
    let pick (isMax : Bool) (p q : Nat) : Nat :=
      if (fp32.isNan p && fp32.isNan q) || (nan && (fp32.isNan p || fp32.isNan q)) then 0x7FC00000
      else if fp32.isNan p then q else if fp32.isNan q then p
      else if isMax then (if fp32.key p < fp32.key q then q else p) else if fp32.key q < fp32.key p then q else p
    let gives (f : Thread → Nat) : Out := .next (s.wrote cx c (fun t => [⟨d, false, BitVec.ofNat 64 (flush ftz (f t))⟩]))
    (Clear (regNeed c [nm d false] [nm a false, nm b false]) s cx →
      exec (.fadd c rm ftz d a b k) s =
        gives (fun t => roundDir (Ex.addZero rm (fp32.value (x a t)) (fp32.value (x b t))) fp32 rm) ∧
      exec (.fsub c rm ftz d a b k) s =
        gives (fun t => roundDir (Ex.addZero rm (fp32.value (x a t)) (fp32.value (x b t ^^^ 2 ^ 31))) fp32 rm) ∧
      exec (.fmul c rm ftz d a b k) s =
        gives (fun t => roundDir ((fp32.value (x a t)).mul (fp32.value (x b t))) fp32 rm) ∧
      exec (.fmin c nan ftz d a b k) s = gives (fun t => pick false (x a t) (x b t)) ∧
      exec (.fmax c nan ftz d a b k) s = gives (fun t => pick true (x a t) (x b t))) ∧
    (Clear (regNeed c [nm d false] [nm a false, nm b false, nm e false]) s cx →
      exec (.ffma c rm ftz d a b e) s = gives (fun t => roundDir
        (Ex.addRm rm ((fp32.value (x0 a t)).mul (fp32.value (x0 b t))) (fp32.value (x0 e t))) fp32 rm)) ∧
    (Clear (regNeed c [nm d false] [nm a false]) s cx →
      exec (.fclass c d a k) s = .next (s.wrote cx c (fun t => [⟨d, false, BitVec.ofNat 64
        (2 ^ classOf ((readOp cx.group t k .f32 false a).toNat % 2 ^ 32))⟩])))

/-- FDIV, FSQRT, FRCP, FRSQ, FEX2, FLG2, FSIN, FCOS and FTANH go in flight with their rounded values bound at issue. For every
state and operands that are clear, and where the selected flag's count is not full, exec answers the next state in which the
instruction is in flight for the executing threads with, for each lane, the exact quotient or function value of its source
rounded once, sources and result flushed under .ftz; the run goes on. FSQRT, FRCP and FDIV round under their mode, the others
to nearest even. (08 R200, 01 R27, 01 R28, 07 R160) -/
def Obligations.LongLatencyFloatResults : Prop :=
  ∀ (s : State) (cx : Ctx) (c : Common) (rm : Rm) (ftz : Bool) (d a b : Opnd) (k : BitVec 32),
    let x (o : Opnd) (t : Thread) : Ex := fp32.value (flush ftz ((readOp cx.group t k .f32 false o).toNat % 2 ^ 32))
    let bound (f : Thread → Ex) (rm : Rm) : Flight :=
      { dst := some (d, false)
        vals := (cx.exec c).map (fun t => (t.lane, BitVec.ofNat 64 (flush ftz (roundDir (f t) fp32 rm)))) }
    (Clear (regNeed c [nm d false] [nm a false, nm b false]) s cx →
      ∀ s', s.launched cx c (bound (fun t => (x a t).div (x b t)) rm) = some s' →
        exec (.fdiv c rm ftz d a b k) s = .next s') ∧
    (Clear (regNeed c [nm d false] [nm a false]) s cx → ∀ s',
      (s.launched cx c (bound (fun t => Fun1.sqrt.apply (x a t)) rm) = some s' → exec (.fsqrt c rm ftz d a k) s = .next s') ∧
      (s.launched cx c (bound (fun t => Fun1.rcp.apply (x a t)) rm) = some s' → exec (.frcp c rm ftz d a k) s = .next s') ∧
      (s.launched cx c (bound (fun t => Fun1.rsq.apply (x a t)) .rne) = some s' → exec (.frsq c ftz d a k) s = .next s') ∧
      (s.launched cx c (bound (fun t => Fun1.ex2.apply (x a t)) .rne) = some s' → exec (.fex2 c ftz d a k) s = .next s') ∧
      (s.launched cx c (bound (fun t => Fun1.lg2.apply (x a t)) .rne) = some s' → exec (.flg2 c ftz d a k) s = .next s') ∧
      (s.launched cx c (bound (fun t => Fun1.sin.apply (x a t)) .rne) = some s' → exec (.fsin c ftz d a k) s = .next s') ∧
      (s.launched cx c (bound (fun t => Fun1.cos.apply (x a t)) .rne) = some s' → exec (.fcos c ftz d a k) s = .next s') ∧
      (s.launched cx c (bound (fun t => Fun1.tanh.apply (x a t)) .rne) = some s' → exec (.ftanh c ftz d a k) s = .next s'))

/-- HADD2, HMUL2, HFMA2, HMIN2 and HMAX2 complete with each 16-bit element computed and rounded alone. For every state and
operands that are clear, exec answers the next state in which each executing thread's destination holds two elements, element
i of the result from element i of each source alone: the exact sum, product or fused product and sum rounded once in the
type's format, or the smaller or larger element under FMIN's rule. (08 R202, 07 R157, 07 R160) -/
def Obligations.PackedHalfResults : Prop :=
  ∀ (s : State) (cx : Ctx) (c : Common) (ty : Ty) (rm : Rm) (nan : Bool) (d a b e : Opnd),
    let f : Fmt := if ty = .f16 then fp16 else bf16
    let x (o : Opnd) (t : Thread) (i : Nat) : Nat := packedSrc cx.group t ty o / 65536 ^ i % 65536
    let v (o : Opnd) (t : Thread) (i : Nat) : Ex := f.value (x o t i)
    let gives (g : Thread → Nat → Nat) : Out :=
      .next (s.wrote cx c (fun t => [⟨d, false, BitVec.ofNat 64 (g t 0 % 65536 + g t 1 % 65536 * 65536)⟩]))
    (Clear (regNeed c [nm d false] [nm a false, nm b false]) s cx →
      exec (.hadd2 c ty rm d a b) s = gives (fun t i => roundDir (Ex.addZero rm (v a t i) (v b t i)) f rm) ∧
      exec (.hmul2 c ty rm d a b) s = gives (fun t i => roundDir ((v a t i).mul (v b t i)) f rm) ∧
      exec (.hmin2 c ty nan d a b) s = gives (fun t i => minMax f false nan (x a t i) (x b t i)) ∧
      exec (.hmax2 c ty nan d a b) s = gives (fun t i => minMax f true nan (x a t i) (x b t i))) ∧
    (Clear (regNeed c [nm d false] [nm a false, nm b false, nm e false]) s cx →
      exec (.hfma2 c ty rm d a b e) s =
        gives (fun t i => roundDir (Ex.addRm rm ((v a t i).mul (v b t i)) (v e t i)) f rm))

/-- ISETP, FSETP, HSETP2, SEL, PSET, P2V and V2P complete with the results of R193 to R196. For every state and operands that are
clear, exec answers the next state in which the destination holds: a comparison's truth of the two sources, an unordered one
the .u flag or the nan relation, HSETP2's second predicate that of element 1; SEL gives A where the predicate is 1, else B;
PSET the truth table's bit; P2V the fifteen predicates in bits 14 to 0; V2P, for a thread of the vector pipe or an ejected
one, the predicates its mask names from A's bits and no other; where the mask of a thread names a live-in of its region, that
thread traps with REGION_VIOLATION whatever A holds. HSETP2 with one predicate as both D and E writes element 0's result and
then element 1's, which stands: that order is log 31, the model's choice (DESIGN CHOICE), no rule's. (08 R193, 08 R194, 08
R195, 08 R196, 01 R31) -/
def Obligations.ComparisonAndSelectionResults : Prop :=
  ∀ (s : State) (cx : Ctx) (c : Common) (ty : Ty) (cmp : Cmp) (unord wide : Bool) (tt : BitVec 8) (d a b e : Opnd)
      (k : BitVec 32),
    let bool (p : Bool) : BitVec 64 := if p then 1 else 0
    let v (o : Opnd) (t : Thread) : Int := intVal ty (readOp cx.group t k (tyWiden ty) ty.wide o)
    let pr (o : Opnd) (t : Thread) : Bool := readOp cx.group t 0 .uint false o == 1
    let rel (p : Option Ordering) : Bool := match p with
      | some o => relHolds cmp o
      | none => unord || cmp == .nan
    (Clear (regNeed c [nm d false] [nm a ty.wide, nm b ty.wide]) s cx →
      exec (.isetp c ty cmp d a b k) s =
        .next (s.wrote cx c (fun t => [⟨d, false, bool (relHolds cmp (compare (v a t) (v b t)))⟩]))) ∧
    (Clear (regNeed c [nm d false] [nm a false, nm b false]) s cx →
      exec (.fsetp c cmp unord d a b k) s = .next (s.wrote cx c (fun t => [⟨d, false, bool (rel
        ((fp32.value (readOp cx.group t k .f32 false a).toNat).cmp (fp32.value (readOp cx.group t k .f32 false b).toNat)))⟩]))) ∧
    (Clear (regNeed c [nm d false, nm e false] [nm a false, nm b false]) s cx →
      exec (.hsetp2 c ty cmp unord d a b e) s = .next (s.wrote cx c (fun t =>
        let r (i : Nat) : BitVec 64 := bool (rel (((halfFmt ty).value (packedSrc cx.group t ty a / 65536 ^ i % 65536)).cmp
          ((halfFmt ty).value (packedSrc cx.group t ty b / 65536 ^ i % 65536))))
        [⟨d, false, r 0⟩, ⟨e, false, r 1⟩]))) ∧
    (Clear (regNeed c [nm d wide] [nm a wide, nm b wide, nm e false]) s cx →
      exec (.sel c wide d a b e) s = .next (s.wrote cx c (fun t =>
        [⟨d, wide, if pr e t then readOp cx.group t 0 .sint wide a else readOp cx.group t 0 .sint wide b⟩]))) ∧
    (Clear (regNeed c [nm d false] [nm a false, nm b false, nm e false]) s cx →
      exec (.pset c tt d a b e) s = .next (s.wrote cx c (fun t =>
        [⟨d, false, bool (tt.getLsbD ((pr e t).toNat * 4 + (pr b t).toNat * 2 + (pr a t).toNat))⟩]))) ∧
    (Clear (regNeed c [nm d false] allPreds) s cx →
      ∃ f : Thread → BitVec 64, exec (.p2v c d) s = .next (s.wrote cx c (fun t => [⟨d, false, f t⟩])) ∧
        ∀ t i, (f t).getLsbD i = (decide (i < 15) && t.p i)) ∧
    (∀ named : List Names, named = allPreds.filter (fun n => (cx.exec c).any (fun t => (maskPreds cx.group k b t).contains n)) →
      ∀ n : Need, n = (if cx.run.pip then regNeed c named [nm a false, nm b false] else
        regNeed c [] ([nm a false, nm b false] ++ named)) → Clear n s cx →
      ∀ bad : List (Nat × Trap), bad = ((cx.exec c).filter (fun t => t.region.any (fun r =>
        (maskPreds cx.group k b t).any r.names))).map (fun t => (t.lane, ⟨.regionViolation, 0, 0⟩)) →
      (bad ≠ [] → exec (.v2p c a b k) s = .next (s.trapSome cx bad)) ∧
      (bad = [] → exec (.v2p c a b k) s = .next (s.wrote cx c (fun t => (maskPreds cx.group k b t).map (fun n => ⟨n.1, false,
        match n.1 with
        | .p i => bool ((readOp cx.group t k .sint false a).getLsbD i.toNat)
        | _ => 0⟩)))))

/-- CVT, CVTH, FRND, QNT and DQNT complete with the exact source value brought to the destination's format once. For every state
and operands that are clear, exec answers the next state in which the destination holds: for CVT, the source's value rounded
once to a float (the largest finite value under .sat in place of an infinity that rounding made), or rounded to an integer and
clamped, NaN giving 0, or an integer wrapped, clamped under .sat, and extended; for CVTH, two FP32 values packed in a half
format, or two halves as FP32; for FRND, the source rounded to an integral value of its format; for QNT and DQNT, with a bound
slot, the quantised element or the dequantised FP32 value under the slot's fields. (08 R203, 08 R204, 08 R205, 08 R206, 07
R161, 07 R165) -/
def Obligations.ConversionResults : Prop :=
  ∀ (s : State) (cx : Ctx) (c : Common) (ty dty sty : Ty) (rm : Rm) (sat useB : Bool) (slot : BitVec 3) (d a b : Opnd),
    let x (t : Thread) : BitVec 64 := readOp cx.group t 0 (tyWiden sty) sty.wide a
    let fl (ty : Ty) : Fmt := if ty = .f16 then fp16 else if ty = .bf16 then bf16 else fp32
    let toF (ty : Ty) (v : Ex) : Nat :=
      let r := roundDir v (fl ty) rm
      match v with
      | .fin n _ _ => if sat && (fl ty).isInf r then (fl ty).largest n else r
      | _ => r
    let ext (e : Int) : BitVec 64 := wrapInt (if dty.wide then 64 else 32) (intVal dty (wrapInt (tyBits dty) e))
    let half (t : Thread) (o : Opnd) : Nat := toF dty (fp32.value ((readOp cx.group t 0 .f32 false o).toNat % 2 ^ 32))
    let q (t : Thread) (o : Opnd) : Nat := (readOp cx.group t 0 .uint false o).toNat
    let sl : Slot := cx.launch.lr.slot slot
    let el : ElemFmt := if useB then sl.bfmt else sl.afmt
    (Clear (regNeed c [nm d dty.wide] [nm a sty.wide]) s cx →
      exec (.cvt c dty sty rm sat d a) s = .next (s.wrote cx c (fun t => [⟨d, dty.wide,
        if dty.isFloat then BitVec.ofNat 64 (toF dty
          (if sty.isFloat then (fl sty).value ((x t).toNat % 2 ^ (fl sty).width) else Ex.int (intVal sty (x t))))
        else if sty.isFloat then
          ext (((fl sty).value ((x t).toNat % 2 ^ (fl sty).width)).clampInt rm 0 (tyMin dty) (tyMax dty))
        else ext (if sat then satInt dty (intVal sty (x t)) else intVal sty (x t))⟩]))) ∧
    (Clear (regNeed c [nm d false] [nm a false, nm b false]) s cx →
      exec (.cvth c dty sty rm sat d a (some b)) s = .next (s.wrote cx c (fun t =>
        [⟨d, false, BitVec.ofNat 64 (half t a % 65536 + half t b % 65536 * 65536)⟩]))) ∧
    (Clear (regNeed c [nm d true] [nm a false]) s cx →
      exec (.cvth c dty sty rm sat d a none) s = .next (s.wrote cx c (fun t =>
        [⟨d, true, joinWords (BitVec.ofNat 32 (roundRne ((fl sty).value (q t a % 65536)) fp32))
          (BitVec.ofNat 32 (roundRne ((fl sty).value (q t a / 65536 % 65536)) fp32))⟩]))) ∧
    (Clear (regNeed c [nm d false] [nm a false]) s cx →
      exec (.frnd c ty rm d a) s = .next (s.wrote cx c (fun t =>
        [⟨d, false, BitVec.ofNat 64
          (match (fl ty).value ((readOp cx.group t 0 (tyWiden ty) false a).toNat % 2 ^ (fl ty).width) with
          | .nan => (fl ty).canonNan
          | .inf n => (fl ty).inf n
          | .fin n p r => roundRne (.fin n (roundNat rm n p r) 1) (fl ty))⟩]))) ∧
    (Clear (regNeed c [nm d false] [nm a false, nm b false]) s cx → sl.afmt ≠ .none →
      exec (.qnt c useB slot d a b) s = .next (s.wrote cx c (fun t => [⟨d, false, quantise sl el (q t a) (q t b)⟩])) ∧
      exec (.dqnt c useB slot d a b) s = .next (s.wrote cx c (fun t => [⟨d, false, dequantise sl el (q t a) (q t b)⟩])))

/-- A well-formed clause whose awaited flags are clear starts; REGION ends the run's open regions and opens the one of its record.
For every state in which a run issues at a clause start: where the clause it fetches is well formed, every flag of the wait
mask reads clear and the clause's selections fit in their counts, exec of CLAUSE answers the next state in which the run
stands at the next word, inside the clause of this header with its flags X and Y. For every state in which a run issues and
every record offset that is a multiple of 16 and lies with its 80 bytes inside the table: where the record reads without a
fault or poison and its reserved fields are zero, exec of REGION answers the next state in which each thread of the run has
ended its region and opened one whose entry is the header's PC, whose live-in sets are the record's, and which keeps the
thread's return-stack depth and sequence number; then the run goes on. (01 R25, 01 R26, 01 R27, 01 R29, 01 R30, 01 R33) -/
def Obligations.ClauseAndRegionHeadersComplete : Prop :=
  (∀ (s s' : State) (cx : Ctx) (fx fy : BitVec 4) (wait : BitVec 12) (body : List (BitVec 96)),
    s.ctx? = some cx → cx.run.start = true → s.checkClause cx (clauseForm fx fy) = (s', .good body) →
    (∀ i, i < 12 → wait.getLsbD i = true → cx.flags.get i = 0) → selectionsFit cx.flags fx fy body = true →
    exec (.clause fx fy wait) s = .next (s'.modRun (fun r =>
      { r with hdr := r.pc, pc := r.pc + 12, fx := fx, fy := fy, start := false, stalled := false })).rotate) ∧
  (∀ (s s' : State) (cx : Ctx) (bnd : Bool) (off : BitVec 32) (x : Nat),
    s.ctx? = some cx → off.toNat % 16 = 0 → off.toNat + 80 ≤ cx.launch.lr.regsize.toNat →
    s.peekWords cx.run.core cx.launch.pasid ((cx.launch.lr.regaddr.toNat + off.toNat) % 2 ^ 57) 20 = (s', .ok (x, false)) →
    regionRes0 x = true →
    let y : Nat × State := (s'.endRegion cx.run.ref cx.run.lanes).fresh
    exec (.region bnd off) s = .next ((y.2.modThreads
      (fun t => t.ref == cx.run.ref && cx.run.lanes.getLsbD t.lane)
      (fun t => { t with region := some ({
          entry := cx.run.hdr, livev := BitVec.ofNat 256 (bits x 255 0), lives := BitVec.ofNat 192 (bits x 447 256)
          livep := BitVec.ofNat 15 (bits x 462 448), livem := BitVec.ofNat 8 (bits x 471 464)
          liveh := BitVec.ofNat 16 (bits x 495 480), livea := BitVec.ofNat 32 (bits x 543 512), d := t.d, seq := t.seq
          serial := y.1 } : Region) })).goOnRun
      cx.run ⟨false, 15, bnd, .none, false, false, false⟩))

/-- NOP, RDSR, WRSR, MSET, MGET and UMOV.LN complete with the special register, mask or lane they name. For every state and
operands that are clear: NOP changes nothing but the run's place; RDSR writes the special register's value, sr.clock in flight
and every other within its clause; WRSR writes sr.trappc whole or sr.trapcause without its reserved bits in each executing
thread, and sr.etgen, for a privileged run alone, in the block (from the first executing lane's A: the model's choice, log 88,
DESIGN CHOICE); MSET writes a pair to a mask and MGET a mask to a pair; UMOV.LN writes the value of the lane that B names
modulo the group's width, or 0 where that lane does not execute. (01 R24, 14 R344, 14 R345, 12 R298, 01 R37, 08 R182) -/
def Obligations.SpecialRegistersAndMasks : Prop :=
  ∀ (s : State) (cx : Ctx) (c : Common) (wide : Bool) (d a b : Opnd) (k : BitVec 32) (sr : SReg),
    let reg (t : Thread) : BitVec 64 := match sr with
      | .lane => BitVec.ofNat 64 t.lane
      | .gwidth => BitVec.ofNat 64 cx.launch.lr.width
      | .gid => BitVec.ofNat 64 cx.group.ref.gid
      | .bid => BitVec.ofNat 64 cx.block.idx
      | .nblk => BitVec.ofNat 64 cx.launch.lr.nblk
      | .bsize => BitVec.ofNat 64 ((cx.launch.lr.roles.map (·.groups)).sum * cx.launch.lr.width)
      | .role => BitVec.ofNat 64 cx.group.role
      | .phase => cx.block.phase.setWidth 64
      | .seed => cx.launch.lr.seed.setWidth 64
      | .det => if cx.launch.lr.det then 1 else 0
      | .tgen => s.tgen.setWidth 64
      | .etgen => cx.block.etgen.setWidth 64
      | .clock => s.clock
      | .trapcause => t.trapcause.setWidth 64
      | .trappc => t.trappc
    let here (t : Thread) : Bool := t.ref == cx.run.ref && (cx.exec c).any (·.lane == t.lane)
    let source (t : Thread) : Option Thread := (cx.exec c).find? (fun u =>
      u.lane == (readOp cx.group t k .uint false b).toNat % cx.launch.lr.width)
    (Clear (regNeed c [] []) s cx → exec (.nop c) s = .next (s.goOnRun cx.run c)) ∧
    (sr ≠ .clock → Clear (regNeed c [nm d sr.wide] []) s cx →
      exec (.rdsr c d sr) s = .next (s.wrote cx c (fun t => [⟨d, sr.wide, reg t⟩]))) ∧
    (Clear (regNeed c [nm d true] []) s cx →
      ∀ s', s.launched cx c { dst := some (d, true), vals := (cx.exec c).map (fun t => (t.lane, s.clock)) } = some s' →
        exec (.rdsr c d .clock) s = .next s') ∧
    (Clear { common := c, reads := [nm a true], recallFirst := true } s cx →
      exec (.wrsr c .trappc a k) s =
        .next ((s.modThreads here (fun t => { t with trappc := readOp cx.group t k .sint true a })).goOnRun cx.run c)) ∧
    (Clear { common := c, reads := [nm a false], recallFirst := true } s cx →
      exec (.wrsr c .trapcause a k) s = .next ((s.modThreads here (fun t =>
        { t with trapcause := loWord (readOp cx.group t k .sint false a) &&& 0xFFFF0FFF })).goOnRun cx.run c)) ∧
    (Clear { common := c, reads := [nm a false], privileged := true, recallFirst := true } s cx → ∀ t ts,
      cx.exec c = t :: ts → exec (.wrsr c .etgen a k) s = .next ((s.modBlock cx.run.ref.launch cx.run.ref.blk (fun b =>
        { b with etgen := loWord (readOp cx.group t k .sint false a) })).goOnRun cx.run c)) ∧
    (Clear { common := c, writes := [nm d false], reads := [nm a true], recallFirst := true } s cx →
      exec (.mset c d a k) s = .next (s.wrote cx c (fun t => [⟨d, true, readOp cx.group t k .sint true a⟩]))) ∧
    (Clear { common := c, writes := [nm d true], reads := [nm a false], recallFirst := true } s cx →
      exec (.mget c d a) s = .next (s.wrote cx c (fun t => [⟨d, true, readOp cx.group t 0 .uint false a⟩]))) ∧
    (Clear { common := c, writes := [nm d wide], reads := [nm b false], named := [nm a wide] } s cx →
      (∀ t ∈ cx.exec c, ∀ u, source t = some u →
        pending s.inflight u [nm a wide] = false ∧ poisoned cx.group u (nm a wide) = false) →
      exec (.umovLn c wide d a b k) s = .next (s.wrote cx c (fun t => [⟨d, wide, match source t with
        | some u => readOp cx.group u k .sint wide a
        | none => 0⟩])))

/-- TRAP traps each executing thread with SOFTWARE and the code A[15:0]; BRK with BREAKPOINT. For every state and operands that
are clear, exec of TRAP answers the next state in which every executing thread has trapped at the instruction with cause
SOFTWARE and the low 16 bits of A as the code, and exec of BRK the one in which each has trapped with cause BREAKPOINT: the
traps are their effect. (State.trapSome takes them; an ejected thread it recalls instead, which then traps.) (14 R343, 14
R337, 12 R305) -/
def Obligations.TrapAndBreakTrapTheirThreads : Prop :=
  ∀ (s : State) (cx : Ctx) (c : Common) (a : Opnd),
    (Clear (regNeed c [] [nm a false]) s cx →
      exec (.trap c a) s = .next (s.trapSome cx ((cx.exec c).map (fun t =>
        (t.lane, ⟨.software, 0, (readOp cx.group t 0 .uint false a).toNat % 65536⟩))))) ∧
    (Clear (regNeed c [] []) s cx →
      exec (.brk c) s = .next (s.trapSome cx ((cx.exec c).map (fun t => (t.lane, ⟨.breakpoint, 0, 0⟩)))))

/-- SHFL, VOTE, BALLOT, MATCH, ELECT and BXCH complete over the executing members once every named member has arrived. For every
state in which the live named members of the instruction stand at it, exec answers the next state in which each executing
member's destination holds: the source lane's value, or its own where that lane does not execute (SHFL); whether all, any, or
all or none of the members' predicates hold (VOTE); the members whose predicate holds (BALLOT); the members whose value equals
its own, or all of them if all agree and 0 if not (MATCH); whether it is the lowest member (ELECT); or its bits exchanged with
the lane that differs from it in the one bit B names (BXCH; its own value where B names no bit below the group's and the
type's width, or that lane does not execute). (09 R211, 09 R213, 09 R217, 09 R218, 09 R222) -/
def Obligations.CrossLaneMovesAndVotes : Prop :=
  ∀ (s : State) (cx cx' : Ctx) (c : Common) (wide all : Bool) (mode : ShflMode) (vote : VoteMode) (d a b e : Opnd)
      (msk : Option Opnd),
    let s' : State := s.gather cx
    let ex : List Thread := cx'.exec c
    let v (w : Bool) (o : Opnd) (t : Thread) : BitVec 64 := readOp cx'.group t 0 .sint w o
    let p (t : Thread) : Bool := (readOp cx'.group t 0 .uint false a).getLsbD 0
    let n (t : Thread) : Nat := (loWord (v false b t)).toNat
    let w : Nat := cx'.launch.lr.width
    let at_ (i : Nat) : Option Thread := ex.find? (·.lane == i)
    let source (t : Thread) : Option Thread := match mode with
      | .idx => at_ (n t % w)
      | .up => if n t ≤ t.lane then at_ (t.lane - n t) else none
      | .down => if t.lane + n t < w then at_ (t.lane + n t) else none
      | .xor => at_ (t.lane ^^^ (n t % w))
    (Gathered c [nm d wide] [nm a wide, nm b false] msk s cx cx' →
      exec (.shfl c mode wide d a b msk) s =
        .next (s'.wrote cx' c (fun t => [⟨d, wide, v wide a ((source t).getD t)⟩]))) ∧
    (Gathered c [nm d false] [nm a false] msk s cx cx' →
      exec (.vote c vote d a msk) s = .next (s'.wrote cx' c (fun _ => [⟨d, false, if (match vote with
        | .all => ex.all p
        | .any => ex.any p
        | .uni => ex.all p || !ex.any p) then 1 else 0⟩]))) ∧
    (Gathered c [nm d true] [nm a false] msk s cx cx' →
      exec (.ballot c d a msk) s =
        .next (s'.wrote cx' c (fun _ => [⟨d, true, lanesOf ((ex.filter p).map (·.lane))⟩]))) ∧
    (Gathered c [nm d true] [nm a wide] msk s cx cx' →
      exec (.matchOp c wide all d a msk) s = .next (s'.wrote cx' c (fun t => [⟨d, true,
        if all then (if ex.all (fun u => v wide a u == v wide a t) then lanesOf (ex.map (·.lane)) else 0)
        else lanesOf ((ex.filter (fun u => v wide a u == v wide a t)).map (·.lane))⟩]))) ∧
    (Gathered c [nm d false] [] msk s cx cx' →
      exec (.elect c d msk) s = .next (s'.wrote cx' c (fun t =>
        [⟨d, false, if ex.all (fun u => decide (t.lane ≤ u.lane)) then 1 else 0⟩]))) ∧
    (Gathered c [nm d wide] [nm a wide, nm b false, nm e wide] none s cx cx' →
      ∃ f : Thread → BitVec 64,
        exec (.bxch c wide d a b e) s = .next (s'.wrote cx' c (fun t => [⟨d, wide, f t⟩])) ∧
        ∀ t, (∀ i u, n t = 2 ^ i → 2 ^ i < w → 2 ^ i < (if wide then 64 else 32) → at_ (t.lane ^^^ 2 ^ i) = some u →
            f t = fit wide (if t.lane.testBit i then
                (v wide a t &&& ~~~(v wide e t <<< 2 ^ i)) ||| ((v wide a u &&& v wide e t) <<< 2 ^ i)
              else (v wide a t &&& ~~~(v wide e t)) ||| ((v wide a u >>> 2 ^ i) &&& v wide e t))) ∧
          (at_ (t.lane ^^^ n t) = none ∨ (∀ i, n t ≠ 2 ^ i) ∨ w ≤ n t ∨ (if wide then 64 else 32) ≤ n t →
            f t = fit wide (v wide a t)))

/-- GRED, GSCAN and GARG complete with the lane tree, its prefix, or the member that no other beats. For every state in which the
live named members of the instruction stand at it, exec answers the next state in which each executing member's destination
holds the lane tree of the group's values, lanes that do not execute holding the operation's identity (GRED); the tree's own
combination of the lanes below it, or up to it, a NaN as the canonical one (GSCAN; for a prefix of one lane that is the
model's choice, log 30); or the value and the index of the winner by the rule of R221 (GARG). (09 R219, 09 R220, 09 R221, 07
R164, 07 R173, 07 R175) -/
def Obligations.GroupReductionsFollowLaneTree : Prop :=
  ∀ (s : State) (cx cx' : Ctx) (c : Common) (ty : Ty) (op : RedOp) (excl nanwin hash isMin : Bool) (d a : Opnd)
      (b msk : Option Opnd),
    let s' : State := s.gather cx
    let ex : List Thread := cx'.exec c
    let val (t : Thread) : Nat := (readOp cx'.group t 0 (tyWiden ty) false a).toNat % 2 ^ (8 * ty.size)
    let lanes : List Nat := (List.range cx'.launch.lr.width).map (fun i => match ex.find? (·.lane == i) with
      | some t => val t
      | none => redIdent ty op)
    let all : List Entrant := ex.map (fun t => ⟨val t, match b with
      | some o => loWord (readOp cx'.group t 0 .sint false o)
      | none => BitVec.ofNat 32 t.lane⟩)
    let nums : List Entrant := all.filter (fun e => !(ty.isFloat && (floatFmt ty).isNan e.val))
    (Gathered c [nm d false] [nm a false] msk s cx cx' →
      exec (.gred c ty op d a msk) s = .next (s'.wrote cx' c (fun _ => [⟨d, false, BitVec.ofNat 64
        (laneTree (redTwo ty op) (redIdent ty op) cx'.launch.lr.width.log2 lanes)⟩])) ∧
      exec (.gscan c ty op excl d a msk) s = .next (s'.wrote cx' c (fun t =>
        let x := (lanePrefix (redTwo ty op) (redIdent ty op) lanes (if excl then t.lane else t.lane + 1)
          (cx'.launch.lr.width.log2 + 1) 0 none).getD (redIdent ty op)
        [⟨d, false, BitVec.ofNat 64 (if ty.isFloat && (floatFmt ty).isNan x then (floatFmt ty).canonNan else x)⟩]))) ∧
    (Gathered c [nm d true] (nm a false :: nmOpt b false) msk s cx cx' →
      ∀ w, winner ty isMin hash cx'.launch.lr.seed (if !nanwin && !nums.isEmpty then nums else all) = some w →
      exec (.garg c ty nanwin hash isMin d a b msk) s = .next (s'.wrote cx' c (fun _ => [⟨d, true, joinWords
        (BitVec.ofNat 32 (if ty.isFloat && (floatFmt ty).isNan w.val then (floatFmt ty).canonNan else w.val)) w.idx⟩])))

/-- BRA, BRX, BRA_DV and YIELD send each executing thread to its target and every other one to the next clause start. For every
state and operands that are clear and every target that is a multiple of 12 inside the code object, exec of a branch answers
the next state in which the run has ended, each executing thread stands at its target and every other thread of the run at the
next clause start; BRA_DV does the same where its minority may not be ejected, and where it may and a record that fits exists,
and none of its accesses stands in the operand log or at a peer, its minority is then ejected under that record, its writes
released first (a thread that held threads wait for is recalled at once); YIELD sends its threads on with their marks. (12
R291, 12 R292, 12 R301, 12 R302, 12 R297) -/
def Obligations.BranchesSendTheirThreads : Prop :=
  ∀ (s : State) (cx : Ctx) (c : Common) (a : Opnd) (off : BitVec 32),
    let l : LaunchRec := cx.launch.lr
    let near : BitVec 64 := cx.run.pc + off.signExtend 64
    let farOff (t : Thread) : Nat := (loWord (readOp cx.group t 0 .uint false a)).toNat
    let inCode (o : Nat) : Prop := o % 12 = 0 ∧ o < l.codesize.toNat
    let rest : List Thread := cx.threads.filter (fun t => !(cx.exec c).any (·.lane == t.lane))
    let minority : List Thread := if (cx.exec c).length ≤ rest.length then cx.exec c else rest
    let gone : State := s.leave cx c (cx.exec c) (fun t => t.goTo cx.run near)
    (Clear (regNeed c [] []) s cx → inCode (near - l.codeaddr).toNat → exec (.bra c off) s = .next gone) ∧
    (Clear (regNeed c [] [nm a false]) s cx → (∀ t ∈ cx.exec c, inCode (farOff t)) →
      exec (.brx c a) s = .next (s.leave cx c (cx.exec c) (fun t =>
        t.goTo cx.run (l.codeaddr + BitVec.ofNat 64 (farOff t))))) ∧
    (Clear (regNeed c [] []) s cx → inCode (near - l.codeaddr).toNat → cx.run.pip = true ∨ s.mayEject cx minority = false →
      exec (.braDv c off) s = .next gone) ∧
    (Clear (regNeed c [] []) s cx → inCode (near - l.codeaddr).toNat → cx.run.pip = false → s.mayEject cx minority = true →
      (∀ t ∈ minority, loggedWait s.inflight t = false ∧ s.remoteWait t = false) →
      ∀ s' e, s.findEject cx.run.core cx.launch.pasid l.ejaddr (cx.run.pc - l.codeaddr).toNat 33 0 l.ejcount.toNat =
          (s', .record e) → e.fits cx.vregs cx.sregs = true →
        ∀ u, u = ((s'.leave cx c (cx.exec c) (fun t => t.goTo cx.run near)).releaseCore cx.group.core).ejectAll cx e minority →
        exec (.braDv c off) s = .next (u.recallNamed cx.run.ref (u.awaited cx.run.ref))) ∧
    (Clear (regNeed c [] []) s cx → cx.run.pip = false →
      exec (.yield c) s = .next ((s.leave cx { c with yld := true } (cx.exec c) (fun t =>
        { t with deferred := true }.goTo cx.run (cx.run.pc + 12))).clearDeferred cx.run.ref))

/-- CALL, CALLI and CALLT store the return offset at entry d and go; RET loads the offset at entry d − 1 and goes there. For every
state and operands that are clear: where the target lies in the code object, d is below 256 and the store of the return offset
completes, exec of a call answers the next state in which each executing thread's d is one more and it stands at its target,
for CALLT the target of its bound entry; where d is above 0 and the load completes, exec of RET answers the next state in
which d is one less and the thread stands at the loaded offset. A thread in its handler at its trap depth leaves the handler
instead: it stands at its sr.trappc, a clause start or a resume point of the clause in which it trapped, d and the stack as
they were; an sr.trappc that is neither, or lies outside the code object, traps it. A meeting at which it had trapped awaits
it no longer where it goes on elsewhere (log 170, DEDUCED). (12 R293, 12 R295, 12 R294, 04 R84, 14 R341) -/
def Obligations.CallsAndReturnsUseReturnStack : Prop :=
  ∀ (s : State) (cx : Ctx) (c : Common) (a : Opnd) (off k : BitVec 32),
    let l : LaunchRec := cx.launch.lr
    let ex : List Thread := cx.exec c
    let need (reads : List Names) : Need :=
      { common := c, reads := reads, ordered := true, afterLog := true, hold := fun cx t => topoHold s cx (stackAddr t t.d) }
    let stored (s s' : State) (ts : List Thread) : Prop := ∃ res, s.accessAll cx.site false (ts.map (callReq cx)) = (s', res) ∧
      (∀ r ∈ res, r.2 = .done) ∧ s.hostBarred s' = false
    let called (s : State) (target : Thread → Nat) : State := s.leave cx c ex (fun t =>
      { t with d := t.d + 1 }.goTo cx.run (l.codeaddr + BitVec.ofNat 64 (target t)))
    let fine (t : Thread) (target : Nat) : Prop := topoTrap s cx (stackAddr t t.d) = none ∧ callTrap s cx t target = none
    let back : Need :=
      { common := c, ordered := true, afterLog := true
        hold := fun cx t => !t.handlerReturns && topoHold s cx (stackAddr t (t.d - 1)) }
    let header (t : Thread) : Bool := s.isHeader cx.launch cx.run.core t.trappc
    let inClause (t : Thread) (o : Nat) : Bool := t.trapClause.any (fun k =>
      decide ((k.hdr - l.codeaddr).toNat < o ∧ o ≤ s.clauseLast cx.launch cx.run.core k.hdr))
    let stuck (t : Thread) : Option Cause :=
      let o : Nat := (t.trappc - l.codeaddr).toNat
      if o % 12 ≠ 0 then some .misaligned else if l.codesize.toNat ≤ o then some .accessViolation
      else if header t || inClause t o then none else some .clauseForm
    (∀ s', Clear (need []) s cx → (∀ t ∈ ex, fine t (cx.run.pc + off.signExtend 64 - l.codeaddr).toNat) → stored s s' ex →
      exec (.call c off) s = .next (called s' (fun _ => (cx.run.pc + off.signExtend 64 - l.codeaddr).toNat))) ∧
    (∀ s', Clear (need [nm a false]) s cx → (∀ t ∈ ex, fine t (regOffset cx.group t a)) → stored s s' ex →
      exec (.calli c a) s = .next (called s' (fun t => regOffset cx.group t a))) ∧
    (∀ s1 s' u (target : Thread → Nat), Clear (need [nm a false]) s cx → (∀ t ∈ ex, s.remoteWait t = false) →
      (∀ t ∈ ex, topoTrap s cx (stackAddr t t.d) = none ∧ calltTrap s cx t (bindIndex cx t a k) = none) →
      (s.acquireAt cx.site true).bindings cx (fun t => bindIndex cx t a k) ex =
        (s1, ex.map (fun t => (t, .ok (.bound (target t))))) → stored s1 s' ex →
      u = s'.leave cx c ex (fun t => match ex.find? (·.lane == t.lane) with
        | some v => { t with d := t.d + 1 }.goTo cx.run (l.codeaddr + BitVec.ofNat 64 (target v))
        | none => t) →
      s.hostBarred s1 = false → s.hostBarred u = false → exec (.callt c a k) s = .next u) ∧
    (Clear back s cx → (∀ t ∈ ex, t.handlerReturns = true) →
      ((∀ t ∈ ex, stuck t = none) → exec (.ret c) s = .next ((s.goneOn cx.run.ref ex).leave cx c ex (fun t => match ex.find? (·.lane == t.lane) with
        | some v => { t with inHandler := false, pc := v.trappc, resume := if header v then none else v.trapClause }.onward cx.run
        | none => t))) ∧
      (∀ k, (∀ t ∈ ex, stuck t = some k) → exec (.ret c) s = .next (s.trapSome cx (ex.map (fun t => (t.lane, ⟨k, 0, 0⟩)))))) ∧
    (∀ s' (res : List (MemReq × Got)), Clear back s cx →
      (∀ t ∈ ex, t.handlerReturns = false ∧ topoTrap s cx (stackAddr t (t.d - 1)) = none ∧ retTrap s cx t = none ∧
        s.behindFar cx.run.ref (retReq t) = false) →
      s.accessAll cx.site true (ex.map retReq) = (s', res) → (∀ r ∈ res, ∃ x, r.2 = .val x) →
      exec (.ret c) s = .next (s'.leave cx c ex (fun t =>
        match (valsOf res).find? (·.1 == t.lane) with
        | some (_, x) => { t with d := t.d - 1 }.goTo cx.run (l.codeaddr + (loWord x).setWidth 64)
        | none => t)))

/-- EXIT, MJOIN and REJOIN: a thread exits, named threads meet, an ejected thread hands back, and their memory effects are
ordered. For every state and operands that are clear: EXIT of threads with nothing in flight, and not kept by the Proofer (log
162, DEDUCED), makes them exited, ends their regions and lets whatever awaited them look again; MJOIN, when every live named
thread has arrived, sends the executing and the held threads on behind it after a release and with an acquire, and holds them
there when one is missing, none of them having an access outstanding at a peer; REJOIN of an ejected thread with nothing in
flight hands its values back behind the instruction, and of vector-pipe threads with no thread still out under the record lets
them go on with an acquire of their core. (12 R296, 12 R299, 12 R303, 12 R304, 05 R127) -/
def Obligations.JoinsAndExitsMoveThreads : Prop :=
  ∀ (s : State) (cx : Ctx) (c : Common) (m : BitVec 3),
    let r : Run := cx.run
    let ex : List Thread := cx.exec c
    let sa : State :=
      s.arriveAgain r.ref r.pc (lanesOf ((cx.threads.filter (fun t => t.pip.isNone || !t.guard c)).map (·.lane)))
    let sj : State := if cx.threads.any (fun t => pending sa.inflight t [(.p c.guard, 1)] || (regNeed c [] []).recallsGuard t) then sa
      else sa.passBy cx c (cx.group.masks.get m.toNat)
    (Clear (regNeed c [] []) s cx → (∀ t ∈ ex, s.inFlight r.ref t.lane = false ∧ s.keptAt cx ex t = false) →
      exec (.exit c) s = .next (((s.leave cx c ex (fun t =>
        if ex.any (·.lane == t.lane) then
          { t with pc := r.pc, resume := r.resume, cond := .exited, pip := none, stepping := false }
        else t.stay r (.held (if s.inFlight r.ref t.lane then .exiting else .kept)))).endRegion r.ref (lanesOf (ex.map (·.lane)))).afterExit r.ref)) ∧
    (∀ cj : Ctx, s.ctx? = some cx → Clear { common := c, reads := [nm (.m m) false], recallFirst := true, afterLog := true } sj cj →
      (∀ t ∈ cj.exec c, (cj.group.masks.get m.toNat).getLsbD t.lane = true ∧ sj.remoteWait t = false) →
      let wide := sj.wider .grp cj.block cj.run.ref
      let missing := (sj.liveAwaited cj.run.ref cj.run.pc (cj.group.masks.get m.toNat)).filter (fun t =>
        !((cj.exec c).any (·.lane == t.lane) || joined cj.group cj.run.pc m t))
      (missing = [] → exec (.mjoin c (.m m)) s = .next ((((((sj.releaseAt cj.site wide).leave cj c (cj.exec c)
        (fun t => t.goTo cj.run (cj.run.pc + 12))).modThreads (fun t =>
          t.ref == cj.run.ref && t.cond == .held (.mjoin m) && t.pc == cj.run.pc) (·.goOn true)).stepStops).modGroup cj.run.ref
            (fun g => { g with passed := g.passed.filter (·.1 != cj.run.pc) })).acquireAt cj.site wide)) ∧
      (missing ≠ [] → exec (.mjoin c (.m m)) s = .next (((sj.releaseAt cj.site wide).leave cj c (cj.exec c)
        (fun t => t.stay cj.run (.held (.mjoin m)))).recallNamed cj.run.ref (lanesOf (missing.map (·.lane)))))) ∧
    (Clear (regNeed c [] []) s cx → r.pip = true → (∀ t ∈ ex, s.inFlight r.ref t.lane = false) →
      (∀ i, i < 12 → cx.flags.get i = 0) →
      exec (.rejoin c) s = .next (((s.leave cx c ex (fun t => t.handBack (r.pc + 12))).modGroup r.ref
        (fun g => { g with returned := !g.parked })).joinCore r.ref)) ∧
    (Clear (regNeed c [] []) s cx → r.pip = false → s.stillOut r.ref ((r.pc - cx.launch.lr.codeaddr).setWidth 32) = false →
      exec (.rejoin c) s = .next ((s.leave cx c ex (fun t => t.goTo r (r.pc + 12))).joinCore r.ref))

/-- LD and LDC go in flight with the values their accesses bring, after a promotion and before an acquire where asked for. For
every state and operands that are clear and whose checks pass: where each executing thread's access (the first thread's alone
for a uniform destination) brings a value, exec of LD, and of LDC on constant data or on the launch record in memory, answers
the next state in which the instruction is in flight with those values for its destination, the accesses made one after the
other, the acquire following them; of a record that has no place in memory (one an image brought: log 65, DEDUCED) LDC brings
the bytes admitted. (That values are bound at issue is log 36, DESIGN CHOICE; that promotion and acquire go before the read
log 41, and that LDC's alignment is asked of its offset log 64, both DEDUCED.) The addresses are base plus scaled index plus
offset. (04 R82, 04 R84, 04 R88, 04 R89, 04 R97, 01 R27, 05 R121) -/
def Obligations.LoadsBindWhatTheirAccessesBring : Prop :=
  ∀ (s : State) (cx : Ctx) (c : Common) (ty : Ty) (scale : BitVec 2) (d a : Opnd) (idx : Option Opnd) (mc : MemCtl),
    let ex : List Thread := cx.exec c
    let who : List Thread := if d.isUni then ex.take 1 else ex
    let ea (wide : Bool) (t : Thread) : BitVec 64 := readOp cx.group t 0 .uint wide a
      + (match idx with
        | some b => (loWord (readOp cx.group t 0 .uint false b)).signExtend 64 <<< scale.toNat
        | none => 0) + mc.offset.signExtend 64
    let ld (t : Thread) : MemReq := ⟨t.lane, (ea true t).setWidth 57, .load ty, 0, 0⟩
    let cst (b : BitVec 64) (t : Thread) : MemReq := ⟨t.lane, (b + ea false t).setWidth 57, .load ty, 0, 0⟩
    let place (lr : Bool) : Option (BitVec 64) := if lr then cx.launch.recAddr else some cx.launch.lr.constaddr
    let limit (lr : Bool) : Nat := if lr then cx.launch.lr.bytes.length else cx.launch.lr.constsize.toNat
    let base (reads : List Names) : Need :=
      { common := c, writes := [nm d ty.wide], reads := reads, ordered := true, afterLog := true }
    let before : State := if mc.rp then s.promote.acquireAt cx.site true else s
    let bring (s s' : State) (reqs : List MemReq) (res : List (MemReq × Got)) : Prop :=
      s.accessAll cx.site true reqs = (s', res) ∧ (∀ r ∈ res, ∃ x, r.2 = .val x) ∧ s.hostBarred s' = false
    let bound (vs : List (Nat × BitVec 64)) : Flight := { dst := some (d, ty.wide), vals := vs }
    (∀ s1 res s', Clear { base (addrNames a true idx) with hold := fun cx t => topoHold s cx (effAddr cx.group t true a idx
        scale.toNat mc.offset) } s cx →
      (∀ t ∈ ex, topoTrap s cx (ea true t) = none ∧ (ld t).va.toNat % ty.size = 0 ∧ accessTrap s cx true (ld t) = none) →
      (mc.order.isAcquire = true → ∀ t ∈ ex, s.remoteWait t = false) → bring before s1 (who.map ld) res →
      (s1.acquireAt cx.site (mc.order.isAcquire && s.wider mc.scope cx.block cx.run.ref)).launched cx c
        (bound (valsOf res)) = some s' →
      exec (.ld c ty scale d a idx mc) s = .next s') ∧
    (∀ lr b s1 res s', place lr = some b → Clear (base (addrNames a false idx)) s cx →
      (∀ t ∈ ex, (ea false t).toNat % ty.size = 0 ∧ (ea false t).toNat + ty.size ≤ limit lr ∧
        accessTrap s cx true (cst b t) = none) →
      bring s s1 (who.map (cst b)) res → s1.launched cx c (bound (valsOf res)) = some s' →
      exec (.ldc c ty lr scale d a idx mc) s = .next s') ∧
    (∀ s', cx.launch.recAddr = none → Clear (base (addrNames a false idx)) s cx →
      (∀ t ∈ ex, (ea false t).toNat % ty.size = 0 ∧ (ea false t).toNat + ty.size ≤ cx.launch.lr.bytes.length) →
      s.launched cx c (bound (ex.map (fun t =>
        (t.lane, loadValue ty (fieldAt cx.launch.lr.bytes (ea false t).toNat ty.size))))) = some s' →
      exec (.ldc c ty true scale d a idx mc) s = .next s')

/-- ST, ATOM and RED perform each executing thread's access in order, after a release and before an acquire where asked for. For
every state and operands that are clear and whose checks pass: where each executing thread's store, or its atomic without a
destination, is performed, exec answers the next state that the accesses leave, with the run going on; an ATOM with a
destination goes in flight with the old values and ends its threads' regions as it completes. In a deterministic launch an
ATOM without a destination and a RED each place one entry per thread in the flush log while the block's share and the threads'
sequence numbers allow; a RED then ends its threads' regions. (That an ATOM's old value is bound at issue is log 36, DESIGN
CHOICE; that promotion and acquire go before the accesses log 41, DEDUCED.) (04 R92, 04 R93, 04 R97, 04 R98, 04 R99, 04 R101,
04 R103, 01 R33) -/
def Obligations.StoresAndAtomicsPerformTheirAccesses : Prop :=
  ∀ (s : State) (cx : Ctx) (c : Common) (ty : Ty) (op : AtomOp) (scale : BitVec 2) (d a b : Opnd) (idx : Option Opnd)
      (mc : MemCtl),
    let ex : List Thread := cx.exec c
    let addr (t : Thread) : BitVec 64 := effAddr cx.group t true a idx scale.toNat mc.offset
    let at0 (t : Thread) : BitVec 64 := effAddr cx.group t true a none 0 mc.offset
    let st (t : Thread) : MemReq := ⟨t.lane, (addr t).setWidth 57, .store ty.size, readOp cx.group t 0 .uint ty.wide d, 0⟩
    let at_ (t : Thread) : MemReq :=
      ⟨t.lane, (at0 t).setWidth 57, .atom op ty, (atomData cx.group t op ty b).1, (atomData cx.group t op ty b).2⟩
    let need (writes reads : List Names) (ends : Bool) (ix : Option Opnd) (sc : Nat) : Need :=
      { common := c, writes := writes, reads := reads, ordered := true, afterLog := true, ends := ends
        hold := fun cx t => topoHold s cx (effAddr cx.group t true a ix sc mc.offset) }
    let quiet (x : Prop) : Prop := x → ∀ t ∈ ex, s.remoteWait t = false
    let released : State := s.releaseAt cx.site (mc.order.isRelease && s.wider mc.scope cx.block cx.run.ref)
    let before : State := if mc.rp then released.promote.acquireAt cx.site true else released
    let after (s1 : State) : State := s1.acquireAt cx.site (mc.order.isAcquire && s.wider mc.scope cx.block cx.run.ref)
    let promoted : State := if mc.rp then released.promote else released
    let ordered : State :=
      promoted.acquireAt cx.site (mc.order.isAcquire && promoted.wider mc.scope cx.block cx.run.ref)
    let detDone : Prop := ∃ s1, detAct mc.hash op ty at_ cx ex ordered = .done s1 ∧
      exec (.red c ty op a b mc) s = .next ((s1.endRegion cx.run.ref (lanesOf (ex.map (·.lane)))).goOnRun cx.run c)
    let detAtom : Prop := ∃ s1, detAct mc.hash op ty at_ cx ex ordered = .done s1 ∧
      exec (.atom c ty op (.p 15) a b mc) s = .next (s1.goOnRun cx.run c)
    (∀ s1 res, Clear (need [] (nm d ty.wide :: addrNames a true idx) false idx scale.toNat) s cx →
      (∀ t ∈ ex, topoTrap s cx (addr t) = none ∧ (st t).va.toNat % ty.size = 0 ∧ accessTrap s cx false (st t) = none) → quiet (mc.order.isRelease = true) →
      released.accessAll cx.site false (ex.map st) = (s1, res) → (∀ r ∈ res, r.2 = .done) → released.hostBarred s1 = false →
      exec (.st c ty scale d a idx mc) s = .next (s1.goOnRun cx.run c)) ∧
    (∀ s1 res, cx.launch.lr.det = false → Clear (need [] [nm a true, atomNames op ty b] false none 0) s cx →
      (∀ t ∈ ex, topoTrap s cx (at0 t) = none ∧ (at_ t).va.toNat % ty.size = 0 ∧ accessTrap s cx false (at_ t) = none) → quiet (mc.order ≠ .weak) →
      before.accessAll cx.site false (ex.map at_) = (s1, res) → (∀ r ∈ res, ∃ x, r.2 = .val x) →
      before.hostBarred s1 = false →
      exec (.atom c ty op (.p 15) a b mc) s = .next ((after s1).goOnRun cx.run c) ∧
      exec (.red c ty op a b mc) s = .next ((after s1).goOnRun cx.run c)) ∧
    (∀ s1 res s', cx.launch.lr.det = false → d ≠ .p 15 →
      Clear (need [nm d ty.wide] [nm a true, atomNames op ty b] false none 0) s cx →
      (∀ t ∈ ex, topoTrap s cx (at0 t) = none ∧ (at_ t).va.toNat % ty.size = 0 ∧ accessTrap s cx true (at_ t) = none) → quiet (mc.order ≠ .weak) →
      before.accessAll cx.site true ((if d.isUni then ex.take 1 else ex).map at_) = (s1, res) →
      (∀ r ∈ res, ∃ x, r.2 = .val x) → before.hostBarred s1 = false →
      (after s1).launched cx c { dst := some (d, ty.wide), vals := valsOf res, ends := true } = some s' →
      exec (.atom c ty op d a b mc) s = .next s') ∧
    (cx.launch.lr.det = true → cx.block.detUsed + ex.length ≤ detShare cx.launch.lr → (∀ t ∈ ex, t.seq + 1 < 2 ^ 24) →
      (∀ t ∈ ex, topoTrap s cx (at0 t) = none ∧ ((at0 t).setWidth 57).toNat % ty.size = 0 ∧
        aperture ((at0 t).setWidth 57).toNat = none) → quiet (mc.order ≠ .weak) →
      (Clear (need [] [nm a true, atomNames op ty b] true none 0) s cx → detDone) ∧
      (Clear (need [] [nm a true, atomNames op ty b] false none 0) s cx → detAtom))

/-- LDSP and STSP complete at once where their lines are present, and go in flight until these have landed where not. For every
state and operands that are clear, with every offset aligned and inside the block's scratchpad and no word of a present line
poisoned under it: exec of LDSP writes the loaded values of the lanes whose line is present on the thread's own core, with no
earlier store of the thread in flight on the bytes, within the clause; where lanes are left, it goes in flight for them with
the lines and the offsets it awaits, and what has landed already is bound. STSP stores in ascending lane order where every
line is present and no earlier scratchpad access of the thread is in flight on the bytes; where a line it writes is absent, it
goes in flight with the lines and the data it awaits. With no error in the storage a store changes the block's bytes alone.
(04 R88, 04 R90, 04 R92, 04 R94, 06 R141) -/
def Obligations.ScratchpadAccessesComplete : Prop :=
  ∀ (s : State) (cx : Ctx) (c : Common) (ty : Ty) (scale : BitVec 2) (d a : Opnd) (idx : Option Opnd) (mc : MemCtl),
    let ex : List Thread := cx.exec c
    let r : GroupRef := cx.run.ref
    let ea (t : Thread) : Nat := (effAddr cx.group t false a idx scale.toNat mc.offset).toNat
    let inside (t : Thread) : Prop := ea t % ty.size = 0 ∧ ea t + ty.size ≤ cx.launch.lr.scratchBytes
    let data : List (Nat × Nat × BitVec 64) := ex.map (fun t => (t.lane, ea t, readOp cx.group t 0 .uint ty.wide d))
    let absent (ts : List Thread) : List Nat := ((ts.map (fun t => ea t / 128)).filter cx.block.lineAbsent).eraseDups
    let who : List Thread := if d.isUni then ex.take 1 else ex
    let now : List Thread := who.filter (fun t => !parked s cx ty t.lane (ea t))
    let wait : List Thread := who.filter (fun t => parked s cx ty t.lane (ea t))
    let vals : List (Nat × BitVec 64) := now.map (fun t => (t.lane, loadValue ty (cx.block.scratch.le (ea t) ty.size)))
    let s1 : State := s.writeAll r now (fun t => [⟨d, ty.wide, (vals.lookup t.lane).getD 0⟩])
    let s2 : State := s1.acquireAt cx.site (mc.order.isAcquire && s1.wider mc.scope cx.block r)
    (Clear { common := c, writes := [nm d ty.wide], reads := addrNames a false idx, ordered := true } s cx →
      (mc.order.isAcquire = true → ∀ t ∈ ex, s.remoteWait t = false) →
      (∀ t ∈ ex, inside t ∧ (cx.block.lineAbsent (ea t / 128) = true ∨ stspAhead s.inflight r t.lane (ea t) ty.size = true ∨
        cx.block.poisonedRange (ea t) ty.size = false)) →
      (wait = [] → exec (.ldsp c ty scale d a idx mc) s = .next (s2.goOnRun cx.run c)) ∧
      (wait ≠ [] → ∀ id s', s2.fly cx c (lanesOf (wait.map (·.lane)))
          { dst := some (d, ty.wide), wait := .ldsp ty (absent wait) (wait.map (fun t => (t.lane, ea t)))
            fences := mc.order.isAcquire, acq := if mc.order.isAcquire then some mc.scope else none } = some (id, s') →
        exec (.ldsp c ty scale d a idx mc) s = .next ((s'.settle r.launch r.blk [] s'.inflight).goOnRun cx.run c))) ∧
    (Clear { common := c, reads := nm d ty.wide :: addrNames a false idx, ordered := true, afterLog := mc.order.isRelease } s cx →
      (mc.order.isRelease = true → ∀ t ∈ ex, s.remoteWait t = false) → (∀ t ∈ ex, inside t) →
      ∀ u, u = s.releaseAt cx.site (mc.order.isRelease && s.wider mc.scope cx.block r) →
      ((∀ t ∈ ex, cx.block.lineAbsent (ea t / 128) = false ∧ stspAhead u.inflight r t.lane (ea t) ty.size = false ∧
          ldspAhead u.inflight r t.lane (ea t) ty.size = false) →
        exec (.stsp c ty scale d a idx mc) s = .next
          ((u.putSp r.launch r.blk (data.map (fun x => (x.2.1, leBytes x.2.2.toNat ty.size)))).goOnRun cx.run c)) ∧
      (absent ex ≠ [] → ∀ s', u.launched cx c { wait := .stsp ty.size (absent ex) data } = some s' →
        exec (.stsp c ty scale d a idx mc) s = .next s')) ∧
    (∀ l b (ws : List (Nat × List Byte)), s.damage = [] →
      s.putSp l b ws = s.modBlock l b (fun x => ws.foldl (fun x w => x.put w.1 w.2) x))

/-- FENCE makes its release, its promotion and its acquire in that order; PREF prefetches each executing thread's line. For every
state and operands that are clear, exec of FENCE, where no access of its threads is outstanding at a peer, answers the next
state after the release half, the promotion and the acquire half that it asks for, at its scope; exec of PREF the one in which
each executing thread's line has been prefetched where that is possible without a fault. (04 R95, 04 R96, 04 R97, 05 R121, 05
R127) -/
def Obligations.FencesAndPrefetchesComplete : Prop :=
  ∀ (s : State) (cx : Ctx) (c : Common) (rp slice : Bool) (scope : Scope) (order : Order) (a : Opnd) (idx : Option Opnd)
      (off : BitVec 24),
    let wide : Bool := s.wider scope cx.block cx.run.ref
    (Clear { common := c, ordered := true, afterLog := true } s cx → (∀ t ∈ cx.exec c, s.remoteWait t = false) →
      exec (.fence c rp scope order) s = .next
        (let s1 := if order.isRelease then s.releaseAt cx.site wide else s
        let s2 := if rp then s1.promote else s1
        (if order.isAcquire then s2.acquireAt cx.site wide else s2).goOnRun cx.run c)) ∧
    (Clear { common := c, reads := addrNames a true idx, ordered := true, afterLog := true, noPoison := true } s cx →
      exec (.pref c slice a idx off) s = .next (((cx.exec c).foldl (fun s t => s.prefetch cx.site slice
        ((effAddr cx.group t true a idx 0 off).setWidth 57).toNat) s).goOnRun cx.run c))

/-- On sound memory a load brings the bytes at its address, a store or an atomic leaves its own there, and every other byte reads
as before. An instruction's accesses are made one at a time in the order given, a store of the low bytes of its value. For
every site and address of main memory whose translation succeeds, with no error in the storage: a store that finds its line in
the L1, or room for it, changes that line alone, which then holds the bytes, dirty, and every other byte as before; a store
that must evict leaves the same, and changes main memory only in lines some L1 held (their write-backs). A full aligned store
is read back by the next load. A load of held bytes brings them and changes nothing; one that fetches brings memory's, nothing
poisoned, and changes memory only so; an ejected thread reads and writes home. An atomic brings the old value and leaves the
new one at home; a failing cas leaves it. (04 R84, 04 R89, 04 R91, 04 R93, 04 R98, 04 R99, 02 R53, 02 R55, 05 R127, 03 R74) -/
def Obligations.AccessesReadAndWriteTheirBytes : Prop :=
  (∀ (s : State) (w : Site) (r : Bool) (q : MemReq) (qs : List MemReq),
    s.accessAll w r [] = (s, []) ∧
    s.accessAll w r (q :: qs) = (((s.accessOne w r q).1.accessAll w r qs).1,
      (q, (s.accessOne w r q).2) :: ((s.accessOne w r q).1.accessAll w r qs).2) ∧
    (aperture q.va.toNat = none → (∀ n, q.op = .store n → s.accessOne w r q = s.storeAt w q.va.toNat (leBytes q.v.toNat n)) ∧
      (∀ op ty, q.op = .atom op ty → s.accessOne w r q = s.atomAt w q.va.toNat op ty q.v q.cmp r) ∧
      (∀ ty t x, q.op = .load ty → q.va.toNat % ty.size = 0 → s.loadPart w q.va.toNat ty.size = (t, .ok (x, false)) →
        s.accessOne w r q = (t, .val (loadValue ty x))))) ∧
  (∀ (l : L1Line) (off i : Nat) (bs : List Byte), l.bytes.wf = true → off + bs.length ≤ 128 →
    (l.store off bs).bytes.bytes off bs.length = bs ∧ (l.store off bs).bytes.wf = true ∧
    (i < off ∨ off + bs.length ≤ i → (l.store off bs).bytes.get i = l.bytes.get i ∧
      (l.store off bs).dirty.getLsbD i = l.dirty.getLsbD i ∧ (l.store off bs).valid.getLsbD i = l.valid.getLsbD i) ∧
    (off ≤ i → i < off + bs.length → (l.store off bs).dirty.getLsbD i = true ∧ (l.store off bs).valid.getLsbD i = true) ∧
    { l.store off bs with bytes := l.bytes, valid := l.valid, dirty := l.dirty, poison := l.poison, part := l.part } = l) ∧
  (∀ (s s1 : State) (w : Site) (va n pa : Nat) (bs : List Byte) (wp seen : Bool),
    let off : Nat := va % 128
    let put (t : State) (p : Nat) : State :=
      { t with
        l1 := modify (fun x => x.core == w.core && x.pline == p)
          (fun x => if x.is w.core w.pasid va then L1Line.store { x with wperm := true, seen := true } off bs else x) t.l1 }
    let inL1 (t : State) (a : Nat) : Prop := ∃ x ∈ t.l1, x.pline = lineOf a
    let fresh (ok d : Bool) : L1Line := ⟨w.core, w.pasid, lineOf va, lineOf pa, [], 0, 0, 0, 0, 0, ok, d⟩
    n = bs.length → 0 < n → off + n ≤ 128 →
    (w.pip = false → s.damage = [] → s.LinesFit → ∀ l, s.l1? w.core w.pasid va = some l →
      (l.wperm = true → l.seen = true → s.storeAt w va bs = (put s l.pline, .done)) ∧
      (l.holds off n = true → l.poison &&& lineWords off n = 0 →
        s.loadPart w va n = (s, .ok (leNat (l.bytes.bytes off n), false)))) ∧
    (w.pip = false → (s.l1? w.core w.pasid va).filter (fun l => l.wperm && l.seen) = none →
      s.translate w.cluster w.pasid va .write (!w.agent) = (s1, .ok pa wp seen) → inHost pa = false → pa % 128 = off →
      s1.damage = [] → s1.LinesFit →
      (∀ l, s1.l1? w.core w.pasid va = some l → l.pline = lineOf pa → s.storeAt w va bs = (put s1 (lineOf pa), .done)) ∧
      (s1.l1? w.core w.pasid va = none → (∀ x ∈ s1.l1, x.core = w.core → x.pline ≠ lineOf pa) →
        (s1.l1.filter (·.core == w.core)).length < 1536 →
        s.storeAt w va bs = ({ s1 with l1 := (fresh true true).store off bs :: s1.l1 }, .done)) ∧
      ∃ t l, s.storeAt w va bs = (t, .done) ∧ t.damage = [] ∧ t.l1? w.core w.pasid va = some l ∧ l.pline = lineOf pa ∧
        l.bytes.bytes off n = bs ∧ (∀ i, i < n → l.dirty.getLsbD (off + i) = true) ∧
        (∀ a, ¬ inL1 s1 a → t.mem.get a = s1.mem.get a) ∧
        (n = 4 ∨ n = 8 → va % n = 0 → t.loadPart w va n = (t, .ok (leNat bs, false)))) ∧
    (w.pip = true → s.translate w.cluster w.pasid va .write (!w.agent) = (s1, .ok pa wp seen) → inHost pa = false → pa % 128 = off →
      s1.damage = [] → s1.LinesFit → s1.memWf = true →
      ∃ t, s.storeAt w va bs = (t, .done) ∧ t.mem.bytes pa n = bs ∧
        ∀ a, a < pa ∨ pa + n ≤ a → ¬ inL1 s1 a → t.mem.get a = s1.mem.get a) ∧
    ((s.l1? w.core w.pasid va).filter (·.holds off n) = none ∨ w.pip = true →
      s.translate w.cluster w.pasid va .read (!w.agent) = (s1, .ok pa wp seen) → inHost pa = false → pa % 128 = off →
      s1.Sound → s1.LinesFit → ¬ inL1 s1 pa →
      ∃ t, s.loadPart w va n = (t, .ok (s1.mem.le pa n, false)) ∧ t.Sound ∧
        ∀ a, ¬ inL1 s1 a → t.mem.get a = s1.mem.get a)) ∧
  (∀ (s s1 s2 : State) (w : Site) (va pa p2 : Nat) (op : AtomOp) (ty : Ty) (v cmp : BitVec 64) (result wp wp2 seen seen2 : Bool),
    let n : Nat := ty.size
    let inL1 (t : State) (a : Nat) : Prop := ∃ x ∈ t.l1, x.pline = lineOf a
    let old (t : State) (a : Nat) : BitVec 64 := BitVec.ofNat 64 (t.mem.le a n)
    s.translate w.cluster w.pasid va .write (!w.agent) = (s2, .ok p2 wp2 seen2) → inHost p2 = false →
    p2 % 128 = va % 128 → va % n = 0 → s2.Sound → s2.LinesFit → s2.memWf = true → ¬ inL1 s2 p2 →
    (op ≠ .cas ∨ (s.translate w.cluster w.pasid va .read (!w.agent) = (s1, .ok pa wp seen) ∧ inHost pa = false ∧
        pa % 128 = va % 128 ∧ s1.Sound ∧ s1.LinesFit ∧ ¬ inL1 s1 pa ∧ old s1 pa = cmp) →
      ∃ t, s.atomAt w va op ty v cmp result = (t, .val (old s2 p2)) ∧
        t.mem.le p2 n = (atomNew op ty (old s2 p2) v cmp).toNat % 2 ^ (8 * n) ∧
        ∀ a, a < p2 ∨ p2 + n ≤ a → ¬ inL1 s2 a → t.mem.get a = s2.mem.get a) ∧
    (∀ (s3 : State) (p3 : Nat), op = .cas → s.translate w.cluster w.pasid va .read (!w.agent) = (s1, .ok pa wp seen) →
      inHost pa = false → pa % 128 = va % 128 → s1.Sound → s1.LinesFit → ¬ inL1 s1 pa → old s1 pa ≠ cmp →
      s1.translate w.cluster w.pasid va .write (!w.agent) = (s3, .ok p3 wp2 seen2) →
      ∃ t, s.atomAt w va op ty v cmp result = (t, .val (old s1 pa)) ∧ t.Sound ∧
        ∀ a, ¬ inL1 s1 a → t.mem.get a = s1.mem.get a))

/-- ACOPY and DCMP, when they may be issued, enter their command, clear their lines' presence and hand out a handle. For every
state and operands in which the command may be issued and asks nothing of the host that it may not ask: exec of ACOPY answers
the next state with the copy entered, its scratchpad lines absent, its handle written and its class counted, and exec of DCMP
the one with the job entered. As a command begins, a copy with a barrier takes the tag that its object holds, and a job the
card's fields, the card marked RUNNING; a place outside memory fails either (log 62, DEDUCED), and a page fault is reported
and holds it (log 66, DEDUCED). (06 R132, 06 R137, 06 R139, 06 R141, 06 R144, 06 R145, 06 R146, 05 R123) -/
def Obligations.CopyEngineCommandsEnter : Prop :=
  (∀ (s : State) (cx : Ctx) (c : Common) (cb sp : Bool) (dims : BitVec 2) (dir : CopyDir) (d a : Opnd) (bar : Option Opnd)
      (h : BitVec 64) (b : Block),
    let n : Nat := 5 + 3 * dims.toNat
    let desc : List (BitVec 32) := descOf cx.group a n
    let copy : CmdNeed := { common := c, d := d, reads := (a, n) :: nmOpt bar true, roles := [1, 0], cls := .copy }
    let obj : Option Nat := bar.map (fun o => pairWord (descOf cx.group o 2) 0)
    let k : CopyDesc := CopyDesc.of dims desc
    let lines : List Nat := if dir = .sp2g ∨ dir = .g2wb then [] else k.linesOf (List.range k.chunks)
    let reserves : Bool := obj.isSome && (cx.exec c).any (·.region.isSome)
    let job : CmdNeed := { common := c, d := d, reads := [nm a (!sp)], roles := [1, 0], cls := .copy }
    let card : Nat := if sp then word (descOf cx.group a 1) 0 else pairWord (descOf cx.group a 2) 0
    (Issuable copy (acopyTrap s cx (cx.exec c) k dir obj) (s.queueFull cx.group.core 0) s cx h b →
      ∀ e, e = (let s1 := (s.readied copy cx b).clearLines cx.run.ref.launch cx.run.ref.blk lines
        let s2 := if reserves then s1.modBlock cx.run.ref.launch cx.run.ref.blk (fun b => { b with reserved := b.reserved + 1 })
          else s1
        s2.addCmd cx (cx.exec c) (.copy dims dir (obj.map (fun o => (BitVec.ofNat 64 o, 0)))) desc h lines obj.isSome) →
      s.hostBarred (e.2.beginCmd e.1) = false →
      exec (.acopy c cb dims dir d a bar) s = .next ((e.2.beginCmd e.1).handed copy cx h)) ∧
    (card % 64 = 0 → rangeBad cx.launch.lr sp card 64 = false →
      Issuable job none (s.queueFull cx.group.core 1) s cx h b →
      ∀ e, e = (s.readied job cx b).addCmd cx (cx.exec c) (.dcmp sp (BitVec.ofNat 64 card)) [] h [] true →
      s.hostBarred (e.2.beginCmd e.1) = false →
      exec (.dcmp c sp d a) s = .next ((e.2.beginCmd e.1).handed job cx h))) ∧
  (∀ (s : State) (c : Cmd) (l : Launch) (w : EngSite), s.cmd? c.id = some c → s.launch? c.ref.launch = some l →
    w = ⟨c.ref.launch, c.ref.blk, c.core, l.pasid⟩ →
    (c.early = false → s.beginCmd c.id = s) ∧
    (c.early = true → c.failed = false → c.faulted = [] →
      (∀ dims dir obj t0, c.kind = .copy dims dir (some (obj, t0)) → ∀ s1 x, s.readTag w obj.toNat = (s1, x) →
        (∀ tag, x = .ok (tag, false) → s.beginCmd c.id =
          s1.modCmd c.id (fun c => { c with kind := .copy dims dir (some (obj, tag)), early := false })) ∧
        (x = .bad → s.beginCmd c.id = s1.modCmd c.id (fun c => { c with failed := true })) ∧
        (∀ f va, x = .fault f va → s.beginCmd c.id = s1.chunkFault c l.pasid 0 f va)) ∧
      (∀ sp card, c.kind = .dcmp sp card → ∀ s1 x, s.openCard w sp card.toNat = (s1, x) →
        (∀ bs, x = .ok (bs, false) → s.beginCmd c.id =
          (s1.modCmd c.id (fun c => { c with
            desc := (List.range 16).map (fun i => BitVec.ofNat 32 (fieldAt bs (4 * i) 4)), early := false })).jobLines c
            ((Card.ofBytes bs).outLines l.lr)) ∧
        (x = .bad → s.beginCmd c.id = s1.modCmd c.id (fun c => { c with failed := true })) ∧
        (∀ f va, x = .fault f va → s.beginCmd c.id = s1.chunkFault c l.pasid 0 f va))))

/-- FWAIT and WAITC go in flight on their handle or count, FTEST answers and acquires, FCANCEL requests cancellation. For every
state and operands that are clear: FWAIT goes in flight waiting for each thread's handle, WAITC for its class's count to be at
most A, later ordered instructions waiting for it (R136 says so of WAITC; of FWAIT it is log 34, DEDUCED); FTEST writes
whether each thread's handle is stale or complete and acquires where one is (the scope where classes differ is log 73,
DEDUCED); FCANCEL requests the cancellation of each thread's pending command. (06 R133, 06 R134, 06 R135, 06 R136, 05 R123, 05
R124) -/
def Obligations.HandlesAreWaitedTestedCancelled : Prop :=
  ∀ (s s' : State) (cx : Ctx) (c : Common) (scope : Scope) (cls : EngClass) (d a : Opnd),
    let ex : List Thread := cx.exec c
    let h (t : Thread) : BitVec 64 := readOp cx.group t 0 .uint false a
    let hs : List (Nat × BitVec 64) := ex.map (fun t => (t.lane, h t))
    let over_ : Scope := if hs.all (fun x => EngClass.ofHandle x.2 == .matrix) then .blk else .sys
    let ready (t : Thread) : Bool := cx.block.stale (h t) || !cx.block.pendingHandle (h t)
    (Clear { common := c, writes := [nm d false], reads := [nm a false], recallFirst := true } s cx →
      (s.launched cx c { dst := some (d, false), wait := .handle hs, fences := true, acq := some over_ } = some s' →
        exec (.fwait c d a) s = .next s') ∧
      exec (.ftest c d a) s = .next
        (let s1 := s.writeAll cx.run.ref ex (fun t => [⟨d, false, if ready t then 1 else 0⟩])
        (if ex.any ready then s1.acquireAt cx.site (s1.wider over_ cx.block cx.run.ref) else s1).goOnRun cx.run c)) ∧
    (Clear { common := c, reads := [nm a false], recallFirst := true } s cx →
      exec (.fcancel c a) s = .next ((ex.foldl (fun s t => match s.block? cx.block.launch cx.block.idx with
        | some b => if b.stale (h t) || !b.pendingHandle (h t) then s else s.cancelHandle b (h t)
        | none => s) s).goOnRun cx.run c) ∧
      ∀ t rest, ex = t :: rest →
        s.launched cx c { wait := .count cls (loWord (h t)), fences := true, acq := some scope } = some s' →
        exec (.waitc c scope cls a) s = .next s')

/-- QPUSH and QPOP join their queue's waiters and are served in order; the QTRY forms tell what they did at once. For every state
and operands that are clear, with a declared queue and room for the selected flag: QPUSH and QPOP go in flight, join the
queue's waiters in order of arrival, and the queue is served; threads inside a region go on, those outside any are held until
their operation completes (that later ordered instructions wait for a QPOP too is log 34, DEDUCED); QTRY pushes or pops for
each executing thread in turn, meeting no poisoned entry, and writes what it did. Pushes wait until none of their threads has
an access outstanding at a peer. (06 R149, 06 R150, 06 R151, 01 R33) -/
def Obligations.QueueInstructionsServeInOrder : Prop :=
  ∀ (s : State) (cx : Ctx) (c : Common) (d a b e : Opnd),
    let ex : List Thread := cx.exec c
    let lanes : BitVec 64 := lanesOf (ex.map (·.lane))
    let out : BitVec 64 := lanesOf ((ex.filter (·.region.isNone)).map (·.lane))
    let r : GroupRef := cx.run.ref
    let q : Nat := queueOf cx a
    let need (w rd : List Names) (ends : Bool) : Need :=
      { common := c, writes := w, reads := rd, recallFirst := true, ordered := true, afterLog := true, ends := ends }
    let vals : List (Nat × BitVec 64) := ex.map (fun t => (t.lane, readOp cx.group t 0 .uint true b))
    let released : State := s.releaseAt cx.site (s.wider .blk cx.block r)
    let quiet : Prop := ∀ t ∈ ex, s.remoteWait t = false
    let goes (x : Out) (s2 : State) (id : Nat) : Prop :=
      (out = 0 → x = .next (s2.goOnRun cx.run c)) ∧ (out ≠ 0 → x = .next (s2.holdSome cx c out (.inflight id c.bnd)))
    q < cx.block.queues.length →
    (Clear (need [] [nm a false, nm b true] false) s cx → quiet → ∀ id s1,
      released.fly cx c lanes { wait := .push q vals, fences := true, ends := true } = some (id, s1) →
      goes (exec (.qpush c a b) s) ((s1.modBlock r.launch r.blk (·.modQueue q (fun q =>
        { q with pushers := q.pushers ++ [id] }))).settleQueue r.launch r.blk q) id) ∧
    (Clear (need [nm d true] [nm a false] false) s cx → ∀ id s1,
      s.fly cx c lanes { dst := some (d, true), wait := .pop q, fences := true, acq := some .blk, ends := true } = some (id, s1) →
      goes (exec (.qpop c d a) s) ((s1.modBlock r.launch r.blk (·.modQueue q (fun q =>
        { q with poppers := q.poppers ++ [id] }))).settleQueue r.launch r.blk q) id) ∧
    (Clear (need [nm d false] [nm a false, nm b true] true) s cx → quiet → ∀ s1 l, released.tryPushes cx q vals = (s1, l) →
      exec (.qtryPush c d a b) s = .next (((s1.writeAll r ex (fun t =>
        [⟨d, false, if l.contains (t.lane, true) then 1 else 0⟩])).endRegion r lanes).goOnRun cx.run c)) ∧
    (e.isUni = false → Clear (need [nm d false, nm e true] [nm a false] true) s cx →
      ∀ s1 l, s.tryPops cx q (ex.map (·.lane)) = (s1, l, none) →
      exec (.qtryPop c d a e) s = .next (
        let s2 := s1.writeAll r ex (fun t => match l.find? (·.1 == t.lane) with
          | some (_, x) => [⟨d, false, 1⟩, ⟨e, true, x⟩]
          | none => [⟨d, false, 0⟩])
        ((if l.isEmpty then s2 else s2.acquireAt cx.site (s2.wider .blk cx.block r)).endRegion r lanes).goOnRun cx.run c)) ∧
    (e.isUni = true → Clear (need [nm d false, nm e true] [nm a false] true) s cx →
      (∀ s1 x i, s.tryPops cx q ((ex.take 1).map (·.lane)) = (s1, [(i, x)], none) →
        exec (.qtryPop c d a e) s = .next (
          let s2 := (s1.writeAll r ex (fun _ => [⟨d, false, 1⟩])).modGroup r (·.write e true x)
          ((s2.acquireAt cx.site (s2.wider .blk cx.block r)).endRegion r lanes).goOnRun cx.run c)) ∧
      (∀ s1, s.tryPops cx q ((ex.take 1).map (·.lane)) = (s1, [], none) →
        exec (.qtryPop c d a e) s =
          .next (((s1.writeAll r ex (fun _ => [⟨d, false, 0⟩])).endRegion r lanes).goOnRun cx.run c)))

/-- MRES answers whether its block got the pair, MREL waits for its commands, MZERO queues, MCOMMIT commits in its place. For
every state and operands that are clear for a matrix role: MRES goes in flight with 1 where the block holds the pair or the
pair was free, which it then takes, and 0 otherwise; MREL goes in flight until the reservation's commands are done; MZERO,
with a reservation and room in the queue, enters its command after the release of its issue and is counted; MCOMMIT enters the
queue of a reservation, and without one commits the block's tiles at once, its threads outside any region held until it
completes. (10 R227, 10 R228, 10 R229, 10 R241) -/
def Obligations.MatrixReservationAndCommit : Prop :=
  ∀ (s s' : State) (cx : Ctx) (c : Common) (d : Opnd),
    let ex : List Thread := cx.exec c
    let lanes : BitVec 64 := lanesOf (ex.map (·.lane))
    let out : BitVec 64 := lanesOf ((ex.filter (·.region.isNone)).map (·.lane))
    let r : GroupRef := cx.run.ref
    let me : Nat × Nat := (cx.block.launch, cx.block.idx)
    let need (w : List Names) (roles : Option (List Nat)) : Need :=
      { common := c, writes := w, roles := roles, recallFirst := true, ordered := true, afterLog := true }
    let ans (x : BitVec 64) : Flight := { dst := some (d, false), vals := ex.map (fun t => (t.lane, x)) }
    let goes (x : Out) (s2 : State) (id : Nat) : Prop :=
      (out = 0 → x = .next (s2.goOnRun cx.run c)) ∧ (out ≠ 0 → x = .next (s2.holdSome cx c out (.inflight id c.bnd)))
    (Clear (need [nm d false] (some [2, 0])) s cx → ∀ p, s.pair? cx.block.pair = some p →
      (p.holder = some me → s.launched cx c (ans 1) = some s' → exec (.mres c d) s = .next s') ∧
      (p.holder = none → (s.grantPair cx.block.pair me.1 me.2).launched cx c (ans 1) = some s' →
        exec (.mres c d) s = .next s') ∧
      (∀ x, p.holder = some x → x ≠ me → s.launched cx c (ans 0) = some s' → exec (.mres c d) s = .next s')) ∧
    (Clear (need [] (some [2, 0])) s cx → s.launched cx c { wait := .drain, fences := true } = some s' →
      exec (.mrel c) s = .next s') ∧
    (Clear (need [nm d false] (some [2, 0])) s cx → s.holdsPair cx = true → pairFull s cx = false →
      (∀ t ∈ ex, s.remoteWait t = false) → ∀ i, d = .a i →
      exec (.mzero c d) s = .next ((((s.releaseAt cx.site (s.wider .blk cx.block r)).enqueueMatrix cx ex (.mzero i) [] 0
        []).countCmd r .matrix true).goOnRun cx.run c)) ∧
    (Clear (need [] none) s cx → s.holdsPair cx = true → pairFull s cx = false → ∀ id s1,
      s.fly cx c lanes { wait := .commit, fences := true, ends := true } = some (id, s1) →
      goes (exec (.mcommit c) s) (s1.enqueueMatrix cx ex (.mcommit id) [] 0 []) id) ∧
    (Clear (need [] none) s cx → s.holdsPair cx = false → ∀ id s1,
      s.fly cx c lanes { vals := ex.map (fun t => (t.lane, 0)), fences := true, ends := true } = some (id, s1) →
      goes (exec (.mcommit c) s) (s1.modBlock r.launch r.blk (·.commit)) id)

/-- MLDW, MMA, MMAS and MST, when they may be issued, enter the pair's queue with their descriptor and hand out a handle. For
every state and operands in which the command may be issued, with a reservation and a slot that suits it, exec answers the
next state with the command in the pair's queue, its descriptor read, its handle written and its class counted (where its
release asks nothing of the host that it may not ask); MST also clears the presence of the scratchpad lines its rows cover.
(10 R229, 10 R234, 10 R236, 10 R238, 10 R239, 10 R240, 06 R132) -/
def Obligations.MatrixCommandsEnterTheirQueue : Prop :=
  ∀ (s : State) (cx : Ctx) (c : Common) (slot : BitVec 3) (ty : Ty) (bias rs : Bool) (rm : Rm) (d a b : Opnd) (h : BitVec 64)
      (k : Block) (i : BitVec 5),
    let ex : List Thread := cx.exec c
    let sl : Slot := cx.launch.lr.slot slot
    let base (reads : List Names) (bad : Bool) (pre : Ctx → Thread → Option Trap) : CmdNeed :=
      { common := c, d := d, reads := reads, roles := [2, 0], cls := .matrix, formBad := bad
        wide := fun cx => s.wider .blk cx.block cx.run.ref, pre := pre }
    let ld : CmdNeed := base [(a, 3)] (sl.afmt == .none || sl.bfmt == .none) (reservedTrap s)
    let mm (sparse : Bool) : CmdNeed :=
      base [(b, 5), (.a i, 1)] (sl.afmt == .none || (sl.sparse != 0) != sparse) (tileTrap s (.a i))
    let st : CmdNeed := base [(b, 4), (.a i, 1)] false (reservedTrap s)
    let rows : List Nat := mstLines ty (descOf cx.group b 4)
    (Issuable ld (mldwTrap cx sl (descOf cx.group a 3)) (pairFull s cx) s cx h k →
      ∀ u, u = ((s.readied ld cx k).clearLines cx.run.ref.launch cx.run.ref.blk []
        |>.enqueueMatrix cx ex (.mldw slot) (descOf cx.group a 3) h []) → s.hostBarred u = false →
        exec (.mldw c slot d a) s = .next (u.handed ld cx h)) ∧
    (Issuable (mm false) (mmaTrap cx sl false (descOf cx.group b 5)) (pairFull s cx) s cx h k →
      ∀ u, u = ((s.readied (mm false) cx k).enqueueMatrix cx ex (.mma slot false i)
        (descOf cx.group b 5) h []) → s.hostBarred u = false →
        exec (.mma c slot d (.a i) b) s = .next (u.handed (mm false) cx h)) ∧
    (Issuable (mm true) (mmaTrap cx sl true (descOf cx.group b 5)) (pairFull s cx) s cx h k →
      ∀ u, u = ((s.readied (mm true) cx k).enqueueMatrix cx ex (.mma slot true i)
        (descOf cx.group b 5) h []) → s.hostBarred u = false →
        exec (.mmas c slot d (.a i) b) s = .next (u.handed (mm true) cx h)) ∧
    (Issuable st (mstTrap cx ty bias rs (descOf cx.group b 4)) (pairFull s cx) s cx h k →
      ∀ u, u = (((s.readied st cx k).clearLines cx.run.ref.launch cx.run.ref.blk
        rows).enqueueMatrix cx ex (.mst ty bias rs rm i) (descOf cx.group b 4) h rows) → s.hostBarred u = false →
        exec (.mst c ty bias rs rm d (.a i) b) s = .next (u.handed st cx h))

/-- BAR, BARA, BARW, WBAR and FLUSHPT arrive and hold their threads, or let pass those whose phase is over. For every state and
operands that are clear, with a declared barrier and an expected count no larger than the block: BAR releases, each executing
thread arrives, and those whose phase is over go on with their regions ended and an acquire while the others are held; BARA
releases, arrives and goes on, ending its regions; BARW holds its threads for the present phase; WBAR and FLUSHPT release, end
their regions, hold their threads at the meeting point and let it complete if every block has arrived. (13 R327, 13 R328, 13
R330, 13 R332, 01 R33, 12 R288) -/
def Obligations.BarriersHoldOrPassTheirThreads : Prop :=
  ∀ (s : State) (cx : Ctx) (c : Common) (a : Opnd) (b : Option Opnd) (k : BitVec 32) (ext : WExt),
    let ex : List Thread := cx.exec c
    let lanes : BitVec 64 := lanesOf (ex.map (·.lane))
    let r : GroupRef := cx.run.ref
    let n : Nat := barOf cx a
    let wide : Bool := s.wider .blk cx.block r
    let need (rd : List Names) (ends : Bool) : Need :=
      { common := c, reads := rd, recallFirst := true, ordered := true, afterLog := true, ends := ends }
    let quiet : Prop := ∀ t ∈ ex, s.remoteWait t = false
    let counted : Prop := n < cx.block.bars.length ∧ ∀ t ∈ ex, expected cx b k t ≤ cx.launch.lr.bsize
    let met (h : Hold) : State :=
      (((s.releaseAt cx.site true).endRegion r lanes).holdSome cx c lanes h).settleWide r.launch
    (Clear (need (nm a false :: nmOpt b false) false) s cx → quiet → counted →
      ∀ s1 ps, (s.releaseAt cx.site wide).arriveEach r n (expected cx b k) ex = (s1, ps) →
      let now := s1.barPhase r.launch r.blk n
      let wait := ps.filter (fun x => x.2 = now)
      let past := ps.filter (fun x => x.2 ≠ now)
      let s2 := s1.endRegion r (lanesOf (past.map (·.1)))
      let s3 := if past.isEmpty then s2 else s2.acquireAt cx.site wide
      exec (.bar c a b k) s = .next (if wait.isEmpty then s3.goOnRun cx.run c
        else s3.holdSome cx c (lanesOf (wait.map (·.1))) (.bar n now c.bnd))) ∧
    (Clear (need (nm a false :: nmOpt b false) true) s cx → quiet → counted →
      exec (.bara c a b k) s = .next ((((s.releaseAt cx.site wide).arriveEach r n (expected cx b k) ex).1.endRegion r
        lanes).goOnRun cx.run c)) ∧
    (Clear (need [nm a false] false) s cx → n < cx.block.bars.length →
      exec (.barw c a) s = .next (s.holdSome cx c lanes (.barw n (s.barPhase r.launch r.blk n) c.bnd))) ∧
    (Clear { need [] false with hold := fun cx _ => ext == .sys && fabHold s cx } s cx → quiet →
      (ext = .sys → fabTrap s cx = none ∧ cx.launch.lr.team ≠ none) →
      exec (.wbar c ext) s = .next (met (.wbar (if cx.launch.lr.det && ext == .cl then .dev else ext) c.bnd))) ∧
    (Clear (need [] false) s cx → quiet → exec (.flushpt c) s = .next (met (.flushpt c.bnd)))

/-- FPUT, FGET, FATOM, COLL, RECONF and TGSET complete: each enters its command and sends what may go, or sets sr.etgen. For every
state and operands in which the command may be issued under the present topology, no work of its threads being outstanding at
the words it names, and asks nothing of the host that it may not ask: FPUT and FGET enter their command, FGET with its
destination lines absent, and send what may go; FATOM enters its command and sends its request to the peer of its window; COLL
joins the launch's next collective, tells the other members its function and count, and sends what may go (the payloads of
FATOM's request and of COLL's heads are the model's own, log 98 and 99, DESIGN CHOICE); RECONF, from the owner's launch in the
general role, enters its command and runs it when it is first; TGSET sets the block's sr.etgen to the value of the first
executing thread. (11 R264, 11 R268, 11 R269, 11 R272, 11 R274, 11 R278, 11 R279, 06 R132) -/
def Obligations.FabricCommandsEnter : Prop :=
  ∀ (s : State) (cx : Ctx) (c : Common) (ty : Ty) (op : AtomOp) (rop : RedOp) (kind : CollKind) (d a b : Opnd) (mc : MemCtl)
      (k : BitVec 32) (h : BitVec 64) (blk : Block),
    let ex : List Thread := cx.exec c
    let r : GroupRef := cx.run.ref
    let fab (reads : List Names) (cls : EngClass) : CmdNeed :=
      { common := c, d := d, reads := reads, roles := [1, 0], cls := cls, ends := true
        pre := fun cx _ => fabTrap s cx, hold := fun cx _ => fabHold s cx }
    let copy : CmdNeed := fab [(a, 8)] .fabric
    let desc : List (BitVec 32) := descOf cx.group a 8
    let getLines : List Nat := (FabDesc.of desc).lines (List.range (FabDesc.of desc).chunks)
    let entered (kd : CmdKind) (lines : List Nat) : Nat × State :=
      ((s.readied copy cx blk).clearLines r.launch r.blk lines).addCmd cx ex kd desc h lines
    let okCopy : Prop := Issuable copy (fabDescTrap s cx (FabDesc.of desc))
      (s.queueFull cx.group.core 2 || s.runBusyAt cx (fabRanges (FabDesc.of desc))) s cx h blk
    let does (n : CmdNeed) (u : State) (i : Instr) : Prop := s.hostBarred u = false → exec i s = .next (u.handed n cx h)
    let rc : CmdNeed := { common := c, d := d, reads := [nm a false, nm b false], roles := [0], cls := .fabric, ends := true }
    let val (t : Thread) (o : Opnd) : BitVec 32 := loWord (readOp cx.group t k .sint false o)
    let at0 : BitVec 64 := BitVec.ofNat 64 (pairWord (descOf cx.group a 2) 0) + mc.offset.signExtend 64
    let fat : CmdNeed := fab [nm a true, (b, 5)] .fabric
    let data : List (BitVec 32) := descOf cx.group b 5
    let fatLines : List Nat := if word data 4 = 0xFFFFFFFF then [] else [word data 4 / 128]
    let col : CmdNeed := fab [(a, 6)] .coll
    let cdesc : List (BitVec 32) := descOf cx.group a 6
    let seq : Nat := cx.launch.collseq
    (okCopy → does copy ((entered .put []).2.pumpFab (entered .put []).1) (.fput c d a) ∧
      does copy ((entered .get getLines).2.pumpFab (entered .get getLines).1) (.fget c d a)) ∧
    (Issuable fat none (s.queueFull cx.group.core 2 || s.runBusyAt cx [(at0.toNat % 2 ^ 57, ty.size)]) s cx h blk →
      (at0.toNat % 2 ^ 57) % ty.size = 0 → (s.inWindow (at0.toNat % 2 ^ 57) ty.size).isSome →
      (word data 4 ≠ 0xFFFFFFFF → word data 4 % ty.size = 0 ∧ word data 4 + ty.size ≤ cx.launch.lr.scratchBytes) →
      ∀ p off, aperture (at0.toNat % 2 ^ 57) = some (p, off) →
      let e := ((s.readied fat cx blk).clearLines r.launch r.blk fatLines).addCmd cx ex
        (.fatom op ty mc.order mc.scope (at0.setWidth 57)) data h fatLines
      let v (n : Nat) : BitVec 64 := BitVec.ofNat 64 (if ty.wide then n else n % 2 ^ 32)
      let sent := e.2.sendFlit p 3 off 6 false
        (reqPayload ⟨0, at0.setWidth 57, .atom op ty, v (pairWord data 0), v (pairWord data 2)⟩) none (some e.1) 0
      does fat (sent.2.modCmd e.1 (fun c => { c with txns := [sent.1] })) (.fatom c ty op d a b mc)) ∧
    (∀ t, cx.launch.lr.team = some t → Issuable col (collTrap s cx ty kind (CollDesc.of cdesc)) (s.queueFull cx.group.core 3) s cx h blk → (s.readied col cx blk).launch? r.launch = some cx.launch →
      let e := (s.readied col cx blk).addCmd cx ex (.coll ty rop kind seq) cdesc h []
      let fn := collFn ty rop kind
      let s0 := e.2.modLaunch r.launch (fun l => { l with collseq := l.collseq + 1 })
      let s1 := (s0.openColl cx.launch.id seq).modColl cx.launch.id seq (fun x => { x with
        cmd := some e.1
        heads := (s0.rank t, fn, BitVec.ofNat 32 (word cdesc 4)) :: x.heads.filter (·.1 != s0.rank t) })
      let s2 := (t.ranks.filter (· != s1.devid)).foldl (fun (s : State) q =>
        s.sendHead cx.launch t q seq fn (word cdesc 4) e.1) s1
      does col (s2.pumpColl r.launch seq) (.coll c ty rop kind d a)) ∧
    (∀ t rest, cx.threads = t :: rest → Issuable rc none (s.queueFull cx.group.core 2) s cx h blk →
      (val t a).toNat ≤ 63 → val t b ≠ 0 → s.ownv = true → cx.launch.pasid = s.owner →
      does rc ((s.readied rc cx blk).addCmd cx ex (.reconf (val t a).toNat (val t b)) [] h []).2.runReconf (.reconf c d a b k)) ∧
    (∀ t rest, ex = t :: rest → Clear { common := c, reads := [nm a false], recallFirst := true } s cx →
      exec (.tgset c a k) s = .next ((s.modBlock r.launch r.blk (fun b => { b with etgen := val t a })).goOnRun cx.run c))

/-- DLAUNCH releases, copies its record into the pending-launch store where it has room, and reports with a status and P. For
every state and operands that are clear, with a record address that is a multiple of 64 and reaches no window or empty range:
where the store is full, exec of DLAUNCH goes in flight with status 1 and P = 0; where it has room and the record reads
without a fault or poison, the record is entered under the launch, and the instruction goes in flight with status 0 and P = 1;
its threads' regions end as it completes. (13 R333, 13 R334, 03 R80) -/
def Obligations.DeviceLaunchStoresItsRecord : Prop :=
  ∀ (s s' : State) (cx : Ctx) (c : Common) (d a e : Opnd),
    let ex : List Thread := cx.exec c
    let lanes : List Nat := ex.map (·.lane)
    let addr : Nat := pairWord (descOf cx.group a 2) 0
    let need : Need :=
      { common := c, writes := [nm d false, nm e false], reads := [nm a true], recallFirst := true, ordered := true
        afterLog := true }
    let s0 : State := s.releaseAt cx.site true
    let told (ok : Bool) : Flight :=
      { dst := some (d, false), dst2 := some e, vals := lanes.map (fun i => (i, if ok then 0 else 1))
        val2 := lanes.map (fun i => (i, ok)), ends := true }
    let w : EngSite := ⟨cx.run.ref.launch, cx.run.ref.blk, cx.group.core, cx.launch.pasid⟩
    Clear need s cx → addr % 64 = 0 → recordOutside s (clusterOf cx.group.core) cx.launch.pasid addr 8 = false →
    (∀ t ∈ ex, s.remoteWait t = false) → ∀ id,
    (s0.children.length ≥ 4096 → s0.fly cx c (lanesOf lanes) (told false) = some (id, s') →
      exec (.dlaunch c d a e) s = .next (s'.goOnRun cx.run c)) ∧
    (s0.children.length < 4096 → ∀ s1 bs, s0.readPieces w addr 8 = (s1, .ok (bs, false)) →
      State.fly { s1 with
          nextId := s1.nextId + 1
          children := s1.children ++ [⟨s1.nextId, cx.run.ref.launch, BitVec.ofNat 64 addr, bs,
            whereThread cx.run.ref (lanes.headD 0), (cx.run.pc - cx.launch.lr.codeaddr).setWidth 32, true⟩] }
        cx c (lanesOf lanes) (told true) = some (id, s') →
      exec (.dlaunch c d a e) s = .next (s'.goOnRun cx.run c))

/-- ISSUE_ARBITRATION picks the ready group none goes before, PIP_ISSUE the context whose turn is longest past; the timeouts park
and recall. For every state and pipe with no clause being issued and a candidate: the event answers a next state in which one
candidate's run is put before the other runs, every byte of memory as it was, no thread changed but those of its group whose
wait is over, and no other candidate of that pipe goes before it by the rules of R325 (the agent's class, age of 16,384
clocks, class, return, yield, time ready, number). The candidates are the ready groups; those of class 3 are none while
another group is ready and fewer than three clauses of other classes have been picked since one of class 3 (how 'one clause in
four' is counted and how ties are broken is log 89, DEDUCED; that age goes before a return is log 159, DESIGN CHOICE). A pipe
that is not free is left alone. For every state: a pip core that issues nothing and has a ready context starts one whose last
turn is no later than any other ready context's; a pip core with a clause of its own being issued is left alone. A group whose
soft timeout has passed is parked, its timer stopped; an ejected thread whose hard timeout has passed is recalled. (13 R325,
12 R287, 12 R302, 12 R304, 12 R306) -/
def Obligations.IssueSlotsPickTheirRuns : Prop :=
  (∀ (s : State) (core pipe : Nat),
      (s.pipeFree false core pipe = false → exec (.issueArbitration core pipe) s = .next s) ∧
      (s.pipeFree false core pipe = true → s.candidates core pipe ≠ [] →
        ∃ t c, exec (.issueArbitration core pipe) s = .next t ∧ c ∈ s.candidates core pipe ∧ t.runs = c.run :: s.runs ∧
          t.threads = (s.look c.g.ref).threads ∧ t.mem = s.mem ∧ t.blocks = s.blocks ∧
          ∀ d ∈ s.candidates core pipe, Candidate.ahead s.clock.toNat d c = false) ∧
      (∀ x, x ∈ s.threads → s.waitOver x = false → ∀ ref, x ∈ (s.look ref).threads) ∧
      (∀ c, c ∈ s.candidates core pipe ↔ c ∈ s.readyAt core pipe ∧
        (s.agentTurns.any (fun x => x.1 == core && x.2.1 == pipe) = true → (∃ d ∈ s.readyAt core pipe, d.cls ≠ 3) → c.cls ≠ 3))) ∧
  (∀ (s : State) (cluster pip : Nat),
      (s.pipBusy cluster pip = true → exec (.pipIssue cluster pip) s = .next s) ∧
      (s.pipBusy cluster pip = false → (s.pipThreads cluster pip).filter s.pipReady ≠ [] →
        ∃ x ∈ (s.pipThreads cluster pip).filter s.pipReady, ∃ t r, exec (.pipIssue cluster pip) s = .next t ∧
          t.runs = r :: s.runs ∧ r.ref = x.1.ref ∧ r.lanes = lanesOf [x.1.lane] ∧ r.pc = x.1.pc ∧ r.pip = true ∧
          t.mem = s.mem ∧ ∀ y ∈ (s.pipThreads cluster pip).filter s.pipReady, x.2.1.turn ≤ y.2.1.turn) ∧
      (∀ ref g, s.group? ref = some g → s.softDue g = true →
        exec (.ejectSoftTimeout ref) s = .next (s.modGroup ref (fun g => { g with parked := true, softStart := none }))) ∧
      (∀ ref lane t, s.thread? ref lane = some t → s.hardDue t = true →
        exec (.ejectHardTimeout ref lane) s = .next (s.recallThread ref lane)))

/-- LONG_LATENCY_COMPLETE, FLUSH_COMPLETE, FLUSH_FAULT_RESOLVED, BINDING_RESOLVED and BINDING_FAILED complete. For every state: an
instruction in flight takes what it waited for and its done lanes complete; a flush with every entry applied and no fault
ends, and one halted by a fault goes on at its entry, that fault gone from the log; an entry of the binding table that is
being resolved, whose page is mapped, takes the target with its bound bit alone, or keeps its target with failed set and
resolving clear, and every thread of the table's launches that awaits the entry executes its CALLT again. (01 R27, 01 R28, 04
R104, 04 R105, 12 R295) -/
def Obligations.LongLatencyWorkCompletes : Prop :=
  ∀ (s s1 : State) (launch k pa : Nat) (target : BitVec 32) (l : Launch) (w seen : Bool),
    let again (t : State) : State := t.modThreads (fun x => ((t.launches.filter (sharesTable l)).map (·.id)).contains x.ref.launch
      && awaits k x) (fun x => { x with cond := .issuable })
    let at_ : State := s1.recallWords (lineOf pa) (wordMask pa 8)
    (∀ op i, s.inflight.find? (·.id == op) = some i →
      exec (.longLatencyComplete op) s = .next ((s.bindFound i).completeLanes op)) ∧
    (∀ f, s.launch? launch = some l → l.flush = some f → f.left = [] → f.fault = none →
      exec (.flushComplete launch) s = .next (s.finishFlush launch)) ∧
    (∀ f x, s.launch? launch = some l → l.flush = some f → f.fault = some x →
      exec (.flushFaultResolved launch) s = .next (s.resumeFlush launch)) ∧
    (s.launch? launch = some l → k < l.lr.bindcount.toNat →
      s.translate (clusterOf (s.launchCore launch)) l.pasid (bindAddr l.lr k) .write true = (s1, .ok pa w seen) →
      Binding.ofNat (at_.mem.le pa 8) = .resolving →
      exec (.bindingResolved launch k target) s =
        .next (again (at_.writeHome pa (leBytes target.toNat 4 ++ leBytes (2 ^ 31) 4)))) ∧
    (s.launch? launch = some l → k < l.lr.bindcount.toNat →
      s.translate (clusterOf (s.launchCore launch)) l.pasid (bindAddr l.lr k) .write true = (s1, .ok pa w seen) →
      Binding.ofNat (at_.mem.le pa 8) = .resolving →
      exec (.bindingFailed launch k) s =
        let h : Nat := at_.mem.le (pa + 4) 4
        .next (again (at_.writeHome (pa + 4) (leBytes (h - h / 2 ^ 30 % 2 * 2 ^ 30 + 2 ^ 29) 4))))

/-- PAGE_WALK, SHOOTDOWN_START, SDDROP_CLEAR, SHOOTDOWN_ACK, CLUSTER_POWER_GATE and the resolution of faults complete. For every
state: a cluster that is on makes its walk, and keeps that it failed (log 104, DEDUCED); a served write of the shootdown
control register takes effect; bit 32 written 1 clears sddrop; a cluster performs the oldest operation that it has not
acknowledged and that may be performed, and acknowledges that one; a cluster with no placed block but the agents' goes off
with its TLB and L1 shot down and acknowledges every operation that has begun, and one that is switched on is no longer gated;
with the firmware running, the work of a logged fault's request is given up where it cannot be resolved, and otherwise done
again, once the pages it needs that live elsewhere have come (unless asking for them would have the device reach the host
while its interface is locked); what a harvest holds is never given up, and is done again once the harvest is over. (03 R65,
03 R67, 03 R76, 03 R77, 03 R79, 03 R80) -/
def Obligations.AddressSpaceEventsComplete : Prop :=
  ∀ (s : State) (cluster : Nat) (w : BitVec 64) (t : Bool) (pasid : BitVec 20) (va : BitVec 57) (acc : Access) (entry : Nat),
    let gone : State := s.shoot 2 0 0 0 cluster
    let acks (m : MaintOp) : MaintOp := if m.acked.contains cluster || !m.op.begun then m else { m with acked := cluster :: m.acked }
    (cluster < Config.clusters s.part →
      (s.gated.contains cluster = false → ∀ s1 x, s.walkFor cluster pasid va.toNat acc true = (s1, x) →
        (∀ k, x = .fault k → s.hostBarred s1 = false →
          exec (.pageWalk cluster pasid va acc) s = .next (s1.noteWalk cluster pasid va.toNat acc false)) ∧
        ((∀ k, x ≠ .fault k) →
          exec (.pageWalk cluster pasid va acc) s = .next (s1.noteWalk cluster pasid va.toNat acc true))) ∧
      (∀ m, nextMaint cluster [] s.maint = some m →
        exec (.shootdownAck cluster) s = .next
          { (s.performMaint cluster m.op) with maint := ackOne cluster m (s.performMaint cluster m.op).maint }.completeMaint) ∧
      (s.gated.contains cluster = false → (∀ b ∈ s.blocks, b.life = .placed →
        clusterOf b.core ≠ cluster ∨ (s.launch? b.launch).any (·.agent) = true) →
        exec (.clusterPowerGate cluster true) s =
          .next { gone with gated := cluster :: gone.gated, maint := gone.maint.map acks }.completeMaint) ∧
      exec (.clusterPowerGate cluster false) s = .next { s with gated := s.gated.filter (· != cluster) }) ∧
    (s.serve t false = .served →
      exec (.shootdownStart w t) s = .next (s.writeSdCtl w) ∧
      exec (.sddropClear w t) s = .next { s with sdDrop := s.sdDrop && !w.getLsbD 32 }) ∧
    (s.ready = true → ∀ e, s.oplog.find? (·.id == entry) = some e →
      (e.kind = .held → exec (.faultUnresolvable entry) s = .next s ∧
        (s.harvesting e.pasid = true → exec (.faultResolved entry) s = .next s)) ∧
      (e.kind ≠ .held → exec (.faultUnresolvable entry) s = .next ((s.sameRequest e).foldl
        (fun (s : State) e => if s.oplog.any (·.id == e.id) then (s.dropEntries [e]).giveUp e else s) s)) ∧
      (e.kind ≠ .held ∨ s.harvesting e.pasid = false → ∀ away s1, away = (s.sameRequest e).flatMap LogEntry.away →
        away.foldl (fun (s : State) va => s.follow e.pasid va) s = s1 → s.askedHost s1 = false →
        exec (.faultResolved entry) s = .next (if away.any (fun va => (s1.pageFor e.pasid va).isSome) then s1
          else (s.sameRequest e).foldl
            (fun (s : State) e => if s.oplog.any (·.id == e.id) then (s.dropEntries [e]).retry e else s) s1)))

/-- COPY_CHUNK_COMPLETE moves one chunk, COPY_COMPLETE ends a copy, DCMP_JOB_COMPLETE does a decompression job. For every state,
where the event asks nothing of the host that it may not ask: a chunk of a copy that may move (not moved, not faulted, in
range and in the window, its threads not quiesced, and in flight already where the copy was cancelled) and whose words are
copied is marked moved, and in a copy to the scratchpad the lines no other chunk writes land; a copy all of whose chunks are
moved, or which failed, or which was cancelled with what was in flight done, completes, with its arrival if it was wholly
moved and not cancelled (which chunks count as in flight is log 67, DESIGN CHOICE; that a faulted one does not hold a
cancelled copy's end log 68, DEDUCED); a job whose card has been read and which runs to a status completes with that status,
and one that failed with FAULT. (06 R135, 06 R139, 06 R142, 06 R143, 06 R144, 06 R145, 06 R147, 06 R148) -/
def Obligations.CopiesMoveAndComplete : Prop :=
  ∀ (s s1 s2 : State) (cmd chunk : Nat) (c : Cmd) (w : EngSite),
    s.cmd? cmd = some c → s.cmdSite c = some w →
    (∀ dims dir bar u d, c.kind = .copy dims dir bar → d = CopyDesc.of dims c.desc → c.id = cmd → c.early = false → c.failed = false →
      chunk < d.chunks → c.resume ≤ chunk → chunk ∉ c.chunks → chunk ∉ c.faulted →
      Machine.inWindow c.resume c.chunks chunk = true → (c.cancel = true → chunk ∈ c.flying) → s.quiesced c = false →
      s.copyWordsOf w d dir (((c.chunks.filter (· > chunk)).flatMap (chunkWords d.total)).map (fun l => (d.at_ l).2))
        (chunkWords d.total chunk) = (s1, .ok u) →
      (s2 = if CopyDir.to_ dir == .sp then
          (s1.modCmd cmd (fun c => { c with chunks := chunk :: c.chunks })).landLines c (d.linesOf
            ((List.range d.chunks).filter (fun k => !(c.chunks.contains k || k = chunk || k < c.resume))))
        else s1.modCmd cmd (fun c => { c with chunks := chunk :: c.chunks })) → s.hostBarred s2 = false →
      exec (.copyChunkComplete cmd chunk) s = .next s2) ∧
    (∀ dims dir bar, c.kind = .copy dims dir bar → s.arrivalLogged cmd = false →
      c.failed = true ∨ (c.cancel = true ∧ ∀ k ∈ c.flying, k ∈ c.chunks ∨ k ∈ c.faulted) ∨
        (c.cancel = false ∧ c.early = false ∧ c.moved dims = true) →
      s2 = s.completeCopy c bar (c.moved dims && !c.cancel) → s.hostBarred s2 = false →
      exec (.copyComplete cmd) s = .next s2) ∧
    (∀ sp card l, c.kind = .dcmp sp card → s.launch? c.ref.launch = some l → s.hostBarred s2 = false →
      (c.failed = true → s2 = s.finishCmd cmd stFault → exec (.dcmpJobComplete cmd) s = .next s2) ∧
      (∀ st s3, c.failed = false → c.early = false → c.faulted = [] → s.quiesced c = false →
        s.doJob w sp card.toNat l.lr c.card c.cancel = (s3, .ok (some st)) → s2 = s3.finishCmd cmd st →
        exec (.dcmpJobComplete cmd) s = .next s2))

/-- MATRIX_COMMAND_START starts the head of a pair's queue, or commits; MATRIX_COMMAND_COMPLETE performs it and completes its
handle. For every state and pair with a command at the head of its queue, its launch and its block present: a commit leaves
the queue, the block's tiles are committed and the instruction that waits for it may complete; any other command that has not
started and is ready starts, its destination tile opened, unless the Proofer has the block's threads at their points (R243),
where nothing of the block starts or completes; a started one, the errors in what it reads having been found, is performed on
the block and the pair where it reads no poison, leaves the queue and its handle completes with DONE, and stops its context
where it does. (All its reads and writes are made at the one completion: the model's choice, log 75, DESIGN CHOICE.) (10 R229,
10 R230, 10 R239, 10 R240, 10 R241, 06 R131) -/
def Obligations.MatrixCommandsStartAndComplete : Prop :=
  ∀ (s : State) (pair : Nat) (p : Pair) (m : MatrixCmd) (rest : List MatrixCmd) (l : Launch) (b : Block),
    let r : GroupRef := m.ref
    s.pair? pair = some p → p.queue = m :: rest → s.launch? r.launch = some l → s.block? r.launch r.blk = some b →
    (∀ op, m.op = .mcommit op → ∀ s1, s1 = (s.modPair pair (fun p => { p with queue := rest })).modBlock r.launch r.blk (·.commit) →
      exec (.matrixCommandStart pair) s = .next { s1 with
        inflight := modify (·.id == op) (fun (i : Inflight) =>
          { i with wait := .ready, vals := (laneList i.lanes).map (fun x => (x, 0)) }) s1.inflight }) ∧
    ((∀ op, m.op ≠ .mcommit op) → s.matrixHeld m = true →
      exec (.matrixCommandStart pair) s = .next s ∧ exec (.matrixCommandComplete pair) s = .next s) ∧
    ((∀ op, m.op ≠ .mcommit op) → m.started = false → m.ready l.lr b = true → s.matrixHeld m = false →
      ∀ s1, s1 = s.modPair pair (fun p => { p with queue := { m with started := true } :: rest }) →
        (m.op.writes = none → exec (.matrixCommandStart pair) s = .next s1) ∧
        (∀ t, m.op.writes = some t →
          exec (.matrixCommandStart pair) s = .next (s1.modBlock r.launch r.blk (·.modTile t (·.open_))))) ∧
    (m.started = true → s.matrixHeld m = false → ∀ u b' p', u = s.meetAll l.pasid .uncorrectable (m.readsAt l.lr p) → u.launch? r.launch = some l →
      u.block? r.launch r.blk = some b' → u.pair? pair = some p' →
      (m.poisoned l.lr b' p' = false → ∀ v b2 p2, v = u.overMatrix l.lr b' pair m → v.block? r.launch r.blk = some b2 →
        v.pair? pair = some p2 → exec (.matrixCommandComplete pair) s = .next
          (((v.modBlock r.launch r.blk (fun _ => (m.perform l.lr b2 p2).1)).modPair pair (fun _ => (m.perform l.lr b2 p2).2)).finishMatrix
            pair m stDone)) ∧
      (m.poisoned l.lr b' p' = true → exec (.matrixCommandComplete pair) s = .next
        ((u.notePoison l.pasid 0 true).stopContext r.launch .fatalDevice .memUncorrectable (whereThread r 0) 0)))

/-- SCRUB_STEP, DEVICE_RESET, THROTTLE_TICK, WATCHDOG_EXPIRY and UNASSIGNED_OPCODE complete. For every state, codeword and finding
a scrub step completes: where no such codeword is, or none is found in error, nothing changes; otherwise the error that stands
there, or else the one found now, is met. Meeting a correctable error logs it with one more than the codeword's count so far;
meeting another poisons the words of its codeword and logs it as deferred; either way the error no longer stands. For every
state and package a reset completes, leaving what State.reset gives but for the part, the fuses, the image numbers, what left
the device and the count of free values (log 22, DEDUCED); with a package that verifies and is not below the minimum the
firmware is ready, with its version, one agent launch of class 3 with a block, its group and its threads on each core, each
thread waiting or issuable (log 88, DESIGN CHOICE), the minimum raised no further than its version; with another it is not,
and FW_REFUSED is the one log entry. For every state: a millisecond below 115 degrees adds the power to the energy (log 140,
DEDUCED), takes one from the watchdog of every unfinished launch that is not the agents' (log 90, DEDUCED), moves the throttle
step by the rule of R388 and leaves all else; from 115 degrees on it also stops every context, logs THERMAL and leaves the
device not ready; an expired watchdog stops its context with cause 0x13, and any other launch is left alone; a word whose
opcode or function code is not assigned traps its run with ILLEGAL_OP, or with CLAUSE_FORM where a header is due. (02 R58, 02
R59, 02 R63, 15 R380, 15 R386, 13 R315, 13 R316, 14 R346, 15 R387, 15 R388, 01 R38, 01 R39) -/
def Obligations.DeviceWideEventsComplete : Prop :=
  (∀ (s : State) (cw : Codeword) (err : ErrorFound) (pkg : FirmwarePackage),
      (s.codeword cw = none → exec (.scrubStep cw err) s = .next s) ∧
      (∀ at_, s.codeword cw = some at_ → exec (.scrubStep cw err) s = .next (match s.damage.find? (·.place == at_), err with
        | some d, _ => s.meet 0 .deferred d
        | none, .clean => s
        | none, .corrected => s.meet 0 .deferred ⟨at_, true⟩
        | none, .uncorrectable => s.meet 0 .deferred ⟨at_, false⟩)) ∧
      (∀ (pasid : BitVec 20) (why : ErrKind) (d : Damage) (s1 : State), s1 = { s with damage := s.damage.filter (· != d) } →
        (d.fixable = true → ∀ n, n = ((s.corrections.find? (·.1 == d.place)).map (·.2)).getD 0 + 1 →
          s.meet pasid why d = ({ s1 with corrections := (d.place, n) :: s.corrections.filter (·.1 != d.place) } : State).log .corrected 0
            pasid (BitVec.ofNat 64 d.place.address) n) ∧
        (d.fixable = false → s.meet pasid why d = (s1.poisonAt d.place).log why 0 pasid (BitVec.ofNat 64 d.place.address))) ∧
      (∀ s0 : State, s0 = { State.reset with
          part := s.part, plimit := s.part.designLimit, fuseMin := s.fuseMin, nonces := s.nonces, hostOut := s.hostOut
          frames := s.frames, circuit := s.circuit, freeCtr := s.freeCtr } →
        (Config.firmwareVerifies pkg.bytes = true ∧ s.fuseMin.toNat ≤ pkg.version.toNat →
          ∃ t, exec (.deviceReset pkg) s = .next t ∧ t.mem = [] ∧ t.slices = [] ∧ t.l1 = [] ∧ t.cmds = [] ∧ t.packets = [] ∧
            t.part = s.part ∧ t.ready = true ∧ t.firmware = pkg.bytes ∧ t.fwver = pkg.version ∧ t.errLog = [] ∧
            s.fuseMin.toNat ≤ t.fuseMin.toNat ∧ t.fuseMin.toNat ≤ pkg.version.toNat ∧
            (∃ l, t.launches = [l] ∧ l.agent = true ∧ l.cls = 3 ∧
              t.blocks.map (fun b => (b.launch, b.idx, b.core)) = (List.range (Config.cores s.part)).map (fun c => (l.id, c, c)) ∧
              (∀ x ∈ t.threads, x.ref.launch = l.id ∧ x.ref.gid = 0 ∧ (x.cond = .issuable ∨ x.cond = .held .firmware)) ∧
              t.groups.map (fun g => (g.ref.launch, g.core)) = (List.range (Config.cores s.part)).map (fun c => (l.id, c)))) ∧
        (¬ (Config.firmwareVerifies pkg.bytes = true ∧ s.fuseMin.toNat ≤ pkg.version.toNat) →
          exec (.deviceReset pkg) s = .next (s0.log .fwRefused 0 0 0)))) ∧
  (∀ (s : State) (pnow : BitVec 16) (tj : BitVec 8),
      let step : BitVec 3 := if 105 ≤ tj.toNat then 5
        else if s.plimit.toNat < pnow.toNat ∨ 100 < tj.toNat then (if s.throttle.toNat < 5 then s.throttle + 1 else 5)
        else if 100 * pnow.toNat < 95 * s.plimit.toNat ∧ tj.toNat < 95 then (if s.throttle = 0 then 0 else s.throttle - 1)
        else s.throttle
      let s1 : State := { s with
        throttle := step, pnow := pnow, tj := tj, energy := s.energy + pnow.setWidth 64
        launches := s.launches.map (fun l => if l.done || l.agent then l else { l with wdleft := l.wdleft - 1 }) }
      (tj.toNat < 115 → exec (.throttleTick pnow tj) s = .next s1) ∧
      (115 ≤ tj.toNat → exec (.throttleTick pnow tj) s = .next { (s1.stopAll.log .thermal 0 0 0) with ready := false }) ∧
      s1.stopAll.mem = s.mem ∧ (∀ l ∈ s1.stopAll.launches, l.agent = true) ∧
      (∀ launch l, s.launch? launch = some l →
        (l.wdleft = 0 ∧ l.done = false →
          exec (.watchdogExpiry launch) s = .next (s.stopContext launch .fatalContext .watchdog 0 0)) ∧
        (l.wdleft ≠ 0 ∨ l.done = true → exec (.watchdogExpiry launch) s = .next s)) ∧
      (∀ (cx : Ctx) (w : BitVec 96), s.ctx? = some cx →
        unassigned (w >>> 88).toNat = true ∨ decodeRaw (Raw.ofWord w) = .error .illegalOp →
        exec (.unassignedOpcode w) s = .next (s.trapRun cx ⟨if cx.run.start then .clauseForm else .illegalOp, 0, 0⟩)))

/-- NOTIFY acts on its page's queues, each packet event starts its packet, INVALID_PACKET stops the queue, PACKET_COMPLETE
completes. For every state: a served write of 8 bytes at offset 0 of a notification page marks the queue entries as read and
notifies every queue of that page, another is ignored; where a queue's next packet is of the event's opcode, it starts (its
index leaves the ring) and NOP completes DONE, LAUNCH admits its grid or is refused with the reason, WAIT_SIGNAL, SET_SIGNAL
and PLAN_LOAD do what they can at once, IMAGE_SAVE and IMAGE_LOAD begin, DIRTY_HARVEST is refused for a PASID without a valid
entry or untracked, and for a tracked one waits its turn; a harvest that begins puts its page number into bits 111 to 76 of
the PASID's entry and keeps the old one for its packet; an invalid packet stops its queue with error 1 and the opcode, a ring
address that cannot be read with error 2 and an information that is a free value (the spec names none there); a packet that
may complete, and whose host accesses the interface does not hold, does what it waits to do. (13 R311, 13 R312, 13 R313, 13
R314, 14 R351, 14 R364, 03 R79) -/
def Obligations.QueuesStartTheirPackets : Prop :=
  ∀ (s s1 : State) (q : QueueRef) (e : QueueEntry) (i : Nat) (bs : List Byte) (page off width : Nat) (w : BitVec 64) (t : Bool),
    (s.serve t false = .served →
      (off = 0 ∧ width = 8 ∧ page < 65536 → exec (.notify page off width w t) s =
        .next ((s.queuesOf page).foldl (fun (s : State) x => s.notifyQueue x.1 x.2 w) s.seeQueues)) ∧
      (off ≠ 0 ∨ width ≠ 8 → exec (.notify page off width w t) s = .next s)) ∧
    (s.nextPacket q = (s1, .packet e i bs) → ∀ st, st = s1.startPacket q e i bs →
      (pkOpcode bs = 0 → exec (.nopPacket q) s = .next (st.packetDone q i 0 0)) ∧
      (pkOpcode bs = 1 → ∀ s2 r rec_, st.readRecord q.pasid (pkAddr bs) = (s2, r) → rec_ = some (BitVec.ofNat 64 (pkAddr bs)) → ∀ s3,
        (s2.takeOn q.pasid e.cls (some (q, i)) none rec_ r = (s3, none) → exec (.launchPacket q) s = .next s3) ∧
        (∀ reason, s2.takeOn q.pasid e.cls (some (q, i)) none rec_ r = (s3, some reason) →
          exec (.launchPacket q) s = .next (s3.packetDone q i 1 reason))) ∧
      (pkOpcode bs = 2 → exec (.waitSignalPacket q) s = .next (st.perform ⟨q, i, bs, none⟩)) ∧
      (pkOpcode bs = 3 → exec (.setSignalPacket q) s = .next (st.perform ⟨q, i, bs, none⟩)) ∧
      (pkOpcode bs = 4 → exec (.imageSavePacket q) s = .next (st.startSave ⟨q, i, bs, none⟩)) ∧
      (pkOpcode bs = 5 → exec (.imageLoadPacket q) s = .next (st.startLoad e ⟨q, i, bs, none⟩)) ∧
      (pkOpcode bs = 6 →
        ((st.pasidEntry q.pasid).all (!·.dt) = true → exec (.dirtyHarvestPacket q) s = .next (st.packetDone q i 1 24)) ∧
        (∀ p op, st.pasidEntry q.pasid = some p → p.dt = true →
          op = (⟨.harvest q i q.pasid (BitVec.ofNat 36 (pkAddr bs / 4096)) none, []⟩ : MaintOp) →
          exec (.dirtyHarvestPacket q) s = .next (State.beginHarvests { st with maint := st.maint ++ [op] }))) ∧
      (pkOpcode bs = 7 → exec (.planLoadPacket q) s = .next (st.perform ⟨q, i, bs, none⟩))) ∧
    (∀ (p : BitVec 20) (new : BitVec 36) a x,
      a = ptBase s + 32 * p.toNat → s1 = (s.visit a 32).recallWords (lineOf a) (wordMask a 32) → x = s1.mem.le a 32 →
      s.takeBitmap (.harvest q i p new none) =
        (s1.writeHome a (leBytes (x - bits x 111 76 * 2 ^ 76 + new.toNat * 2 ^ 76) 32),
          .harvest q i p new (some (BitVec.ofNat 36 (bits x 111 76))))) ∧
    (∀ op, s.nextPacket q = (s1, .invalid e op) → exec (.invalidPacket q) s = .next (s1.stopQueue e 1 op)) ∧
    (s.nextPacket q = (s1, .ringFault e) →
      exec (.invalidPacket q) s = .next (s1.free.2.stopQueue e 2 (s1.free.1.toNat % 2 ^ 32))) ∧
    (∀ p idx, s.packets.find? (fun p => p.q == q && p.idx == idx) = some p → s.tdi ≠ .error →
      (p.result.isSome || s.queuesRun) = true → s.signalLogged q idx = false → s.hostBarred (s.workOn p) = false →
      exec (.packetComplete q idx) s = .next (s.workOn p))

/-- BLOCK_CLAIM, BLOCK_MIGRATE, BLOCK_IMAGE_OUT, BLOCK_RETIRE and CHILD_ADMISSION complete. For every state, the cap table having
been read: where an agent has a whole ADMIT_ALL grid to place, it is placed at once (log 85); a block that was imaged out, it
is planted again where it may stand (log 84, DESIGN CHOICE, of when blocks leave); the next block of the ticket, it is claimed
with the rest of its cohort where these may stand together (log 81), the ticket rising by their number (where they may not,
none is placed and it does not rise: log 83). A launch that an image brought starts once every block of it stands that its
other blocks leave room for (log 127, DEDUCED). A block that may move for a launch that lacks a place, and may stand at the
other one, begins to move; one whose threads all wait at wide meeting points, not all of them exited, of a launch that wants
room, begins to leave; a block with nothing left retires; a context's first pending child is admitted, or dropped and logged
with the reason. (13 R315, 13 R321, 13 R322, 13 R323, 13 R324, 13 R331, 06 R132, 10 R228, 13 R334) -/
def Obligations.BlocksComeAndGo : Prop :=
  ∀ (s : State) (launch blk core pair entry : Nat) (l : Launch) (b : Block),
    let u : State := s.readCaps
    s.launch? launch = some l →
    (s.toPlace l = .whole → exec (.blockClaim launch core pair) s = .next (u.claimAll l)) ∧
    (∀ o, s.toPlace l = .out o → exec (.blockClaim launch core pair) s = .next (u.tryPlant l o core pair)) ∧
    (s.toPlace l = .next →
      (∀ ps, u.claimPlan l core pair = some ps → exec (.blockClaim launch core pair) s =
        .next ((u.modLaunch l.id (fun l => { l with ticket := l.ticket + ps.length })).placeBlocks l l.ticket ps)) ∧
      (u.claimPlan l core pair = none → exec (.blockClaim launch core pair) s = .next u)) ∧
    (s.toPlace l = .start → exec (.blockClaim launch core pair) s = .next (s.startReplanted launch)) ∧
    (s.agentFor l = true → s.heldForAll l = false → l.started = false → l.lr.admitall = false ∨ l.ticket ≠ 0 →
      (s.mayStart l = true → s.toPlace l = .start) ∧
      (s.mayStart l = false → ∀ o, s.nextRecorded l = some o → s.toPlace l = .out o)) ∧
    (s.agentFor l = true → s.heldForAll l = false → l.lr.admitall = true → l.started = false → l.ticket = 0 →
      s.toPlace l = .whole) ∧
    (s.agentFor l = true → s.heldForAll l = false → l.started = true → s.outBlocks l = [] → l.ticket < l.lr.nblk →
      s.toPlace l = .next) ∧
    (s.block? launch blk = some b →
      (∀ m ∈ s.launches, s.lacksPlace m = true → s.mayMove m b = true → s.movesTo l b core pair = true →
        exec (.blockMigrate launch blk core pair) s = .next (s.startProofer launch [blk] (.move core pair))) ∧
      (s.agentFor l = true → l.proofer = none → b.life = .placed → s.wantsRoom l = true →
        (∀ t ∈ s.blockThreads launch blk, t.atWide = true) → (∃ t ∈ s.blockThreads launch blk, t.cond ≠ .exited) →
        exec (.blockImageOut launch blk) s = .next (s.startProofer launch [blk] .out)) ∧
      (s.retires b = true → exec (.blockRetire launch blk) s = .next (s.retire b))) ∧
    (∀ c r rec_ s1 s2, s.children.find? (·.id == entry) = some c → c.parent = launch → s.launch? (s.root launch) = some r →
      s.ready = true → s.tdi ≠ .error → r.frozen = false → l.started = true → s.firstChild r.id = some c → c.id = entry →
      s.childRecord l.pasid c = (s1, rec_) →
      s2 = { s1 with children := s1.children.filter (·.id != entry) } → ∀ s3 at_, at_ = (if c.stands then some c.addr else none) →
      (s2.takeOn l.pasid l.cls none (some l.id) at_ rec_ = (s3, none) → exec (.childAdmission entry) s = .next s3) ∧
      (∀ reason, s2.takeOn l.pasid l.cls none (some l.id) at_ rec_ = (s3, some reason) →
        exec (.childAdmission entry) s = .next ((s3.log .childRefused reason l.pasid c.wh 1 c.pc).finishContext l.id)))

/-- PREEMPT makes the Proofer's next action or begins a save; PROOFER_CLAUSE_LIMIT brings a late thread to its canonical point.
For every state with the firmware running and the interface not in ERROR: PREEMPT makes the next action on a launch a Proofer
works on, and begins the save of one that a waiting IMAGE_SAVE names; a thread that has not arrived after 256 clauses is
rolled back to its region's entry where it is inside one that is not about to end, with the threads of its group still in that
region (log 162, DEDUCED), and recorded where it stands where it is in none. (14 R347, 14 R348, 14 R351) -/
def Obligations.ProoferActs : Prop :=
  ∀ (s : State) (launch : Nat) (l : Launch),
    s.launch? launch = some l →
    (s.ready = true → s.tdi ≠ .error →
      (∀ p, l.proofer = some p → s.hostBarred (s.proofMove l p) = false →
        exec (.preempt launch) s = .next (s.proofMove l p)) ∧
      (∀ p, l.proofer = none → s.packets.find? (fun p => pkOpcode p.bytes == 4 && p.result.isNone &&
          (s.saveTarget p.q).any (·.id == launch)) = some p → s.hostBarred (s.beginSave l p) = false →
        exec (.preempt launch) s = .next (s.beginSave l p))) ∧
    (∀ (g : GroupRef) (lane : Nat) (t : Thread) (p : Proofer), g.launch = launch → s.thread? g lane = some t →
      l.proofer = some p → p.step = 4 → p.blocks.contains g.blk = true → t.canonical = false → 256 ≤ t.clauses →
      t.cond = .issuable → s.inRun t = false →
      (∀ r, t.region = some r → s.endsSoon t = false → exec (.prooferClauseLimit g lane) s = .next (s.rollBackAll t r)) ∧
      (t.region = none → exec (.prooferClauseLimit g lane) s = .next (s.standFull t)))

/-- Host reads, writes, AtomicOps and register writes are performed where R375 serves them, refused or answered with ones
elsewhere. For every state and request within BAR 4: served, a read answers with the bytes, a write stores them, an aligned
AtomicOp below the capacity makes its operation and answers the old value (at or above it, all ones), and after a write what a
saved context left here is given up where its PASID's entry is no longer valid; refused, each is answered Unsupported with
nothing else changed; with the interface in ERROR, a request with T set reads all ones and writes nothing. A read of BAR 0
answers in the same three ways; a served write of BAR 0 reaches its register, one refused is answered Unsupported, one in
ERROR with T set writes nothing; a write of configuration space is always served (to a frozen BAR it makes the interface fall,
R378). Two points are the model's reading: what an AtomicOp at or above the capacity is answered (R371 speaks of reads and
writes), and what is answered of a poisoned word (log 135). (15 R370, 15 R371, 15 R372, 15 R375, 15 R378) -/
def Obligations.HostRequestsAreServedByTheTable : Prop :=
  ∀ (s : State) (addr len off : Nat) (data : List Byte) (op : HostAtomic) (wide t : Bool) (v cmp w : BitVec 64),
    let n : Nat := if wide then 8 else 4
    let fits : Prop := addr + len ≤ Config.bar4Size s.part ∧ addr + data.length ≤ Config.bar4Size s.part ∧
      addr + n ≤ Config.bar4Size s.part
    let no (o : Out) : Prop := o = .next { s with hostOut := s.hostOut ++ [.unsupported] }
    let ones (m : Nat) (o : Out) : Prop := o = .next { s with hostOut := s.hostOut ++ [.completion (List.replicate m 0xFF#8)] }
    (fits → s.serve t false = .served →
      exec (.hostBar4Read addr len t) s = .next ((s.barLoad addr len).1.answer (.completion (s.barLoad addr len).2)) ∧
      exec (.hostBar4Write addr data t) s = .next (s.barStore addr data).release ∧
      (addr % n = 0 → addr < Config.cap s.part → exec (.hostAtomicop op wide addr v cmp t) s =
        .next ((s.barAtomic op n addr v cmp).1.release.answer (.completion (leBytes (s.barAtomic op n addr v cmp).2.toNat n)))) ∧
      (addr % n = 0 → Config.cap s.part ≤ addr → ones n (exec (.hostAtomicop op wide addr v cmp t) s))) ∧
    (fits → s.serve t false = .refused →
      no (exec (.hostBar4Read addr len t) s) ∧ no (exec (.hostBar4Write addr data t) s) ∧
      no (exec (.hostAtomicop op wide addr v cmp t) s)) ∧
    (fits → s.serve t false = .ones →
      ones len (exec (.hostBar4Read addr len t) s) ∧ exec (.hostBar4Write addr data t) s = .next s ∧
      ones n (exec (.hostAtomicop op wide addr v cmp t) s)) ∧
    (s.serve t (off < 32) = .served → exec (.registerWrite .bar0 off w t) s = .next (s.reachReg off w)) ∧
    (s.serve t (off < 32) = .refused → no (exec (.registerWrite .bar0 off w t) s)) ∧
    (s.serve t (off < 32) = .ones → exec (.registerWrite .bar0 off w t) s = .next s) ∧
    exec (.registerWrite .config off w t) s = .next (s.setBar off w) ∧
    s.readReg off t = (match s.serve t (off < 32) with
      | .served => HostMsg.completion (leBytes (s.bar0 (off / 8 * 8)).toNat 8)
      | .refused => .unsupported
      | .ones => .completion (List.replicate 8 0xFF#8))

/-- The debug control write and READ_REG, WRITE_REG, STEP and RESUME act on the thread they name, or set the error bit. For every
state with the debug block open and the write served: the control word takes its fields, and a halt parks the runs of its
PASID; a command that names no thread it may act on sets the error bit alone; READ_REG of a register of a thread it may act on
(log 150, DEDUCED, of which held threads those are) that is not ejected puts its value in the data register, or 0 with the
error bit where it is poisoned, a flag as 1 or 0; WRITE_REG writes any register but a flag, of the thread or of its group; one
the thread does not have sets the error bit. STEP sets the thread going under single-step, RESUME without, letting the
breakpoint at its PC pass once (log 152, DEDUCED), and both clear the error bit (STEP of a thread held at a cross-lane
instruction sets it, and changes nothing else). (15 R383, 15 R384, 15 R385, 15 R389) -/
def Obligations.DebugCommandsAct : Prop :=
  ∀ (s : State) (w : BitVec 64) (t : Bool),
    let fields : BitVec 64 := w &&& 0x800000FFFFF00001
    let halts : Prop := w.getLsbD 0 = true
    s.serve t false = .served → s.dbgOpen = true →
    (halts → exec (.debugControlWrite w t) s =
      .next (({ s with dbgCtl := fields } : State).parkRuns (fields.extractLsb' 20 20))) ∧
    (¬ halts → exec (.debugControlWrite w t) s = .next { s with dbgCtl := fields }) ∧
    (s.dbgThread w = none ∨ (∃ x, s.dbgThread w = some x ∧ s.dbgMay x = false) →
      ∀ y, y = Host.Outcome.next { s with dbgErr := true } →
      (dbgOp w = 1 → exec (.readReg w t) s = y) ∧ (dbgOp w = 2 → exec (.writeReg w t) s = y) ∧
      (dbgOp w = 3 → exec (.dbgStep w t) s = y) ∧ (dbgOp w = 4 → exec (.dbgResume w t) s = y)) ∧
    (∀ x g l, s.dbgThread w = some x → s.dbgMay x = true → x.pip = none → s.thread? x.ref x.lane = some x →
      s.group? x.ref = some g → s.launch? x.ref.launch = some l →
      (∀ o, dbgReg l g w = some o →
        ((∀ i, o ≠ .f i) → s.damage = [] →
          (dbgOp w = 1 → poisoned g x (o, 1) = false → exec (.readReg w t) s =
            .next { s with dbgData := readOp g x 0 .uint false o, dbgErr := false }) ∧
          (dbgOp w = 1 → poisoned g x (o, 1) = true → exec (.readReg w t) s = .next { s with dbgData := 0, dbgErr := true }) ∧
          (dbgOp w = 2 → exec (.writeReg w t) s = .next { (if perGroup o then s.modGroup x.ref (·.write o false s.dbgData)
            else s.modThread x.ref x.lane (·.write o false s.dbgData)) with dbgErr := false })) ∧
        (∀ i, o = .f i →
          (dbgOp w = 1 → exec (.readReg w t) s =
            .next { s with dbgData := if g.flags.get i.val ≠ 0 then 1 else 0, dbgErr := false }) ∧
          (dbgOp w = 2 → exec (.writeReg w t) s = .next { s with dbgErr := true }))) ∧
      (dbgReg l g w = none → (dbgOp w = 1 → exec (.readReg w t) s = .next { s with dbgErr := true }) ∧
        (dbgOp w = 2 → exec (.writeReg w t) s = .next { s with dbgErr := true })) ∧
      (dbgOp w = 3 → x.cond.acrossLanes = false → exec (.dbgStep w t) s =
        .next { (s.setGoing x (fun t => { t with stepping := true })) with dbgErr := false }) ∧
      (dbgOp w = 3 → x.cond.acrossLanes = true → exec (.dbgStep w t) s = .next { s with dbgErr := true }) ∧
      (dbgOp w = 4 → exec (.dbgResume w t) s =
        .next { (s.setGoing x (fun t => { t with stepping := false, pass := some t.pc })) with dbgErr := false }))

/-- FLIT_READ, FLIT_WRITE, FLIT_ATOMIC and FLIT_COLLECTIVE_DATA are performed, refused with a hint, rejected or relayed. For every
state with the port up and a flit of the event's type: one of a generation that is not accepted is rejected, its buffer entry
free; one for another device goes to the relay; of one for this device the entry owes a credit, and: where the export gives an
address, a read is answered with the words there and their poison, a write is performed at the home slice with its poison and
acknowledged, an atomic makes its operation on a sound word and answers the old value (a failing compare-and-swap needs a read
only), or tells of poison and writes nothing; where the serving cluster must walk first, each is refused with a hint; where
the export does not allow it, each is rejected, as is an atomic of no operation; a read that names no words is served as a
page of an image saved here (the model's form of that request, log 124); collective data is taken and acknowledged for the
team's launch that it names, and refused with a hint while there is none. The places of fields in payloads (log 98), the
atomic's reply with poison (log 102), the rejection of what the export forbids (log 103), the walk begun with a hint of 0 (log
104) and the acknowledgement of collective data (log 115) are the model's choices. (11 R261, 11 R265, 11 R266, 11 R267, 11
R270, 11 R273, 11 R277, 14 R362, 03 R73) -/
def Obligations.PeerRequestsAreServed : Prop :=
  ∀ (s s1 : State) (port pa : Nat) (f : Flit),
    let forms : List (Nat × Instr) :=
      [(1, .flitRead port f), (2, .flitWrite port f), (3, .flitAtomic port f), (6, .flitCollectiveData port f)]
    let at_ (ty : Nat) : State := s.oweCredit port ty
    let asked (ty n : Nat) (write : Bool) (r : Served) : Prop := (at_ ty).serveAt port (flitOffset f) n write = (s1, r)
    s.portUp port = true →
    (∀ x ∈ forms, hdrType f.hdr = x.1 →
      (s.accepted.contains (flitGen f) = false → exec x.2 s = .next ((at_ x.1).reject f.hdr)) ∧
      (s.accepted.contains (flitGen f) = true → hdrDst f.hdr ≠ s.devid → exec x.2 s = .next (s.relay port x.1 (.flit f)))) ∧
    (s.accepted.contains (flitGen f) = true → hdrDst f.hdr = s.devid →
      (hdrType f.hdr = 1 →
        (flitLen f = 0 → exec (.flitRead port f) s = .next ((at_ 1).servePage f)) ∧
        (flitLen f ≠ 0 →
          (asked 1 (4 * flitLen f) false (.ok pa) → ∀ s2 bs b psn body,
            s1.readHome pa (4 * flitLen f) s1.exportPasid = (s2, bs, b) →
            (psn, body) = dataPayload bs ((List.range (flitLen f)).map (fun i => s2.poisonedRange (pa + 4 * i) 4)) →
            exec (.flitRead port f) s = .next ((s2.notePoison s1.exportPasid pa psn).sendReply f 4 psn body)) ∧
          (asked 1 (4 * flitLen f) false .retry → exec (.flitRead port f) s = .next (s1.retryAfter f)) ∧
          (asked 1 (4 * flitLen f) false .fatal → exec (.flitRead port f) s = .next (s1.reject f.hdr)))) ∧
      (hdrType f.hdr = 2 → ∀ bs ps, flitWritten f = (bs, ps) →
        (asked 2 bs.length true (.ok pa) → ∀ bad,
          bad = (List.range ps.length).filterMap (fun i => if ps.getD i false then some (pa + 4 * i) else none) →
          exec (.flitWrite port f) s = .next (((s1.writeHome pa bs).spoilAll bad).sendReply f 5 false [])) ∧
        (asked 2 bs.length true .retry → exec (.flitWrite port f) s = .next (s1.retryAfter f)) ∧
        (asked 2 bs.length true .fatal → exec (.flitWrite port f) s = .next (s1.reject f.hdr))) ∧
      (hdrType f.hdr = 3 →
        (flitAtom f = none → exec (.flitAtomic port f) s = .next ((at_ 3).reject f.hdr)) ∧
        (∀ op ty v cmp, flitAtom f = some (op, ty, v, cmp) →
          (asked 3 ty.size true (.ok pa) → ∀ s2 bs o,
            (s1.readPlace pa ty.size s1.exportPasid = (s2, bs, true) → exec (.flitAtomic port f) s =
              .next ((s2.notePoison s2.exportPasid pa true).sendReply f 7 true (leBytes 1 8))) ∧
            (s1.readPlace pa ty.size s1.exportPasid = (s2, bs, false) → o = BitVec.ofNat 64 (leNat bs) →
              (op ≠ .cas ∨ o = cmp → exec (.flitAtomic port f) s =
                .next ((s2.writeHome pa (leBytes (atomNew op ty o v cmp).toNat ty.size)).sendReply f 7 false (leBytes o.toNat 8))) ∧
              (op = .cas → o ≠ cmp → exec (.flitAtomic port f) s =
                .next (((((at_ 3).serveAt port (flitOffset f) ty.size false).1.readPlace pa ty.size (at_ 3).exportPasid).1).sendReply
                  f 7 false (leBytes o.toNat 8))))) ∧
          (asked 3 ty.size true .retry → exec (.flitAtomic port f) s = .next (s1.retryAfter f)) ∧
          (asked 3 ty.size true .fatal → exec (.flitAtomic port f) s = .next (s1.reject f.hdr)))) ∧
      (hdrType f.hdr = 6 →
        ((at_ 6).teamLaunch (flitTag f) = none → exec (.flitCollectiveData port f) s = .next ((at_ 6).retryAfter f)) ∧
        (∀ l tm, (at_ 6).teamLaunch (flitTag f) = some l → l.lr.team = some tm →
          exec (.flitCollectiveData port f) s = .next (((at_ 6).takeColl l tm f).sendReply f 5 false []))))

/-- Replies end their transaction: its lane or its command goes on; refusals wait or stop the context. For every state with the
port up and a flit for this device of an accepted generation that answers a transaction: it leaves the list. One of an
instruction in flight completes its lane, with the value read, with nothing for a write, with the old value of an atomic, or
meets poison (a trap; without a destination the context stops); the piece of an FGET lands, one of an FPUT is done, a
collective's message is off its command, the reply to an engine's atomic ends it, the line of a page is kept. A refusal before
the 1,024th, or of a collective's message, sets the time of the next try to the hint times 64 clocks from now; another, and a
rejection, fail the transaction. A reply that answers nothing changes nothing but its buffer entry. (That a collective's
message is refused without limit is log 114, DEDUCED; the places in payloads are log 98, DESIGN CHOICE.) (11 R267, 11 R270, 11
R273, 11 R265, 11 R277, 14 R366, 03 R73) -/
def Obligations.PeerRepliesEndTheirTransactions : Prop :=
  ∀ (s : State) (port op : Nat) (f : Flit) (sf : ShortFlit) (t : Txn) (c : Cmd),
    let arrives (ty : Nat) : Prop := hdrType f.hdr = ty ∧ (s.oweCredit port ty).txnFor f.hdr = some t
    let lone (ty : Nat) (i : Instr) : Prop :=
      hdrType f.hdr = ty → (s.oweCredit port ty).txnFor f.hdr = none → exec i s = .next (s.oweCredit port ty)
    let done (ty : Nat) : State := (s.oweCredit port ty).dropTxn t.id
    let short (ty : Nat) : Prop := hdrType sf.hdr = ty ∧ hdrDst sf.hdr = s.devid ∧ (s.oweCredit port ty).txnFor sf.hdr = some t
    s.portUp port = true →
    (s.accepted.contains (flitGen f) = true → hdrDst f.hdr = s.devid →
      (lone 4 (.flitReadReply port f) ∧ lone 5 (.flitWriteAck port f) ∧ lone 7 (.flitAtomicReply port f)) ∧
      (t.op = some op →
        (arrives 4 → ((flitData f).2.any id = false →
            exec (.flitReadReply port f) s =
              .next ((done 4).arriveAndComplete op t.lane (remoteValue t (flitData f).1)).runReconf) ∧
          ((flitData f).2.any id = true →
            exec (.flitReadReply port f) s = .next ((done 4).trapFlight op (lanesOf [t.lane]) memUncorrectable).runReconf)) ∧
        (arrives 5 → exec (.flitWriteAck port f) s = .next ((done 5).arriveAndComplete op t.lane 0).runReconf) ∧
        (arrives 7 → (flitPsn f = false → exec (.flitAtomicReply port f) s =
            .next ((done 7).arriveAndComplete op t.lane (BitVec.ofNat 64 (fieldAt f.payload 0 8))).runReconf) ∧
          (flitPsn f = true → exec (.flitAtomicReply port f) s = .next ((done 7).poisonReplied op t.lane).runReconf))) ∧
      (∀ cmd, t.op = none → t.cmd = some cmd →
        (arrives 4 → (done 4).cmd? cmd = some c → exec (.flitReadReply port f) s =
          .next ((done 4).landPiece c t (flitData f).1 (flitData f).2).runReconf) ∧
        (arrives 5 → (done 5).cmd? cmd = some c →
          (c.kind = .put → exec (.flitWriteAck port f) s =
            .next ((done 5).fabDone cmd t.id ((FabDesc.of c.desc).chunkOf t)).runReconf) ∧
          (c.kind ≠ .put → exec (.flitWriteAck port f) s = .next ((done 5).forgetTxn cmd t.id).runReconf)) ∧
        (arrives 7 → (done 7).cmd? cmd = some c → exec (.flitAtomicReply port f) s =
          .next ((done 7).fatomReplied c t.id (BitVec.ofNat 64 (fieldAt f.payload 0 8)) (flitPsn f)).runReconf)) ∧
      (t.op = none → t.cmd = none → arrives 4 → exec (.flitReadReply port f) s =
        .next ((done 4).lineCame t.id (flitData f).1 (flitData f).2).runReconf)) ∧
    (short 0x11 →
      (t.refused + 1 < 1024 ∨ hdrType t.flit.hdr = 6 → exec (.retryAfter port sf) s =
        .next { s.oweCredit port 0x11 with
          txns := modify (fun (x : Txn) => x.id == t.id) (fun x => { x with
            refused := x.refused + 1
            resendAt := some ((s.oweCredit port 0x11).clock + BitVec.ofNat 64 (64 * (sf.body.extractLsb' 0 8).toNat)) })
            (s.oweCredit port 0x11).txns }) ∧
      (1024 ≤ t.refused + 1 → hdrType t.flit.hdr ≠ 6 →
        exec (.retryAfter port sf) s = .next ((s.oweCredit port 0x11).failTxn t).runReconf)) ∧
    (short 0x12 → exec (.staleReject port sf) s = .next ((s.oweCredit port 0x12).failTxn t).runReconf)

/-- REMOTE_RESEND, REROUTE_TIMEOUT, BUFFER_RELEASE, LINK_PROBE and COLLECTIVE_RESTART complete. For every state: a refused request
whose time has come, or one without a path that now has one, is sent again; one that has had none for 1 ms fails, and not
before; a buffer release at an up port gives back the credits of its body and tells the depths; a probe for this device
changes nothing but its credits; a restart of a collective of the launch it names, not yet past, marks it failed where its bit
32 is set, and otherwise withdraws every partial result and what the member said, and owes it this device's own again; a
restart for no such launch is left. (What a restart withdraws is log 114, what becomes of items without a path log 107, both
DEDUCED.) (03 R73, 11 R263, 11 R256, 11 R251, 11 R276, 11 R277) -/
def Obligations.RequestsAreSentAgainOrGivenUp : Prop :=
  ∀ (s : State) (txn port : Nat) (t : Txn) (f : ShortFlit) (l : Launch) (tm : Team),
    (s.txns.find? (·.id == txn) = some t →
      (∀ c, t.resendAt = some c → c.toNat ≤ s.clock.toNat → exec (.remoteResend txn) s = .next (s.resend t)) ∧
      (∀ since, t.resendAt = none → t.lost = some since →
        ((s.pathTo t.dst (flitOffset t.flit)).isSome = true → exec (.remoteResend txn) s = .next (s.resend t)) ∧
        (s.pathTo t.dst (flitOffset t.flit) = none → since + 1000 * microsecond ≤ s.time →
          exec (.rerouteTimeout txn) s = .next (s.failTxn t).runReconf) ∧
        (s.time < since + 1000 * microsecond → exec (.rerouteTimeout txn) s = .next s))) ∧
    (s.portUp port = true →
      (hdrType f.hdr = 0x10 → exec (.bufferRelease port f) s = .next (s.modPort port (fun p => { p with
        credits := (List.range 4).map (fun c => p.credits.getD c 0 + (f.body.extractLsb' (4 * c) 4).toNat)
        depths := (List.range 16).map (fun i => (f.body.extractLsb' (16 + 4 * i) 4).toNat) }))) ∧
      (hdrDst f.hdr = s.devid →
        (hdrType f.hdr = 0x15 → exec (.linkProbe port f) s = .next (s.oweCredit port 0x15)) ∧
        (∀ s1 seq, hdrType f.hdr = 0x14 → s1 = s.oweCredit port 0x14 → seq = (f.body.extractLsb' 0 32).toNat →
          (s1.teamLaunch (f.hdr.extractLsb' 88 40).toNat = none → exec (.collectiveRestart port f) s = .next s1) ∧
          (s1.teamLaunch (f.hdr.extractLsb' 88 40).toNat = some l → l.lr.team = some tm →
            (l.collseq ≤ seq ∨ (s1.coll? l.id seq).isSome = true →
              (f.body.getLsbD 32 = true → exec (.collectiveRestart port f) s =
                .next (((s1.openColl l.id seq).modColl l.id seq (fun x => { x with failed := true })).pumpColl l.id seq)) ∧
              (f.body.getLsbD 32 = false → exec (.collectiveRestart port f) s =
                .next (s1.modColl l.id seq (·.restart (tm.ranks.findIdx (· == hdrSrc f.hdr)) (hdrSrc f.hdr))))) ∧
            (seq < l.collseq → s1.coll? l.id seq = none → exec (.collectiveRestart port f) s = .next s1)))))

/-- LINK_FRAME, FRAME_TIME, BUFFER_RELEASE_FORCED, REPLAY_TIMEOUT, PORT_DOWN and TRAINING_FRAME complete. For every state with the
port on record: an up port refuses a frame that cannot be read; takes the acknowledgement of one that can, ignoring idle and
training frames' bodies; accepts the numbered frame it expects and has what it brings happen next, in order; refuses any
other; in a frame time, what waited for a path having been given one where there is one, a training port sends a training
frame (after 1,024 good ones an idle one), an up one what its slot carries, a down one of the plan begins to train; a release
63 frames overdue is sent where a new frame may be; 4,096 frame times without an acknowledgement replay every frame kept; a
port that trains or is up goes down; a training port that reads an unreadable frame before 1,024 good ones starts afresh,
checks a training frame, and comes up with the 64th idle frame in a row after them. (When training and idle frames are sent,
that an up port ignores training bodies and when a down port begins are log 112, DEDUCED.) (11 R248, 11 R249, 11 R252, 11
R253, 11 R254, 11 R255, 11 R256) -/
def Obligations.LinkLayerMovesFrames : Prop :=
  ∀ (s : State) (port : Nat) (p : Port) (bytes body : List Byte) (w : Nat),
    s.port? port = some p →
    (p.st = .up →
      (receive bytes = none → exec (.linkFrame port bytes) s = .next (s.modPort port (·.refuse))) ∧
      (receive bytes = some (body, w) →
        (bits w 28 26 = 0 ∨ bits w 28 26 = 3 → exec (.linkFrame port bytes) s = .next (s.modPort port (·.heard w)).runReconf) ∧
        (bits w 28 26 ≠ 0 → bits w 28 26 ≠ 3 → bits w 11 0 = p.expected → ∀ s1, s1 = s.modPort port (·.heard w) →
          exec (.linkFrame port bytes) s = .next { (s1.modPort port (·.accept)) with
            agenda := s1.agenda ++ (itemsOf (bits w 28 26) body).filterMap (arrivalOf port) }.runReconf) ∧
        (bits w 28 26 ≠ 0 → bits w 28 26 ≠ 3 → bits w 11 0 ≠ p.expected →
          exec (.linkFrame port bytes) s = .next ((s.modPort port (·.heard w)).modPort port (·.refuse)).runReconf)) ∧
      (p.owes = true → 63 ≤ p.owedWait → p.replay = [] → p.unacked.length < 1024 →
        exec (.bufferReleaseForced port) s = .next ((s.modPort port (·.tick)).emitRelease port)) ∧
      (p.unacked ≠ [] → 4096 ≤ p.ackWait → exec (.replayTimeout port) s =
        .next (s.modPort port (fun p => { p with replay := p.unacked.map (·.1), ackWait := 0 }))) ∧
      (∀ s1, s1 = (s.unstrand.modPort port (fun p => { p with
            ackWait := if p.unacked.isEmpty then 0 else p.ackWait + 1
            owedWait := if p.owes then p.owedWait + 1 else 0 })).emitUp port p →
        exec (.frameTime port) s = .next (s1.modPort port (fun q =>
          { q with slot := if q.st == .up then (p.slot + 1) % 16 else q.slot })).runReconf)) ∧
    (p.st ≠ .down → exec (.portDown port) s = .next (s.dropPort port)) ∧
    (p.st = .down →
      (s.mayTrain port = true → exec (.frameTime port) s = .next ((s.modPort port (fun p =>
        { p with st := .training 0 0, trainGen := s.tgen })).emitTraining port 0 s.tgen p.fseq)) ∧
      (s.mayTrain port = false → exec (.frameTime port) s = .next s ∧ exec (.trainingFrame port bytes) s = .next s)) ∧
    (∀ good idle, p.st = .training good idle →
      exec (.frameTime port) s = .next (s.unstrand.emitTraining port good p.trainGen p.fseq) ∧
      (receive bytes = none → exec (.trainingFrame port bytes) s =
        .next (s.modPort port (fun p => { p with st := .training (if good < 1024 then 0 else good) 0 })).runReconf) ∧
      (receive bytes = some (body, w) →
        (bits w 28 26 = 3 → exec (.trainingFrame port bytes) s = .next (s.takeTraining port p good body).runReconf) ∧
        (bits w 28 26 = 0 → 1024 ≤ good →
          (64 ≤ idle + 1 → exec (.trainingFrame port bytes) s = .next (s.modPort port (·.comeUp)).unstrand.runReconf) ∧
          (idle + 1 < 64 → exec (.trainingFrame port bytes) s =
            .next (s.modPort port (fun p => { p with st := .training good (idle + 1) })).runReconf)) ∧
        (bits w 28 26 ≠ 3 → bits w 28 26 ≠ 0 ∨ good < 1024 → exec (.trainingFrame port bytes) s =
          .next (s.modPort port (fun p => { p with st := .training 0 0 })).runReconf)))

/-- READY, GO, ABORT, the drain, ready and light timeouts and the switch's reply move a reconfiguration on or fail it. For every
state: at an up port, READY for this device is kept once and the reconfiguration looks again, GO from the coordinator in step
3 makes it accept the new generation, ABORT before that, also while the device drains still, fails it with nothing switched;
in step 2 a drained device goes on, and one not drained when drainbnd has passed fails; in step 3 the coordinator that misses
a member sends aborts and fails when readybnd has passed; once GO was given and lightbnd has passed since the mark of the
transition, the changed ports retrain under the old plan, and in the last step the command ends; the switch's good reply
trains the changed ports, another fails. A bound in microseconds passes with the time of clocks at their own steps' rates
(R389, which has them as times: log 10, DEDUCED); that ABORT acts in step 2 as in step 3 is the model's reading (log 116,
DEDUCED). (11 R280, 11 R281, 11 R282, 11 R283) -/
def Obligations.ReconfigurationEventsComplete : Prop :=
  ∀ (s : State) (port : Nat) (f : ShortFlit) (t : Transition) (p : BitVec 1024) (bytes : List Byte),
    let s1 : State := s.oweCredit port 0x13
    let r : Nat × BitVec 32 × Nat := (hdrSrc f.hdr, readyGen f, readyPlan f)
    let late (us : Nat) : Prop := t.since + us * microsecond ≤ s.time
    (s.portUp port = true → hdrType f.hdr = 0x13 → hdrDst f.hdr = s.devid →
      (readyKind f = 0 → s1.readies.contains r = false →
        exec (.ready port f) s = .next { s1 with readies := s1.readies ++ [r] }.runReconf) ∧
      (readyKind f = 1 → s1.transFor f [3] = some t → s1.planAt t.plan = some p →
        exec (.go port f) s =
          .next { s1 with trans := some { t with gone := true, changed := s1.changedPorts p, since := s1.time } }.runReconf) ∧
      (readyKind f = 2 → s1.transFor f [2, 3] = some t → exec (.abort port f) s = .next (s1.failEarly t).runReconf)) ∧
    (s.trans = some t →
      (t.step = 2 → s.drained = true → exec .reconfDrainDone s = .next s.runReconf) ∧
      (s.planAt t.plan = some p →
        (t.step = 2 → s.drained = false → late (planDrain p) → exec .reconfDrainTimeout s = .next (s.failEarly t).runReconf) ∧
        (t.step = 3 → planCoord p = s.devid → t.gone = false → s.allReady t p = false → late (planReady p) →
          exec .readyTimeout s = .next ((s.sendAborts t p).failEarly t).runReconf) ∧
        (t.step = 7 → late (planLight p) → exec .reconfLightTimeout s = .next (s.endReconf t stError).runReconf) ∧
        (t.step ≠ 7 → t.step ≠ 2 → t.gone = true → late (planLight p) →
          exec .reconfLightTimeout s = .next (s.failLate t).runReconf) ∧
        (t.step = 6 →
          (replyGood bytes = true → exec (.switchReply bytes) s = .next { (s.retrain t.changed p t.new) with
            trans := some { t with step := 5, since := if t.old = 0 then s.time else t.since } }.runReconf) ∧
          (replyGood bytes = false → exec (.switchReply bytes) s = .next (s.failLate t).runReconf))))

/-- The SPDM requests in their states answer and change the session as their order says; elsewhere each gets an error response
alone. For every state and request, R standing for the response (what the standard gives, with what the spec puts into it)
where the request's form is right and for an error response with nothing else changed where it is not: GET_VERSION starts
again; GET_CAPABILITIES, NEGOTIATE_ALGORITHMS, KEY_EXCHANGE and FINISH each go on from the state before; digests,
certificates, the challenge, measurements and vendor requests need negotiated algorithms, KEY_UPDATE, HEARTBEAT and
END_SESSION a session; losing a session makes a locked interface fall; in any other state, of another version, or for a
certificate slot beyond 1, the request gets an error response; BIND_P2P_STREAM_REQUEST and SET_MMIO_ATTRIBUTE_REQUEST get
UNSUPPORTED_REQUEST (the codes, the places in a request and the order of requests are the model's PRESUMED choice of the
standard's: log 145, 146). (15 R374, 15 R376, 15 R381) -/
def Obligations.SpdmRequestsFollowTheirOrder : Prop :=
  ∀ (s : State) (req : List Byte),
    let err : Out := .next { s with hostOut := s.hostOut ++ [.errorResponse .ofStandard] }
    let gives (o : Out) (ok : Prop) (code : Nat) (q more : List Byte) (f : State → State) : Prop :=
      (ok → (Config.requestOk code q = true → o = .next (f (s.respond code q more))) ∧
        (Config.requestOk code q = false → o = err)) ∧ (¬ ok → o = err)
    let form : Prop := fieldAt req 0 1 = 0x12 ∨ fieldAt req 0 1 = 0x13
    let slot (n : Nat) : Prop := n = 0 ∨ n = 1
    let known : Prop := Spdm.rank .negotiated ≤ s.spdm.rank ∧ form
    let secure : Prop := s.spdm = .session
    gives (exec (.getVersion req) s) (fieldAt req 0 1 = 0x10) 0x84 req [] (·.loseSession .version) ∧
    gives (exec (.getCapabilities req) s) (s.spdm = .version ∧ form) 0xE1 req [] (fun s => { s with spdm := .capabilities }) ∧
    gives (exec (.negotiateAlgorithms req) s) (s.spdm = .capabilities ∧ form ∧ offersOurs req = true) 0xE3 req []
      (fun s => { s with spdm := .negotiated }) ∧
    gives (exec (.getDigests req) s) known 0x81 req [] id ∧
    gives (exec (.getCertificate req) s) (known ∧ slot (fieldAt req 2 1)) 0x82 req [] id ∧
    gives (exec (.challenge req) s) (known ∧ slot (fieldAt req 2 1)) 0x83 req (signedBy (fieldAt req 2 1) req) id ∧
    (∀ m, s.measured (fieldAt req 3 1) = some m →
      gives (exec (.getMeasurements req) s) known 0xE0 req (m ++ Config.identitySign (req ++ m)) id) ∧
    (s.measured (fieldAt req 3 1) = none → exec (.getMeasurements req) s = err) ∧
    gives (exec (.keyExchange req) s) (s.spdm = .negotiated ∧ form ∧ slot (fieldAt req 3 1)) 0xE4 req (signedBy (fieldAt req 3 1) req)
      (fun s => { s with spdm := .exchanged }) ∧
    gives (exec (.finish req) s) (s.spdm = .exchanged ∧ form) 0xE5 req [] (fun s => { s with spdm := .session }) ∧
    gives (exec (.keyUpdate req) s) (secure ∧ form) 0xE9 req [] id ∧
    gives (exec .heartbeat s) secure 0xE8 [] [] id ∧
    gives (exec (.vendorDefinedRequest req) s) known 0xFE req [] id ∧
    gives (exec .endSession s) secure 0xEC [] [] (·.loseSession .negotiated) ∧
    (secure → exec .spdmSessionLoss s = .next ({ s with spdm := .start } : State).fallIfLocked) ∧
    (¬ secure → exec .spdmSessionLoss s = .next s) ∧
    exec (.unsupportedRequest (.other req)) s = err ∧
    ∀ o ∈ [OtherRequest.bindP2pStream req, .setMmioAttribute req], exec (.unsupportedRequest o) s =
      .next { s with hostOut := s.hostOut ++ [.errorResponse .unsupportedRequest] }

/-- The IDE_KM and TDISP requests in a session key the stream, lock, start, report and stop the interface; elsewhere an error. For
every state and request, with R as for SPDM: in a session KEY_PROG keys the stream, K_SET_GO makes a keyed one active,
K_SET_STOP ends it and a locked interface falls; LOCK needs an unlocked interface and the active stream, captures measurement
3 and locks; START needs a locked one and runs it; the report is given while locked or running, the state always; STOP scrubs
from any state but CONFIG_UNLOCKED (log 138); an integrity failure of an active stream ends it and a locked interface falls.
An interface that falls is in ERROR with no launch but the agents', no packet, child, logged fault, transaction or agenda left
and every port down; one that is unlocked or in ERROR stays as it is. (The codes and the session needed are PRESUMED, log 145
and 146; the stream's key states log 148; what falls with the interface log 137, DEDUCED.) (15 R374, 15 R375, 15 R376, 15
R379) -/
def Obligations.InterfaceRequestsMoveTheInterface : Prop :=
  ∀ (s : State) (req : List Byte),
    let err : Out := .next { s with hostOut := s.hostOut ++ [.errorResponse .ofStandard] }
    let gives (o : Out) (ok : Prop) (code : Nat) (q more : List Byte) (f : State → State) : Prop :=
      (ok → (Config.requestOk code q = true → o = .next (f (s.respond code q more))) ∧
        (Config.requestOk code q = false → o = err)) ∧ (¬ ok → o = err)
    let secure : Prop := s.spdm = .session
    gives (exec (.ideQuery req) s) secure 0x100 req [] id ∧
    gives (exec (.ideKeyProg req) s) secure 0x102 req [] (fun s => { s with ideKeyed := true }) ∧
    gives (exec (.ideKSetGo req) s) (secure ∧ s.ideKeyed = true) 0x104 req [] (fun s => { s with ide := true }) ∧
    gives (exec (.ideKSetStop req) s) secure 0x105 req []
      (fun s => ({ s with ide := false, ideKeyed := false } : State).fallIfLocked) ∧
    gives (exec .getTdispVersion s) secure 0x281 [] [] id ∧
    gives (exec .getTdispCapabilities s) secure 0x282 [] [] id ∧
    gives (exec (.lockInterfaceRequest req) s) (secure ∧ s.tdi = .unlocked ∧ s.ide = true) 0x283 req []
      (fun s => { s with tdi := .locked, meas3 := some s.trustBytes }) ∧
    gives (exec (.getDeviceInterfaceReport req) s) (secure ∧ (s.tdi = .locked ∨ s.tdi = .run)) 0x284 req
      (s.ifaceReport ++ Config.identitySign s.ifaceReport) id ∧
    gives (exec .getDeviceInterfaceState s) secure 0x285 [] [BitVec.ofNat 8 (tdiCode s.tdi)] id ∧
    gives (exec .startInterfaceRequest s) (secure ∧ s.tdi = .locked) 0x286 [] [] (fun s => { s with tdi := .run }) ∧
    gives (exec .stopInterfaceRequest s) secure 0x287 [] [] (fun s => if s.tdi = .unlocked then s else s.scrub) ∧
    (s.ide = true → exec .ideIntegrityFailure s = .next ({ s with ide := false } : State).fallIfLocked) ∧
    (s.ide = false → exec .ideIntegrityFailure s = .next s) ∧
    (s.tdi = .unlocked ∨ s.tdi = .error → s.fallIfLocked = s) ∧
    (s.tdi = .locked ∨ s.tdi = .run → s.fallIfLocked.tdi = .error ∧ (∀ l ∈ s.fallIfLocked.launches, l.agent = true) ∧ s.fallIfLocked.packets = [] ∧
      s.fallIfLocked.children = [] ∧ s.fallIfLocked.oplog = [] ∧ s.fallIfLocked.txns = [] ∧ s.fallIfLocked.agenda = [] ∧
      ∀ p ∈ s.fallIfLocked.ports, p.st = .down)
end

