-- ==== Sys2Proof/Laws/Exec.lean ====
section
/-! SUPPORT. Each instruction's execution is its meaning, one lemma per constructor: proofs cite these and never unfold exec. -/

namespace Sys2Proof.Machine

theorem exec_clause {flagX flagY wait} {s : State} : exec (.clause flagX flagY wait) s = execClause flagX flagY wait s := rfl
theorem exec_region {bnd off} {s : State} : exec (.region bnd off) s = execRegion bnd off s := rfl
theorem exec_nop {c} {s : State} : exec (.nop c) s = execNop c s := rfl
theorem exec_trap {c a} {s : State} : exec (.trap c a) s = execTrap c a s := rfl
theorem exec_brk {c} {s : State} : exec (.brk c) s = execBrk c s := rfl
theorem exec_rdsr {c d sr} {s : State} : exec (.rdsr c d sr) s = execRdsr c d sr s := rfl
theorem exec_wrsr {c sr a k} {s : State} : exec (.wrsr c sr a k) s = execWrsr c sr a k s := rfl
theorem exec_mov {c wide d a k} {s : State} : exec (.mov c wide d a k) s = execMov c wide d a k s := rfl
theorem exec_movi {c d k} {s : State} : exec (.movi c d k) s = execMovi c d k s := rfl
theorem exec_moviW {c d k} {s : State} : exec (.moviW c d k) s = execMoviW c d k s := rfl
theorem exec_moviHi {c d k} {s : State} : exec (.moviHi c d k) s = execMoviHi c d k s := rfl
theorem exec_umov {c wide d a k} {s : State} : exec (.umov c wide d a k) s = execUmov c wide d a k s := rfl
theorem exec_umovBc {c wide d a k} {s : State} : exec (.umovBc c wide d a k) s = execUmovBc c wide d a k s := rfl
theorem exec_umovLn {c wide d a b k} {s : State} : exec (.umovLn c wide d a b k) s = execUmovLn c wide d a b k s := rfl
theorem exec_hget {c d a} {s : State} : exec (.hget c d a) s = execHget c d a s := rfl
theorem exec_hput {c d a} {s : State} : exec (.hput c d a) s = execHput c d a s := rfl
theorem exec_bra {c off} {s : State} : exec (.bra c off) s = execBra c off s := rfl
theorem exec_braDv {c off} {s : State} : exec (.braDv c off) s = execBraDv c off s := rfl
theorem exec_brx {c a} {s : State} : exec (.brx c a) s = execBrx c a s := rfl
theorem exec_call {c off} {s : State} : exec (.call c off) s = execCall c off s := rfl
theorem exec_calli {c a} {s : State} : exec (.calli c a) s = execCalli c a s := rfl
theorem exec_callt {c a k} {s : State} : exec (.callt c a k) s = execCallt c a k s := rfl
theorem exec_ret {c} {s : State} : exec (.ret c) s = execRet c s := rfl
theorem exec_exit {c} {s : State} : exec (.exit c) s = execExit c s := rfl
theorem exec_rejoin {c} {s : State} : exec (.rejoin c) s = execRejoin c s := rfl
theorem exec_mjoin {c a} {s : State} : exec (.mjoin c a) s = execMjoin c a s := rfl
theorem exec_mset {c d a k} {s : State} : exec (.mset c d a k) s = execMset c d a k s := rfl
theorem exec_mget {c d a} {s : State} : exec (.mget c d a) s = execMget c d a s := rfl
theorem exec_yield {c} {s : State} : exec (.yield c) s = execYield c s := rfl
theorem exec_iadd {c ty sat d a b k} {s : State} : exec (.iadd c ty sat d a b k) s = execIadd c ty sat d a b k s := rfl
theorem exec_iadd3 {c ty sat d a b e} {s : State} : exec (.iadd3 c ty sat d a b e) s = execIadd3 c ty sat d a b e s := rfl
theorem exec_isub {c ty sat d a b k} {s : State} : exec (.isub c ty sat d a b k) s = execIsub c ty sat d a b k s := rfl
theorem exec_imul {c ty d a b k} {s : State} : exec (.imul c ty d a b k) s = execImul c ty d a b k s := rfl
theorem exec_imulh {c ty d a b k} {s : State} : exec (.imulh c ty d a b k) s = execImulh c ty d a b k s := rfl
theorem exec_imad {c ty sat d a b e} {s : State} : exec (.imad c ty sat d a b e) s = execImad c ty sat d a b e s := rfl
theorem exec_imadw {c ty d a b e} {s : State} : exec (.imadw c ty d a b e) s = execImadw c ty d a b e s := rfl
theorem exec_iabs {c ty sat d a k} {s : State} : exec (.iabs c ty sat d a k) s = execIabs c ty sat d a k s := rfl
theorem exec_ineg {c ty sat d a k} {s : State} : exec (.ineg c ty sat d a k) s = execIneg c ty sat d a k s := rfl
theorem exec_imin {c ty d a b k} {s : State} : exec (.imin c ty d a b k) s = execImin c ty d a b k s := rfl
theorem exec_imax {c ty d a b k} {s : State} : exec (.imax c ty d a b k) s = execImax c ty d a b k s := rfl
theorem exec_isad {c ty d a b e} {s : State} : exec (.isad c ty d a b e) s = execIsad c ty d a b e s := rfl
theorem exec_lea {c wide sh d a b k} {s : State} : exec (.lea c wide sh d a b k) s = execLea c wide sh d a b k s := rfl
theorem exec_addc {c wide d a b e} {s : State} : exec (.addc c wide d a b e) s = execAddc c wide d a b e s := rfl
theorem exec_subc {c wide d a b e} {s : State} : exec (.subc c wide d a b e) s = execSubc c wide d a b e s := rfl
theorem exec_andb {c wide d a b k} {s : State} : exec (.andb c wide d a b k) s = execAndb c wide d a b k s := rfl
theorem exec_orb {c wide d a b k} {s : State} : exec (.orb c wide d a b k) s = execOrb c wide d a b k s := rfl
theorem exec_xorb {c wide d a b k} {s : State} : exec (.xorb c wide d a b k) s = execXorb c wide d a b k s := rfl
theorem exec_notb {c wide d a k} {s : State} : exec (.notb c wide d a k) s = execNotb c wide d a k s := rfl
theorem exec_tlog {c tt d a b e} {s : State} : exec (.tlog c tt d a b e) s = execTlog c tt d a b e s := rfl
theorem exec_shl {c wide d a b k} {s : State} : exec (.shl c wide d a b k) s = execShl c wide d a b k s := rfl
theorem exec_shr {c wide d a b k} {s : State} : exec (.shr c wide d a b k) s = execShr c wide d a b k s := rfl
theorem exec_sar {c wide d a b k} {s : State} : exec (.sar c wide d a b k) s = execSar c wide d a b k s := rfl
theorem exec_funl {c d a b e} {s : State} : exec (.funl c d a b e) s = execFunl c d a b e s := rfl
theorem exec_funr {c d a b e} {s : State} : exec (.funr c d a b e) s = execFunr c d a b e s := rfl
theorem exec_rot {c wide right d a b k} {s : State} :
    exec (.rot c wide right d a b k) s = execRot c wide right d a b k s := rfl
theorem exec_bfe {c ty d a b k} {s : State} : exec (.bfe c ty d a b k) s = execBfe c ty d a b k s := rfl
theorem exec_bfi {c wide d a b e} {s : State} : exec (.bfi c wide d a b e) s = execBfi c wide d a b e s := rfl
theorem exec_bmsk {c d a b k} {s : State} : exec (.bmsk c d a b k) s = execBmsk c d a b k s := rfl
theorem exec_popc {c wide d a k} {s : State} : exec (.popc c wide d a k) s = execPopc c wide d a k s := rfl
theorem exec_clz {c wide d a k} {s : State} : exec (.clz c wide d a k) s = execClz c wide d a k s := rfl
theorem exec_ctz {c wide d a k} {s : State} : exec (.ctz c wide d a k) s = execCtz c wide d a k s := rfl
theorem exec_brev {c wide d a k} {s : State} : exec (.brev c wide d a k) s = execBrev c wide d a k s := rfl
theorem exec_bysel {c d a b e} {s : State} : exec (.bysel c d a b e) s = execBysel c d a b e s := rfl
theorem exec_isetp {c ty cmp d a b k} {s : State} : exec (.isetp c ty cmp d a b k) s = execIsetp c ty cmp d a b k s := rfl
theorem exec_fsetp {c cmp unord d a b k} {s : State} :
    exec (.fsetp c cmp unord d a b k) s = execFsetp c cmp unord d a b k s := rfl
theorem exec_hsetp2 {c ty cmp unord d a b e} {s : State} :
    exec (.hsetp2 c ty cmp unord d a b e) s = execHsetp2 c ty cmp unord d a b e s := rfl
theorem exec_sel {c wide d a b e} {s : State} : exec (.sel c wide d a b e) s = execSel c wide d a b e s := rfl
theorem exec_pset {c tt d a b e} {s : State} : exec (.pset c tt d a b e) s = execPset c tt d a b e s := rfl
theorem exec_p2v {c d} {s : State} : exec (.p2v c d) s = execP2v c d s := rfl
theorem exec_v2p {c a b k} {s : State} : exec (.v2p c a b k) s = execV2p c a b k s := rfl
theorem exec_fadd {c rm ftz d a b k} {s : State} : exec (.fadd c rm ftz d a b k) s = execFadd c rm ftz d a b k s := rfl
theorem exec_fsub {c rm ftz d a b k} {s : State} : exec (.fsub c rm ftz d a b k) s = execFsub c rm ftz d a b k s := rfl
theorem exec_fmul {c rm ftz d a b k} {s : State} : exec (.fmul c rm ftz d a b k) s = execFmul c rm ftz d a b k s := rfl
theorem exec_ffma {c rm ftz d a b e} {s : State} : exec (.ffma c rm ftz d a b e) s = execFfma c rm ftz d a b e s := rfl
theorem exec_fmin {c nan ftz d a b k} {s : State} : exec (.fmin c nan ftz d a b k) s = execFmin c nan ftz d a b k s := rfl
theorem exec_fmax {c nan ftz d a b k} {s : State} : exec (.fmax c nan ftz d a b k) s = execFmax c nan ftz d a b k s := rfl
theorem exec_fdiv {c rm ftz d a b k} {s : State} : exec (.fdiv c rm ftz d a b k) s = execFdiv c rm ftz d a b k s := rfl
theorem exec_fsqrt {c rm ftz d a k} {s : State} : exec (.fsqrt c rm ftz d a k) s = execFsqrt c rm ftz d a k s := rfl
theorem exec_frcp {c rm ftz d a k} {s : State} : exec (.frcp c rm ftz d a k) s = execFrcp c rm ftz d a k s := rfl
theorem exec_frsq {c ftz d a k} {s : State} : exec (.frsq c ftz d a k) s = execFrsq c ftz d a k s := rfl
theorem exec_fex2 {c ftz d a k} {s : State} : exec (.fex2 c ftz d a k) s = execFex2 c ftz d a k s := rfl
theorem exec_flg2 {c ftz d a k} {s : State} : exec (.flg2 c ftz d a k) s = execFlg2 c ftz d a k s := rfl
theorem exec_fsin {c ftz d a k} {s : State} : exec (.fsin c ftz d a k) s = execFsin c ftz d a k s := rfl
theorem exec_fcos {c ftz d a k} {s : State} : exec (.fcos c ftz d a k) s = execFcos c ftz d a k s := rfl
theorem exec_ftanh {c ftz d a k} {s : State} : exec (.ftanh c ftz d a k) s = execFtanh c ftz d a k s := rfl
theorem exec_fclass {c d a k} {s : State} : exec (.fclass c d a k) s = execFclass c d a k s := rfl
theorem exec_hadd2 {c ty rm d a b} {s : State} : exec (.hadd2 c ty rm d a b) s = execHadd2 c ty rm d a b s := rfl
theorem exec_hmul2 {c ty rm d a b} {s : State} : exec (.hmul2 c ty rm d a b) s = execHmul2 c ty rm d a b s := rfl
theorem exec_hfma2 {c ty rm d a b e} {s : State} : exec (.hfma2 c ty rm d a b e) s = execHfma2 c ty rm d a b e s := rfl
theorem exec_hmin2 {c ty nan d a b} {s : State} : exec (.hmin2 c ty nan d a b) s = execHmin2 c ty nan d a b s := rfl
theorem exec_hmax2 {c ty nan d a b} {s : State} : exec (.hmax2 c ty nan d a b) s = execHmax2 c ty nan d a b s := rfl
theorem exec_cvt {c dty sty rm sat d a} {s : State} :
    exec (.cvt c dty sty rm sat d a) s = execCvt c dty sty rm sat d a s := rfl
theorem exec_cvth {c dty sty rm sat d a b} {s : State} :
    exec (.cvth c dty sty rm sat d a b) s = execCvth c dty sty rm sat d a b s := rfl
theorem exec_frnd {c ty rm d a} {s : State} : exec (.frnd c ty rm d a) s = execFrnd c ty rm d a s := rfl
theorem exec_qnt {c useB slot d a b} {s : State} : exec (.qnt c useB slot d a b) s = execQnt c useB slot d a b s := rfl
theorem exec_dqnt {c useB slot d a b} {s : State} : exec (.dqnt c useB slot d a b) s = execDqnt c useB slot d a b s := rfl
theorem exec_idiv {c ty d a b k} {s : State} : exec (.idiv c ty d a b k) s = execIdiv c ty d a b k s := rfl
theorem exec_irem {c ty d a b k} {s : State} : exec (.irem c ty d a b k) s = execIrem c ty d a b k s := rfl
theorem exec_ld {c ty scale d a idx mc} {s : State} :
    exec (.ld c ty scale d a idx mc) s = execLd c ty scale d a idx mc s := rfl
theorem exec_st {c ty scale d a idx mc} {s : State} :
    exec (.st c ty scale d a idx mc) s = execSt c ty scale d a idx mc s := rfl
theorem exec_ldsp {c ty scale d a idx mc} {s : State} :
    exec (.ldsp c ty scale d a idx mc) s = execLdsp c ty scale d a idx mc s := rfl
theorem exec_stsp {c ty scale d a idx mc} {s : State} :
    exec (.stsp c ty scale d a idx mc) s = execStsp c ty scale d a idx mc s := rfl
theorem exec_ldc {c ty lr scale d a idx mc} {s : State} :
    exec (.ldc c ty lr scale d a idx mc) s = execLdc c ty lr scale d a idx mc s := rfl
theorem exec_atom {c ty op d a b mc} {s : State} : exec (.atom c ty op d a b mc) s = execAtom c ty op d a b mc s := rfl
theorem exec_red {c ty op a b mc} {s : State} : exec (.red c ty op a b mc) s = execRed c ty op a b mc s := rfl
theorem exec_fence {c rp scope order} {s : State} : exec (.fence c rp scope order) s = execFence c rp scope order s := rfl
theorem exec_pref {c slice a idx offset} {s : State} :
    exec (.pref c slice a idx offset) s = execPref c slice a idx offset s := rfl
theorem exec_shfl {c mode wide d a b msk} {s : State} :
    exec (.shfl c mode wide d a b msk) s = execShfl c mode wide d a b msk s := rfl
theorem exec_vote {c mode d a msk} {s : State} : exec (.vote c mode d a msk) s = execVote c mode d a msk s := rfl
theorem exec_ballot {c d a msk} {s : State} : exec (.ballot c d a msk) s = execBallot c d a msk s := rfl
theorem exec_gred {c ty op d a msk} {s : State} : exec (.gred c ty op d a msk) s = execGred c ty op d a msk s := rfl
theorem exec_gscan {c ty op excl d a msk} {s : State} :
    exec (.gscan c ty op excl d a msk) s = execGscan c ty op excl d a msk s := rfl
theorem exec_garg {c ty nanwin hash isMin d a b msk} {s : State} :
    exec (.garg c ty nanwin hash isMin d a b msk) s = execGarg c ty nanwin hash isMin d a b msk s := rfl
theorem exec_matchOp {c wide all d a msk} {s : State} :
    exec (.matchOp c wide all d a msk) s = execMatchOp c wide all d a msk s := rfl
theorem exec_elect {c d msk} {s : State} : exec (.elect c d msk) s = execElect c d msk s := rfl
theorem exec_bxch {c wide d a b e} {s : State} : exec (.bxch c wide d a b e) s = execBxch c wide d a b e s := rfl
theorem exec_acopy {c cb dims dir d a b} {s : State} :
    exec (.acopy c cb dims dir d a b) s = execAcopy c cb dims dir d a b s := rfl
theorem exec_dcmp {c sp d a} {s : State} : exec (.dcmp c sp d a) s = execDcmp c sp d a s := rfl
theorem exec_fwait {c d a} {s : State} : exec (.fwait c d a) s = execFwait c d a s := rfl
theorem exec_ftest {c d a} {s : State} : exec (.ftest c d a) s = execFtest c d a s := rfl
theorem exec_fcancel {c a} {s : State} : exec (.fcancel c a) s = execFcancel c a s := rfl
theorem exec_waitc {c scope cls a} {s : State} : exec (.waitc c scope cls a) s = execWaitc c scope cls a s := rfl
theorem exec_qpush {c a b} {s : State} : exec (.qpush c a b) s = execQpush c a b s := rfl
theorem exec_qpop {c d a} {s : State} : exec (.qpop c d a) s = execQpop c d a s := rfl
theorem exec_qtryPush {c d a b} {s : State} : exec (.qtryPush c d a b) s = execQtryPush c d a b s := rfl
theorem exec_qtryPop {c d a e} {s : State} : exec (.qtryPop c d a e) s = execQtryPop c d a e s := rfl
theorem exec_mres {c d} {s : State} : exec (.mres c d) s = execMres c d s := rfl
theorem exec_mrel {c} {s : State} : exec (.mrel c) s = execMrel c s := rfl
theorem exec_mldw {c slot d a} {s : State} : exec (.mldw c slot d a) s = execMldw c slot d a s := rfl
theorem exec_mzero {c d} {s : State} : exec (.mzero c d) s = execMzero c d s := rfl
theorem exec_mma {c slot d a b} {s : State} : exec (.mma c slot d a b) s = execMma c slot d a b s := rfl
theorem exec_mmas {c slot d a b} {s : State} : exec (.mmas c slot d a b) s = execMmas c slot d a b s := rfl
theorem exec_mst {c ty bias rs rm d a b} {s : State} :
    exec (.mst c ty bias rs rm d a b) s = execMst c ty bias rs rm d a b s := rfl
theorem exec_mcommit {c} {s : State} : exec (.mcommit c) s = execMcommit c s := rfl
theorem exec_bar {c a b k} {s : State} : exec (.bar c a b k) s = execBar c a b k s := rfl
theorem exec_bara {c a b k} {s : State} : exec (.bara c a b k) s = execBara c a b k s := rfl
theorem exec_barw {c a} {s : State} : exec (.barw c a) s = execBarw c a s := rfl
theorem exec_wbar {c ext} {s : State} : exec (.wbar c ext) s = execWbar c ext s := rfl
theorem exec_flushpt {c} {s : State} : exec (.flushpt c) s = execFlushpt c s := rfl
theorem exec_dlaunch {c d a e} {s : State} : exec (.dlaunch c d a e) s = execDlaunch c d a e s := rfl
theorem exec_fput {c d a} {s : State} : exec (.fput c d a) s = execFput c d a s := rfl
theorem exec_fget {c d a} {s : State} : exec (.fget c d a) s = execFget c d a s := rfl
theorem exec_fatom {c ty op d a b mc} {s : State} : exec (.fatom c ty op d a b mc) s = execFatom c ty op d a b mc s := rfl
theorem exec_coll {c ty op kind d a} {s : State} : exec (.coll c ty op kind d a) s = execColl c ty op kind d a s := rfl
theorem exec_reconf {c d a b k} {s : State} : exec (.reconf c d a b k) s = execReconf c d a b k s := rfl
theorem exec_tgset {c a k} {s : State} : exec (.tgset c a k) s = execTgset c a k s := rfl
theorem exec_issueArbitration {core pipe} {s : State} :
    exec (.issueArbitration core pipe) s = execIssueArbitration core pipe s := rfl
theorem exec_pipIssue {cluster pip} {s : State} : exec (.pipIssue cluster pip) s = execPipIssue cluster pip s := rfl
theorem exec_ejectSoftTimeout {g} {s : State} : exec (.ejectSoftTimeout g) s = execEjectSoftTimeout g s := rfl
theorem exec_ejectHardTimeout {g lane} {s : State} : exec (.ejectHardTimeout g lane) s = execEjectHardTimeout g lane s := rfl
theorem exec_longLatencyComplete {op} {s : State} : exec (.longLatencyComplete op) s = execLongLatencyComplete op s := rfl
theorem exec_pageWalk {cluster pasid va acc} {s : State} :
    exec (.pageWalk cluster pasid va acc) s = execPageWalk cluster pasid va acc s := rfl
theorem exec_faultResolved {entry} {s : State} : exec (.faultResolved entry) s = execFaultResolved entry s := rfl
theorem exec_faultUnresolvable {entry} {s : State} : exec (.faultUnresolvable entry) s = execFaultUnresolvable entry s := rfl
theorem exec_bindingResolved {launch k target} {s : State} :
    exec (.bindingResolved launch k target) s = execBindingResolved launch k target s := rfl
theorem exec_bindingFailed {launch k} {s : State} : exec (.bindingFailed launch k) s = execBindingFailed launch k s := rfl
theorem exec_shootdownStart {w t} {s : State} : exec (.shootdownStart w t) s = execShootdownStart w t s := rfl
theorem exec_sddropClear {w t} {s : State} : exec (.sddropClear w t) s = execSddropClear w t s := rfl
theorem exec_shootdownAck {cluster} {s : State} : exec (.shootdownAck cluster) s = execShootdownAck cluster s := rfl
theorem exec_flushComplete {launch} {s : State} : exec (.flushComplete launch) s = execFlushComplete launch s := rfl
theorem exec_flushFaultResolved {launch} {s : State} :
    exec (.flushFaultResolved launch) s = execFlushFaultResolved launch s := rfl
theorem exec_copyChunkComplete {cmd chunk} {s : State} :
    exec (.copyChunkComplete cmd chunk) s = execCopyChunkComplete cmd chunk s := rfl
theorem exec_copyComplete {cmd} {s : State} : exec (.copyComplete cmd) s = execCopyComplete cmd s := rfl
theorem exec_dcmpJobComplete {cmd} {s : State} : exec (.dcmpJobComplete cmd) s = execDcmpJobComplete cmd s := rfl
theorem exec_matrixCommandStart {pair} {s : State} : exec (.matrixCommandStart pair) s = execMatrixCommandStart pair s := rfl
theorem exec_matrixCommandComplete {pair} {s : State} :
    exec (.matrixCommandComplete pair) s = execMatrixCommandComplete pair s := rfl
theorem exec_scrubStep {codeword err} {s : State} : exec (.scrubStep codeword err) s = execScrubStep codeword err s := rfl
theorem exec_deviceReset {pkg} {s : State} : exec (.deviceReset pkg) s = execDeviceReset pkg s := rfl
theorem exec_watchdogExpiry {launch} {s : State} : exec (.watchdogExpiry launch) s = execWatchdogExpiry launch s := rfl
theorem exec_notify {page off width w t} {s : State} :
    exec (.notify page off width w t) s = execNotify page off width w t s := rfl
theorem exec_nopPacket {q} {s : State} : exec (.nopPacket q) s = execNopPacket q s := rfl
theorem exec_launchPacket {q} {s : State} : exec (.launchPacket q) s = execLaunchPacket q s := rfl
theorem exec_waitSignalPacket {q} {s : State} : exec (.waitSignalPacket q) s = execWaitSignalPacket q s := rfl
theorem exec_setSignalPacket {q} {s : State} : exec (.setSignalPacket q) s = execSetSignalPacket q s := rfl
theorem exec_imageSavePacket {q} {s : State} : exec (.imageSavePacket q) s = execImageSavePacket q s := rfl
theorem exec_imageLoadPacket {q} {s : State} : exec (.imageLoadPacket q) s = execImageLoadPacket q s := rfl
theorem exec_dirtyHarvestPacket {q} {s : State} : exec (.dirtyHarvestPacket q) s = execDirtyHarvestPacket q s := rfl
theorem exec_planLoadPacket {q} {s : State} : exec (.planLoadPacket q) s = execPlanLoadPacket q s := rfl
theorem exec_invalidPacket {q} {s : State} : exec (.invalidPacket q) s = execInvalidPacket q s := rfl
theorem exec_packetComplete {q idx} {s : State} : exec (.packetComplete q idx) s = execPacketComplete q idx s := rfl
theorem exec_blockClaim {launch core pair} {s : State} :
    exec (.blockClaim launch core pair) s = execBlockClaim launch core pair s := rfl
theorem exec_blockMigrate {launch blk core pair} {s : State} :
    exec (.blockMigrate launch blk core pair) s = execBlockMigrate launch blk core pair s := rfl
theorem exec_blockImageOut {launch blk} {s : State} :
    exec (.blockImageOut launch blk) s = execBlockImageOut launch blk s := rfl
theorem exec_blockRetire {launch blk} {s : State} : exec (.blockRetire launch blk) s = execBlockRetire launch blk s := rfl
theorem exec_childAdmission {entry} {s : State} : exec (.childAdmission entry) s = execChildAdmission entry s := rfl
theorem exec_preempt {launch} {s : State} : exec (.preempt launch) s = execPreempt launch s := rfl
theorem exec_prooferClauseLimit {g lane} {s : State} :
    exec (.prooferClauseLimit g lane) s = execProoferClauseLimit g lane s := rfl
theorem exec_remoteResend {txn} {s : State} : exec (.remoteResend txn) s = execRemoteResend txn s := rfl
theorem exec_flitRead {port f} {s : State} : exec (.flitRead port f) s = execFlitRead port f s := rfl
theorem exec_flitWrite {port f} {s : State} : exec (.flitWrite port f) s = execFlitWrite port f s := rfl
theorem exec_flitAtomic {port f} {s : State} : exec (.flitAtomic port f) s = execFlitAtomic port f s := rfl
theorem exec_flitReadReply {port f} {s : State} : exec (.flitReadReply port f) s = execFlitReadReply port f s := rfl
theorem exec_flitWriteAck {port f} {s : State} : exec (.flitWriteAck port f) s = execFlitWriteAck port f s := rfl
theorem exec_flitCollectiveData {port f} {s : State} :
    exec (.flitCollectiveData port f) s = execFlitCollectiveData port f s := rfl
theorem exec_flitAtomicReply {port f} {s : State} : exec (.flitAtomicReply port f) s = execFlitAtomicReply port f s := rfl
theorem exec_bufferRelease {port f} {s : State} : exec (.bufferRelease port f) s = execBufferRelease port f s := rfl
theorem exec_bufferReleaseForced {port} {s : State} :
    exec (.bufferReleaseForced port) s = execBufferReleaseForced port s := rfl
theorem exec_retryAfter {port f} {s : State} : exec (.retryAfter port f) s = execRetryAfter port f s := rfl
theorem exec_staleReject {port f} {s : State} : exec (.staleReject port f) s = execStaleReject port f s := rfl
theorem exec_ready {port f} {s : State} : exec (.ready port f) s = execReady port f s := rfl
theorem exec_go {port f} {s : State} : exec (.go port f) s = execGo port f s := rfl
theorem exec_abort {port f} {s : State} : exec (.abort port f) s = execAbort port f s := rfl
theorem exec_collectiveRestart {port f} {s : State} :
    exec (.collectiveRestart port f) s = execCollectiveRestart port f s := rfl
theorem exec_linkProbe {port f} {s : State} : exec (.linkProbe port f) s = execLinkProbe port f s := rfl
theorem exec_linkFrame {port bytes} {s : State} : exec (.linkFrame port bytes) s = execLinkFrame port bytes s := rfl
theorem exec_replayTimeout {port} {s : State} : exec (.replayTimeout port) s = execReplayTimeout port s := rfl
theorem exec_trainingFrame {port bytes} {s : State} :
    exec (.trainingFrame port bytes) s = execTrainingFrame port bytes s := rfl
theorem exec_portDown {port} {s : State} : exec (.portDown port) s = execPortDown port s := rfl
theorem exec_rerouteTimeout {txn} {s : State} : exec (.rerouteTimeout txn) s = execRerouteTimeout txn s := rfl
theorem exec_switchReply {bytes} {s : State} : exec (.switchReply bytes) s = execSwitchReply bytes s := rfl
theorem exec_throttleTick {pnow tj} {s : State} : exec (.throttleTick pnow tj) s = execThrottleTick pnow tj s := rfl
theorem exec_hostBar4Read {addr len t} {s : State} : exec (.hostBar4Read addr len t) s = execHostBar4Read addr len t s := rfl
theorem exec_hostBar4Write {addr data t} {s : State} :
    exec (.hostBar4Write addr data t) s = execHostBar4Write addr data t s := rfl
theorem exec_hostAtomicop {op wide addr v cmp t} {s : State} :
    exec (.hostAtomicop op wide addr v cmp t) s = execHostAtomicop op wide addr v cmp t s := rfl
theorem exec_registerWrite {space off w t} {s : State} :
    exec (.registerWrite space off w t) s = execRegisterWrite space off w t s := rfl
theorem exec_debugControlWrite {w t} {s : State} : exec (.debugControlWrite w t) s = execDebugControlWrite w t s := rfl
theorem exec_readReg {w t} {s : State} : exec (.readReg w t) s = execReadReg w t s := rfl
theorem exec_writeReg {w t} {s : State} : exec (.writeReg w t) s = execWriteReg w t s := rfl
theorem exec_dbgStep {w t} {s : State} : exec (.dbgStep w t) s = execDbgStep w t s := rfl
theorem exec_dbgResume {w t} {s : State} : exec (.dbgResume w t) s = execDbgResume w t s := rfl
theorem exec_getVersion {req} {s : State} : exec (.getVersion req) s = execGetVersion req s := rfl
theorem exec_getCapabilities {req} {s : State} : exec (.getCapabilities req) s = execGetCapabilities req s := rfl
theorem exec_negotiateAlgorithms {req} {s : State} : exec (.negotiateAlgorithms req) s = execNegotiateAlgorithms req s := rfl
theorem exec_getDigests {req} {s : State} : exec (.getDigests req) s = execGetDigests req s := rfl
theorem exec_getCertificate {req} {s : State} : exec (.getCertificate req) s = execGetCertificate req s := rfl
theorem exec_challenge {req} {s : State} : exec (.challenge req) s = execChallenge req s := rfl
theorem exec_getMeasurements {req} {s : State} : exec (.getMeasurements req) s = execGetMeasurements req s := rfl
theorem exec_keyExchange {req} {s : State} : exec (.keyExchange req) s = execKeyExchange req s := rfl
theorem exec_finish {req} {s : State} : exec (.finish req) s = execFinish req s := rfl
theorem exec_keyUpdate {req} {s : State} : exec (.keyUpdate req) s = execKeyUpdate req s := rfl
theorem exec_vendorDefinedRequest {req} {s : State} :
    exec (.vendorDefinedRequest req) s = execVendorDefinedRequest req s := rfl
theorem exec_ideQuery {req} {s : State} : exec (.ideQuery req) s = execIdeQuery req s := rfl
theorem exec_ideKeyProg {req} {s : State} : exec (.ideKeyProg req) s = execIdeKeyProg req s := rfl
theorem exec_ideKSetGo {req} {s : State} : exec (.ideKSetGo req) s = execIdeKSetGo req s := rfl
theorem exec_ideKSetStop {req} {s : State} : exec (.ideKSetStop req) s = execIdeKSetStop req s := rfl
theorem exec_lockInterfaceRequest {req} {s : State} :
    exec (.lockInterfaceRequest req) s = execLockInterfaceRequest req s := rfl
theorem exec_getDeviceInterfaceReport {req} {s : State} :
    exec (.getDeviceInterfaceReport req) s = execGetDeviceInterfaceReport req s := rfl
theorem exec_unsupportedRequest {req} {s : State} : exec (.unsupportedRequest req) s = execUnsupportedRequest req s := rfl
theorem exec_unassignedOpcode {w} {s : State} : exec (.unassignedOpcode w) s = execUnassignedOpcode w s := rfl
theorem exec_frameTime {port} {s : State} : exec (.frameTime port) s = execFrameTime port s := rfl
theorem exec_clusterPowerGate {cluster off} {s : State} :
    exec (.clusterPowerGate cluster off) s = execClusterPowerGate cluster off s := rfl
theorem exec_reconfDrainDone {s : State} : exec (.reconfDrainDone) s = execReconfDrainDone s := rfl
theorem exec_reconfDrainTimeout {s : State} : exec (.reconfDrainTimeout) s = execReconfDrainTimeout s := rfl
theorem exec_readyTimeout {s : State} : exec (.readyTimeout) s = execReadyTimeout s := rfl
theorem exec_reconfLightTimeout {s : State} : exec (.reconfLightTimeout) s = execReconfLightTimeout s := rfl
theorem exec_heartbeat {s : State} : exec (.heartbeat) s = execHeartbeat s := rfl
theorem exec_endSession {s : State} : exec (.endSession) s = execEndSession s := rfl
theorem exec_spdmSessionLoss {s : State} : exec (.spdmSessionLoss) s = execSpdmSessionLoss s := rfl
theorem exec_ideIntegrityFailure {s : State} : exec (.ideIntegrityFailure) s = execIdeIntegrityFailure s := rfl
theorem exec_getTdispVersion {s : State} : exec (.getTdispVersion) s = execGetTdispVersion s := rfl
theorem exec_getTdispCapabilities {s : State} : exec (.getTdispCapabilities) s = execGetTdispCapabilities s := rfl
theorem exec_getDeviceInterfaceState {s : State} : exec (.getDeviceInterfaceState) s = execGetDeviceInterfaceState s := rfl
theorem exec_startInterfaceRequest {s : State} : exec (.startInterfaceRequest) s = execStartInterfaceRequest s := rfl
theorem exec_stopInterfaceRequest {s : State} : exec (.stopInterfaceRequest) s = execStopInterfaceRequest s := rfl

end Sys2Proof.Machine
end

