-- ==== Sys2Proof/Laws/State.lean ====
section
/-! SUPPORT. What each keyed update of the state leaves alone: one lemma per field, so that no proof unfolds a record update. -/

namespace Sys2Proof.Machine

section modThreads
variable (s : State) (p : Thread → Bool) (f : Thread → Thread)
@[simp] theorem modThreads_part : (s.modThreads p f).part = s.part := rfl
@[simp] theorem modThreads_clock : (s.modThreads p f).clock = s.clock := rfl
@[simp] theorem modThreads_time : (s.modThreads p f).time = s.time := rfl
@[simp] theorem modThreads_freeCtr : (s.modThreads p f).freeCtr = s.freeCtr := rfl
@[simp] theorem modThreads_nextId : (s.modThreads p f).nextId = s.nextId := rfl
@[simp] theorem modThreads_agenda : (s.modThreads p f).agenda = s.agenda := rfl
@[simp] theorem modThreads_runs : (s.modThreads p f).runs = s.runs := rfl
@[simp] theorem modThreads_launches : (s.modThreads p f).launches = s.launches := rfl
@[simp] theorem modThreads_blocks : (s.modThreads p f).blocks = s.blocks := rfl
@[simp] theorem modThreads_groups : (s.modThreads p f).groups = s.groups := rfl
@[simp] theorem modThreads_threads : (s.modThreads p f).threads = modify p f s.threads := rfl
@[simp] theorem modThreads_agentTurns : (s.modThreads p f).agentTurns = s.agentTurns := rfl
@[simp] theorem modThreads_mem : (s.modThreads p f).mem = s.mem := rfl
@[simp] theorem modThreads_poison : (s.modThreads p f).poison = s.poison := rfl
@[simp] theorem modThreads_damage : (s.modThreads p f).damage = s.damage := rfl
@[simp] theorem modThreads_slices : (s.modThreads p f).slices = s.slices := rfl
@[simp] theorem modThreads_l1 : (s.modThreads p f).l1 = s.l1 := rfl
@[simp] theorem modThreads_tlb : (s.modThreads p f).tlb = s.tlb := rfl
@[simp] theorem modThreads_predict : (s.modThreads p f).predict = s.predict := rfl
@[simp] theorem modThreads_uses : (s.modThreads p f).uses = s.uses := rfl
@[simp] theorem modThreads_oplog : (s.modThreads p f).oplog = s.oplog := rfl
@[simp] theorem modThreads_inflight : (s.modThreads p f).inflight = s.inflight := rfl
@[simp] theorem modThreads_cmds : (s.modThreads p f).cmds = s.cmds := rfl
@[simp] theorem modThreads_pairs : (s.modThreads p f).pairs = s.pairs := rfl
@[simp] theorem modThreads_det : (s.modThreads p f).det = s.det := rfl
@[simp] theorem modThreads_children : (s.modThreads p f).children = s.children := rfl
@[simp] theorem modThreads_packets : (s.modThreads p f).packets = s.packets := rfl
@[simp] theorem modThreads_latched : (s.modThreads p f).latched = s.latched := rfl
@[simp] theorem modThreads_gated : (s.modThreads p f).gated = s.gated := rfl
@[simp] theorem modThreads_maint : (s.modThreads p f).maint = s.maint := rfl
@[simp] theorem modThreads_slowWaits : (s.modThreads p f).slowWaits = s.slowWaits := rfl
@[simp] theorem modThreads_qtReg : (s.modThreads p f).qtReg = s.qtReg := rfl
@[simp] theorem modThreads_capReg : (s.modThreads p f).capReg = s.capReg := rfl
@[simp] theorem modThreads_ptReg : (s.modThreads p f).ptReg = s.ptReg := rfl
@[simp] theorem modThreads_sdAddr : (s.modThreads p f).sdAddr = s.sdAddr := rfl
@[simp] theorem modThreads_sdCtl : (s.modThreads p f).sdCtl = s.sdCtl := rfl
@[simp] theorem modThreads_sdDrop : (s.modThreads p f).sdDrop = s.sdDrop := rfl
@[simp] theorem modThreads_sdDone : (s.modThreads p f).sdDone = s.sdDone := rfl
@[simp] theorem modThreads_fabReg : (s.modThreads p f).fabReg = s.fabReg := rfl
@[simp] theorem modThreads_tgen : (s.modThreads p f).tgen = s.tgen := rfl
@[simp] theorem modThreads_plans : (s.modThreads p f).plans = s.plans := rfl
@[simp] theorem modThreads_plan : (s.modThreads p f).plan = s.plan := rfl
@[simp] theorem modThreads_trans : (s.modThreads p f).trans = s.trans := rfl
@[simp] theorem modThreads_readies : (s.modThreads p f).readies = s.readies := rfl
@[simp] theorem modThreads_ports : (s.modThreads p f).ports = s.ports := rfl
@[simp] theorem modThreads_txns : (s.modThreads p f).txns = s.txns := rfl
@[simp] theorem modThreads_colls : (s.modThreads p f).colls = s.colls := rfl
@[simp] theorem modThreads_wideArrivals : (s.modThreads p f).wideArrivals = s.wideArrivals := rfl
@[simp] theorem modThreads_exported : (s.modThreads p f).exported = s.exported := rfl
@[simp] theorem modThreads_walkFails : (s.modThreads p f).walkFails = s.walkFails := rfl
@[simp] theorem modThreads_stranded : (s.modThreads p f).stranded = s.stranded := rfl
@[simp] theorem modThreads_relaying : (s.modThreads p f).relaying = s.relaying := rfl
@[simp] theorem modThreads_frames : (s.modThreads p f).frames = s.frames := rfl
@[simp] theorem modThreads_circuit : (s.modThreads p f).circuit = s.circuit := rfl
@[simp] theorem modThreads_tdi : (s.modThreads p f).tdi = s.tdi := rfl
@[simp] theorem modThreads_ide : (s.modThreads p f).ide = s.ide := rfl
@[simp] theorem modThreads_fwcfg : (s.modThreads p f).fwcfg = s.fwcfg := rfl
@[simp] theorem modThreads_nkeys : (s.modThreads p f).nkeys = s.nkeys := rfl
@[simp] theorem modThreads_keydigs : (s.modThreads p f).keydigs = s.keydigs := rfl
@[simp] theorem modThreads_spdm : (s.modThreads p f).spdm = s.spdm := rfl
@[simp] theorem modThreads_ideKeyed : (s.modThreads p f).ideKeyed = s.ideKeyed := rfl
@[simp] theorem modThreads_meas3 : (s.modThreads p f).meas3 = s.meas3 := rfl
@[simp] theorem modThreads_firmware : (s.modThreads p f).firmware = s.firmware := rfl
@[simp] theorem modThreads_fwver : (s.modThreads p f).fwver = s.fwver := rfl
@[simp] theorem modThreads_fuseMin : (s.modThreads p f).fuseMin = s.fuseMin := rfl
@[simp] theorem modThreads_ready : (s.modThreads p f).ready = s.ready := rfl
@[simp] theorem modThreads_dbgCtl : (s.modThreads p f).dbgCtl = s.dbgCtl := rfl
@[simp] theorem modThreads_dbgData : (s.modThreads p f).dbgData = s.dbgData := rfl
@[simp] theorem modThreads_dbgErr : (s.modThreads p f).dbgErr = s.dbgErr := rfl
@[simp] theorem modThreads_breaks : (s.modThreads p f).breaks = s.breaks := rfl
@[simp] theorem modThreads_errHead : (s.modThreads p f).errHead = s.errHead := rfl
@[simp] theorem modThreads_errLog : (s.modThreads p f).errLog = s.errLog := rfl
@[simp] theorem modThreads_corrections : (s.modThreads p f).corrections = s.corrections := rfl
@[simp] theorem modThreads_plimit : (s.modThreads p f).plimit = s.plimit := rfl
@[simp] theorem modThreads_throttle : (s.modThreads p f).throttle = s.throttle := rfl
@[simp] theorem modThreads_tj : (s.modThreads p f).tj = s.tj := rfl
@[simp] theorem modThreads_pnow : (s.modThreads p f).pnow = s.pnow := rfl
@[simp] theorem modThreads_energy : (s.modThreads p f).energy = s.energy := rfl
@[simp] theorem modThreads_bars : (s.modThreads p f).bars = s.bars := rfl
@[simp] theorem modThreads_hostOut : (s.modThreads p f).hostOut = s.hostOut := rfl
@[simp] theorem modThreads_nonces : (s.modThreads p f).nonces = s.nonces := rfl
@[simp] theorem modThreads_saved : (s.modThreads p f).saved = s.saved := rfl
@[simp] theorem modThreads_loads : (s.modThreads p f).loads = s.loads := rfl
@[simp] theorem modThreads_fetches : (s.modThreads p f).fetches = s.fetches := rfl
end modThreads

section modThread
variable (s : State) (r : GroupRef) (lane : Nat) (f : Thread → Thread)
@[simp] theorem modThread_part : (s.modThread r lane f).part = s.part := rfl
@[simp] theorem modThread_clock : (s.modThread r lane f).clock = s.clock := rfl
@[simp] theorem modThread_time : (s.modThread r lane f).time = s.time := rfl
@[simp] theorem modThread_freeCtr : (s.modThread r lane f).freeCtr = s.freeCtr := rfl
@[simp] theorem modThread_nextId : (s.modThread r lane f).nextId = s.nextId := rfl
@[simp] theorem modThread_agenda : (s.modThread r lane f).agenda = s.agenda := rfl
@[simp] theorem modThread_runs : (s.modThread r lane f).runs = s.runs := rfl
@[simp] theorem modThread_launches : (s.modThread r lane f).launches = s.launches := rfl
@[simp] theorem modThread_blocks : (s.modThread r lane f).blocks = s.blocks := rfl
@[simp] theorem modThread_groups : (s.modThread r lane f).groups = s.groups := rfl
@[simp] theorem modThread_threads : (s.modThread r lane f).threads = modify (·.is r lane) f s.threads := rfl
@[simp] theorem modThread_agentTurns : (s.modThread r lane f).agentTurns = s.agentTurns := rfl
@[simp] theorem modThread_mem : (s.modThread r lane f).mem = s.mem := rfl
@[simp] theorem modThread_poison : (s.modThread r lane f).poison = s.poison := rfl
@[simp] theorem modThread_damage : (s.modThread r lane f).damage = s.damage := rfl
@[simp] theorem modThread_slices : (s.modThread r lane f).slices = s.slices := rfl
@[simp] theorem modThread_l1 : (s.modThread r lane f).l1 = s.l1 := rfl
@[simp] theorem modThread_tlb : (s.modThread r lane f).tlb = s.tlb := rfl
@[simp] theorem modThread_predict : (s.modThread r lane f).predict = s.predict := rfl
@[simp] theorem modThread_uses : (s.modThread r lane f).uses = s.uses := rfl
@[simp] theorem modThread_oplog : (s.modThread r lane f).oplog = s.oplog := rfl
@[simp] theorem modThread_inflight : (s.modThread r lane f).inflight = s.inflight := rfl
@[simp] theorem modThread_cmds : (s.modThread r lane f).cmds = s.cmds := rfl
@[simp] theorem modThread_pairs : (s.modThread r lane f).pairs = s.pairs := rfl
@[simp] theorem modThread_det : (s.modThread r lane f).det = s.det := rfl
@[simp] theorem modThread_children : (s.modThread r lane f).children = s.children := rfl
@[simp] theorem modThread_packets : (s.modThread r lane f).packets = s.packets := rfl
@[simp] theorem modThread_latched : (s.modThread r lane f).latched = s.latched := rfl
@[simp] theorem modThread_gated : (s.modThread r lane f).gated = s.gated := rfl
@[simp] theorem modThread_maint : (s.modThread r lane f).maint = s.maint := rfl
@[simp] theorem modThread_slowWaits : (s.modThread r lane f).slowWaits = s.slowWaits := rfl
@[simp] theorem modThread_qtReg : (s.modThread r lane f).qtReg = s.qtReg := rfl
@[simp] theorem modThread_capReg : (s.modThread r lane f).capReg = s.capReg := rfl
@[simp] theorem modThread_ptReg : (s.modThread r lane f).ptReg = s.ptReg := rfl
@[simp] theorem modThread_sdAddr : (s.modThread r lane f).sdAddr = s.sdAddr := rfl
@[simp] theorem modThread_sdCtl : (s.modThread r lane f).sdCtl = s.sdCtl := rfl
@[simp] theorem modThread_sdDrop : (s.modThread r lane f).sdDrop = s.sdDrop := rfl
@[simp] theorem modThread_sdDone : (s.modThread r lane f).sdDone = s.sdDone := rfl
@[simp] theorem modThread_fabReg : (s.modThread r lane f).fabReg = s.fabReg := rfl
@[simp] theorem modThread_tgen : (s.modThread r lane f).tgen = s.tgen := rfl
@[simp] theorem modThread_plans : (s.modThread r lane f).plans = s.plans := rfl
@[simp] theorem modThread_plan : (s.modThread r lane f).plan = s.plan := rfl
@[simp] theorem modThread_trans : (s.modThread r lane f).trans = s.trans := rfl
@[simp] theorem modThread_readies : (s.modThread r lane f).readies = s.readies := rfl
@[simp] theorem modThread_ports : (s.modThread r lane f).ports = s.ports := rfl
@[simp] theorem modThread_txns : (s.modThread r lane f).txns = s.txns := rfl
@[simp] theorem modThread_colls : (s.modThread r lane f).colls = s.colls := rfl
@[simp] theorem modThread_wideArrivals : (s.modThread r lane f).wideArrivals = s.wideArrivals := rfl
@[simp] theorem modThread_exported : (s.modThread r lane f).exported = s.exported := rfl
@[simp] theorem modThread_walkFails : (s.modThread r lane f).walkFails = s.walkFails := rfl
@[simp] theorem modThread_stranded : (s.modThread r lane f).stranded = s.stranded := rfl
@[simp] theorem modThread_relaying : (s.modThread r lane f).relaying = s.relaying := rfl
@[simp] theorem modThread_frames : (s.modThread r lane f).frames = s.frames := rfl
@[simp] theorem modThread_circuit : (s.modThread r lane f).circuit = s.circuit := rfl
@[simp] theorem modThread_tdi : (s.modThread r lane f).tdi = s.tdi := rfl
@[simp] theorem modThread_ide : (s.modThread r lane f).ide = s.ide := rfl
@[simp] theorem modThread_fwcfg : (s.modThread r lane f).fwcfg = s.fwcfg := rfl
@[simp] theorem modThread_nkeys : (s.modThread r lane f).nkeys = s.nkeys := rfl
@[simp] theorem modThread_keydigs : (s.modThread r lane f).keydigs = s.keydigs := rfl
@[simp] theorem modThread_spdm : (s.modThread r lane f).spdm = s.spdm := rfl
@[simp] theorem modThread_ideKeyed : (s.modThread r lane f).ideKeyed = s.ideKeyed := rfl
@[simp] theorem modThread_meas3 : (s.modThread r lane f).meas3 = s.meas3 := rfl
@[simp] theorem modThread_firmware : (s.modThread r lane f).firmware = s.firmware := rfl
@[simp] theorem modThread_fwver : (s.modThread r lane f).fwver = s.fwver := rfl
@[simp] theorem modThread_fuseMin : (s.modThread r lane f).fuseMin = s.fuseMin := rfl
@[simp] theorem modThread_ready : (s.modThread r lane f).ready = s.ready := rfl
@[simp] theorem modThread_dbgCtl : (s.modThread r lane f).dbgCtl = s.dbgCtl := rfl
@[simp] theorem modThread_dbgData : (s.modThread r lane f).dbgData = s.dbgData := rfl
@[simp] theorem modThread_dbgErr : (s.modThread r lane f).dbgErr = s.dbgErr := rfl
@[simp] theorem modThread_breaks : (s.modThread r lane f).breaks = s.breaks := rfl
@[simp] theorem modThread_errHead : (s.modThread r lane f).errHead = s.errHead := rfl
@[simp] theorem modThread_errLog : (s.modThread r lane f).errLog = s.errLog := rfl
@[simp] theorem modThread_corrections : (s.modThread r lane f).corrections = s.corrections := rfl
@[simp] theorem modThread_plimit : (s.modThread r lane f).plimit = s.plimit := rfl
@[simp] theorem modThread_throttle : (s.modThread r lane f).throttle = s.throttle := rfl
@[simp] theorem modThread_tj : (s.modThread r lane f).tj = s.tj := rfl
@[simp] theorem modThread_pnow : (s.modThread r lane f).pnow = s.pnow := rfl
@[simp] theorem modThread_energy : (s.modThread r lane f).energy = s.energy := rfl
@[simp] theorem modThread_bars : (s.modThread r lane f).bars = s.bars := rfl
@[simp] theorem modThread_hostOut : (s.modThread r lane f).hostOut = s.hostOut := rfl
@[simp] theorem modThread_nonces : (s.modThread r lane f).nonces = s.nonces := rfl
@[simp] theorem modThread_saved : (s.modThread r lane f).saved = s.saved := rfl
@[simp] theorem modThread_loads : (s.modThread r lane f).loads = s.loads := rfl
@[simp] theorem modThread_fetches : (s.modThread r lane f).fetches = s.fetches := rfl
end modThread

section modGroup
variable (s : State) (r : GroupRef) (f : Group → Group)
@[simp] theorem modGroup_part : (s.modGroup r f).part = s.part := rfl
@[simp] theorem modGroup_clock : (s.modGroup r f).clock = s.clock := rfl
@[simp] theorem modGroup_time : (s.modGroup r f).time = s.time := rfl
@[simp] theorem modGroup_freeCtr : (s.modGroup r f).freeCtr = s.freeCtr := rfl
@[simp] theorem modGroup_nextId : (s.modGroup r f).nextId = s.nextId := rfl
@[simp] theorem modGroup_agenda : (s.modGroup r f).agenda = s.agenda := rfl
@[simp] theorem modGroup_runs : (s.modGroup r f).runs = s.runs := rfl
@[simp] theorem modGroup_launches : (s.modGroup r f).launches = s.launches := rfl
@[simp] theorem modGroup_blocks : (s.modGroup r f).blocks = s.blocks := rfl
@[simp] theorem modGroup_groups : (s.modGroup r f).groups = modify (·.ref == r) f s.groups := rfl
@[simp] theorem modGroup_threads : (s.modGroup r f).threads = s.threads := rfl
@[simp] theorem modGroup_agentTurns : (s.modGroup r f).agentTurns = s.agentTurns := rfl
@[simp] theorem modGroup_mem : (s.modGroup r f).mem = s.mem := rfl
@[simp] theorem modGroup_poison : (s.modGroup r f).poison = s.poison := rfl
@[simp] theorem modGroup_damage : (s.modGroup r f).damage = s.damage := rfl
@[simp] theorem modGroup_slices : (s.modGroup r f).slices = s.slices := rfl
@[simp] theorem modGroup_l1 : (s.modGroup r f).l1 = s.l1 := rfl
@[simp] theorem modGroup_tlb : (s.modGroup r f).tlb = s.tlb := rfl
@[simp] theorem modGroup_predict : (s.modGroup r f).predict = s.predict := rfl
@[simp] theorem modGroup_uses : (s.modGroup r f).uses = s.uses := rfl
@[simp] theorem modGroup_oplog : (s.modGroup r f).oplog = s.oplog := rfl
@[simp] theorem modGroup_inflight : (s.modGroup r f).inflight = s.inflight := rfl
@[simp] theorem modGroup_cmds : (s.modGroup r f).cmds = s.cmds := rfl
@[simp] theorem modGroup_pairs : (s.modGroup r f).pairs = s.pairs := rfl
@[simp] theorem modGroup_det : (s.modGroup r f).det = s.det := rfl
@[simp] theorem modGroup_children : (s.modGroup r f).children = s.children := rfl
@[simp] theorem modGroup_packets : (s.modGroup r f).packets = s.packets := rfl
@[simp] theorem modGroup_latched : (s.modGroup r f).latched = s.latched := rfl
@[simp] theorem modGroup_gated : (s.modGroup r f).gated = s.gated := rfl
@[simp] theorem modGroup_maint : (s.modGroup r f).maint = s.maint := rfl
@[simp] theorem modGroup_slowWaits : (s.modGroup r f).slowWaits = s.slowWaits := rfl
@[simp] theorem modGroup_qtReg : (s.modGroup r f).qtReg = s.qtReg := rfl
@[simp] theorem modGroup_capReg : (s.modGroup r f).capReg = s.capReg := rfl
@[simp] theorem modGroup_ptReg : (s.modGroup r f).ptReg = s.ptReg := rfl
@[simp] theorem modGroup_sdAddr : (s.modGroup r f).sdAddr = s.sdAddr := rfl
@[simp] theorem modGroup_sdCtl : (s.modGroup r f).sdCtl = s.sdCtl := rfl
@[simp] theorem modGroup_sdDrop : (s.modGroup r f).sdDrop = s.sdDrop := rfl
@[simp] theorem modGroup_sdDone : (s.modGroup r f).sdDone = s.sdDone := rfl
@[simp] theorem modGroup_fabReg : (s.modGroup r f).fabReg = s.fabReg := rfl
@[simp] theorem modGroup_tgen : (s.modGroup r f).tgen = s.tgen := rfl
@[simp] theorem modGroup_plans : (s.modGroup r f).plans = s.plans := rfl
@[simp] theorem modGroup_plan : (s.modGroup r f).plan = s.plan := rfl
@[simp] theorem modGroup_trans : (s.modGroup r f).trans = s.trans := rfl
@[simp] theorem modGroup_readies : (s.modGroup r f).readies = s.readies := rfl
@[simp] theorem modGroup_ports : (s.modGroup r f).ports = s.ports := rfl
@[simp] theorem modGroup_txns : (s.modGroup r f).txns = s.txns := rfl
@[simp] theorem modGroup_colls : (s.modGroup r f).colls = s.colls := rfl
@[simp] theorem modGroup_wideArrivals : (s.modGroup r f).wideArrivals = s.wideArrivals := rfl
@[simp] theorem modGroup_exported : (s.modGroup r f).exported = s.exported := rfl
@[simp] theorem modGroup_walkFails : (s.modGroup r f).walkFails = s.walkFails := rfl
@[simp] theorem modGroup_stranded : (s.modGroup r f).stranded = s.stranded := rfl
@[simp] theorem modGroup_relaying : (s.modGroup r f).relaying = s.relaying := rfl
@[simp] theorem modGroup_frames : (s.modGroup r f).frames = s.frames := rfl
@[simp] theorem modGroup_circuit : (s.modGroup r f).circuit = s.circuit := rfl
@[simp] theorem modGroup_tdi : (s.modGroup r f).tdi = s.tdi := rfl
@[simp] theorem modGroup_ide : (s.modGroup r f).ide = s.ide := rfl
@[simp] theorem modGroup_fwcfg : (s.modGroup r f).fwcfg = s.fwcfg := rfl
@[simp] theorem modGroup_nkeys : (s.modGroup r f).nkeys = s.nkeys := rfl
@[simp] theorem modGroup_keydigs : (s.modGroup r f).keydigs = s.keydigs := rfl
@[simp] theorem modGroup_spdm : (s.modGroup r f).spdm = s.spdm := rfl
@[simp] theorem modGroup_ideKeyed : (s.modGroup r f).ideKeyed = s.ideKeyed := rfl
@[simp] theorem modGroup_meas3 : (s.modGroup r f).meas3 = s.meas3 := rfl
@[simp] theorem modGroup_firmware : (s.modGroup r f).firmware = s.firmware := rfl
@[simp] theorem modGroup_fwver : (s.modGroup r f).fwver = s.fwver := rfl
@[simp] theorem modGroup_fuseMin : (s.modGroup r f).fuseMin = s.fuseMin := rfl
@[simp] theorem modGroup_ready : (s.modGroup r f).ready = s.ready := rfl
@[simp] theorem modGroup_dbgCtl : (s.modGroup r f).dbgCtl = s.dbgCtl := rfl
@[simp] theorem modGroup_dbgData : (s.modGroup r f).dbgData = s.dbgData := rfl
@[simp] theorem modGroup_dbgErr : (s.modGroup r f).dbgErr = s.dbgErr := rfl
@[simp] theorem modGroup_breaks : (s.modGroup r f).breaks = s.breaks := rfl
@[simp] theorem modGroup_errHead : (s.modGroup r f).errHead = s.errHead := rfl
@[simp] theorem modGroup_errLog : (s.modGroup r f).errLog = s.errLog := rfl
@[simp] theorem modGroup_corrections : (s.modGroup r f).corrections = s.corrections := rfl
@[simp] theorem modGroup_plimit : (s.modGroup r f).plimit = s.plimit := rfl
@[simp] theorem modGroup_throttle : (s.modGroup r f).throttle = s.throttle := rfl
@[simp] theorem modGroup_tj : (s.modGroup r f).tj = s.tj := rfl
@[simp] theorem modGroup_pnow : (s.modGroup r f).pnow = s.pnow := rfl
@[simp] theorem modGroup_energy : (s.modGroup r f).energy = s.energy := rfl
@[simp] theorem modGroup_bars : (s.modGroup r f).bars = s.bars := rfl
@[simp] theorem modGroup_hostOut : (s.modGroup r f).hostOut = s.hostOut := rfl
@[simp] theorem modGroup_nonces : (s.modGroup r f).nonces = s.nonces := rfl
@[simp] theorem modGroup_saved : (s.modGroup r f).saved = s.saved := rfl
@[simp] theorem modGroup_loads : (s.modGroup r f).loads = s.loads := rfl
@[simp] theorem modGroup_fetches : (s.modGroup r f).fetches = s.fetches := rfl
end modGroup

section modBlock
variable (s : State) (i j : Nat) (f : Block → Block)
@[simp] theorem modBlock_part : (s.modBlock i j f).part = s.part := rfl
@[simp] theorem modBlock_clock : (s.modBlock i j f).clock = s.clock := rfl
@[simp] theorem modBlock_time : (s.modBlock i j f).time = s.time := rfl
@[simp] theorem modBlock_freeCtr : (s.modBlock i j f).freeCtr = s.freeCtr := rfl
@[simp] theorem modBlock_nextId : (s.modBlock i j f).nextId = s.nextId := rfl
@[simp] theorem modBlock_agenda : (s.modBlock i j f).agenda = s.agenda := rfl
@[simp] theorem modBlock_runs : (s.modBlock i j f).runs = s.runs := rfl
@[simp] theorem modBlock_launches : (s.modBlock i j f).launches = s.launches := rfl
@[simp] theorem modBlock_blocks : (s.modBlock i j f).blocks = modify (fun b => b.launch == i && b.idx == j) f s.blocks := rfl
@[simp] theorem modBlock_groups : (s.modBlock i j f).groups = s.groups := rfl
@[simp] theorem modBlock_threads : (s.modBlock i j f).threads = s.threads := rfl
@[simp] theorem modBlock_agentTurns : (s.modBlock i j f).agentTurns = s.agentTurns := rfl
@[simp] theorem modBlock_mem : (s.modBlock i j f).mem = s.mem := rfl
@[simp] theorem modBlock_poison : (s.modBlock i j f).poison = s.poison := rfl
@[simp] theorem modBlock_damage : (s.modBlock i j f).damage = s.damage := rfl
@[simp] theorem modBlock_slices : (s.modBlock i j f).slices = s.slices := rfl
@[simp] theorem modBlock_l1 : (s.modBlock i j f).l1 = s.l1 := rfl
@[simp] theorem modBlock_tlb : (s.modBlock i j f).tlb = s.tlb := rfl
@[simp] theorem modBlock_predict : (s.modBlock i j f).predict = s.predict := rfl
@[simp] theorem modBlock_uses : (s.modBlock i j f).uses = s.uses := rfl
@[simp] theorem modBlock_oplog : (s.modBlock i j f).oplog = s.oplog := rfl
@[simp] theorem modBlock_inflight : (s.modBlock i j f).inflight = s.inflight := rfl
@[simp] theorem modBlock_cmds : (s.modBlock i j f).cmds = s.cmds := rfl
@[simp] theorem modBlock_pairs : (s.modBlock i j f).pairs = s.pairs := rfl
@[simp] theorem modBlock_det : (s.modBlock i j f).det = s.det := rfl
@[simp] theorem modBlock_children : (s.modBlock i j f).children = s.children := rfl
@[simp] theorem modBlock_packets : (s.modBlock i j f).packets = s.packets := rfl
@[simp] theorem modBlock_latched : (s.modBlock i j f).latched = s.latched := rfl
@[simp] theorem modBlock_gated : (s.modBlock i j f).gated = s.gated := rfl
@[simp] theorem modBlock_maint : (s.modBlock i j f).maint = s.maint := rfl
@[simp] theorem modBlock_slowWaits : (s.modBlock i j f).slowWaits = s.slowWaits := rfl
@[simp] theorem modBlock_qtReg : (s.modBlock i j f).qtReg = s.qtReg := rfl
@[simp] theorem modBlock_capReg : (s.modBlock i j f).capReg = s.capReg := rfl
@[simp] theorem modBlock_ptReg : (s.modBlock i j f).ptReg = s.ptReg := rfl
@[simp] theorem modBlock_sdAddr : (s.modBlock i j f).sdAddr = s.sdAddr := rfl
@[simp] theorem modBlock_sdCtl : (s.modBlock i j f).sdCtl = s.sdCtl := rfl
@[simp] theorem modBlock_sdDrop : (s.modBlock i j f).sdDrop = s.sdDrop := rfl
@[simp] theorem modBlock_sdDone : (s.modBlock i j f).sdDone = s.sdDone := rfl
@[simp] theorem modBlock_fabReg : (s.modBlock i j f).fabReg = s.fabReg := rfl
@[simp] theorem modBlock_tgen : (s.modBlock i j f).tgen = s.tgen := rfl
@[simp] theorem modBlock_plans : (s.modBlock i j f).plans = s.plans := rfl
@[simp] theorem modBlock_plan : (s.modBlock i j f).plan = s.plan := rfl
@[simp] theorem modBlock_trans : (s.modBlock i j f).trans = s.trans := rfl
@[simp] theorem modBlock_readies : (s.modBlock i j f).readies = s.readies := rfl
@[simp] theorem modBlock_ports : (s.modBlock i j f).ports = s.ports := rfl
@[simp] theorem modBlock_txns : (s.modBlock i j f).txns = s.txns := rfl
@[simp] theorem modBlock_colls : (s.modBlock i j f).colls = s.colls := rfl
@[simp] theorem modBlock_wideArrivals : (s.modBlock i j f).wideArrivals = s.wideArrivals := rfl
@[simp] theorem modBlock_exported : (s.modBlock i j f).exported = s.exported := rfl
@[simp] theorem modBlock_walkFails : (s.modBlock i j f).walkFails = s.walkFails := rfl
@[simp] theorem modBlock_stranded : (s.modBlock i j f).stranded = s.stranded := rfl
@[simp] theorem modBlock_relaying : (s.modBlock i j f).relaying = s.relaying := rfl
@[simp] theorem modBlock_frames : (s.modBlock i j f).frames = s.frames := rfl
@[simp] theorem modBlock_circuit : (s.modBlock i j f).circuit = s.circuit := rfl
@[simp] theorem modBlock_tdi : (s.modBlock i j f).tdi = s.tdi := rfl
@[simp] theorem modBlock_ide : (s.modBlock i j f).ide = s.ide := rfl
@[simp] theorem modBlock_fwcfg : (s.modBlock i j f).fwcfg = s.fwcfg := rfl
@[simp] theorem modBlock_nkeys : (s.modBlock i j f).nkeys = s.nkeys := rfl
@[simp] theorem modBlock_keydigs : (s.modBlock i j f).keydigs = s.keydigs := rfl
@[simp] theorem modBlock_spdm : (s.modBlock i j f).spdm = s.spdm := rfl
@[simp] theorem modBlock_ideKeyed : (s.modBlock i j f).ideKeyed = s.ideKeyed := rfl
@[simp] theorem modBlock_meas3 : (s.modBlock i j f).meas3 = s.meas3 := rfl
@[simp] theorem modBlock_firmware : (s.modBlock i j f).firmware = s.firmware := rfl
@[simp] theorem modBlock_fwver : (s.modBlock i j f).fwver = s.fwver := rfl
@[simp] theorem modBlock_fuseMin : (s.modBlock i j f).fuseMin = s.fuseMin := rfl
@[simp] theorem modBlock_ready : (s.modBlock i j f).ready = s.ready := rfl
@[simp] theorem modBlock_dbgCtl : (s.modBlock i j f).dbgCtl = s.dbgCtl := rfl
@[simp] theorem modBlock_dbgData : (s.modBlock i j f).dbgData = s.dbgData := rfl
@[simp] theorem modBlock_dbgErr : (s.modBlock i j f).dbgErr = s.dbgErr := rfl
@[simp] theorem modBlock_breaks : (s.modBlock i j f).breaks = s.breaks := rfl
@[simp] theorem modBlock_errHead : (s.modBlock i j f).errHead = s.errHead := rfl
@[simp] theorem modBlock_errLog : (s.modBlock i j f).errLog = s.errLog := rfl
@[simp] theorem modBlock_corrections : (s.modBlock i j f).corrections = s.corrections := rfl
@[simp] theorem modBlock_plimit : (s.modBlock i j f).plimit = s.plimit := rfl
@[simp] theorem modBlock_throttle : (s.modBlock i j f).throttle = s.throttle := rfl
@[simp] theorem modBlock_tj : (s.modBlock i j f).tj = s.tj := rfl
@[simp] theorem modBlock_pnow : (s.modBlock i j f).pnow = s.pnow := rfl
@[simp] theorem modBlock_energy : (s.modBlock i j f).energy = s.energy := rfl
@[simp] theorem modBlock_bars : (s.modBlock i j f).bars = s.bars := rfl
@[simp] theorem modBlock_hostOut : (s.modBlock i j f).hostOut = s.hostOut := rfl
@[simp] theorem modBlock_nonces : (s.modBlock i j f).nonces = s.nonces := rfl
@[simp] theorem modBlock_saved : (s.modBlock i j f).saved = s.saved := rfl
@[simp] theorem modBlock_loads : (s.modBlock i j f).loads = s.loads := rfl
@[simp] theorem modBlock_fetches : (s.modBlock i j f).fetches = s.fetches := rfl
end modBlock

section modLaunch
variable (s : State) (i : Nat) (f : Launch → Launch)
@[simp] theorem modLaunch_part : (s.modLaunch i f).part = s.part := rfl
@[simp] theorem modLaunch_clock : (s.modLaunch i f).clock = s.clock := rfl
@[simp] theorem modLaunch_time : (s.modLaunch i f).time = s.time := rfl
@[simp] theorem modLaunch_freeCtr : (s.modLaunch i f).freeCtr = s.freeCtr := rfl
@[simp] theorem modLaunch_nextId : (s.modLaunch i f).nextId = s.nextId := rfl
@[simp] theorem modLaunch_agenda : (s.modLaunch i f).agenda = s.agenda := rfl
@[simp] theorem modLaunch_runs : (s.modLaunch i f).runs = s.runs := rfl
@[simp] theorem modLaunch_launches : (s.modLaunch i f).launches = modify (·.id == i) f s.launches := rfl
@[simp] theorem modLaunch_blocks : (s.modLaunch i f).blocks = s.blocks := rfl
@[simp] theorem modLaunch_groups : (s.modLaunch i f).groups = s.groups := rfl
@[simp] theorem modLaunch_threads : (s.modLaunch i f).threads = s.threads := rfl
@[simp] theorem modLaunch_agentTurns : (s.modLaunch i f).agentTurns = s.agentTurns := rfl
@[simp] theorem modLaunch_mem : (s.modLaunch i f).mem = s.mem := rfl
@[simp] theorem modLaunch_poison : (s.modLaunch i f).poison = s.poison := rfl
@[simp] theorem modLaunch_damage : (s.modLaunch i f).damage = s.damage := rfl
@[simp] theorem modLaunch_slices : (s.modLaunch i f).slices = s.slices := rfl
@[simp] theorem modLaunch_l1 : (s.modLaunch i f).l1 = s.l1 := rfl
@[simp] theorem modLaunch_tlb : (s.modLaunch i f).tlb = s.tlb := rfl
@[simp] theorem modLaunch_predict : (s.modLaunch i f).predict = s.predict := rfl
@[simp] theorem modLaunch_uses : (s.modLaunch i f).uses = s.uses := rfl
@[simp] theorem modLaunch_oplog : (s.modLaunch i f).oplog = s.oplog := rfl
@[simp] theorem modLaunch_inflight : (s.modLaunch i f).inflight = s.inflight := rfl
@[simp] theorem modLaunch_cmds : (s.modLaunch i f).cmds = s.cmds := rfl
@[simp] theorem modLaunch_pairs : (s.modLaunch i f).pairs = s.pairs := rfl
@[simp] theorem modLaunch_det : (s.modLaunch i f).det = s.det := rfl
@[simp] theorem modLaunch_children : (s.modLaunch i f).children = s.children := rfl
@[simp] theorem modLaunch_packets : (s.modLaunch i f).packets = s.packets := rfl
@[simp] theorem modLaunch_latched : (s.modLaunch i f).latched = s.latched := rfl
@[simp] theorem modLaunch_gated : (s.modLaunch i f).gated = s.gated := rfl
@[simp] theorem modLaunch_maint : (s.modLaunch i f).maint = s.maint := rfl
@[simp] theorem modLaunch_slowWaits : (s.modLaunch i f).slowWaits = s.slowWaits := rfl
@[simp] theorem modLaunch_qtReg : (s.modLaunch i f).qtReg = s.qtReg := rfl
@[simp] theorem modLaunch_capReg : (s.modLaunch i f).capReg = s.capReg := rfl
@[simp] theorem modLaunch_ptReg : (s.modLaunch i f).ptReg = s.ptReg := rfl
@[simp] theorem modLaunch_sdAddr : (s.modLaunch i f).sdAddr = s.sdAddr := rfl
@[simp] theorem modLaunch_sdCtl : (s.modLaunch i f).sdCtl = s.sdCtl := rfl
@[simp] theorem modLaunch_sdDrop : (s.modLaunch i f).sdDrop = s.sdDrop := rfl
@[simp] theorem modLaunch_sdDone : (s.modLaunch i f).sdDone = s.sdDone := rfl
@[simp] theorem modLaunch_fabReg : (s.modLaunch i f).fabReg = s.fabReg := rfl
@[simp] theorem modLaunch_tgen : (s.modLaunch i f).tgen = s.tgen := rfl
@[simp] theorem modLaunch_plans : (s.modLaunch i f).plans = s.plans := rfl
@[simp] theorem modLaunch_plan : (s.modLaunch i f).plan = s.plan := rfl
@[simp] theorem modLaunch_trans : (s.modLaunch i f).trans = s.trans := rfl
@[simp] theorem modLaunch_readies : (s.modLaunch i f).readies = s.readies := rfl
@[simp] theorem modLaunch_ports : (s.modLaunch i f).ports = s.ports := rfl
@[simp] theorem modLaunch_txns : (s.modLaunch i f).txns = s.txns := rfl
@[simp] theorem modLaunch_colls : (s.modLaunch i f).colls = s.colls := rfl
@[simp] theorem modLaunch_wideArrivals : (s.modLaunch i f).wideArrivals = s.wideArrivals := rfl
@[simp] theorem modLaunch_exported : (s.modLaunch i f).exported = s.exported := rfl
@[simp] theorem modLaunch_walkFails : (s.modLaunch i f).walkFails = s.walkFails := rfl
@[simp] theorem modLaunch_stranded : (s.modLaunch i f).stranded = s.stranded := rfl
@[simp] theorem modLaunch_relaying : (s.modLaunch i f).relaying = s.relaying := rfl
@[simp] theorem modLaunch_frames : (s.modLaunch i f).frames = s.frames := rfl
@[simp] theorem modLaunch_circuit : (s.modLaunch i f).circuit = s.circuit := rfl
@[simp] theorem modLaunch_tdi : (s.modLaunch i f).tdi = s.tdi := rfl
@[simp] theorem modLaunch_ide : (s.modLaunch i f).ide = s.ide := rfl
@[simp] theorem modLaunch_fwcfg : (s.modLaunch i f).fwcfg = s.fwcfg := rfl
@[simp] theorem modLaunch_nkeys : (s.modLaunch i f).nkeys = s.nkeys := rfl
@[simp] theorem modLaunch_keydigs : (s.modLaunch i f).keydigs = s.keydigs := rfl
@[simp] theorem modLaunch_spdm : (s.modLaunch i f).spdm = s.spdm := rfl
@[simp] theorem modLaunch_ideKeyed : (s.modLaunch i f).ideKeyed = s.ideKeyed := rfl
@[simp] theorem modLaunch_meas3 : (s.modLaunch i f).meas3 = s.meas3 := rfl
@[simp] theorem modLaunch_firmware : (s.modLaunch i f).firmware = s.firmware := rfl
@[simp] theorem modLaunch_fwver : (s.modLaunch i f).fwver = s.fwver := rfl
@[simp] theorem modLaunch_fuseMin : (s.modLaunch i f).fuseMin = s.fuseMin := rfl
@[simp] theorem modLaunch_ready : (s.modLaunch i f).ready = s.ready := rfl
@[simp] theorem modLaunch_dbgCtl : (s.modLaunch i f).dbgCtl = s.dbgCtl := rfl
@[simp] theorem modLaunch_dbgData : (s.modLaunch i f).dbgData = s.dbgData := rfl
@[simp] theorem modLaunch_dbgErr : (s.modLaunch i f).dbgErr = s.dbgErr := rfl
@[simp] theorem modLaunch_breaks : (s.modLaunch i f).breaks = s.breaks := rfl
@[simp] theorem modLaunch_errHead : (s.modLaunch i f).errHead = s.errHead := rfl
@[simp] theorem modLaunch_errLog : (s.modLaunch i f).errLog = s.errLog := rfl
@[simp] theorem modLaunch_corrections : (s.modLaunch i f).corrections = s.corrections := rfl
@[simp] theorem modLaunch_plimit : (s.modLaunch i f).plimit = s.plimit := rfl
@[simp] theorem modLaunch_throttle : (s.modLaunch i f).throttle = s.throttle := rfl
@[simp] theorem modLaunch_tj : (s.modLaunch i f).tj = s.tj := rfl
@[simp] theorem modLaunch_pnow : (s.modLaunch i f).pnow = s.pnow := rfl
@[simp] theorem modLaunch_energy : (s.modLaunch i f).energy = s.energy := rfl
@[simp] theorem modLaunch_bars : (s.modLaunch i f).bars = s.bars := rfl
@[simp] theorem modLaunch_hostOut : (s.modLaunch i f).hostOut = s.hostOut := rfl
@[simp] theorem modLaunch_nonces : (s.modLaunch i f).nonces = s.nonces := rfl
@[simp] theorem modLaunch_saved : (s.modLaunch i f).saved = s.saved := rfl
@[simp] theorem modLaunch_loads : (s.modLaunch i f).loads = s.loads := rfl
@[simp] theorem modLaunch_fetches : (s.modLaunch i f).fetches = s.fetches := rfl
end modLaunch

section modPair
variable (s : State) (i : Nat) (f : Pair → Pair)
@[simp] theorem modPair_part : (s.modPair i f).part = s.part := rfl
@[simp] theorem modPair_clock : (s.modPair i f).clock = s.clock := rfl
@[simp] theorem modPair_time : (s.modPair i f).time = s.time := rfl
@[simp] theorem modPair_freeCtr : (s.modPair i f).freeCtr = s.freeCtr := rfl
@[simp] theorem modPair_nextId : (s.modPair i f).nextId = s.nextId := rfl
@[simp] theorem modPair_agenda : (s.modPair i f).agenda = s.agenda := rfl
@[simp] theorem modPair_runs : (s.modPair i f).runs = s.runs := rfl
@[simp] theorem modPair_launches : (s.modPair i f).launches = s.launches := rfl
@[simp] theorem modPair_blocks : (s.modPair i f).blocks = s.blocks := rfl
@[simp] theorem modPair_groups : (s.modPair i f).groups = s.groups := rfl
@[simp] theorem modPair_threads : (s.modPair i f).threads = s.threads := rfl
@[simp] theorem modPair_agentTurns : (s.modPair i f).agentTurns = s.agentTurns := rfl
@[simp] theorem modPair_mem : (s.modPair i f).mem = s.mem := rfl
@[simp] theorem modPair_poison : (s.modPair i f).poison = s.poison := rfl
@[simp] theorem modPair_damage : (s.modPair i f).damage = s.damage := rfl
@[simp] theorem modPair_slices : (s.modPair i f).slices = s.slices := rfl
@[simp] theorem modPair_l1 : (s.modPair i f).l1 = s.l1 := rfl
@[simp] theorem modPair_tlb : (s.modPair i f).tlb = s.tlb := rfl
@[simp] theorem modPair_predict : (s.modPair i f).predict = s.predict := rfl
@[simp] theorem modPair_uses : (s.modPair i f).uses = s.uses := rfl
@[simp] theorem modPair_oplog : (s.modPair i f).oplog = s.oplog := rfl
@[simp] theorem modPair_inflight : (s.modPair i f).inflight = s.inflight := rfl
@[simp] theorem modPair_cmds : (s.modPair i f).cmds = s.cmds := rfl
@[simp] theorem modPair_pairs : (s.modPair i f).pairs = modify (·.idx == i) f s.pairs := rfl
@[simp] theorem modPair_det : (s.modPair i f).det = s.det := rfl
@[simp] theorem modPair_children : (s.modPair i f).children = s.children := rfl
@[simp] theorem modPair_packets : (s.modPair i f).packets = s.packets := rfl
@[simp] theorem modPair_latched : (s.modPair i f).latched = s.latched := rfl
@[simp] theorem modPair_gated : (s.modPair i f).gated = s.gated := rfl
@[simp] theorem modPair_maint : (s.modPair i f).maint = s.maint := rfl
@[simp] theorem modPair_slowWaits : (s.modPair i f).slowWaits = s.slowWaits := rfl
@[simp] theorem modPair_qtReg : (s.modPair i f).qtReg = s.qtReg := rfl
@[simp] theorem modPair_capReg : (s.modPair i f).capReg = s.capReg := rfl
@[simp] theorem modPair_ptReg : (s.modPair i f).ptReg = s.ptReg := rfl
@[simp] theorem modPair_sdAddr : (s.modPair i f).sdAddr = s.sdAddr := rfl
@[simp] theorem modPair_sdCtl : (s.modPair i f).sdCtl = s.sdCtl := rfl
@[simp] theorem modPair_sdDrop : (s.modPair i f).sdDrop = s.sdDrop := rfl
@[simp] theorem modPair_sdDone : (s.modPair i f).sdDone = s.sdDone := rfl
@[simp] theorem modPair_fabReg : (s.modPair i f).fabReg = s.fabReg := rfl
@[simp] theorem modPair_tgen : (s.modPair i f).tgen = s.tgen := rfl
@[simp] theorem modPair_plans : (s.modPair i f).plans = s.plans := rfl
@[simp] theorem modPair_plan : (s.modPair i f).plan = s.plan := rfl
@[simp] theorem modPair_trans : (s.modPair i f).trans = s.trans := rfl
@[simp] theorem modPair_readies : (s.modPair i f).readies = s.readies := rfl
@[simp] theorem modPair_ports : (s.modPair i f).ports = s.ports := rfl
@[simp] theorem modPair_txns : (s.modPair i f).txns = s.txns := rfl
@[simp] theorem modPair_colls : (s.modPair i f).colls = s.colls := rfl
@[simp] theorem modPair_wideArrivals : (s.modPair i f).wideArrivals = s.wideArrivals := rfl
@[simp] theorem modPair_exported : (s.modPair i f).exported = s.exported := rfl
@[simp] theorem modPair_walkFails : (s.modPair i f).walkFails = s.walkFails := rfl
@[simp] theorem modPair_stranded : (s.modPair i f).stranded = s.stranded := rfl
@[simp] theorem modPair_relaying : (s.modPair i f).relaying = s.relaying := rfl
@[simp] theorem modPair_frames : (s.modPair i f).frames = s.frames := rfl
@[simp] theorem modPair_circuit : (s.modPair i f).circuit = s.circuit := rfl
@[simp] theorem modPair_tdi : (s.modPair i f).tdi = s.tdi := rfl
@[simp] theorem modPair_ide : (s.modPair i f).ide = s.ide := rfl
@[simp] theorem modPair_fwcfg : (s.modPair i f).fwcfg = s.fwcfg := rfl
@[simp] theorem modPair_nkeys : (s.modPair i f).nkeys = s.nkeys := rfl
@[simp] theorem modPair_keydigs : (s.modPair i f).keydigs = s.keydigs := rfl
@[simp] theorem modPair_spdm : (s.modPair i f).spdm = s.spdm := rfl
@[simp] theorem modPair_ideKeyed : (s.modPair i f).ideKeyed = s.ideKeyed := rfl
@[simp] theorem modPair_meas3 : (s.modPair i f).meas3 = s.meas3 := rfl
@[simp] theorem modPair_firmware : (s.modPair i f).firmware = s.firmware := rfl
@[simp] theorem modPair_fwver : (s.modPair i f).fwver = s.fwver := rfl
@[simp] theorem modPair_fuseMin : (s.modPair i f).fuseMin = s.fuseMin := rfl
@[simp] theorem modPair_ready : (s.modPair i f).ready = s.ready := rfl
@[simp] theorem modPair_dbgCtl : (s.modPair i f).dbgCtl = s.dbgCtl := rfl
@[simp] theorem modPair_dbgData : (s.modPair i f).dbgData = s.dbgData := rfl
@[simp] theorem modPair_dbgErr : (s.modPair i f).dbgErr = s.dbgErr := rfl
@[simp] theorem modPair_breaks : (s.modPair i f).breaks = s.breaks := rfl
@[simp] theorem modPair_errHead : (s.modPair i f).errHead = s.errHead := rfl
@[simp] theorem modPair_errLog : (s.modPair i f).errLog = s.errLog := rfl
@[simp] theorem modPair_corrections : (s.modPair i f).corrections = s.corrections := rfl
@[simp] theorem modPair_plimit : (s.modPair i f).plimit = s.plimit := rfl
@[simp] theorem modPair_throttle : (s.modPair i f).throttle = s.throttle := rfl
@[simp] theorem modPair_tj : (s.modPair i f).tj = s.tj := rfl
@[simp] theorem modPair_pnow : (s.modPair i f).pnow = s.pnow := rfl
@[simp] theorem modPair_energy : (s.modPair i f).energy = s.energy := rfl
@[simp] theorem modPair_bars : (s.modPair i f).bars = s.bars := rfl
@[simp] theorem modPair_hostOut : (s.modPair i f).hostOut = s.hostOut := rfl
@[simp] theorem modPair_nonces : (s.modPair i f).nonces = s.nonces := rfl
@[simp] theorem modPair_saved : (s.modPair i f).saved = s.saved := rfl
@[simp] theorem modPair_loads : (s.modPair i f).loads = s.loads := rfl
@[simp] theorem modPair_fetches : (s.modPair i f).fetches = s.fetches := rfl
end modPair

section modPort
variable (s : State) (i : Nat) (f : Port → Port)
@[simp] theorem modPort_part : (s.modPort i f).part = s.part := rfl
@[simp] theorem modPort_clock : (s.modPort i f).clock = s.clock := rfl
@[simp] theorem modPort_time : (s.modPort i f).time = s.time := rfl
@[simp] theorem modPort_freeCtr : (s.modPort i f).freeCtr = s.freeCtr := rfl
@[simp] theorem modPort_nextId : (s.modPort i f).nextId = s.nextId := rfl
@[simp] theorem modPort_agenda : (s.modPort i f).agenda = s.agenda := rfl
@[simp] theorem modPort_runs : (s.modPort i f).runs = s.runs := rfl
@[simp] theorem modPort_launches : (s.modPort i f).launches = s.launches := rfl
@[simp] theorem modPort_blocks : (s.modPort i f).blocks = s.blocks := rfl
@[simp] theorem modPort_groups : (s.modPort i f).groups = s.groups := rfl
@[simp] theorem modPort_threads : (s.modPort i f).threads = s.threads := rfl
@[simp] theorem modPort_agentTurns : (s.modPort i f).agentTurns = s.agentTurns := rfl
@[simp] theorem modPort_mem : (s.modPort i f).mem = s.mem := rfl
@[simp] theorem modPort_poison : (s.modPort i f).poison = s.poison := rfl
@[simp] theorem modPort_damage : (s.modPort i f).damage = s.damage := rfl
@[simp] theorem modPort_slices : (s.modPort i f).slices = s.slices := rfl
@[simp] theorem modPort_l1 : (s.modPort i f).l1 = s.l1 := rfl
@[simp] theorem modPort_tlb : (s.modPort i f).tlb = s.tlb := rfl
@[simp] theorem modPort_predict : (s.modPort i f).predict = s.predict := rfl
@[simp] theorem modPort_uses : (s.modPort i f).uses = s.uses := rfl
@[simp] theorem modPort_oplog : (s.modPort i f).oplog = s.oplog := rfl
@[simp] theorem modPort_inflight : (s.modPort i f).inflight = s.inflight := rfl
@[simp] theorem modPort_cmds : (s.modPort i f).cmds = s.cmds := rfl
@[simp] theorem modPort_pairs : (s.modPort i f).pairs = s.pairs := rfl
@[simp] theorem modPort_det : (s.modPort i f).det = s.det := rfl
@[simp] theorem modPort_children : (s.modPort i f).children = s.children := rfl
@[simp] theorem modPort_packets : (s.modPort i f).packets = s.packets := rfl
@[simp] theorem modPort_latched : (s.modPort i f).latched = s.latched := rfl
@[simp] theorem modPort_gated : (s.modPort i f).gated = s.gated := rfl
@[simp] theorem modPort_maint : (s.modPort i f).maint = s.maint := rfl
@[simp] theorem modPort_slowWaits : (s.modPort i f).slowWaits = s.slowWaits := rfl
@[simp] theorem modPort_qtReg : (s.modPort i f).qtReg = s.qtReg := rfl
@[simp] theorem modPort_capReg : (s.modPort i f).capReg = s.capReg := rfl
@[simp] theorem modPort_ptReg : (s.modPort i f).ptReg = s.ptReg := rfl
@[simp] theorem modPort_sdAddr : (s.modPort i f).sdAddr = s.sdAddr := rfl
@[simp] theorem modPort_sdCtl : (s.modPort i f).sdCtl = s.sdCtl := rfl
@[simp] theorem modPort_sdDrop : (s.modPort i f).sdDrop = s.sdDrop := rfl
@[simp] theorem modPort_sdDone : (s.modPort i f).sdDone = s.sdDone := rfl
@[simp] theorem modPort_fabReg : (s.modPort i f).fabReg = s.fabReg := rfl
@[simp] theorem modPort_tgen : (s.modPort i f).tgen = s.tgen := rfl
@[simp] theorem modPort_plans : (s.modPort i f).plans = s.plans := rfl
@[simp] theorem modPort_plan : (s.modPort i f).plan = s.plan := rfl
@[simp] theorem modPort_trans : (s.modPort i f).trans = s.trans := rfl
@[simp] theorem modPort_readies : (s.modPort i f).readies = s.readies := rfl
@[simp] theorem modPort_ports : (s.modPort i f).ports = modify (·.idx == i) f s.ports := rfl
@[simp] theorem modPort_txns : (s.modPort i f).txns = s.txns := rfl
@[simp] theorem modPort_colls : (s.modPort i f).colls = s.colls := rfl
@[simp] theorem modPort_wideArrivals : (s.modPort i f).wideArrivals = s.wideArrivals := rfl
@[simp] theorem modPort_exported : (s.modPort i f).exported = s.exported := rfl
@[simp] theorem modPort_walkFails : (s.modPort i f).walkFails = s.walkFails := rfl
@[simp] theorem modPort_stranded : (s.modPort i f).stranded = s.stranded := rfl
@[simp] theorem modPort_relaying : (s.modPort i f).relaying = s.relaying := rfl
@[simp] theorem modPort_frames : (s.modPort i f).frames = s.frames := rfl
@[simp] theorem modPort_circuit : (s.modPort i f).circuit = s.circuit := rfl
@[simp] theorem modPort_tdi : (s.modPort i f).tdi = s.tdi := rfl
@[simp] theorem modPort_ide : (s.modPort i f).ide = s.ide := rfl
@[simp] theorem modPort_fwcfg : (s.modPort i f).fwcfg = s.fwcfg := rfl
@[simp] theorem modPort_nkeys : (s.modPort i f).nkeys = s.nkeys := rfl
@[simp] theorem modPort_keydigs : (s.modPort i f).keydigs = s.keydigs := rfl
@[simp] theorem modPort_spdm : (s.modPort i f).spdm = s.spdm := rfl
@[simp] theorem modPort_ideKeyed : (s.modPort i f).ideKeyed = s.ideKeyed := rfl
@[simp] theorem modPort_meas3 : (s.modPort i f).meas3 = s.meas3 := rfl
@[simp] theorem modPort_firmware : (s.modPort i f).firmware = s.firmware := rfl
@[simp] theorem modPort_fwver : (s.modPort i f).fwver = s.fwver := rfl
@[simp] theorem modPort_fuseMin : (s.modPort i f).fuseMin = s.fuseMin := rfl
@[simp] theorem modPort_ready : (s.modPort i f).ready = s.ready := rfl
@[simp] theorem modPort_dbgCtl : (s.modPort i f).dbgCtl = s.dbgCtl := rfl
@[simp] theorem modPort_dbgData : (s.modPort i f).dbgData = s.dbgData := rfl
@[simp] theorem modPort_dbgErr : (s.modPort i f).dbgErr = s.dbgErr := rfl
@[simp] theorem modPort_breaks : (s.modPort i f).breaks = s.breaks := rfl
@[simp] theorem modPort_errHead : (s.modPort i f).errHead = s.errHead := rfl
@[simp] theorem modPort_errLog : (s.modPort i f).errLog = s.errLog := rfl
@[simp] theorem modPort_corrections : (s.modPort i f).corrections = s.corrections := rfl
@[simp] theorem modPort_plimit : (s.modPort i f).plimit = s.plimit := rfl
@[simp] theorem modPort_throttle : (s.modPort i f).throttle = s.throttle := rfl
@[simp] theorem modPort_tj : (s.modPort i f).tj = s.tj := rfl
@[simp] theorem modPort_pnow : (s.modPort i f).pnow = s.pnow := rfl
@[simp] theorem modPort_energy : (s.modPort i f).energy = s.energy := rfl
@[simp] theorem modPort_bars : (s.modPort i f).bars = s.bars := rfl
@[simp] theorem modPort_hostOut : (s.modPort i f).hostOut = s.hostOut := rfl
@[simp] theorem modPort_nonces : (s.modPort i f).nonces = s.nonces := rfl
@[simp] theorem modPort_saved : (s.modPort i f).saved = s.saved := rfl
@[simp] theorem modPort_loads : (s.modPort i f).loads = s.loads := rfl
@[simp] theorem modPort_fetches : (s.modPort i f).fetches = s.fetches := rfl
end modPort

section modCmd
variable (s : State) (i : Nat) (f : Cmd → Cmd)
@[simp] theorem modCmd_part : (s.modCmd i f).part = s.part := rfl
@[simp] theorem modCmd_clock : (s.modCmd i f).clock = s.clock := rfl
@[simp] theorem modCmd_time : (s.modCmd i f).time = s.time := rfl
@[simp] theorem modCmd_freeCtr : (s.modCmd i f).freeCtr = s.freeCtr := rfl
@[simp] theorem modCmd_nextId : (s.modCmd i f).nextId = s.nextId := rfl
@[simp] theorem modCmd_agenda : (s.modCmd i f).agenda = s.agenda := rfl
@[simp] theorem modCmd_runs : (s.modCmd i f).runs = s.runs := rfl
@[simp] theorem modCmd_launches : (s.modCmd i f).launches = s.launches := rfl
@[simp] theorem modCmd_blocks : (s.modCmd i f).blocks = s.blocks := rfl
@[simp] theorem modCmd_groups : (s.modCmd i f).groups = s.groups := rfl
@[simp] theorem modCmd_threads : (s.modCmd i f).threads = s.threads := rfl
@[simp] theorem modCmd_agentTurns : (s.modCmd i f).agentTurns = s.agentTurns := rfl
@[simp] theorem modCmd_mem : (s.modCmd i f).mem = s.mem := rfl
@[simp] theorem modCmd_poison : (s.modCmd i f).poison = s.poison := rfl
@[simp] theorem modCmd_damage : (s.modCmd i f).damage = s.damage := rfl
@[simp] theorem modCmd_slices : (s.modCmd i f).slices = s.slices := rfl
@[simp] theorem modCmd_l1 : (s.modCmd i f).l1 = s.l1 := rfl
@[simp] theorem modCmd_tlb : (s.modCmd i f).tlb = s.tlb := rfl
@[simp] theorem modCmd_predict : (s.modCmd i f).predict = s.predict := rfl
@[simp] theorem modCmd_uses : (s.modCmd i f).uses = s.uses := rfl
@[simp] theorem modCmd_oplog : (s.modCmd i f).oplog = s.oplog := rfl
@[simp] theorem modCmd_inflight : (s.modCmd i f).inflight = s.inflight := rfl
@[simp] theorem modCmd_cmds : (s.modCmd i f).cmds = modify (·.id == i) f s.cmds := rfl
@[simp] theorem modCmd_pairs : (s.modCmd i f).pairs = s.pairs := rfl
@[simp] theorem modCmd_det : (s.modCmd i f).det = s.det := rfl
@[simp] theorem modCmd_children : (s.modCmd i f).children = s.children := rfl
@[simp] theorem modCmd_packets : (s.modCmd i f).packets = s.packets := rfl
@[simp] theorem modCmd_latched : (s.modCmd i f).latched = s.latched := rfl
@[simp] theorem modCmd_gated : (s.modCmd i f).gated = s.gated := rfl
@[simp] theorem modCmd_maint : (s.modCmd i f).maint = s.maint := rfl
@[simp] theorem modCmd_slowWaits : (s.modCmd i f).slowWaits = s.slowWaits := rfl
@[simp] theorem modCmd_qtReg : (s.modCmd i f).qtReg = s.qtReg := rfl
@[simp] theorem modCmd_capReg : (s.modCmd i f).capReg = s.capReg := rfl
@[simp] theorem modCmd_ptReg : (s.modCmd i f).ptReg = s.ptReg := rfl
@[simp] theorem modCmd_sdAddr : (s.modCmd i f).sdAddr = s.sdAddr := rfl
@[simp] theorem modCmd_sdCtl : (s.modCmd i f).sdCtl = s.sdCtl := rfl
@[simp] theorem modCmd_sdDrop : (s.modCmd i f).sdDrop = s.sdDrop := rfl
@[simp] theorem modCmd_sdDone : (s.modCmd i f).sdDone = s.sdDone := rfl
@[simp] theorem modCmd_fabReg : (s.modCmd i f).fabReg = s.fabReg := rfl
@[simp] theorem modCmd_tgen : (s.modCmd i f).tgen = s.tgen := rfl
@[simp] theorem modCmd_plans : (s.modCmd i f).plans = s.plans := rfl
@[simp] theorem modCmd_plan : (s.modCmd i f).plan = s.plan := rfl
@[simp] theorem modCmd_trans : (s.modCmd i f).trans = s.trans := rfl
@[simp] theorem modCmd_readies : (s.modCmd i f).readies = s.readies := rfl
@[simp] theorem modCmd_ports : (s.modCmd i f).ports = s.ports := rfl
@[simp] theorem modCmd_txns : (s.modCmd i f).txns = s.txns := rfl
@[simp] theorem modCmd_colls : (s.modCmd i f).colls = s.colls := rfl
@[simp] theorem modCmd_wideArrivals : (s.modCmd i f).wideArrivals = s.wideArrivals := rfl
@[simp] theorem modCmd_exported : (s.modCmd i f).exported = s.exported := rfl
@[simp] theorem modCmd_walkFails : (s.modCmd i f).walkFails = s.walkFails := rfl
@[simp] theorem modCmd_stranded : (s.modCmd i f).stranded = s.stranded := rfl
@[simp] theorem modCmd_relaying : (s.modCmd i f).relaying = s.relaying := rfl
@[simp] theorem modCmd_frames : (s.modCmd i f).frames = s.frames := rfl
@[simp] theorem modCmd_circuit : (s.modCmd i f).circuit = s.circuit := rfl
@[simp] theorem modCmd_tdi : (s.modCmd i f).tdi = s.tdi := rfl
@[simp] theorem modCmd_ide : (s.modCmd i f).ide = s.ide := rfl
@[simp] theorem modCmd_fwcfg : (s.modCmd i f).fwcfg = s.fwcfg := rfl
@[simp] theorem modCmd_nkeys : (s.modCmd i f).nkeys = s.nkeys := rfl
@[simp] theorem modCmd_keydigs : (s.modCmd i f).keydigs = s.keydigs := rfl
@[simp] theorem modCmd_spdm : (s.modCmd i f).spdm = s.spdm := rfl
@[simp] theorem modCmd_ideKeyed : (s.modCmd i f).ideKeyed = s.ideKeyed := rfl
@[simp] theorem modCmd_meas3 : (s.modCmd i f).meas3 = s.meas3 := rfl
@[simp] theorem modCmd_firmware : (s.modCmd i f).firmware = s.firmware := rfl
@[simp] theorem modCmd_fwver : (s.modCmd i f).fwver = s.fwver := rfl
@[simp] theorem modCmd_fuseMin : (s.modCmd i f).fuseMin = s.fuseMin := rfl
@[simp] theorem modCmd_ready : (s.modCmd i f).ready = s.ready := rfl
@[simp] theorem modCmd_dbgCtl : (s.modCmd i f).dbgCtl = s.dbgCtl := rfl
@[simp] theorem modCmd_dbgData : (s.modCmd i f).dbgData = s.dbgData := rfl
@[simp] theorem modCmd_dbgErr : (s.modCmd i f).dbgErr = s.dbgErr := rfl
@[simp] theorem modCmd_breaks : (s.modCmd i f).breaks = s.breaks := rfl
@[simp] theorem modCmd_errHead : (s.modCmd i f).errHead = s.errHead := rfl
@[simp] theorem modCmd_errLog : (s.modCmd i f).errLog = s.errLog := rfl
@[simp] theorem modCmd_corrections : (s.modCmd i f).corrections = s.corrections := rfl
@[simp] theorem modCmd_plimit : (s.modCmd i f).plimit = s.plimit := rfl
@[simp] theorem modCmd_throttle : (s.modCmd i f).throttle = s.throttle := rfl
@[simp] theorem modCmd_tj : (s.modCmd i f).tj = s.tj := rfl
@[simp] theorem modCmd_pnow : (s.modCmd i f).pnow = s.pnow := rfl
@[simp] theorem modCmd_energy : (s.modCmd i f).energy = s.energy := rfl
@[simp] theorem modCmd_bars : (s.modCmd i f).bars = s.bars := rfl
@[simp] theorem modCmd_hostOut : (s.modCmd i f).hostOut = s.hostOut := rfl
@[simp] theorem modCmd_nonces : (s.modCmd i f).nonces = s.nonces := rfl
@[simp] theorem modCmd_saved : (s.modCmd i f).saved = s.saved := rfl
@[simp] theorem modCmd_loads : (s.modCmd i f).loads = s.loads := rfl
@[simp] theorem modCmd_fetches : (s.modCmd i f).fetches = s.fetches := rfl
end modCmd

end Sys2Proof.Machine
end

