-- ==== Sys2Proof/Laws/Store.lean ====
section
/-! SUPPORT. Sparse storage: every write keeps the canonical form, a cell written reads back, every other cell is as it was. -/

namespace Sys2Proof.Machine

variable {n : Nat}

/-- A bound that lies below a key. -/
def belowKey (lo : Option Nat) (k : Nat) : Bool :=
  match lo with
  | none => true
  | some l => decide (l < k)

theorem Store.wfFrom_cons (lo : Option Nat) (a : Nat) (v : BitVec n) (r : Store n) :
    Store.wfFrom lo ((a, v) :: r) = true ↔ belowKey lo a = true ∧ v ≠ 0 ∧ Store.wfFrom (some a) r = true := by
  show (belowKey lo a && v != 0 && Store.wfFrom (some a) r) = true ↔ _
  simp only [Bool.and_eq_true, bne_iff_ne, and_assoc]

theorem belowKey_some {a k : Nat} : belowKey (some a) k = true ↔ a < k := by simp [belowKey]

/-- A bound below a key is below every larger one. -/
theorem belowKey_mono {lo : Option Nat} {a b : Nat} (h : belowKey lo a = true) (hb : a < b) : belowKey lo b = true := by
  cases lo with
  | none => rfl
  | some l => rw [belowKey_some] at *; omega

/-- Writing keeps the form above a bound that the key exceeds. -/
theorem Store.set_wfFrom {lo : Option Nat} {s : Store n} {k : Nat} (x : BitVec n) (h : Store.wfFrom lo s = true)
    (hk : belowKey lo k = true) : Store.wfFrom lo (Store.set s k x) = true := by
  induction s generalizing lo with
  | nil =>
    unfold Store.set
    split
    · rfl
    · next hx => exact (Store.wfFrom_cons ..).2 ⟨hk, hx, rfl⟩
  | cons p r ih =>
    obtain ⟨a, v⟩ := p
    obtain ⟨ha, hv, hr⟩ := (Store.wfFrom_cons ..).1 h
    unfold Store.set
    split
    · next hka =>
      split
      · exact h
      · next hx => exact (Store.wfFrom_cons ..).2 ⟨hk, hx, (Store.wfFrom_cons ..).2 ⟨belowKey_some.2 hka, hv, hr⟩⟩
    · split
      · next hke =>
        subst hke
        split
        · cases r with
          | nil => rfl
          | cons q r =>
            obtain ⟨b, w⟩ := q
            obtain ⟨hb, hw, hr⟩ := (Store.wfFrom_cons ..).1 hr
            exact (Store.wfFrom_cons ..).2 ⟨belowKey_mono hk (belowKey_some.1 hb), hw, hr⟩
        · next hx => exact (Store.wfFrom_cons ..).2 ⟨hk, hx, hr⟩
      · exact (Store.wfFrom_cons ..).2 ⟨ha, hv, ih hr (belowKey_some.2 (by omega))⟩

theorem Store.set_wf {s : Store n} (k : Nat) (x : BitVec n) (h : Store.wf s = true) : Store.wf (Store.set s k x) = true :=
  Store.set_wfFrom x h rfl

/-- A key at or below the bound of a list in canonical form is not listed. -/
theorem Store.get_below {a k : Nat} {s : Store n} (h : Store.wfFrom (some a) s = true) (hk : k ≤ a) : Store.get s k = 0 := by
  induction s generalizing a with
  | nil => rfl
  | cons p r ih =>
    obtain ⟨b, v⟩ := p
    obtain ⟨hb, -, hr⟩ := (Store.wfFrom_cons ..).1 h
    rw [belowKey_some] at hb
    unfold Store.get
    rw [if_neg (by omega)]
    exact ih hr (by omega)

theorem Store.get_set_self_from {lo : Option Nat} {s : Store n} (k : Nat) (x : BitVec n) (h : Store.wfFrom lo s = true) :
    Store.get (Store.set s k x) k = x := by
  induction s generalizing lo with
  | nil =>
    unfold Store.set
    split
    · next hx => simp [Store.get, hx]
    · simp [Store.get]
  | cons p r ih =>
    obtain ⟨a, v⟩ := p
    have hr := ((Store.wfFrom_cons ..).1 h).2.2
    unfold Store.set
    split
    · next hka =>
      split
      · next hx =>
        unfold Store.get
        rw [if_neg (by omega), hx]
        exact Store.get_below hr (by omega)
      · simp [Store.get]
    · split
      · next hke =>
        subst hke
        split
        · next hx => rw [hx]; exact Store.get_below hr (Nat.le_refl _)
        · simp [Store.get]
      · next hke =>
        unfold Store.get
        rw [if_neg (by omega)]
        exact ih hr

/-- A cell written reads back. -/
theorem Store.get_set_self {s : Store n} (k : Nat) (x : BitVec n) (h : Store.wf s = true) :
    Store.get (Store.set s k x) k = x := Store.get_set_self_from k x h

/-- Every other cell is as it was. -/
theorem Store.get_set_other {s : Store n} {k j : Nat} (x : BitVec n) (hj : j ≠ k) :
    Store.get (Store.set s k x) j = Store.get s j := by
  induction s with
  | nil =>
    unfold Store.set
    split
    · rfl
    · simp only [Store.get, if_neg (Ne.symm hj)]
  | cons p r ih =>
    obtain ⟨a, v⟩ := p
    unfold Store.set
    split
    · split
      · rfl
      · rw [Store.get, if_neg (Ne.symm hj)]
    · split
      · next hke =>
        subst hke
        split
        · rw [Store.get, if_neg (Ne.symm hj)]
        · rw [Store.get, Store.get, if_neg (Ne.symm hj), if_neg (Ne.symm hj)]
      · rw [Store.get, Store.get]
        split
        · rfl
        · exact ih

theorem Store.setBytes_wf {s : Store 8} (a : Nat) (bs : List Byte) (h : Store.wf s = true) :
    Store.wf (Store.setBytes s a bs) = true := by
  induction bs generalizing s a with
  | nil => exact h
  | cons b r ih => exact ih _ (Store.set_wf a b h)

/-- Bytes outside those written are as they were. -/
theorem Store.get_setBytes_other {s : Store 8} {a j : Nat} (bs : List Byte) (hj : j < a ∨ a + bs.length ≤ j) :
    Store.get (Store.setBytes s a bs) j = Store.get s j := by
  induction bs generalizing s a with
  | nil => rfl
  | cons b r ih =>
    simp only [List.length_cons] at hj
    rw [Store.setBytes, ih (by omega), Store.get_set_other _ (by omega)]

end Sys2Proof.Machine
end

