-- ==== Sys2Proof/Laws/Frame.lean ====
section
/-! SUPPORT. What the memory system does beside an access: from a state in which no error stands, it writes main memory only in the lines
that an L1 holds, and poisons nothing that is sound. -/

namespace Sys2Proof.Machine

/-- The names of an L1 line: its core, PASID, virtual line and physical line. -/
abbrev L1Line.names (l : L1Line) : Nat × BitVec 20 × Nat × Nat := (l.core, l.pasid, l.vline, l.pline)

/-- No error stands; every L1 line has one of some lists of names; main memory reads as it did outside those physical lines; and, if the
state was sound, it still is. -/
structure Apart (ns : List (Nat × BitVec 20 × Nat × Nat)) (m : Memory) (sound : Prop) (s : State) : Prop where
  unhurt : s.damage = []
  lines : ∀ x ∈ s.l1, x.names ∈ ns
  same : ∀ a, (∀ p ∈ ns, p.2.2.2 ≠ lineOf a) → Store.get s.mem a = Store.get m a
  home : sound → s.poison = []
  slices : sound → ∀ x ∈ s.slices, x.poison = 0
  l1 : sound → ∀ x ∈ s.l1, x.poison = 0

variable {ns : List (Nat × BitVec 20 × Nat × Nat)} {m : Memory} {sound : Prop} {s : State}

theorem Apart.start (s : State) (h : s.damage = []) (hs : sound → s.Sound) : Apart (s.l1.map (·.names)) s.mem sound s :=
  ⟨h, fun x hx => List.mem_map.2 ⟨x, hx, rfl⟩, fun _ _ => rfl, fun c => (hs c).home, fun c => (hs c).slices, fun c => (hs c).l1⟩

theorem Apart.foldl {α : Type} {f : State → α → State} (l : List α)
    (hf : ∀ s, ∀ x ∈ l, Apart ns m sound s → Apart ns m sound (f s x)) (h : Apart ns m sound s) :
    Apart ns m sound (l.foldl f s) := by
  induction l generalizing s with
  | nil => exact h
  | cons x l ih =>
    exact ih (fun s y hy => hf s y (List.mem_cons_of_mem _ hy)) (hf s x (List.mem_cons_self ..) h)

/-- With no error in the storage none is found. -/
theorem meetAll_unhurt (h : s.damage = []) (pasid : BitVec 20) (why : ErrKind) (p : ErrPlace → Bool) :
    s.meetAll pasid why p = s := by simp [State.meetAll, h]
theorem writeOver_unhurt (h : s.damage = []) (a b : ErrPlace → Bool) : s.writeOver a b = s := by simp [State.writeOver, h]

theorem line_eq {p a : Nat} (hp : p % 128 = 0) (h : p ≤ a) (h' : a < p + 128) : lineOf a = p := by unfold lineOf; omega

/-- Bytes written within one of the lines. -/
theorem Apart.putHome (h : Apart ns m sound s) {p pa : Nat} {bs : List Byte} (hp : ∃ q ∈ ns, q.2.2.2 = p) (ha : p % 128 = 0) (h1 : p ≤ pa)
    (h2 : pa + bs.length ≤ p + 128) : Apart ns m sound (s.putHome pa bs) where
  unhurt := h.unhurt
  lines := h.lines
  same a hl := by
    rw [← h.same a hl]
    refine Store.get_setBytes_other bs ?_
    by_contra hc
    obtain ⟨q, hq, rfl⟩ := hp
    exact hl q hq (line_eq (a := a) ha (by omega) (by omega)).symm
  home c := by simp [State.putHome, h.home c]
  slices c x hx := by
    obtain ⟨y, hy, rfl⟩ := List.mem_map.1 hx
    have := h.slices c y hy
    dsimp only
    split <;> simp [this]
  l1 := h.l1

theorem Apart.wordHome (h : Apart ns m sound s) {l : L1Line} {w : Nat} (hp : l.names ∈ ns) (ha : l.pline % 128 = 0) (hw : w < 32)
    (hl : sound → l.poison = 0) : Apart ns m sound (s.wordHome l w) := by
  unfold State.wordHome
  dsimp only
  split
  · have h' : Apart ns m sound (s.putHome (l.pline + 4 * w) (l.bytes.bytes (4 * w) 4)) :=
      h.putHome (p := l.pline) ⟨_, hp, rfl⟩ ha (by omega) (by simp only [Store.bytes, List.length_cons, List.length_nil]; omega)
    split
    · next hb =>
      have hn : ¬ sound := fun c => by simp [hl c] at hb
      unfold State.spoil
      split
      · exact ⟨h'.unhurt, h'.lines, h'.same, fun c => absurd c hn, fun c => absurd c hn, h'.l1⟩
      · exact ⟨h'.unhurt, h'.lines, h'.same, fun c => absurd c hn, h'.slices, h'.l1⟩
    · exact h'
  · refine Apart.foldl _ (fun s j hj hs => ?_) h
    have : j < 4 := List.mem_range.1 hj
    split
    · exact hs.putHome (p := l.pline) ⟨_, hp, rfl⟩ ha (by omega) (by simp only [List.length_cons, List.length_nil]; omega)
    · exact hs

theorem Apart.wordsHome (h : Apart ns m sound s) {l : L1Line} (ws : BitVec 32) (hp : l.names ∈ ns) (ha : l.pline % 128 = 0)
    (hl : sound → l.poison = 0) : Apart ns m sound (s.wordsHome l ws) := by
  unfold State.wordsHome State.overSlice
  rw [writeOver_unhurt h.unhurt]
  refine Apart.foldl _ (fun s w hw hs => ?_) h
  split
  · exact hs.wordHome hp ha (List.mem_range.1 hw) hl
  · exact hs

/-- A change of L1 lines that keeps their places, and their soundness. -/
theorem Apart.modL1 (h : Apart ns m sound s) (core pline : Nat) (f : L1Line → L1Line) (hf : ∀ x, (f x).names = x.names)
    (hs : sound → ∀ x, x.poison = 0 → (f x).poison = 0) : Apart ns m sound (s.modL1 core pline f) where
  unhurt := h.unhurt
  lines x hx := by
    obtain ⟨y, hy, rfl⟩ := List.mem_map.1 hx
    have := h.lines y hy
    dsimp only
    split
    · rw [hf]; exact this
    · exact this
  same := h.same
  home := h.home
  slices := h.slices
  l1 c x hx := by
    obtain ⟨y, hy, rfl⟩ := List.mem_map.1 hx
    have := h.l1 c y hy
    dsimp only
    split
    · exact hs c y this
    · exact this

theorem Apart.modSlice (h : Apart ns m sound s) (pline : Nat) (f : SliceLine → SliceLine) (hs : ∀ x, (f x).poison = x.poison) :
    Apart ns m sound (s.modSlice pline f) where
  unhurt := h.unhurt
  lines := h.lines
  same := h.same
  home := h.home
  slices c x hx := by
    obtain ⟨y, hy, rfl⟩ := List.mem_map.1 hx
    have := h.slices c y hy
    dsimp only
    split
    · rw [hs]; exact this
    · exact this
  l1 := h.l1

/-- The physical lines stand on multiples of 128 bytes. -/
abbrev OnLines (ns : List (Nat × BitVec 20 × Nat × Nat)) : Prop := ∀ p ∈ ns, p.2.2.2 % 128 = 0

theorem Apart.recallWords (h : Apart ns m sound s) (ha : OnLines ns) (pline : Nat) (ws : BitVec 32) :
    Apart ns m sound (s.recallWords pline ws) := by
  unfold State.recallWords
  split
  · exact h
  · next sl _ =>
    split
    · exact h
    · next o _ =>
      dsimp only
      unfold State.visitL1
      rw [meetAll_unhurt h.unhurt]
      split
      · exact h
      · refine Apart.modSlice ?_ _ _ (fun _ => rfl)
        split
        · exact h
        · next l hl =>
          have hm := List.mem_of_find?_eq_some hl
          exact (h.wordsHome _ (h.lines l hm) (ha _ (h.lines l hm)) (fun c => h.l1 c l hm)).modL1 _ _ _ (fun _ => rfl)
            (fun _ _ hx => hx)

theorem Apart.recallOther (h : Apart ns m sound s) (ha : OnLines ns) (core pline : Nat) (ws : BitVec 32) :
    Apart ns m sound (s.recallOther core pline ws) := by
  unfold State.recallOther
  split
  · split
    · exact h.recallWords ha _ _
    · exact h
  · exact h

/-- Nothing is poisoned at home in sound storage. -/
theorem Apart.poisonedHome (h : Apart ns m sound s) (c : sound) (a : Nat) : s.poisonedHome a = false := by
  unfold State.poisonedHome
  split
  · next y hy => simp [h.slices c y (List.mem_of_find?_eq_some hy)]
  · simp [h.home c]

theorem Apart.counted (h : Apart ns m sound s) (n : Nat) : Apart ns m sound { s with freeCtr := n } :=
  ⟨h.unhurt, h.lines, h.same, h.home, h.slices, h.l1⟩

theorem Apart.evictSlice (h : Apart ns m sound s) (ha : OnLines ns) (pline : Nat) : Apart ns m sound (s.evictSlice pline) := by
  unfold State.evictSlice
  generalize BitVec.allOnes 32 = ws
  have hr := h.recallWords ha pline ws
  rw [meetAll_unhurt hr.unhurt]
  dsimp only
  split
  · exact hr
  · next x hx =>
    refine ⟨by simp [hr.unhurt], hr.lines, hr.same, fun c => ?_, fun c y hy => hr.slices c y (List.mem_filter.1 hy).1, hr.l1⟩
    dsimp only
    split
    · simp [hr.home c, hr.poisonedHome c]
    · exact hr.home c

theorem Apart.touchSlice (h : Apart ns m sound s) (ha : OnLines ns) (pline : Nat) (pasid : BitVec 20) (why : ErrKind) :
    Apart ns m sound (s.touchSlice pline pasid why) := by
  have made {t : State} (ht : Apart ns m sound t) (b : BitVec 32) :
      Apart ns m sound { t.meetAll pasid why (ErrPlace.inHalf pline) with
        slices := ⟨pline, none, 0, if (t.meetAll pasid why (ErrPlace.inHalf pline)).poison.isEmpty then 0 else b, false⟩ ::
          (t.meetAll pasid why (ErrPlace.inHalf pline)).slices } := by
    rw [meetAll_unhurt ht.unhurt]
    refine ⟨ht.unhurt, ht.lines, ht.same, ht.home, fun c x hx => ?_, ht.l1⟩
    rcases List.mem_cons.1 hx with rfl | hx
    · simp [ht.home c]
    · exact ht.slices c x hx
  unfold State.touchSlice
  split
  · exact h
  · dsimp only
    refine made ?_ _
    split
    · exact h
    · split
      · exact h
      · simp only [State.choose]
        split
        · exact (h.counted _).evictSlice ha _
        · exact h.counted _

theorem Apart.visitLines (h : Apart ns m sound s) (ha : OnLines ns) (pasid : BitVec 20) (why : ErrKind) (k pa n : Nat) :
    Apart ns m sound (s.visitLines pasid why k pa n) := by
  induction k generalizing s pa n with
  | zero => exact h
  | succ k ih =>
    unfold State.visitLines
    split
    · exact h
    · have ht := h.touchSlice ha (lineOf pa) pasid why
      dsimp only
      rw [meetAll_unhurt ht.unhurt]
      exact ih ht _ _

theorem Apart.visit (h : Apart ns m sound s) (ha : OnLines ns) (pa n : Nat) (pasid : BitVec 20) (why : ErrKind) :
    Apart ns m sound (s.visit pa n pasid why) := h.visitLines ha _ _ _ _ _

theorem Apart.predicted (h : Apart ns m sound s) (cluster pline : Nat) (c : Bool) : Apart ns m sound (s.predicted cluster pline c) := by
  unfold State.predicted
  split
  · exact ⟨h.unhurt, h.lines, h.same, h.home, h.slices, h.l1⟩
  · dsimp only
    split
    · exact ⟨h.unhurt, h.lines, h.same, h.home, h.slices, h.l1⟩
    · split <;> exact ⟨h.unhurt, h.lines, h.same, h.home, h.slices, h.l1⟩

theorem Apart.noteUse (h : Apart ns m sound s) (core pline : Nat) : Apart ns m sound (s.noteUse core pline) :=
  ⟨h.unhurt, h.lines, h.same, h.home, h.slices, h.l1⟩

theorem Apart.register (h : Apart ns m sound s) (ha : OnLines ns) (core pline : Nat) (ws : BitVec 32) :
    Apart ns m sound (s.register core pline ws) := by
  unfold State.register
  dsimp only
  refine Apart.predicted ?_ _ _ _
  refine Apart.modL1 ?_ _ _ _ (fun _ => rfl) (fun _ _ hx => hx)
  refine Apart.noteUse ?_ _ _
  exact ((h.touchSlice ha _ _ _).recallOther ha _ _ _).modSlice _ _ (fun _ => rfl)

/-- Nothing comes poisoned from sound storage. -/
theorem Apart.brought (h : Apart ns m sound s) (c : sound) (pline : Nat) (ws dirty : BitVec 32) : s.brought pline ws dirty 0 = 0 := by
  have hb : ∀ l : List Nat, l.foldl (fun (m : BitVec 32) w => if ws.getLsbD w && s.poisonedHome (pline + 4 * w) then setBit m w true else m) 0 = 0 := by
    intro l
    simp [h.poisonedHome c]
  unfold State.brought
  rw [hb]
  simp [pairMask]

theorem Apart.copyWords (h : Apart ns m sound s) (core pline : Nat) (ws : BitVec 32) : Apart ns m sound (s.copyWords core pline ws) := by
  refine h.modL1 _ _ _ (fun _ => rfl) (fun c x hx => ?_)
  dsimp only
  rw [hx]
  exact h.brought c _ _ _

theorem Apart.cleanLine (h : Apart ns m sound s) (ha : OnLines ns) (l : L1Line) : Apart ns m sound (s.cleanLine l) := by
  unfold State.cleanLine
  split
  · exact h
  · dsimp only
    have hv := (h.touchSlice ha l.pline 0 .deferred).recallOther ha l.core l.pline (BitVec.allOnes 32)
    unfold State.visitL1
    rw [meetAll_unhurt hv.unhurt]
    split
    · exact hv
    · next l' hl =>
      have hm := List.mem_of_find?_eq_some hl
      have hw := (hv.wordsHome l'.dirtyWords (hv.lines l' hm) (ha _ (hv.lines l' hm)) (fun c => hv.l1 c l' hm)).register ha
        l'.core l'.pline l'.dirtyWords
      unfold State.overL1
      rw [writeOver_unhurt hw.unhurt]
      exact hw.copyWords _ _ _

theorem Apart.dropLine (h : Apart ns m sound s) (ha : OnLines ns) (l : L1Line) : Apart ns m sound (s.dropLine l) := by
  have hg : Apart ns m sound ((s.cleanLine l).giveBack l) := by
    unfold State.giveBack
    split
    · split
      · exact (h.cleanLine ha l).recallWords ha _ _
      · exact h.cleanLine ha l
    · exact h.cleanLine ha l
  exact ⟨by simp [State.dropLine, hg.unhurt], fun x hx => hg.lines x (List.mem_filter.1 hx).1, hg.same, hg.home, hg.slices,
    fun c x hx => hg.l1 c x (List.mem_filter.1 hx).1⟩

theorem Apart.roomL1 (h : Apart ns m sound s) (ha : OnLines ns) (core : Nat) : Apart ns m sound (s.roomL1 core) := by
  unfold State.roomL1
  dsimp only
  split
  · exact h
  · simp only [State.choose]
    split
    · exact (h.counted _).dropLine ha _
    · exact h.counted _

end Sys2Proof.Machine
end

