-- ==== Sys2Proof/Laws/Issue.lean ====
section
/-! SUPPORT. What issuing an instruction comes to: under Clear it acts, and what its act answers is what the step answers. -/

namespace Sys2Proof.Machine

theorem traps_none {f : Thread → Option Trap} {ts : List Thread} (h : ∀ t ∈ ts, f t = none) : traps f ts = [] := by
  induction ts with
  | nil => rfl
  | cons t ts ih =>
    have ht := h t (List.mem_cons_self ..)
    have := ih (fun u hu => h u (List.mem_cons_of_mem _ hu))
    simp only [traps, List.filterMap_cons, ht, Option.map_none] at *
    exact this

theorem any_none {α : Type} {p : α → Bool} {l : List α} (h : ∀ x ∈ l, p x = false) : l.any p = false := by
  simp only [List.any_eq_false]
  intro x hx
  simp [h x hx]

/-- With no error in the storage nothing is found. -/
theorem meetAll_clean {s : State} (h : s.damage = []) (pasid : BitVec 20) (why : ErrKind) (p : ErrPlace → Bool) :
    s.meetAll pasid why p = s := by simp [State.meetAll, h]

theorem meetRegs_clean {s : State} (h : s.damage = []) (n : Need) : s.meetRegs n = s := by
  unfold State.meetRegs
  split
  · rfl
  · split
    · rfl
    · exact meetAll_clean h ..

/-- The outcome of an act, as issue answers it. -/
def Act.out (n : Need) (s : State) (cx : Ctx) : Act → Out
  | .done s' =>
    .next ((if n.ends then s'.endRegion cx.run.ref (lanesOf ((cx.exec n.common).map (·.lane))) else s').goOnRun cx.run n.common)
  | .over s' => .next s'
  | .stall => .next s.stall
  | .trap s' l => .next (s'.trapSome cx l)

/-- What is clear is reached. -/
theorem Clear.reached {n : Need} {s : State} {cx : Ctx} (h : Clear n s cx) : Reached n s cx :=
  ⟨h.stands, h.allowed, h.unhurt, h.decided, h.executes, h.stays, h.kept, h.settled, h.drained, h.logged, h.unheld⟩

/-- What a check that comes before the guards finds traps the whole run. -/
theorem issue_priv {n : Need} {s : State} {cx : Ctx} {tr : Trap} (hc : s.ctx? = some cx) (hd : s.damage = [])
    (hp : privTrap n cx = some tr) (pre own : Ctx → Thread → Option Trap) (act : Ctx → List Thread → State → Act) :
    issue n pre own act s = .next (s.trapRun cx tr) := by
  unfold issue
  rw [meetRegs_clean hd]
  simp only [issueOn, hc, hp]

/-- An instruction that is reached, and that nothing stops before: the threads whose checks fail trap, and where none does it acts. -/
theorem issue_reached {n : Need} {s : State} {cx : Ctx} (h : Reached n s cx) {pre : Ctx → Thread → Option Trap}
    (hp : ∀ t ∈ cx.exec n.common, pre cx t = none) (own : Ctx → Thread → Option Trap) (act : Ctx → List Thread → State → Act) :
    issue n pre own act s =
      match traps (fun t => (commonTrap n cx t).orElse (fun _ => own cx t)) (cx.exec n.common) with
      | [] => (act cx (cx.exec n.common) s).out n s cx
      | x :: xs => .next ((n.noted cx (x :: xs) s).trapSome cx (x :: xs)) := by
  have h0 := meetRegs_clean h.unhurt n
  have h9 := any_none (fun t ht => (h.decided t ht).1)
  have h10 := any_none (fun t ht => (h.decided t ht).2)
  have h1 : (cx.exec n.common).isEmpty = false := by simpa using h.executes
  have h2 := any_none h.stays
  have h3 : (!cx.run.pip && !((s.groupThreads cx.run.ref).filter (handedOver n)).isEmpty) = false := by
    rcases h.kept with h | h
    · simp [h]
    · have : (s.groupThreads cx.run.ref).filter (handedOver n) = [] := by
        rw [List.filter_eq_nil_iff]; intro t ht; simp [h t ht]
      simp [this]
  have h4 := any_none h.settled
  have h5 : (n.ordered && (cx.exec n.common).any (orderedWait s.inflight)) = false := by
    cases ho : n.ordered
    · rfl
    · simpa using any_none (h.drained ho)
  have h6 : (n.afterLog && (cx.exec n.common).any (loggedWait s.inflight)) = false := by
    cases ho : n.afterLog
    · rfl
    · simpa using any_none (h.logged ho)
  have h7 := any_none h.unheld
  simp only [issue, issueOn, h0, h.stands, h.allowed, h9, h10, h1, h2, h3, h4, h5, h6, h7, traps_none hp]
  cases traps (fun t => (commonTrap n cx t).orElse (fun _ => own cx t)) (cx.exec n.common) with
  | cons x xs => rfl
  | nil => cases act cx (cx.exec n.common) s <;> rfl

/-- Under Clear, and with the instruction's own checks passed, issue is its act. -/
theorem issue_clear {n : Need} {s : State} {cx : Ctx} (h : Clear n s cx) {pre own : Ctx → Thread → Option Trap}
    (hp : ∀ t ∈ cx.exec n.common, pre cx t = none) (ho : ∀ t ∈ cx.exec n.common, own cx t = none)
    (act : Ctx → List Thread → State → Act) :
    issue n pre own act s = (act cx (cx.exec n.common) s).out n s cx := by
  rw [issue_reached h.reached hp, traps_none (fun t ht => by simp [h.sound t ht, ho t ht])]

/-- A run that issues never faults: a next state is answered. -/
theorem issueOn_next {n : Need} {s : State} (h : s.ctx?.isSome) (pre own : Ctx → Thread → Option Trap)
    (act : Ctx → List Thread → State → Act) : Safe (issueOn n pre own act s) := by
  obtain ⟨cx, hc⟩ := Option.isSome_iff_exists.1 h
  unfold issueOn Safe
  rw [hc]
  dsimp only
  split
  · exact ⟨_, rfl⟩
  · split
    · exact ⟨_, rfl⟩
    · split
      · exact ⟨_, rfl⟩
      · split
        · exact ⟨_, rfl⟩
        · split
          · exact ⟨_, rfl⟩
          · split
            · exact ⟨_, rfl⟩
            · split
              · exact ⟨_, rfl⟩
              · split
                · exact ⟨_, rfl⟩
                · split
                  · exact ⟨_, rfl⟩
                  · split
                    · exact ⟨_, rfl⟩
                    · split <;> exact ⟨_, rfl⟩

theorem issue_next {n : Need} {s : State} (h : s.ctx?.isSome) (hd : s.damage = []) (pre own : Ctx → Thread → Option Trap)
    (act : Ctx → List Thread → State → Act) : Safe (issue n pre own act s) := by
  unfold issue
  rw [meetRegs_clean hd]
  exact issueOn_next h pre own act

theorem noTrap_none (cx : Ctx) (c : Common) : ∀ t ∈ cx.exec c, noTrap cx t = none := fun _ _ => rfl

/-- A register instruction under Clear: its writes are made, and the run goes on. -/
theorem vecOp_clear {c : Common} {writes reads : List Names} {s : State} {cx : Ctx} (h : Clear (regNeed c writes reads) s cx)
    (f : Group → Thread → List Wr) : vecOp c writes reads f s = .next (s.wrote cx c (f cx.group)) := by
  exact issue_clear h (noTrap_none cx _) (noTrap_none cx _) _

/-- Under Clear, an instruction whose own check fails for every executing thread traps them. -/
theorem traps_all {f : Thread → Option Trap} {g : Thread → Trap} {ts : List Thread} (h : ∀ t ∈ ts, f t = some (g t)) :
    traps f ts = ts.map (fun t => (t.lane, g t)) := by
  induction ts with
  | nil => rfl
  | cons t ts ih =>
    have ht := h t (List.mem_cons_self ..)
    have := ih (fun u hu => h u (List.mem_cons_of_mem _ hu))
    simp only [traps, List.filterMap_cons, ht, Option.map_some, List.map_cons] at *
    rw [this]

theorem issue_traps {n : Need} {s : State} {cx : Ctx} (h : Clear n s cx) {pre own : Ctx → Thread → Option Trap} {g : Thread → Trap}
    (hp : ∀ t ∈ cx.exec n.common, pre cx t = none) (ho : ∀ t ∈ cx.exec n.common, own cx t = some (g t))
    (act : Ctx → List Thread → State → Act) :
    issue n pre own act s = .next ((n.noted cx ((cx.exec n.common).map (fun t => (t.lane, g t))) s).trapSome cx
      ((cx.exec n.common).map (fun t => (t.lane, g t)))) := by
  have ht : traps (fun t => (commonTrap n cx t).orElse (fun _ => own cx t)) (cx.exec n.common) =
      (cx.exec n.common).map (fun t => (t.lane, g t)) := by
    apply traps_all
    intro t ht
    simp [h.sound t ht, ho t ht]
  rw [issue_reached h.reached hp, ht]
  obtain ⟨x, xs, hx⟩ := List.exists_cons_of_ne_nil h.executes
  rw [hx]
  rfl

/-- A register instruction that is reached: exactly the threads with a poisoned source or a live-in destination trap, if there are any. -/
theorem issue_some {n : Need} {s : State} {cx : Ctx} (h : Reached n s cx) (act : Ctx → List Thread → State → Act)
    (hl : traps (commonTrap n cx) (cx.exec n.common) ≠ []) :
    issue n noTrap noTrap act s = .next ((n.noted cx (traps (commonTrap n cx) (cx.exec n.common)) s).trapSome cx
      (traps (commonTrap n cx) (cx.exec n.common))) := by
  have : (fun t => (commonTrap n cx t).orElse (fun _ => noTrap cx t)) = commonTrap n cx := by
    funext t; cases commonTrap n cx t <;> rfl
  rw [issue_reached h (noTrap_none cx _), this]
  obtain ⟨x, xs, hx⟩ := List.exists_cons_of_ne_nil hl
  rw [hx]

/-- What State.launched says of State.fly. -/
theorem launched_fly {s s' : State} {cx : Ctx} {c : Common} {f : Flight} (h : s.launched cx c f = some s') :
    ∃ i u, s.fly cx c (lanesOf ((cx.exec c).map (·.lane))) f = some (i, u) ∧ u.goOnRun cx.run c = s' := by
  unfold State.launched at h
  rw [Option.map_eq_some_iff] at h
  obtain ⟨⟨i, u⟩, h1, h2⟩ := h
  exact ⟨i, u, h1, h2⟩

/-- A long-latency register instruction under Clear goes in flight with its values bound. -/
theorem longOp_clear {c : Common} {d : Opnd} {wide : Bool} {reads : List Names} {s s' : State} {cx : Ctx}
    (h : Clear (regNeed c [nm d wide] reads) s cx) (f : State → Group → Thread → BitVec 64)
    (hs : s.launched cx c { dst := some (d, wide), vals := (cx.exec c).map (fun t => (t.lane, f s cx.group t)) } = some s') :
    longOp c d wide reads f s = .next s' := by
  refine (issue_clear h (noTrap_none cx _) (noTrap_none cx _) _).trans ?_
  obtain ⟨i, u, h1, h2⟩ := launched_fly hs
  simp only [h1]
  exact congrArg _ h2

/-- A cross-lane instruction whose members have gathered acts over them. -/
theorem lanesOp_gathered {c : Common} {w r : List Names} {msk : Option Opnd} {s : State} {cx cx' : Ctx}
    (h : Gathered c w r msk s cx cx') (f : Ctx → List Thread → Thread → List Wr) :
    lanesOp c w r msk f s = .next ((s.gather cx).wrote cx' c (f cx' (cx'.exec c))) := by
  have ha := h.allowed
  unfold lanesNeed at ha
  simp only [lanesOp, h.stands, ha, h.onPipe, h.arrived]
  simp only [Bool.false_eq_true, if_false]
  refine (issue_clear h.clear (noTrap_none cx' _) ?_ _).trans rfl
  intro t ht; simp only [h.members t ht, if_true]

/-- An engine command that may be issued, whose act is done, hands out its handle. -/
theorem engineOp_clear {n : CmdNeed} {own : State → Ctx → Option Trap} {full : State → Ctx → Bool} {s s' : State} {cx : Ctx}
    {h : BitVec 64} {b : Block} (hi : Issuable n (own s cx) (full s cx) s cx h b)
    (act : Ctx → List Thread → BitVec 64 → State → Act)
    (ha : act cx (cx.exec n.common) h (s.readied n cx b) = .done s') (hb : s.hostBarred s' = false) :
    engineOp n own full act s = .next (s'.handed n cx h) := by
  unfold engineOp
  refine (issue_clear hi.clear hi.first (fun _ _ => hi.own) _).trans ?_
  have e1 : (full s cx || (cx.exec n.common).any s.remoteWait) = false := by rw [hi.room, any_none hi.quiet]; rfl
  have e2 := hi.entry
  have e3 : (s.modBlock cx.run.ref.launch cx.run.ref.blk (fun _ => b)).hostBarred s' = false := hb
  unfold State.readied at ha
  simp only [e1, e2, e3, ha, Bool.false_eq_true, if_false]
  rfl

/-- The flags of a mask are clear where each one's count is zero. -/
theorem flagsClear_of {fs : Store 16} {w : BitVec 12} :
    ∀ n, (∀ i, i < n → w.getLsbD i = true → fs.get i = 0) → flagsClear fs w n = true
  | 0, _ => rfl
  | n + 1, h => by
    simp only [flagsClear, Bool.and_eq_true]
    refine ⟨?_, flagsClear_of n (fun i hi => h i (by omega))⟩
    cases hw : w.getLsbD n <;> simp [flagSet]
    exact h n (by omega) hw

end Sys2Proof.Machine
end

