-- ==== Sys2Proof/Laws/Mem.lean ====
section
/-! SUPPORT. Every operation on memory keeps its canonical form; reset's memory has it. -/

namespace Sys2Proof.Machine

theorem reset_memWf : State.reset.memWf = true := rfl

/-- A state whose memory is the same keeps the form. -/
theorem memWf_of_eq {s t : State} (h : s.memWf = true) (e : t.mem = s.mem) : t.memWf = true := by
  rw [State.memWf, e]; exact h

theorem putHome_memWf {s : State} (pa : Nat) (bs : List Byte) (h : s.memWf = true) : (s.putHome pa bs).memWf = true :=
  Store.setBytes_wf pa bs h

/-- A fold of steps that keep the form keeps it. -/
theorem foldl_memWf {α : Type} {f : State → α → State} (hf : ∀ s x, s.memWf = true → (f s x).memWf = true) (l : List α)
    {s : State} (h : s.memWf = true) : (l.foldl f s).memWf = true := by
  induction l generalizing s with
  | nil => exact h
  | cons x l ih => exact ih (hf s x h)

/-! Finding errors writes no memory. -/

theorem poisonAt_mem (s : State) (p : ErrPlace) : (s.poisonAt p).mem = s.mem := by
  cases p <;> simp only [State.poisonAt, State.modSlice, modBlock_mem, modThread_mem, modGroup_mem, modPair_mem]

theorem meet_mem (s : State) (pasid : BitVec 20) (why : ErrKind) (d : Damage) : (s.meet pasid why d).mem = s.mem := by
  unfold State.meet
  dsimp only
  split
  · rfl
  · exact poisonAt_mem _ _

theorem meetAll_mem (s : State) (pasid : BitVec 20) (why : ErrKind) (p : ErrPlace → Bool) : (s.meetAll pasid why p).mem = s.mem := by
  unfold State.meetAll
  generalize s.damage.filter (fun d => p d.place) = l
  induction l generalizing s with
  | nil => rfl
  | cons d l ih => exact (ih _).trans (meet_mem _ _ _ _)

theorem meetAll_memWf {s : State} (pasid : BitVec 20) (why : ErrKind) (p : ErrPlace → Bool) (h : s.memWf = true) :
    (s.meetAll pasid why p).memWf = true := memWf_of_eq h (meetAll_mem ..)

theorem writeOver_mem (s : State) (whole touched : ErrPlace → Bool) : (s.writeOver whole touched).mem = s.mem := by
  unfold State.writeOver
  split
  · exact meetAll_mem _ _ _ _
  · rfl

/-- What writing comes to for the errors of the codewords written changes no memory. -/
theorem overSlice_memWf {s : State} (pline : Nat) (w t : BitVec 32) (h : s.memWf = true) : (s.overSlice pline w t).memWf = true :=
  memWf_of_eq h (writeOver_mem ..)
theorem overL1_memWf {s : State} (core pline : Nat) (w t : BitVec 32) (h : s.memWf = true) : (s.overL1 core pline w t).memWf = true :=
  memWf_of_eq h (writeOver_mem ..)

theorem spoil_memWf {s : State} (pa : Nat) (h : s.memWf = true) : (s.spoil pa).memWf = true := by
  unfold State.spoil
  split <;> exact h

theorem spoilAll_memWf {s : State} (ws : List Nat) (h : s.memWf = true) : (s.spoilAll ws).memWf = true :=
  foldl_memWf (fun _ w hs => spoil_memWf w hs) _ h

/-! Words at home. -/

theorem wordHome_memWf {s : State} (l : L1Line) (w : Nat) (h : s.memWf = true) : (s.wordHome l w).memWf = true := by
  unfold State.wordHome
  dsimp only
  split
  · split
    · exact spoil_memWf _ (putHome_memWf _ _ h)
    · exact putHome_memWf _ _ h
  · apply foldl_memWf _ _ h
    intro s j hs
    split
    · exact putHome_memWf _ _ hs
    · exact hs

theorem wordsHome_memWf {s : State} (l : L1Line) (ws : BitVec 32) (h : s.memWf = true) : (s.wordsHome l ws).memWf = true := by
  unfold State.wordsHome
  apply foldl_memWf _ _ (overSlice_memWf _ _ _ h)
  intro s w hs
  split
  · exact wordHome_memWf _ _ hs
  · exact hs

theorem recallWords_memWf {s : State} (pline : Nat) (ws : BitVec 32) (h : s.memWf = true) :
    (s.recallWords pline ws).memWf = true := by
  unfold State.recallWords
  split
  · exact h
  · next sl _ =>
    split
    · exact h
    · next o _ =>
      dsimp only
      have hv : (s.visitL1 o pline 0 128 0 .deferred).memWf = true := meetAll_memWf _ _ _ h
      split
      · exact h
      · split
        · exact hv
        · next l _ => exact wordsHome_memWf l _ hv

theorem evictSlice_memWf {s : State} (pline : Nat) (h : s.memWf = true) : (s.evictSlice pline).memWf = true := by
  have hr := meetAll_memWf 0 .deferred (ErrPlace.inSlice pline 128) (recallWords_memWf pline (BitVec.allOnes 32) h)
  unfold State.evictSlice
  dsimp only
  split <;> exact hr

theorem touchSlice_memWf {s : State} (pline : Nat) (pasid : BitVec 20) (why : ErrKind) (h : s.memWf = true) :
    (s.touchSlice pline pasid why).memWf = true := by
  have made {t : State} (ht : t.memWf = true) : (t.meetAll pasid why (ErrPlace.inHalf pline)).memWf = true := meetAll_memWf _ _ _ ht
  unfold State.touchSlice
  split
  · exact h
  · dsimp only
    split
    · exact made h
    · split
      · exact made h
      · refine made ?_
        simp only [State.choose]
        split
        · exact evictSlice_memWf _ h
        · exact h

theorem visitLines_memWf {s : State} (pasid : BitVec 20) (why : ErrKind) (k pa n : Nat) (h : s.memWf = true) :
    (s.visitLines pasid why k pa n).memWf = true := by
  induction k generalizing s pa n with
  | zero => exact h
  | succ k ih =>
    unfold State.visitLines
    split
    · exact h
    · exact ih _ _ (meetAll_memWf _ _ _ (touchSlice_memWf _ _ _ h))

theorem visit_memWf {s : State} (pa n : Nat) (pasid : BitVec 20) (why : ErrKind) (h : s.memWf = true) :
    (s.visit pa n pasid why).memWf = true := visitLines_memWf _ _ _ _ _ h

theorem readHome_memWf {s : State} (pa n : Nat) (pasid : BitVec 20) (h : s.memWf = true) : (s.readHome pa n pasid).1.memWf = true :=
  visit_memWf _ _ _ _ h

/-! The L1. -/

/-- A recall of another core's words, where there are any, keeps the form. -/
theorem recallOther_memWf {s : State} (core pline : Nat) (ws : BitVec 32) (h : s.memWf = true) :
    (s.recallOther core pline ws).memWf = true := by
  unfold State.recallOther
  split
  · split
    · exact recallWords_memWf _ _ h
    · exact h
  · exact h

theorem predicted_mem (s : State) (cluster pline : Nat) (c : Bool) : (s.predicted cluster pline c).mem = s.mem := by
  unfold State.predicted
  split
  · rfl
  · dsimp only
    split
    · rfl
    · split <;> rfl

theorem register_memWf {s : State} (core pline : Nat) (ws : BitVec 32) (h : s.memWf = true) :
    (s.register core pline ws).memWf = true := by
  unfold State.register
  dsimp only
  refine memWf_of_eq (s := (s.touchSlice pline).recallOther core pline (BitVec.allOnes 32)) ?_ ?_
  · exact recallOther_memWf core pline _ (touchSlice_memWf pline _ _ h)
  · rw [predicted_mem]; rfl

theorem copyWords_memWf {s : State} (core pline : Nat) (ws : BitVec 32) (h : s.memWf = true) :
    (s.copyWords core pline ws).memWf = true := h

theorem cleanLine_memWf {s : State} (l : L1Line) (h : s.memWf = true) : (s.cleanLine l).memWf = true := by
  unfold State.cleanLine
  split
  · exact h
  · dsimp only
    have hv : (((s.touchSlice l.pline).recallOther l.core l.pline (BitVec.allOnes 32)).visitL1 l.core l.pline 0 128 0
        .deferred).memWf = true := meetAll_memWf _ _ _ (recallOther_memWf _ _ _ (touchSlice_memWf _ _ _ h))
    split
    · exact hv
    · next l' _ =>
      have hr := register_memWf l'.core l'.pline l'.dirtyWords (wordsHome_memWf l' l'.dirtyWords hv)
      exact copyWords_memWf _ _ _ (overL1_memWf _ _ _ _ hr)

theorem giveBack_memWf {s : State} (l : L1Line) (h : s.memWf = true) : (s.giveBack l).memWf = true := by
  unfold State.giveBack
  split
  · split
    · exact recallWords_memWf _ _ h
    · exact h
  · exact h

theorem dropLine_memWf {s : State} (l : L1Line) (h : s.memWf = true) : (s.dropLine l).memWf = true :=
  giveBack_memWf l (cleanLine_memWf l h)

theorem releaseCore_memWf {s : State} (core : Nat) (h : s.memWf = true) : (s.releaseCore core).memWf = true :=
  foldl_memWf (fun _ l hs => cleanLine_memWf l hs) _ h

theorem acquireCore_memWf {s : State} (core : Nat) (h : s.memWf = true) : (s.acquireCore core).memWf = true := h

theorem roomL1_memWf {s : State} (core : Nat) (h : s.memWf = true) : (s.roomL1 core).memWf = true := by
  unfold State.roomL1
  dsimp only
  split
  · exact h
  · simp only [State.choose]
    split
    · exact dropLine_memWf _ h
    · exact h

theorem nameLine_memWf {s : State} (core : Nat) (pasid : BitVec 20) (va pa : Nat) (w d : Bool) (h : s.memWf = true) :
    (s.nameLine core pasid va pa w d).memWf = true := by
  unfold State.nameLine
  split
  · exact h
  · refine roomL1_memWf (s := ?_) core ?_
    split
    · exact dropLine_memWf _ h
    · exact h

theorem fillLine_memWf {s : State} (core : Nat) (pasid : BitVec 20) (va : Nat) (why : ErrKind) (h : s.memWf = true) :
    (s.fillLine core pasid va why).memWf = true := by
  unfold State.fillLine
  split
  · exact h
  · exact overL1_memWf _ _ _ _ (visit_memWf _ _ _ _ h)

theorem loadL1_memWf {s : State} (core : Nat) (pasid : BitVec 20) (va pa n : Nat) (w d : Bool) (h : s.memWf = true) :
    (s.loadL1 core pasid va pa n w d).1.memWf = true := by
  have filled : (match s.l1? core pasid va with
      | some l => if l.holds (va % 128) n then s else s.fillLine core pasid va
      | none => (s.nameLine core pasid va pa w d).fillLine core pasid va).memWf = true := by
    split
    · split
      · exact h
      · exact fillLine_memWf _ _ _ _ h
    · exact fillLine_memWf _ _ _ _ (nameLine_memWf _ _ _ _ _ _ h)
  have seen := meetAll_memWf pasid .uncorrectable (ErrPlace.inL1 core (lineOf pa + va % 128) n) filled
  unfold State.loadL1
  dsimp only
  split <;> exact seen

theorem storeL1_memWf {s : State} (core : Nat) (pasid : BitVec 20) (va pa : Nat) (bs : List Byte) (h : s.memWf = true) :
    (s.storeL1 core pasid va pa bs).memWf = true :=
  overL1_memWf _ _ _ _ (nameLine_memWf core pasid va pa true true h)

theorem writeHome_memWf {s : State} (pa : Nat) (bs : List Byte) (h : s.memWf = true) : (s.writeHome pa bs).memWf = true :=
  putHome_memWf _ _ (overSlice_memWf _ _ _ (recallWords_memWf _ _ (touchSlice_memWf _ _ _ h)))

theorem writeLines_memWf {s : State} (k a : Nat) (bs : List Byte) (h : s.memWf = true) : (s.writeLines k a bs).memWf = true := by
  induction k generalizing s a bs with
  | zero => exact h
  | succ k ih =>
    unfold State.writeLines
    split
    · exact h
    · exact ih _ _ (writeHome_memWf _ _ h)

theorem readPlace_memWf {s : State} (pa n : Nat) (pasid : BitVec 20) (h : s.memWf = true) : (s.readPlace pa n pasid).1.memWf = true :=
  readHome_memWf _ _ _ (recallWords_memWf _ _ (touchSlice_memWf _ _ _ h))

theorem dropLines_memWf {s : State} (p : L1Line → Bool) (h : s.memWf = true) : (s.dropLines p).memWf = true :=
  foldl_memWf (fun _ l hs => dropLine_memWf l hs) _ h

/-- The scrub leaves a memory that lists nothing. -/
theorem scrub_memWf (s : State) : s.scrub.memWf = true := rfl

/-- A device reset leaves one too. -/
theorem resetKeeping_memWf (s : State) : s.resetKeeping.memWf = true := rfl

end Sys2Proof.Machine
end

