-- ==== Sys2Proof/Laws/PerInstr.lean ====
section
/-! SUPPORT. Per instruction: the word fields the encoder gives have the reserved bit of R15 clear and select no flag or one of the
clause's two (R15, R27); an event has no word fields. -/

namespace Sys2Proof.Laws.Encoded

/-- An instruction's word fields, if it has a word: the reserved bit is clear, and fsel is not 11 (R39 row 3). -/
def Statement (i : Instr) : Prop := ∀ r, encodeRaw i = some r → r.res0 = false ∧ r.fsel ≠ 3

theorem ofMkRaw {i : Instr} {op fn : BitVec 8} {c : Common} {d a b : BitVec 12} {cw : BitVec 32}
    (h : encodeRaw i = some (mkRaw op fn c d a b cw)) : Statement i := by
  intro r hr
  obtain rfl : mkRaw op fn c d a b cw = r := Option.some.inj (h.symm.trans hr)
  refine ⟨rfl, ?_⟩
  cases hf : c.fsel <;> simp [mkRaw, FSel.code, hf]

theorem ofNone {i : Instr} (h : encodeRaw i = none) : Statement i := fun r hr => by
  rw [h] at hr; exact absurd hr (by simp)

theorem clause (flagX flagY : BitVec 4) (wait : BitVec 12) : Statement (.clause flagX flagY wait) :=
  fun _ hr => Option.some.inj hr ▸ ⟨rfl, show (0 : BitVec 2) ≠ 3 by decide⟩
theorem region (bnd : Bool) (off : BitVec 32) : Statement (.region bnd off) :=
  fun _ hr => Option.some.inj hr ▸ ⟨rfl, show (0 : BitVec 2) ≠ 3 by decide⟩
theorem nop (c : Common) : Statement (.nop c) := ofMkRaw rfl
theorem trap (c : Common) (a : Opnd) : Statement (.trap c a) := ofMkRaw rfl
theorem brk (c : Common) : Statement (.brk c) := ofMkRaw rfl
theorem rdsr (c : Common) (d : Opnd) (sr : SReg) : Statement (.rdsr c d sr) := ofMkRaw rfl
theorem wrsr (c : Common) (sr : SReg) (a : Opnd) (k : BitVec 32) : Statement (.wrsr c sr a k) := ofMkRaw rfl
theorem mov (c : Common) (wide : Bool) (d a : Opnd) (k : BitVec 32) : Statement (.mov c wide d a k) := ofMkRaw rfl
theorem movi (c : Common) (d : Opnd) (k : BitVec 32) : Statement (.movi c d k) := ofMkRaw rfl
theorem moviW (c : Common) (d : Opnd) (k : BitVec 32) : Statement (.moviW c d k) := ofMkRaw rfl
theorem moviHi (c : Common) (d : Opnd) (k : BitVec 32) : Statement (.moviHi c d k) := ofMkRaw rfl
theorem umov (c : Common) (wide : Bool) (d a : Opnd) (k : BitVec 32) : Statement (.umov c wide d a k) := ofMkRaw rfl
theorem umovBc (c : Common) (wide : Bool) (d a : Opnd) (k : BitVec 32) : Statement (.umovBc c wide d a k) := ofMkRaw rfl
theorem umovLn (c : Common) (wide : Bool) (d a b : Opnd) (k : BitVec 32) : Statement (.umovLn c wide d a b k) := ofMkRaw rfl
theorem hget (c : Common) (d a : Opnd) : Statement (.hget c d a) := ofMkRaw rfl
theorem hput (c : Common) (d a : Opnd) : Statement (.hput c d a) := ofMkRaw rfl
theorem bra (c : Common) (off : BitVec 32) : Statement (.bra c off) := ofMkRaw rfl
theorem braDv (c : Common) (off : BitVec 32) : Statement (.braDv c off) := ofMkRaw rfl
theorem brx (c : Common) (a : Opnd) : Statement (.brx c a) := ofMkRaw rfl
theorem call (c : Common) (off : BitVec 32) : Statement (.call c off) := ofMkRaw rfl
theorem calli (c : Common) (a : Opnd) : Statement (.calli c a) := ofMkRaw rfl
theorem callt (c : Common) (a : Opnd) (k : BitVec 32) : Statement (.callt c a k) := ofMkRaw rfl
theorem ret (c : Common) : Statement (.ret c) := ofMkRaw rfl
theorem exit (c : Common) : Statement (.exit c) := ofMkRaw rfl
theorem rejoin (c : Common) : Statement (.rejoin c) := ofMkRaw rfl
theorem mjoin (c : Common) (a : Opnd) : Statement (.mjoin c a) := ofMkRaw rfl
theorem mset (c : Common) (d a : Opnd) (k : BitVec 32) : Statement (.mset c d a k) := ofMkRaw rfl
theorem mget (c : Common) (d a : Opnd) : Statement (.mget c d a) := ofMkRaw rfl
theorem yield (c : Common) : Statement (.yield c) := ofMkRaw rfl
theorem iadd (c : Common) (ty : Ty) (sat : Bool) (d a b : Opnd) (k : BitVec 32) :
    Statement (.iadd c ty sat d a b k) := ofMkRaw rfl
theorem iadd3 (c : Common) (ty : Ty) (sat : Bool) (d a b e : Opnd) : Statement (.iadd3 c ty sat d a b e) := ofMkRaw rfl
theorem isub (c : Common) (ty : Ty) (sat : Bool) (d a b : Opnd) (k : BitVec 32) :
    Statement (.isub c ty sat d a b k) := ofMkRaw rfl
theorem imul (c : Common) (ty : Ty) (d a b : Opnd) (k : BitVec 32) : Statement (.imul c ty d a b k) := ofMkRaw rfl
theorem imulh (c : Common) (ty : Ty) (d a b : Opnd) (k : BitVec 32) : Statement (.imulh c ty d a b k) := ofMkRaw rfl
theorem imad (c : Common) (ty : Ty) (sat : Bool) (d a b e : Opnd) : Statement (.imad c ty sat d a b e) := ofMkRaw rfl
theorem imadw (c : Common) (ty : Ty) (d a b e : Opnd) : Statement (.imadw c ty d a b e) := ofMkRaw rfl
theorem iabs (c : Common) (ty : Ty) (sat : Bool) (d a : Opnd) (k : BitVec 32) : Statement (.iabs c ty sat d a k) := ofMkRaw rfl
theorem ineg (c : Common) (ty : Ty) (sat : Bool) (d a : Opnd) (k : BitVec 32) : Statement (.ineg c ty sat d a k) := ofMkRaw rfl
theorem imin (c : Common) (ty : Ty) (d a b : Opnd) (k : BitVec 32) : Statement (.imin c ty d a b k) := ofMkRaw rfl
theorem imax (c : Common) (ty : Ty) (d a b : Opnd) (k : BitVec 32) : Statement (.imax c ty d a b k) := ofMkRaw rfl
theorem isad (c : Common) (ty : Ty) (d a b e : Opnd) : Statement (.isad c ty d a b e) := ofMkRaw rfl
theorem lea (c : Common) (wide : Bool) (sh : BitVec 3) (d a b : Opnd) (k : BitVec 32) :
    Statement (.lea c wide sh d a b k) := ofMkRaw rfl
theorem addc (c : Common) (wide : Bool) (d a b e : Opnd) : Statement (.addc c wide d a b e) := ofMkRaw rfl
theorem subc (c : Common) (wide : Bool) (d a b e : Opnd) : Statement (.subc c wide d a b e) := ofMkRaw rfl
theorem andb (c : Common) (wide : Bool) (d a b : Opnd) (k : BitVec 32) : Statement (.andb c wide d a b k) := ofMkRaw rfl
theorem orb (c : Common) (wide : Bool) (d a b : Opnd) (k : BitVec 32) : Statement (.orb c wide d a b k) := ofMkRaw rfl
theorem xorb (c : Common) (wide : Bool) (d a b : Opnd) (k : BitVec 32) : Statement (.xorb c wide d a b k) := ofMkRaw rfl
theorem notb (c : Common) (wide : Bool) (d a : Opnd) (k : BitVec 32) : Statement (.notb c wide d a k) := ofMkRaw rfl
theorem tlog (c : Common) (tt : BitVec 8) (d a b e : Opnd) : Statement (.tlog c tt d a b e) := ofMkRaw rfl
theorem shl (c : Common) (wide : Bool) (d a b : Opnd) (k : BitVec 32) : Statement (.shl c wide d a b k) := ofMkRaw rfl
theorem shr (c : Common) (wide : Bool) (d a b : Opnd) (k : BitVec 32) : Statement (.shr c wide d a b k) := ofMkRaw rfl
theorem sar (c : Common) (wide : Bool) (d a b : Opnd) (k : BitVec 32) : Statement (.sar c wide d a b k) := ofMkRaw rfl
theorem funl (c : Common) (d a b e : Opnd) : Statement (.funl c d a b e) := ofMkRaw rfl
theorem funr (c : Common) (d a b e : Opnd) : Statement (.funr c d a b e) := ofMkRaw rfl
theorem rot (c : Common) (wide right : Bool) (d a b : Opnd) (k : BitVec 32) :
    Statement (.rot c wide right d a b k) := ofMkRaw rfl
theorem bfe (c : Common) (ty : Ty) (d a b : Opnd) (k : BitVec 32) : Statement (.bfe c ty d a b k) := ofMkRaw rfl
theorem bfi (c : Common) (wide : Bool) (d a b e : Opnd) : Statement (.bfi c wide d a b e) := ofMkRaw rfl
theorem bmsk (c : Common) (d a b : Opnd) (k : BitVec 32) : Statement (.bmsk c d a b k) := ofMkRaw rfl
theorem popc (c : Common) (wide : Bool) (d a : Opnd) (k : BitVec 32) : Statement (.popc c wide d a k) := ofMkRaw rfl
theorem clz (c : Common) (wide : Bool) (d a : Opnd) (k : BitVec 32) : Statement (.clz c wide d a k) := ofMkRaw rfl
theorem ctz (c : Common) (wide : Bool) (d a : Opnd) (k : BitVec 32) : Statement (.ctz c wide d a k) := ofMkRaw rfl
theorem brev (c : Common) (wide : Bool) (d a : Opnd) (k : BitVec 32) : Statement (.brev c wide d a k) := ofMkRaw rfl
theorem bysel (c : Common) (d a b e : Opnd) : Statement (.bysel c d a b e) := ofMkRaw rfl
theorem isetp (c : Common) (ty : Ty) (cmp : Cmp) (d a b : Opnd) (k : BitVec 32) :
    Statement (.isetp c ty cmp d a b k) := ofMkRaw rfl
theorem fsetp (c : Common) (cmp : Cmp) (unord : Bool) (d a b : Opnd) (k : BitVec 32) :
    Statement (.fsetp c cmp unord d a b k) := ofMkRaw rfl
theorem hsetp2 (c : Common) (ty : Ty) (cmp : Cmp) (unord : Bool) (d a b e : Opnd) :
    Statement (.hsetp2 c ty cmp unord d a b e) := ofMkRaw rfl
theorem sel (c : Common) (wide : Bool) (d a b e : Opnd) : Statement (.sel c wide d a b e) := ofMkRaw rfl
theorem pset (c : Common) (tt : BitVec 8) (d a b e : Opnd) : Statement (.pset c tt d a b e) := ofMkRaw rfl
theorem p2v (c : Common) (d : Opnd) : Statement (.p2v c d) := ofMkRaw rfl
theorem v2p (c : Common) (a b : Opnd) (k : BitVec 32) : Statement (.v2p c a b k) := ofMkRaw rfl
theorem fadd (c : Common) (rm : Rm) (ftz : Bool) (d a b : Opnd) (k : BitVec 32) :
    Statement (.fadd c rm ftz d a b k) := ofMkRaw rfl
theorem fsub (c : Common) (rm : Rm) (ftz : Bool) (d a b : Opnd) (k : BitVec 32) :
    Statement (.fsub c rm ftz d a b k) := ofMkRaw rfl
theorem fmul (c : Common) (rm : Rm) (ftz : Bool) (d a b : Opnd) (k : BitVec 32) :
    Statement (.fmul c rm ftz d a b k) := ofMkRaw rfl
theorem ffma (c : Common) (rm : Rm) (ftz : Bool) (d a b e : Opnd) : Statement (.ffma c rm ftz d a b e) := ofMkRaw rfl
theorem fmin (c : Common) (nan ftz : Bool) (d a b : Opnd) (k : BitVec 32) : Statement (.fmin c nan ftz d a b k) := ofMkRaw rfl
theorem fmax (c : Common) (nan ftz : Bool) (d a b : Opnd) (k : BitVec 32) : Statement (.fmax c nan ftz d a b k) := ofMkRaw rfl
theorem fdiv (c : Common) (rm : Rm) (ftz : Bool) (d a b : Opnd) (k : BitVec 32) :
    Statement (.fdiv c rm ftz d a b k) := ofMkRaw rfl
theorem fsqrt (c : Common) (rm : Rm) (ftz : Bool) (d a : Opnd) (k : BitVec 32) :
    Statement (.fsqrt c rm ftz d a k) := ofMkRaw rfl
theorem frcp (c : Common) (rm : Rm) (ftz : Bool) (d a : Opnd) (k : BitVec 32) : Statement (.frcp c rm ftz d a k) := ofMkRaw rfl
theorem frsq (c : Common) (ftz : Bool) (d a : Opnd) (k : BitVec 32) : Statement (.frsq c ftz d a k) := ofMkRaw rfl
theorem fex2 (c : Common) (ftz : Bool) (d a : Opnd) (k : BitVec 32) : Statement (.fex2 c ftz d a k) := ofMkRaw rfl
theorem flg2 (c : Common) (ftz : Bool) (d a : Opnd) (k : BitVec 32) : Statement (.flg2 c ftz d a k) := ofMkRaw rfl
theorem fsin (c : Common) (ftz : Bool) (d a : Opnd) (k : BitVec 32) : Statement (.fsin c ftz d a k) := ofMkRaw rfl
theorem fcos (c : Common) (ftz : Bool) (d a : Opnd) (k : BitVec 32) : Statement (.fcos c ftz d a k) := ofMkRaw rfl
theorem ftanh (c : Common) (ftz : Bool) (d a : Opnd) (k : BitVec 32) : Statement (.ftanh c ftz d a k) := ofMkRaw rfl
theorem fclass (c : Common) (d a : Opnd) (k : BitVec 32) : Statement (.fclass c d a k) := ofMkRaw rfl
theorem hadd2 (c : Common) (ty : Ty) (rm : Rm) (d a b : Opnd) : Statement (.hadd2 c ty rm d a b) := ofMkRaw rfl
theorem hmul2 (c : Common) (ty : Ty) (rm : Rm) (d a b : Opnd) : Statement (.hmul2 c ty rm d a b) := ofMkRaw rfl
theorem hfma2 (c : Common) (ty : Ty) (rm : Rm) (d a b e : Opnd) : Statement (.hfma2 c ty rm d a b e) := ofMkRaw rfl
theorem hmin2 (c : Common) (ty : Ty) (nan : Bool) (d a b : Opnd) : Statement (.hmin2 c ty nan d a b) := ofMkRaw rfl
theorem hmax2 (c : Common) (ty : Ty) (nan : Bool) (d a b : Opnd) : Statement (.hmax2 c ty nan d a b) := ofMkRaw rfl
theorem cvt (c : Common) (dty sty : Ty) (rm : Rm) (sat : Bool) (d a : Opnd) :
    Statement (.cvt c dty sty rm sat d a) := ofMkRaw rfl
theorem cvth (c : Common) (dty sty : Ty) (rm : Rm) (sat : Bool) (d a : Opnd) (b : Option Opnd) :
    Statement (.cvth c dty sty rm sat d a b) := ofMkRaw rfl
theorem frnd (c : Common) (ty : Ty) (rm : Rm) (d a : Opnd) : Statement (.frnd c ty rm d a) := ofMkRaw rfl
theorem qnt (c : Common) (useB : Bool) (slot : BitVec 3) (d a b : Opnd) : Statement (.qnt c useB slot d a b) := ofMkRaw rfl
theorem dqnt (c : Common) (useB : Bool) (slot : BitVec 3) (d a b : Opnd) : Statement (.dqnt c useB slot d a b) := ofMkRaw rfl
theorem idiv (c : Common) (ty : Ty) (d a b : Opnd) (k : BitVec 32) : Statement (.idiv c ty d a b k) := ofMkRaw rfl
theorem irem (c : Common) (ty : Ty) (d a b : Opnd) (k : BitVec 32) : Statement (.irem c ty d a b k) := ofMkRaw rfl
theorem ld (c : Common) (ty : Ty) (scale : BitVec 2) (d a : Opnd) (idx : Option Opnd) (mc : MemCtl) :
    Statement (.ld c ty scale d a idx mc) := ofMkRaw rfl
theorem st (c : Common) (ty : Ty) (scale : BitVec 2) (d a : Opnd) (idx : Option Opnd) (mc : MemCtl) :
    Statement (.st c ty scale d a idx mc) := ofMkRaw rfl
theorem ldsp (c : Common) (ty : Ty) (scale : BitVec 2) (d a : Opnd) (idx : Option Opnd) (mc : MemCtl) :
    Statement (.ldsp c ty scale d a idx mc) := ofMkRaw rfl
theorem stsp (c : Common) (ty : Ty) (scale : BitVec 2) (d a : Opnd) (idx : Option Opnd) (mc : MemCtl) :
    Statement (.stsp c ty scale d a idx mc) := ofMkRaw rfl
theorem ldc (c : Common) (ty : Ty) (lr : Bool) (scale : BitVec 2) (d a : Opnd) (idx : Option Opnd) (mc : MemCtl) :
    Statement (.ldc c ty lr scale d a idx mc) := ofMkRaw rfl
theorem atom (c : Common) (ty : Ty) (op : AtomOp) (d a b : Opnd) (mc : MemCtl) :
    Statement (.atom c ty op d a b mc) := ofMkRaw rfl
theorem red (c : Common) (ty : Ty) (op : AtomOp) (a b : Opnd) (mc : MemCtl) : Statement (.red c ty op a b mc) := ofMkRaw rfl
theorem fence (c : Common) (rp : Bool) (scope : Scope) (order : Order) : Statement (.fence c rp scope order) := ofMkRaw rfl
theorem pref (c : Common) (slice : Bool) (a : Opnd) (idx : Option Opnd) (offset : BitVec 24) :
    Statement (.pref c slice a idx offset) := ofMkRaw rfl
theorem shfl (c : Common) (mode : ShflMode) (wide : Bool) (d a b : Opnd) (msk : Option Opnd) :
    Statement (.shfl c mode wide d a b msk) := ofMkRaw rfl
theorem vote (c : Common) (mode : VoteMode) (d a : Opnd) (msk : Option Opnd) : Statement (.vote c mode d a msk) := ofMkRaw rfl
theorem ballot (c : Common) (d a : Opnd) (msk : Option Opnd) : Statement (.ballot c d a msk) := ofMkRaw rfl
theorem gred (c : Common) (ty : Ty) (op : RedOp) (d a : Opnd) (msk : Option Opnd) :
    Statement (.gred c ty op d a msk) := ofMkRaw rfl
theorem gscan (c : Common) (ty : Ty) (op : RedOp) (excl : Bool) (d a : Opnd) (msk : Option Opnd) :
    Statement (.gscan c ty op excl d a msk) := ofMkRaw rfl
theorem garg (c : Common) (ty : Ty) (nanwin hash isMin : Bool) (d a : Opnd) (b msk : Option Opnd) :
    Statement (.garg c ty nanwin hash isMin d a b msk) := ofMkRaw rfl
theorem matchOp (c : Common) (wide all : Bool) (d a : Opnd) (msk : Option Opnd) :
    Statement (.matchOp c wide all d a msk) := ofMkRaw rfl
theorem elect (c : Common) (d : Opnd) (msk : Option Opnd) : Statement (.elect c d msk) := ofMkRaw rfl
theorem bxch (c : Common) (wide : Bool) (d a b e : Opnd) : Statement (.bxch c wide d a b e) := ofMkRaw rfl
theorem acopy (c : Common) (cb : Bool) (dims : BitVec 2) (dir : CopyDir) (d a : Opnd) (b : Option Opnd) :
    Statement (.acopy c cb dims dir d a b) := ofMkRaw rfl
theorem dcmp (c : Common) (sp : Bool) (d a : Opnd) : Statement (.dcmp c sp d a) := ofMkRaw rfl
theorem fwait (c : Common) (d a : Opnd) : Statement (.fwait c d a) := ofMkRaw rfl
theorem ftest (c : Common) (d a : Opnd) : Statement (.ftest c d a) := ofMkRaw rfl
theorem fcancel (c : Common) (a : Opnd) : Statement (.fcancel c a) := ofMkRaw rfl
theorem waitc (c : Common) (scope : Scope) (cls : EngClass) (a : Opnd) : Statement (.waitc c scope cls a) := ofMkRaw rfl
theorem qpush (c : Common) (a b : Opnd) : Statement (.qpush c a b) := ofMkRaw rfl
theorem qpop (c : Common) (d a : Opnd) : Statement (.qpop c d a) := ofMkRaw rfl
theorem qtryPush (c : Common) (d a b : Opnd) : Statement (.qtryPush c d a b) := ofMkRaw rfl
theorem qtryPop (c : Common) (d a e : Opnd) : Statement (.qtryPop c d a e) := ofMkRaw rfl
theorem mres (c : Common) (d : Opnd) : Statement (.mres c d) := ofMkRaw rfl
theorem mrel (c : Common) : Statement (.mrel c) := ofMkRaw rfl
theorem mldw (c : Common) (slot : BitVec 3) (d a : Opnd) : Statement (.mldw c slot d a) := ofMkRaw rfl
theorem mzero (c : Common) (d : Opnd) : Statement (.mzero c d) := ofMkRaw rfl
theorem mma (c : Common) (slot : BitVec 3) (d a b : Opnd) : Statement (.mma c slot d a b) := ofMkRaw rfl
theorem mmas (c : Common) (slot : BitVec 3) (d a b : Opnd) : Statement (.mmas c slot d a b) := ofMkRaw rfl
theorem mst (c : Common) (ty : Ty) (bias rs : Bool) (rm : Rm) (d a b : Opnd) :
    Statement (.mst c ty bias rs rm d a b) := ofMkRaw rfl
theorem mcommit (c : Common) : Statement (.mcommit c) := ofMkRaw rfl
theorem bar (c : Common) (a : Opnd) (b : Option Opnd) (k : BitVec 32) : Statement (.bar c a b k) := ofMkRaw rfl
theorem bara (c : Common) (a : Opnd) (b : Option Opnd) (k : BitVec 32) : Statement (.bara c a b k) := ofMkRaw rfl
theorem barw (c : Common) (a : Opnd) : Statement (.barw c a) := ofMkRaw rfl
theorem wbar (c : Common) (ext : WExt) : Statement (.wbar c ext) := ofMkRaw rfl
theorem flushpt (c : Common) : Statement (.flushpt c) := ofMkRaw rfl
theorem dlaunch (c : Common) (d a e : Opnd) : Statement (.dlaunch c d a e) := ofMkRaw rfl
theorem fput (c : Common) (d a : Opnd) : Statement (.fput c d a) := ofMkRaw rfl
theorem fget (c : Common) (d a : Opnd) : Statement (.fget c d a) := ofMkRaw rfl
theorem fatom (c : Common) (ty : Ty) (op : AtomOp) (d a b : Opnd) (mc : MemCtl) :
    Statement (.fatom c ty op d a b mc) := ofMkRaw rfl
theorem coll (c : Common) (ty : Ty) (op : RedOp) (kind : CollKind) (d a : Opnd) :
    Statement (.coll c ty op kind d a) := ofMkRaw rfl
theorem reconf (c : Common) (d a b : Opnd) (k : BitVec 32) : Statement (.reconf c d a b k) := ofMkRaw rfl
theorem tgset (c : Common) (a : Opnd) (k : BitVec 32) : Statement (.tgset c a k) := ofMkRaw rfl
theorem issueArbitration (core pipe : Nat) : Statement (.issueArbitration core pipe) := ofNone rfl
theorem pipIssue (cluster pip : Nat) : Statement (.pipIssue cluster pip) := ofNone rfl
theorem ejectSoftTimeout (g : GroupRef) : Statement (.ejectSoftTimeout g) := ofNone rfl
theorem ejectHardTimeout (g : GroupRef) (lane : Nat) : Statement (.ejectHardTimeout g lane) := ofNone rfl
theorem longLatencyComplete (op : Nat) : Statement (.longLatencyComplete op) := ofNone rfl
theorem pageWalk (cluster : Nat) (pasid : BitVec 20) (va : BitVec 57) (acc : Access) :
    Statement (.pageWalk cluster pasid va acc) := ofNone rfl
theorem faultResolved (entry : Nat) : Statement (.faultResolved entry) := ofNone rfl
theorem faultUnresolvable (entry : Nat) : Statement (.faultUnresolvable entry) := ofNone rfl
theorem bindingResolved (launch k : Nat) (target : BitVec 32) : Statement (.bindingResolved launch k target) := ofNone rfl
theorem bindingFailed (launch k : Nat) : Statement (.bindingFailed launch k) := ofNone rfl
theorem shootdownStart (w : BitVec 64) (t : Bool) : Statement (.shootdownStart w t) := ofNone rfl
theorem sddropClear (w : BitVec 64) (t : Bool) : Statement (.sddropClear w t) := ofNone rfl
theorem shootdownAck (cluster : Nat) : Statement (.shootdownAck cluster) := ofNone rfl
theorem flushComplete (launch : Nat) : Statement (.flushComplete launch) := ofNone rfl
theorem flushFaultResolved (launch : Nat) : Statement (.flushFaultResolved launch) := ofNone rfl
theorem copyChunkComplete (cmd chunk : Nat) : Statement (.copyChunkComplete cmd chunk) := ofNone rfl
theorem copyComplete (cmd : Nat) : Statement (.copyComplete cmd) := ofNone rfl
theorem dcmpJobComplete (cmd : Nat) : Statement (.dcmpJobComplete cmd) := ofNone rfl
theorem matrixCommandStart (pair : Nat) : Statement (.matrixCommandStart pair) := ofNone rfl
theorem matrixCommandComplete (pair : Nat) : Statement (.matrixCommandComplete pair) := ofNone rfl
theorem scrubStep (codeword : Codeword) (err : ErrorFound) : Statement (.scrubStep codeword err) := ofNone rfl
theorem deviceReset (pkg : FirmwarePackage) : Statement (.deviceReset pkg) := ofNone rfl
theorem watchdogExpiry (launch : Nat) : Statement (.watchdogExpiry launch) := ofNone rfl
theorem notify (page off width : Nat) (w : BitVec 64) (t : Bool) : Statement (.notify page off width w t) := ofNone rfl
theorem nopPacket (q : QueueRef) : Statement (.nopPacket q) := ofNone rfl
theorem launchPacket (q : QueueRef) : Statement (.launchPacket q) := ofNone rfl
theorem waitSignalPacket (q : QueueRef) : Statement (.waitSignalPacket q) := ofNone rfl
theorem setSignalPacket (q : QueueRef) : Statement (.setSignalPacket q) := ofNone rfl
theorem imageSavePacket (q : QueueRef) : Statement (.imageSavePacket q) := ofNone rfl
theorem imageLoadPacket (q : QueueRef) : Statement (.imageLoadPacket q) := ofNone rfl
theorem dirtyHarvestPacket (q : QueueRef) : Statement (.dirtyHarvestPacket q) := ofNone rfl
theorem planLoadPacket (q : QueueRef) : Statement (.planLoadPacket q) := ofNone rfl
theorem invalidPacket (q : QueueRef) : Statement (.invalidPacket q) := ofNone rfl
theorem packetComplete (q : QueueRef) (idx : Nat) : Statement (.packetComplete q idx) := ofNone rfl
theorem blockClaim (launch core pair : Nat) : Statement (.blockClaim launch core pair) := ofNone rfl
theorem blockMigrate (launch blk core pair : Nat) : Statement (.blockMigrate launch blk core pair) := ofNone rfl
theorem blockImageOut (launch blk : Nat) : Statement (.blockImageOut launch blk) := ofNone rfl
theorem blockRetire (launch blk : Nat) : Statement (.blockRetire launch blk) := ofNone rfl
theorem childAdmission (entry : Nat) : Statement (.childAdmission entry) := ofNone rfl
theorem preempt (launch : Nat) : Statement (.preempt launch) := ofNone rfl
theorem prooferClauseLimit (g : GroupRef) (lane : Nat) : Statement (.prooferClauseLimit g lane) := ofNone rfl
theorem remoteResend (txn : Nat) : Statement (.remoteResend txn) := ofNone rfl
theorem flitRead (port : Nat) (f : Flit) : Statement (.flitRead port f) := ofNone rfl
theorem flitWrite (port : Nat) (f : Flit) : Statement (.flitWrite port f) := ofNone rfl
theorem flitAtomic (port : Nat) (f : Flit) : Statement (.flitAtomic port f) := ofNone rfl
theorem flitReadReply (port : Nat) (f : Flit) : Statement (.flitReadReply port f) := ofNone rfl
theorem flitWriteAck (port : Nat) (f : Flit) : Statement (.flitWriteAck port f) := ofNone rfl
theorem flitCollectiveData (port : Nat) (f : Flit) : Statement (.flitCollectiveData port f) := ofNone rfl
theorem flitAtomicReply (port : Nat) (f : Flit) : Statement (.flitAtomicReply port f) := ofNone rfl
theorem bufferRelease (port : Nat) (f : ShortFlit) : Statement (.bufferRelease port f) := ofNone rfl
theorem bufferReleaseForced (port : Nat) : Statement (.bufferReleaseForced port) := ofNone rfl
theorem retryAfter (port : Nat) (f : ShortFlit) : Statement (.retryAfter port f) := ofNone rfl
theorem staleReject (port : Nat) (f : ShortFlit) : Statement (.staleReject port f) := ofNone rfl
theorem ready (port : Nat) (f : ShortFlit) : Statement (.ready port f) := ofNone rfl
theorem go (port : Nat) (f : ShortFlit) : Statement (.go port f) := ofNone rfl
theorem abort (port : Nat) (f : ShortFlit) : Statement (.abort port f) := ofNone rfl
theorem collectiveRestart (port : Nat) (f : ShortFlit) : Statement (.collectiveRestart port f) := ofNone rfl
theorem linkProbe (port : Nat) (f : ShortFlit) : Statement (.linkProbe port f) := ofNone rfl
theorem linkFrame (port : Nat) (bytes : List Byte) : Statement (.linkFrame port bytes) := ofNone rfl
theorem replayTimeout (port : Nat) : Statement (.replayTimeout port) := ofNone rfl
theorem trainingFrame (port : Nat) (bytes : List Byte) : Statement (.trainingFrame port bytes) := ofNone rfl
theorem portDown (port : Nat) : Statement (.portDown port) := ofNone rfl
theorem rerouteTimeout (txn : Nat) : Statement (.rerouteTimeout txn) := ofNone rfl
theorem switchReply (bytes : List Byte) : Statement (.switchReply bytes) := ofNone rfl
theorem throttleTick (pnow : BitVec 16) (tj : BitVec 8) : Statement (.throttleTick pnow tj) := ofNone rfl
theorem hostBar4Read (addr len : Nat) (t : Bool) : Statement (.hostBar4Read addr len t) := ofNone rfl
theorem hostBar4Write (addr : Nat) (data : List Byte) (t : Bool) : Statement (.hostBar4Write addr data t) := ofNone rfl
theorem hostAtomicop (op : HostAtomic) (wide : Bool) (addr : Nat) (v cmp : BitVec 64) (t : Bool) :
    Statement (.hostAtomicop op wide addr v cmp t) := ofNone rfl
theorem registerWrite (space : RegSpace) (off : Nat) (w : BitVec 64) (t : Bool) :
    Statement (.registerWrite space off w t) := ofNone rfl
theorem debugControlWrite (w : BitVec 64) (t : Bool) : Statement (.debugControlWrite w t) := ofNone rfl
theorem readReg (w : BitVec 64) (t : Bool) : Statement (.readReg w t) := ofNone rfl
theorem writeReg (w : BitVec 64) (t : Bool) : Statement (.writeReg w t) := ofNone rfl
theorem dbgStep (w : BitVec 64) (t : Bool) : Statement (.dbgStep w t) := ofNone rfl
theorem dbgResume (w : BitVec 64) (t : Bool) : Statement (.dbgResume w t) := ofNone rfl
theorem getVersion (req : List Byte) : Statement (.getVersion req) := ofNone rfl
theorem getCapabilities (req : List Byte) : Statement (.getCapabilities req) := ofNone rfl
theorem negotiateAlgorithms (req : List Byte) : Statement (.negotiateAlgorithms req) := ofNone rfl
theorem getDigests (req : List Byte) : Statement (.getDigests req) := ofNone rfl
theorem getCertificate (req : List Byte) : Statement (.getCertificate req) := ofNone rfl
theorem challenge (req : List Byte) : Statement (.challenge req) := ofNone rfl
theorem getMeasurements (req : List Byte) : Statement (.getMeasurements req) := ofNone rfl
theorem keyExchange (req : List Byte) : Statement (.keyExchange req) := ofNone rfl
theorem finish (req : List Byte) : Statement (.finish req) := ofNone rfl
theorem keyUpdate (req : List Byte) : Statement (.keyUpdate req) := ofNone rfl
theorem vendorDefinedRequest (req : List Byte) : Statement (.vendorDefinedRequest req) := ofNone rfl
theorem ideQuery (req : List Byte) : Statement (.ideQuery req) := ofNone rfl
theorem ideKeyProg (req : List Byte) : Statement (.ideKeyProg req) := ofNone rfl
theorem ideKSetGo (req : List Byte) : Statement (.ideKSetGo req) := ofNone rfl
theorem ideKSetStop (req : List Byte) : Statement (.ideKSetStop req) := ofNone rfl
theorem lockInterfaceRequest (req : List Byte) : Statement (.lockInterfaceRequest req) := ofNone rfl
theorem getDeviceInterfaceReport (req : List Byte) : Statement (.getDeviceInterfaceReport req) := ofNone rfl
theorem unsupportedRequest (req : OtherRequest) : Statement (.unsupportedRequest req) := ofNone rfl
theorem unassignedOpcode (w : BitVec 96) : Statement (.unassignedOpcode w) := ofNone rfl
theorem frameTime (port : Nat) : Statement (.frameTime port) := ofNone rfl
theorem clusterPowerGate (cluster : Nat) (off : Bool) : Statement (.clusterPowerGate cluster off) := ofNone rfl
theorem reconfDrainDone : Statement .reconfDrainDone := ofNone rfl
theorem reconfDrainTimeout : Statement .reconfDrainTimeout := ofNone rfl
theorem readyTimeout : Statement .readyTimeout := ofNone rfl
theorem reconfLightTimeout : Statement .reconfLightTimeout := ofNone rfl
theorem heartbeat : Statement .heartbeat := ofNone rfl
theorem endSession : Statement .endSession := ofNone rfl
theorem spdmSessionLoss : Statement .spdmSessionLoss := ofNone rfl
theorem ideIntegrityFailure : Statement .ideIntegrityFailure := ofNone rfl
theorem getTdispVersion : Statement .getTdispVersion := ofNone rfl
theorem getTdispCapabilities : Statement .getTdispCapabilities := ofNone rfl
theorem getDeviceInterfaceState : Statement .getDeviceInterfaceState := ofNone rfl
theorem startInterfaceRequest : Statement .startInterfaceRequest := ofNone rfl
theorem stopInterfaceRequest : Statement .stopInterfaceRequest := ofNone rfl

end Sys2Proof.Laws.Encoded
end

