-- ==== Sys2Proof/Tests/Slice0.lean ====
section
/-! SUPPORT. The model's own tests: ill-formed terms that WellFormed refuses, words of the spec's encodings that decode to the
instructions they stand for, single steps whose results the spec works out, and for every statement of
Certificates/Slice0/Obligations a state and operands that meet its hypotheses. Expected values come from the spec's worked
examples (cited) or from its encoding tables by hand. -/

namespace Sys2Proof.Tests

set_option Elab.async false

open Sys2Proof Sys2Proof.Machine

/-- The common fields of an unguarded instruction with no flag, within its clause. -/
def c0 : Common := ⟨false, 15, false, .none, false, false, false⟩
/-- The same with flag X, and as the last of its clause. -/
def cx0 : Common := { c0 with fsel := .x }
def cb0 : Common := { c0 with bnd := true }
/-- The weak control word at an offset. -/
def mc0 (off : BitVec 24) : MemCtl := ⟨false, .weak, false, .th, off⟩
/-- The control word of an atomic: relaxed at device scope. -/
def mca : MemCtl := ⟨false, .weak, false, .dev, 0⟩

/-! One ill-formed term for each check of Instr.wf; each theorem's first term is well formed. -/

theorem test_wf_register_operands :
    (Instr.iadd c0 .i64 false (.v 254) (.s 190) (.imm 3) 0).wf = true ∧
    (Instr.iadd c0 .i64 false (.v 255) (.s 190) (.imm 3) 0).wf = false ∧
    (Instr.iadd c0 .i64 false (.v 254) (.s 191) (.imm 3) 0).wf = false ∧
    (Instr.iadd c0 .i64 false (.p 1) (.s 190) (.imm 3) 0).wf = false ∧
    (Instr.iadd c0 .i32 false (.s 1) (.v 2) (.s 3) 0).wf = false ∧
    (Instr.iadd c0 .i32 false (.v 1) .immC .immC 7).wf = false ∧
    (Instr.iadd c0 .i32 false (.v 1) (.v 2) (.v 3) 7).wf = false ∧
    (Instr.iadd c0 .b32 false (.v 1) (.v 2) (.v 3) 0).wf = false ∧
    (Instr.imad c0 .i32 false (.v 1) .immC (.v 3) (.v 4)).wf = false ∧
    (Instr.imad c0 .i32 false (.v 1) (.v 2) (.v 3) (.imm 4)).wf = false ∧
    (Instr.imadw c0 .i64 (.v 2) (.v 4) (.v 5) (.v 6)).wf = false ∧
    (Instr.ineg c0 .n32 false (.v 2) (.v 4) 0).wf = false ∧
    (Instr.shfl c0 .idx false (.s 2) (.v 4) (.v 5) none).wf = false ∧
    (Instr.umov c0 false (.v 2) (.s 4) 0).wf = false ∧
    (Instr.umov c0 false (.s 2) (.v 4) 0).wf = false := by decide

theorem test_wf_named_operands :
    (Instr.mjoin c0 (.m 7)).wf = true ∧ (Instr.mjoin c0 (.v 7)).wf = false ∧ (Instr.mset c0 (.h 1) (.s 2) 0).wf = false ∧
    (Instr.isetp c0 .i32 .lt (.v 1) (.v 2) (.v 3) 0).wf = false ∧ (Instr.isetp c0 .i32 .num (.p 1) (.v 2) (.v 3) 0).wf = false ∧
    (Instr.fsetp c0 .nan true (.p 1) (.v 2) (.v 3) 0).wf = false ∧ (Instr.hget c0 (.v 2) (.m 1)).wf = false ∧
    (Instr.mzero c0 (.h 1)).wf = false ∧ (Instr.waitc c0 .dev .copy (.v 1)).wf = false ∧
    (Instr.waitc c0 .dev .copy (.imm 0x1FF)).wf = false ∧ (Instr.qpush c0 (.imm 0x100) (.v 2)).wf = false ∧
    (Instr.trap c0 (.v 2)).wf = false ∧ (Instr.bar c0 (.imm 0) (some (.imm 0)) 0).wf = false ∧
    (Instr.fwait c0 (.p 14) (.h 0)).wf = false ∧ (Instr.ballot c0 (.v 4) (.p 1) (some (.s 3))).wf = false ∧
    (Instr.rdsr c0 (.s 2) .lane).wf = false ∧ (Instr.wrsr c0 .lane (.v 2) 0).wf = false ∧
    (Instr.wrsr c0 .trappc (.imm 2) 0).wf = false := by decide

theorem test_wf_memory_operands :
    (Instr.ld c0 .n32 2 (.v 8) (.v 4) (some (.v 1)) (mc0 16)).wf = true ∧
    (Instr.ld c0 .n32 2 (.v 8) (.v 4) none (mc0 16)).wf = false ∧ (Instr.ld c0 .f32 0 (.v 8) (.v 4) none (mc0 16)).wf = false ∧
    (Instr.ld c0 .n32 0 (.v 8) (.v 5) none (mc0 16)).wf = false ∧
    (Instr.ld c0 .n32 0 (.v 8) (.v 4) (some (.imm 1)) (mc0 16)).wf = false ∧
    (Instr.ld c0 .n32 0 (.s 8) (.v 4) none (mc0 16)).wf = false ∧
    (Instr.ld c0 .n32 0 (.v 8) (.v 4) none ⟨false, .release, false, .dev, 0⟩).wf = false ∧
    (Instr.ld c0 .n32 0 (.v 8) (.v 4) none ⟨false, .weak, false, .dev, 0⟩).wf = false ∧
    (Instr.ld c0 .n32 0 (.v 8) (.v 4) none ⟨false, .acquire, true, .sys, 0⟩).wf = false ∧
    (Instr.st c0 .n32 0 (.v 8) (.v 4) none ⟨false, .acquire, false, .dev, 0⟩).wf = false ∧
    (Instr.ldsp c0 .n32 0 (.v 8) (.v 4) none ⟨false, .acquire, false, .cl, 0⟩).wf = false ∧
    (Instr.stsp c0 .n32 0 (.v 8) (.v 4) none ⟨false, .release, false, .sys, 0⟩).wf = false ∧
    (Instr.ldc c0 .n32 false 0 (.v 8) (.v 4) none ⟨false, .acquire, false, .blk, 0⟩).wf = false ∧
    (Instr.pref c0 true (.v 4) (some (.v 0)) 0).wf = false := by decide

theorem test_wf_atomics_and_fences :
    (Instr.atom c0 .n64 .cas (.v 2) (.s 4) (.v 8) mca).wf = true ∧ (Instr.atom c0 .n64 .cas (.v 2) (.s 4) (.v 6) mca).wf = false ∧
    (Instr.atom c0 .n32 .cas (.v 2) (.s 4) (.imm 6) mca).wf = false ∧
    (Instr.atom c0 .f32 .add (.v 2) (.s 4) (.v 6) mca).wf = false ∧ (Instr.atom c0 .n32 .add (.p 3) (.s 4) (.v 6) mca).wf = false ∧
    (Instr.atom c0 .n32 .add (.v 2) (.s 4) (.v 6) (mc0 0)).wf = false ∧ (Instr.red c0 .n32 .exch (.s 4) (.v 6) mca).wf = false ∧
    (Instr.red c0 .n32 .add (.s 4) (.v 6) ⟨false, .acquire, false, .dev, 0⟩).wf = false ∧
    (Instr.fatom c0 .n32 .add (.h 1) (.s 4) (.s 6) ⟨true, .weak, false, .dev, 0⟩).wf = false ∧
    (Instr.fence c0 false .dev .weak).wf = false ∧ (Instr.fence c0 true .dev .release).wf = false ∧
    (Instr.fence c0 true .sys .acquire).wf = false := by decide

theorem test_wf_types_and_words :
    (Instr.clause 11 15 0).wf = true ∧ (Instr.clause 12 15 0).wf = false ∧ (Instr.clause 15 14 0).wf = false ∧
    (Instr.region true 8).wf = false ∧ (Instr.bra c0 13).wf = false ∧ (Instr.call c0 (-6)).wf = false ∧
    (Instr.gred c0 .f32 .xor (.v 1) (.v 2) none).wf = false ∧ (Instr.gscan c0 .i64 .add true (.v 1) (.v 2) none).wf = false ∧
    (Instr.garg c0 .f32 false false false (.v 2) (.v 4) (some (.v 0)) none).wf = false ∧
    (Instr.hadd2 c0 .f32 .rne (.v 1) (.v 2) (.v 3)).wf = false ∧ (Instr.frnd c0 .i32 .rne (.v 1) (.v 2)).wf = false ∧
    (Instr.cvt c0 .i32 .i64 .rz false (.v 1) (.v 2)).wf = false ∧
    (Instr.cvth c0 .f16 .bf16 .rne false (.v 1) (.v 2) (some (.v 3))).wf = false ∧
    (Instr.cvth c0 .f16 .f32 .rne false (.v 1) (.v 2) none).wf = false ∧
    (Instr.coll c0 .f32 .min .allgather (.h 0) (.s 8)).wf = false ∧
    (Instr.mst c0 .n32 true false .rne (.h 0) (.a 0) (.s 8)).wf = false ∧
    (Instr.acopy c0 true 0 .g2sp (.h 0) (.s 8) none).wf = false ∧
    (Instr.unassignedOpcode (0x0D#8 ++ 0#88)).wf = true ∧ (Instr.unassignedOpcode (0x0C#8 ++ 0#88)).wf = false := by decide

/-! Words that the spec writes out bit by bit. -/

/-- 01, "A clause worked to the bit"; 04, "A deterministic sum worked through". -/
theorem test_decode_clause_and_memory_words :
    decode 0x0100780000000000000F2001 = .ok (.clause 2 15 1) ∧ decode 0x0100780000000000000FF000 = .ok (.clause 15 15 0) ∧
    decode 0x706078040020001000000010 = .ok (.ld cx0 .n32 0 (.v 8) (.v 4) none (mc0 16)) ∧
    decode 0x202098048035FDC000000000 =
      .ok (.iadd { cb0 with gneg := true, guard := 3 } .i32 false (.v 9) (.v 6) (.imm 0x1FB) 0) ∧
    decode 0x70827801100000D000000000 =
      .ok (.ld { cb0 with fsel := .x } .b32 2 (.v 2) (.s 0) (some (.v 1)) (mc0 0)) ∧
    decode 0x76A878001010014004000000 = .ok (.red cb0 .f32 .fadd (.s 2) (.v 2) mca) ∧
    decode 0x728078021038005000000000 = .ok (.ldsp { cb0 with fsel := .x } .b32 0 (.v 4) (.s 7) none (mc0 0)) ∧
    decode 0x75727A079010030004000000 = .ok (.atom c0 .n64 .max (.p 15) (.s 2) (.v 6) mca) ∧
    decode 0x020078000000000000000050 = .ok (.region false 0x50) := by decide

/-- 08, "A carry chain worked through"; 09, the worked reduction; 16, 17 and 18, the programs' words. -/
theorem test_decode_register_and_lane_words :
    decode 0x2D6078068028048000000401 = .ok (.addc c0 false (.v 13) (.v 5) (.v 9) (.p 1)) ∧
    decode 0x64C078010015000000000000 = .ok (.hmax2 c0 .bf16 false (.v 2) (.v 2) (.imm 0)) ∧
    decode 0x83A078010008000000000000 = .ok (.gred c0 .f32 .add (.v 2) (.v 1) none) ∧
    decode 0x846878060030000000000000 = .ok (.gscan c0 .n32 .add true (.v 12) (.v 6) none) ∧
    decode 0x842078018010000000000000 = .ok (.gscan c0 .i32 .add false (.v 3) (.v 2) none) ∧
    decode 0x88807800800D08000000020A = .ok (.bxch c0 false (.v 1) (.v 1) (.imm 16) (.s 10)) ∧
    decode 0x88807800800D00C00000020E = .ok (.bxch cb0 false (.v 1) (.v 1) (.imm 1) (.s 14)) ∧
    decode 0x820028022008004000000000 = .ok (.ballot { cb0 with guard := 5 } (.v 4) (.p 1) none) ∧
    decode 0x85B078060010008000000000 = .ok (.garg c0 .f16 false false false (.v 12) (.v 2) (some (.v 1)) none) := by decide

/-- 06, 10, 11, 16 and 18: the words of the engines, the matrix engine and the fabric. -/
theorem test_decode_engine_words :
    decode 0x90047B089040004000000000 = .ok (.acopy cb0 false 1 .g2sp (.h 1) (.s 8) none) ∧
    decode 0x91007B081020000000000000 = .ok (.dcmp c0 false (.h 0) (.s 4)) ∧
    decode 0x960008005000024000000000 = .ok (.qpush { cb0 with guard := 1 } (.imm 0) (.v 4)) ∧
    decode 0x9700790A5000005000000000 = .ok (.qpop { cb0 with fsel := .x } (.s 20) (.imm 0)) ∧
    decode 0xA4007B09B2010C0000000000 = .ok (.mma c0 0 (.h 3) (.a 0) (.s 24)) ∧
    decode 0xA7C07B0A32010F4000000000 = .ok (.mst cb0 .bf16 false false .rne (.h 4) (.a 0) (.s 30)) ∧
    decode 0xA7C87B0A3201100000000000 = .ok (.mst c0 .bf16 true false .rne (.h 4) (.a 0) (.s 32)) ∧
    decode 0xC0007B089040004000000000 = .ok (.fput cb0 (.h 1) (.s 8)) ∧
    decode 0xC3A17B081040004000000000 = .ok (.coll cb0 .f32 .add .redscat (.h 0) (.s 8)) ∧
    decode 0xC4007B085019064000000000 = .ok (.reconf cb0 (.h 0) (.imm 3) (.s 12) 0) ∧
    decode 0xC500780010F0000000000000 = .ok (.tgset c0 (.s 30) 0) := by decide

/-- 12, 13, 14 and 16: the words of branches, barriers and traps. -/
theorem test_decode_control_words :
    decode 0x100108000000004000000030 = .ok (.braDv { cb0 with guard := 1 } 0x30) ∧
    decode 0x1001180000000040000001E0 = .ok (.braDv { cb0 with guard := 3 } 0x1E0) ∧
    decode 0x170078000000004000000000 = .ok (.rejoin cb0) ∧
    decode 0xB00078005000004000000000 = .ok (.bar cb0 (.imm 0) none 0) ∧
    decode 0xB00078005005104000000000 = .ok (.bar cb0 (.imm 0) (some (.imm 32)) 0) ∧
    decode 0x040008005028000000000000 = .ok (.trap { c0 with guard := 1 } (.imm 5)) ∧
    decode 0x060078014070000000000000 = .ok (.rdsr c0 (.v 2) .trappc) ∧
    decode 0x07007C070010000000000000 = .ok (.wrsr c0 .trappc (.v 2) 0) := by decide

/-- Words put together by hand from R14, R15, R18, R21, R34 and R35: moves, logic, shifts, bit fields, comparison, FP32,
conversion, division, fences, stores, futures and counts. -/
theorem test_decode_layouts :
    decode 0x088078028030000000000000 = .ok (.mov c0 false (.v 5) (.v 6) 0) ∧
    decode 0x098078028000000012345678 = .ok (.movi c0 (.v 5) 0x12345678) ∧
    decode 0x0B0078033090000000000000 = .ok (.hget c0 (.v 6) (.h 2)) ∧
    decode 0x308078028030038000000000 = .ok (.andb c0 false (.v 5) (.v 6) (.v 7) 0) ∧
    decode 0x359078030045018000000000 = .ok (.shl c0 true (.v 6) (.v 8) (.imm 3) 0) ∧
    decode 0x3B2078028036000000000804 = .ok (.bfe c0 .i32 (.v 5) (.v 6) .immC 0x804) ∧
    decode 0x43227A010028030000000000 = .ok (.isetp c0 .i32 .lt (.p 2) (.v 5) (.v 6) 0) ∧
    decode 0x50A578028030038000000000 = .ok (.fadd c0 .rz true (.v 5) (.v 6) (.v 7) 0) ∧
    decode 0x58A078028030000000000000 = .ok (.frcp c0 .rne false (.v 5) (.v 6) 0) ∧
    decode 0x65A278028030000000000003 = .ok (.cvt c0 .f32 .i32 .ru false (.v 5) (.v 6)) ∧
    decode 0xD06078028030038000000000 = .ok (.idiv c0 .n32 (.v 5) (.v 6) (.v 7) 0) ∧
    decode 0x774C78000000000000000000 = .ok (.fence c0 false .dev .acqrel) ∧
    decode 0x717378021010038000FFFFF8 = .ok (.st c0 .n64 3 (.v 4) (.s 2) (some (.v 7)) (mc0 0xFFFFF8)) ∧
    decode 0x93007A01B088000000000000 = .ok (.ftest c0 (.p 3) (.h 1)) ∧
    decode 0x954178005010000000000000 = .ok (.waitc c0 .dev .matrix (.imm 2)) := by decide

/-- R38, R35 and R15: the all-zero word, an unassigned function and a reserved bit are rejected by name. -/
theorem test_decode_rejects :
    decode 0 = .ok (.unassignedOpcode 0) ∧ decode 0x084078028030000000000000 = .error .illegalOp ∧
    decode 0x088078028030000100000000 = .error .reservedField := by decide

/-! A small state: the placed group with two of its threads, a run of all sixteen lanes, and register values. -/

def thr : List Thread := (startThreads placedLaunch placedRef 0).take 2
def tst : State := { State.reset.placeWord 96 nopLast with threads := thr }
def tcx : Ctx := ⟨placedRun false, placedLaunch, Block.fresh placedLaunch 0 0 0, Group.fresh placedRef 0 0, thr⟩

/-- Vector registers and predicates of every thread. -/
def put (s : State) (rs : List (Nat × BitVec 32)) (ps : BitVec 15 := 0) : State :=
  { s with threads := s.threads.map (fun t =>
      rs.foldl (fun (t : Thread) x => t.setV x.1 x.2) { t with preds := ps }) }
/-- A vector register and a predicate of lane 0 after a step. -/
def gotV (o : Out) (i : Nat) : Option (BitVec 32) := match o with
  | .next s => (s.thread? placedRef 0).map (fun t => t.v i)
  | _ => none
def gotP (o : Out) (i : Nat) : Option Bool := match o with
  | .next s => (s.thread? placedRef 0).map (fun t => t.p i)
  | _ => none
/-- The value bound to lane 0 of the one instruction in flight. -/
def gotFlight (o : Out) : Option (BitVec 64) := match o with
  | .next s => s.inflight.head?.bind (fun f => (f.vals.find? (·.1 == 0)).map (·.2))
  | _ => none

/-! Single steps with the results of the spec's worked examples. -/

/-- 01, "A clause worked to the bit": 100 + (−5) = 95. -/
theorem test_iadd : gotV (exec (.iadd c0 .i32 false (.v 9) (.v 6) (.imm 0x1FB) 0) (put tst [(6, 100)])) 9 = some 95 := by rfl

/-- 08, "A carry chain worked through", the second step: 0xFFFF_FFFF + 0 + 1 is 0 with a carry. -/
theorem test_addc :
    gotV (exec (.addc c0 false (.v 13) (.v 5) (.v 9) (.p 1)) (put tst [(5, 0xFFFFFFFF)] 2)) 13 = some 0 ∧
    gotP (exec (.addc c0 false (.v 13) (.v 5) (.v 9) (.p 1)) (put tst [(5, 0xFFFFFFFF)] 2)) 1 = some true := ⟨rfl, rfl⟩

/-- R188: the table of majority; R189: shl.b64 by 64 and rot.r by 33 (R209). -/
theorem test_logic_and_shifts :
    gotV (exec (.tlog c0 0xE8 (.v 9) (.v 1) (.v 2) (.v 3)) (put tst [(1, 0xF0), (2, 0xCC), (3, 0xAA)])) 9 = some 0xE8 ∧
    gotV (exec (.shl c0 true (.v 8) (.v 2) (.imm 64) 0) (put tst [(2, 7), (8, 5)])) 8 = some 0 ∧
    gotV (exec (.rot c0 false true (.v 9) (.v 2) (.imm 33) 0) (put tst [(2, 3)])) 9 = some 0x80000001 := ⟨rfl, rfl, rfl⟩

/-- R190 and R192's worked values. -/
theorem test_bit_fields :
    gotV (exec (.bfe c0 .n32 (.v 9) (.v 2) .immC 0x808) (put tst [(2, 0xF0F0)])) 9 = some 0xF0 ∧
    gotV (exec (.bfe c0 .i32 (.v 9) (.v 2) .immC 0x808) (put tst [(2, 0xF0F0)])) 9 = some 0xFFFFFFF0 ∧
    gotV (exec (.bysel c0 (.v 9) (.v 1) (.v 2) (.v 3)) (put tst [(1, 0x44332211), (2, 0x88776655), (3, 0x0F030400)])) 9 =
      some 0xFF445511 := ⟨rfl, rfl, rfl⟩

/-- R209: `cvt.i8.i32` on 300, clamped and wrapped; −0 equals +0; `fmax.ftz` of two subnormals of opposite sign is +0. -/
theorem test_corners :
    gotV (exec (.cvt c0 .i8 .i32 .rne true (.v 9) (.v 2)) (put tst [(2, 300)])) 9 = some 0x7F ∧
    gotV (exec (.cvt c0 .i8 .i32 .rne false (.v 9) (.v 2)) (put tst [(2, 300)])) 9 = some 0x2C ∧
    gotP (exec (.fsetp c0 .eq false (.p 2) (.v 1) (.v 2) 0) (put tst [(1, 0x80000000), (2, 0)])) 2 = some true ∧
    gotV (exec (.fmax c0 false true (.v 9) (.v 1) (.v 2) 0) (put tst [(1, 0x80000001), (2, 1)])) 9 = some 0 :=
  ⟨rfl, rfl, rfl, rfl⟩

/-- R207: division by zero, and −7 divided by 2 toward zero. -/
theorem test_division :
    gotV (exec (.idiv c0 .n32 (.v 9) (.v 1) (.v 2) 0) (put tst [(1, 7), (2, 0)])) 9 = some 0xFFFFFFFF ∧
    gotV (exec (.irem c0 .n32 (.v 9) (.v 1) (.v 2) 0) (put tst [(1, 7), (2, 0)])) 9 = some 7 ∧
    gotV (exec (.idiv c0 .i32 (.v 9) (.v 1) (.imm 2) 0) (put tst [(1, 0xFFFFFFF9)])) 9 = some 0xFFFFFFFD :=
  ⟨rfl, rfl, rfl⟩

/-- R200: 2 to the 3 is 8, the logarithm of 1 is +0, and the reciprocal of a flushed subnormal is an infinity. -/
theorem test_functions :
    gotFlight (exec (.fex2 c0 false (.v 9) (.v 2) 0) (put tst [(2, 0x40400000)])) = some 0x41000000 ∧
    gotFlight (exec (.flg2 c0 false (.v 9) (.v 2) 0) (put tst [(2, 0x3F800000)])) = some 0 ∧
    gotFlight (exec (.frcp c0 .rne true (.v 9) (.v 2) 0) (put tst [(2, 0x80000001)])) = some 0xFF800000 := by
  decide +kernel

/-- 14, "A handler worked through": `trap 5` leaves cause 0x0C and code 5 and enters the handler. -/
theorem test_trap : (match exec (.trap c0 (.imm 5)) tst with
    | .next s => (s.thread? placedRef 0).map (fun t => (t.trapcause, t.trappc, t.inHandler, t.pc))
    | _ => none) = some (0x0005000C, 0x10000C, true, 0x100000) := by rfl

/-- 09, the worked reduction: sixteen lanes hold 16,777,216.0, 0, 1.0, 1.0 and zeros. -/
def lanesSt : State :=
  { State.reset.placeWord 96 nopLast with
    threads := (startThreads placedLaunch placedRef 0).map (fun t =>
      { t.setV 1 ([0x4B800000, 0, 0x3F800000, 0x3F800000].getD t.lane 0) with
        preds := if t.lane == 0 || t.lane == 2 || t.lane == 3 then 2 else 0 }) }
def gotLanes (o : Out) (i : Nat) : List (BitVec 32) := match o with
  | .next s => s.threads.map (fun t => t.v i)
  | _ => []

theorem test_gred : gotLanes (exec (.gred c0 .f32 .add (.v 2) (.v 1) none) lanesSt) 2 = List.replicate 16 0x4B800001 := by
  decide +kernel
theorem test_gscan : (gotLanes (exec (.gscan c0 .f32 .add false (.v 3) (.v 1) none) lanesSt) 3).take 5 =
    [0x4B800000, 0x4B800000, 0x4B800000, 0x4B800001, 0x4B800001] := by decide +kernel
theorem test_ballot : gotLanes (exec (.ballot c0 (.v 4) (.p 1) none) lanesSt) 4 = List.replicate 16 0xD ∧
    gotLanes (exec (.ballot c0 (.v 4) (.p 1) none) lanesSt) 5 = List.replicate 16 0 := by decide +kernel

/-- 02, "Where an address lands": the channel, the home slice and the offset on the three parts. -/
theorem test_address_lands :
    (channelOf .gm2A 0x1234567880, homeSlice .gm2A 0x1234567880, offsetInChannel .gm2A 0x1234567880) = (80, 186, 0x308B9880) ∧
    (channelOf .gm2B 0x1234567880, homeSlice .gm2B 0x1234567880, offsetInChannel .gm2B 0x1234567880) = (50, 151, 0x3A411880) ∧
    (channelOf .gm2E 0x1234567880, homeSlice .gm2E 0x1234567880, offsetInChannel .gm2E 0x1234567880) = (12, 29, 0x123456880) := by
  decide

/-- 07, "A block sum worked through" and "A quantised group worked through". -/
theorem test_matrix_sums :
    accFloat 0 ((List.range 32).map (fun i =>
      let x := bf16.value (if i = 0 then 0x4580 else if i = 1 ∨ i = 2 ∨ i = 16 then 0x3F80 else 0)
      (x, some x))) = 0x4B800002 ∧
    accQuant (fun _ => (fp16.value 0x3800, 8)) 32 0x3F800000 ((List.range 32).map (fun i =>
      (bf16.value ([0x3FC0, 0xC000, 0x3E80].getD i 0), some (Ex.int ([11, 3, 8].getD i 5))))) = 0x41040000 := by
  decide +kernel
/-! For every statement with hypotheses, a state and operands that meet them together, its clauses at boundary operands. -/

/-- Clear, computed. -/
def clearB (n : Need) (s : State) (cx : Ctx) : Bool :=
  (privTrap n cx).isNone && s.damage.isEmpty
    && cx.threads.all (fun t => !n.recallsGuard t && !pending s.inflight t n.guard) && !(cx.exec n.common).isEmpty
    && (s.groupThreads cx.run.ref).all (fun t => !handedOver n t)
    && (cx.exec n.common).all (fun t => !n.recalls t && !pending s.inflight t n.names && !orderedWait s.inflight t
      && !loggedWait s.inflight t && !n.hold cx t && (commonTrap n cx t).isNone)

theorem clear_of {n : Need} {s : State} {cx : Ctx} (h : s.ctx? = some cx) (hb : clearB n s cx = true) : Clear n s cx := by
  simp only [clearB, Bool.and_eq_true, List.all_eq_true, Bool.not_eq_true', Option.isNone_iff_eq_none,
    List.isEmpty_eq_false_iff, List.isEmpty_iff] at hb
  obtain ⟨⟨⟨⟨⟨h1, h2⟩, h3⟩, h4⟩, h5⟩, h6⟩ := hb
  exact ⟨h, h1, h2, h3, h4, fun t ht => (h6 t ht).1.1.1.1.1, .inr h5, fun t ht => (h6 t ht).1.1.1.1.2,
    fun _ t ht => (h6 t ht).1.1.1.2, fun _ t ht => (h6 t ht).1.1.2, fun t ht => (h6 t ht).1.2, fun t ht => (h6 t ht).2⟩

theorem meets_DecodeOfEncodeIsTheInstruction : (Instr.iadd c0 .i64 true (.v 254) (.s 190) .immC 5).wf = true ∧
    ∃ w, encode (.iadd c0 .i64 true (.v 254) (.s 190) .immC 5) = some w := ⟨by decide, _, rfl⟩

/-- The step of an event on the agenda, of a decoded word, of a run without a context, of a run that waits beside one that does not, of an
empty device, and of waiting runs alone. -/
theorem meets_StepRunsTheInstructionItFetches :
    (∃ s : State, ∃ i rest, s.tick.agenda = i :: rest) ∧
    (∃ r rest cx s' w i, tst.tick.agenda = [] ∧ tst.tick.runs = r :: rest ∧ r.stalled = false ∧ tst.tick.noteReady.ctx? = some cx ∧
      (tst.tick.noteReady.forgetPass cx).breakHits cx = [] ∧
      (cx.run.pc - cx.launch.lr.codeaddr).toNat < cx.launch.lr.codesize.toNat ∧
      (tst.tick.noteReady.forgetPass cx).fetchWord cx.run.core cx.launch.pasid cx.run.pc = (s', .word w false) ∧
      (cx.run.start = true → (Raw.ofWord w).opcode = 0x01#8) ∧ decode w = .ok i) ∧
    (∃ s : State, ∃ r rest, s.tick.agenda = [] ∧ s.tick.runs = r :: rest ∧ r.stalled = false ∧ s.tick.noteReady.ctx? = none) ∧
    (∃ s : State, ∃ r rest, s.tick.agenda = [] ∧ s.tick.runs = r :: rest ∧ r.stalled = true ∧ ∃ q ∈ rest, q.stalled = false) ∧
    (State.reset.tick.agenda = [] ∧ State.reset.tick.runs = []) ∧
    (∃ s : State, s.tick.agenda = [] ∧ s.tick.runs ≠ [] ∧ ∀ r ∈ s.tick.runs, r.stalled = true) :=
  ⟨⟨{ State.reset with agenda := [.heartbeat] }, _, _, rfl⟩,
    ⟨placedRun false, [], _, _, BitVec.ofNat 96 nopLast, .nop cb0, rfl, rfl, rfl, rfl, rfl, by decide, rfl, by decide, by decide⟩,
    ⟨{ State.reset with runs := [placedRun false] }, _, _, rfl, rfl, rfl, rfl⟩,
    ⟨{ State.reset with runs := [{ placedRun false with stalled := true }, placedRun false] }, _, _, rfl, rfl, rfl,
      _, List.mem_singleton.mpr rfl, rfl⟩,
    ⟨rfl, rfl⟩, ⟨{ State.reset with runs := [{ placedRun false with stalled := true }] }, rfl, by simp [State.tick, State.reset], by
      intro r hr; have : r ∈ [{ placedRun false with stalled := true }] := hr; simp at this; rw [this]⟩⟩

theorem meets_EveryStepAnswers : ∀ i ∈ ({ State.reset with agenda := [.heartbeat, .reconfDrainDone] } : State).agenda,
    encode i = none := by
  intro i hi
  have : i ∈ [Instr.heartbeat, .reconfDrainDone] := hi
  simp at this
  rcases this with rfl | rfl <;> rfl

/-- The run's guard holds in a thread; or it holds in none. -/
theorem meets_NopHasNoEffect :
    (∃ r rs, tst.runs = r :: rs ∧ tst.ctx? = some tcx ∧ Clear (regNeed { cb0 with yld := true } [] []) tst tcx ∧
      Clear (regNeed c0 [] []) tst tcx) ∧
    (privTrap (regNeed { c0 with guard := 1 } [] []) tcx = none ∧ tst.damage = [] ∧ tcx.exec { c0 with guard := 1 } = [] ∧
      ∀ t ∈ tcx.threads, (regNeed { c0 with guard := 1 } [] []).recallsGuard t = false ∧
        pending tst.inflight t (regNeed { c0 with guard := 1 } [] []).guard = false) ∧
    ∀ t ∈ tst.threads, t.stepping = false :=
  ⟨⟨_, _, rfl, rfl, clear_of rfl rfl, clear_of rfl rfl⟩, ⟨rfl, rfl, rfl, by decide +kernel⟩, by decide +kernel⟩

/-- The first and last opcodes of R38's list, and a run within its clause. -/
theorem meets_UnassignedOpcodesTrap : tst.ctx? = some tcx ∧ tcx.run.start = false ∧
    unassigned 0x00 = true ∧ unassigned 0x0D = true ∧ unassigned 0xD2 = true ∧ unassigned 0xFF = true ∧
    unassigned 0xD1 = false ∧ unassigned 0x0C = false := by
  exact ⟨rfl, rfl, by decide⟩

/-- A trap for the handler; a breakpoint under an attached debugger; a watchdog, whose packet is on record. -/
def packetSt : State :=
  { tst with
    launches := [{ placedLaunch with packet := some (⟨1, 0⟩, 0) }]
    packets := [{ q := ⟨1, 0⟩, idx := 0, bytes := [], result := none }] }

theorem meets_TrapsEnterTheHandlerOrStop :
    (∃ t, tst.thread? placedRef 0 = some t ∧ t.inHandler = false) ∧
    (∃ l, tst.launch? placedRef.launch = some l ∧ l.lr.handler ≠ 0xFFFFFFFF) ∧ (∀ u ∈ tst.threads, u.stepping = false) ∧
    ({ tst with dbgCtl := 0x8000000000100000 } : State).attached placedLaunch.pasid = true ∧ tst.attached 1 = false ∧
    (∃ root, packetSt.launch? (packetSt.root placedRef.launch) = some root ∧ root.packet = some (⟨1, 0⟩, 0) ∧
      ∃ p ∈ packetSt.packets, p.q = ⟨1, 0⟩ ∧ p.idx = 0 ∧ p.result = none) :=
  ⟨⟨_, rfl, rfl⟩, ⟨_, rfl, by decide⟩, by decide +kernel, by decide +kernel, by decide +kernel,
    ⟨_, rfl, rfl, _, List.mem_singleton.mpr rfl, rfl, rfl, rfl⟩⟩

theorem meets_ResultsAreWrittenAndNothingElse :
    (thr ≠ [] ∧ ∀ x ∈ thr, ([⟨.v 1, false, 2⟩, ⟨.s 191, false, 3⟩] : List Wr).filter (perGroup ·.o) = [⟨.s 191, false, 3⟩]) ∧
    (∀ t ∈ thr, t.vregs.wf = true ∧ t.handles.wf = true ∧ ∀ e, t.pip = some e → e.vregs.wf = true) ∧
    ((Group.fresh placedRef 0 0).sregs.wf = true ∧ (Group.fresh placedRef 0 0).masks.wf = true) ∧
    (∃ r rs, tst.runs = r :: rs ∧ r.pip = false) ∧ (∀ t ∈ tst.threads, t.stepping = false) := by
  refine ⟨⟨by decide +kernel, fun _ _ => rfl⟩, ?_, ⟨rfl, rfl⟩, ⟨_, _, rfl, rfl⟩, by decide +kernel⟩
  intro t ht
  refine ⟨?_, ?_, ?_⟩
  · revert t ht; decide +kernel
  · revert t ht; decide +kernel
  · have h : ∀ t ∈ thr, t.pip = none := by decide +kernel
    intro e he; rw [h t ht] at he; exact absurd he (by simp)

theorem meets_MemoryKeepsItsFormAndReadsBack :
    Memory.wf [(0, 1), (0xFFFFFFFFFFFF, 255)] = true ∧ Memory.wf [(5, 0)] = false ∧ Memory.wf [(5, 1), (5, 2)] = false ∧
    tst.memWf = true := by
  exact ⟨by decide, by decide, by decide, by decide +kernel⟩

theorem meets_MovesWriteTheirSource :
    Clear (regNeed c0 [nm (.v 254) true] [nm .immC true]) tst tcx ∧
    Clear (regNeed c0 [nm (.s 190) true] [nm (.s 188) true]) tst tcx ∧
    Clear (regNeed c0 [nm (.v 255) false] []) tst tcx ∧ Clear (regNeed c0 [nm (.v 254) true] []) tst tcx ∧
    Clear (regNeed c0 [(.v (254 + 1), 1)] []) tst tcx ∧ Clear (regNeed c0 [(.s (190 + 1), 1)] []) tst tcx ∧
    Clear (regNeed c0 [nm (.v 254) true] [(.h 15, 1)]) tst tcx ∧ Clear (regNeed c0 [(.h 15, 1)] [nm (.v 254) true]) tst tcx := by
  refine ⟨?_, ?_, ?_, ?_, ?_, ?_, ?_, ?_⟩ <;> exact clear_of rfl rfl

theorem meets_IntegerArithmeticResults :
    Clear (regNeed c0 [nm (.v 254) true] [nm (.v 252) true, nm .immC true]) tst tcx ∧
    Clear (regNeed c0 [nm (.s 191) false] [nm (.s 190) false, nm (.imm 0x100) false, nm (.s 0) false]) tst tcx ∧
    Clear (regNeed c0 [nm (.v 255) false] [nm (.v 255) false]) tst tcx ∧
    Clear (regNeed c0 [nm (.v 254) true] [nm (.v 1) false, nm (.v 3) false, nm (.v 254) true]) tst tcx ∧
    Clear (regNeed c0 [nm (.v 254) true] [nm (.s 190) true, nm (.v 255) false]) tst tcx := by
  refine ⟨?_, ?_, ?_, ?_, ?_⟩ <;> exact clear_of rfl rfl

theorem meets_CarryAndDivisionResults :
    Clear (regNeed c0 [nm (.v 254) true, nm (.p 14) false] [nm (.v 252) true, nm (.imm 1) true, nm (.p 14) false]) tst tcx ∧
    Clear (regNeed c0 [nm (.v 13) false, nm (.p 15) false] [nm (.v 5) false, nm (.v 9) false, nm (.p 15) false]) tst tcx ∧
    Clear (regNeed c0 [nm (.v 254) true] [nm (.v 252) true, nm .immC true]) tst tcx := by
  refine ⟨?_, ?_, ?_⟩ <;> exact clear_of rfl rfl

theorem meets_LogicShiftAndBitFieldResults :
    Clear (regNeed c0 [nm (.v 254) true] [nm (.v 252) true, nm .immC true]) tst tcx ∧
    Clear (regNeed c0 [nm (.v 254) true] [nm (.v 252) true]) tst tcx ∧
    Clear (regNeed c0 [nm (.s 190) true] [nm (.s 188) true, nm (.imm 64) false]) tst tcx ∧
    Clear (regNeed c0 [nm (.v 255) false] [nm (.v 254) false, nm (.imm 3) false, nm (.s 191) false]) tst tcx := by
  refine ⟨?_, ?_, ?_, ?_⟩ <;> exact clear_of rfl rfl

theorem meets_LogicShiftAndBitFieldResults_fields :
    Clear (regNeed c0 [nm (.v 254) true] [nm (.v 252) true, nm .immC false]) tst tcx ∧
    Clear (regNeed c0 [nm (.v 254) true] [nm (.v 252) true, nm (.v 250) true, nm (.s 191) false]) tst tcx ∧
    Clear (regNeed c0 [nm (.v 255) false] [nm (.v 254) false, nm (.imm 32) false]) tst tcx ∧
    Clear (regNeed c0 [nm (.v 255) false] [nm (.v 254) true]) tst tcx ∧
    Clear (regNeed c0 [nm (.v 254) true] [nm (.v 252) true]) tst tcx ∧
    Clear (regNeed c0 [nm (.v 255) false] [nm (.v 1) false, nm (.v 2) false, nm (.v 3) false]) tst tcx := by
  refine ⟨?_, ?_, ?_, ?_, ?_, ?_⟩ <;> exact clear_of rfl rfl

theorem meets_Fp32ArithmeticResults :
    Clear (regNeed c0 [nm (.v 255) false] [nm (.v 255) false, nm .immC false]) tst tcx ∧
    Clear (regNeed c0 [nm (.s 191) false] [nm (.s 0) false, nm (.imm 1) false, nm (.s 1) false]) tst tcx ∧
    Clear (regNeed c0 [nm (.v 0) false] [nm (.imm 0x1FF) false]) tst tcx := by
  refine ⟨?_, ?_, ?_⟩ <;> exact clear_of rfl rfl

/-- The instructions clear, and room in the selected flag's count. -/
theorem meets_LongLatencyFloatResults :
    Clear (regNeed cx0 [nm (.v 255) false] [nm (.v 254) false, nm .immC false]) tst tcx ∧
    Clear (regNeed cx0 [nm (.s 191) false] [nm (.s 0) false]) tst tcx ∧
    (∃ s', tst.launched tcx cx0 { dst := some (.v 255, false), vals := (tcx.exec cx0).map (fun t => (t.lane, 5)) } = some s') ∧
    (∃ s', tst.launched tcx c0 { dst := some (.s 191, false), vals := (tcx.exec c0).map (fun t => (t.lane, 5)) } = some s') := by
  refine ⟨clear_of rfl rfl, clear_of rfl rfl, ⟨_, rfl⟩, ⟨_, rfl⟩⟩

theorem meets_PackedHalfResults :
    Clear (regNeed c0 [nm (.v 255) false] [nm (.v 254) false, nm (.imm 0) false]) tst tcx ∧
    Clear (regNeed c0 [nm (.s 191) false] [nm (.s 0) false, nm (.imm 1) false, nm (.s 1) false]) tst tcx := by
  refine ⟨?_, ?_⟩ <;> exact clear_of rfl rfl

/-- V2P with a mask that names every predicate, no region open. -/
theorem meets_ComparisonAndSelectionResults :
    Clear (regNeed c0 [nm (.p 14) false] [nm (.v 254) true, nm .immC true]) tst tcx ∧
    Clear (regNeed c0 [nm (.p 15) false] [nm (.v 255) false, nm (.imm 0) false]) tst tcx ∧
    Clear (regNeed c0 [nm (.p 0) false, nm (.p 0) false] [nm (.v 1) false, nm (.v 2) false]) tst tcx ∧
    Clear (regNeed c0 [nm (.v 254) true] [nm (.v 252) true, nm (.imm 1) true, nm (.p 14) false]) tst tcx ∧
    Clear (regNeed c0 [nm (.p 1) false] [nm (.p 2) false, nm (.p 15) false, nm (.p 0) false]) tst tcx ∧
    Clear (regNeed c0 [nm (.v 255) false] allPreds) tst tcx ∧
    Clear (regNeed c0 [] ([nm (.v 2) false, nm .immC false] ++
      allPreds.filter (fun n => (tcx.exec c0).any (fun t => (maskPreds tcx.group 0x7FFF .immC t).contains n)))) tst tcx ∧
    tcx.run.pip = false ∧ ∀ t ∈ tcx.exec c0, t.region = none := by
  refine ⟨?_, ?_, ?_, ?_, ?_, ?_, ?_, rfl, by decide +kernel⟩ <;> exact clear_of rfl rfl

def slotSt : State := { tst with launches := [{ placedLaunch with lr := { placedRec with slots := [0x0000_2061] } }] }
def slotCx : Ctx := { tcx with launch := { placedLaunch with lr := { placedRec with slots := [0x0000_2061] } } }

/-- A context whose launch binds one format slot: Q4 groups of 32 against BF16 (R167's layout). -/
theorem meets_ConversionResults :
    Clear (regNeed c0 [nm (.v 254) true] [nm (.v 252) true]) tst tcx ∧
    Clear (regNeed c0 [nm (.v 255) false] [nm (.v 1) false, nm (.imm 2) false]) tst tcx ∧
    Clear (regNeed c0 [nm (.v 254) true] [nm (.s 191) false]) tst tcx ∧
    Clear (regNeed c0 [nm (.v 255) false] [nm (.v 255) false]) tst tcx ∧
    Clear (regNeed c0 [nm (.v 255) false] [nm (.v 1) false, nm (.v 2) false]) slotSt slotCx ∧
    (slotCx.launch.lr.slot 0).afmt ≠ .none := by
  refine ⟨?_, ?_, ?_, ?_, ?_, by decide⟩ <;> exact clear_of rfl rfl
/-- Every access brings a value; every access is done. -/
def allVal (res : List (MemReq × Got)) : Bool := res.all (fun r => match r.2 with
  | .val _ => true
  | _ => false)
theorem vals_of {res : List (MemReq × Got)} (h : allVal res = true) : ∀ r ∈ res, ∃ x, r.2 = .val x := by
  intro r hr
  have := List.all_eq_true.mp h r hr
  split at this
  · exact ⟨_, ‹_›⟩
  · exact absurd this (by decide)

/-- A run at the header of a clause of one NOP. -/
def hdrSt : State := { State.reset.placeWord 96 plainHeader with threads := thr }
def hdrCx : Ctx := { tcx with run := placedRun true }

theorem meets_ClauseHeaderStartsClause : hdrSt.ctx? = some hdrCx ∧ hdrCx.run.start = true ∧
    (∃ s' body, hdrSt.checkClause hdrCx (clauseForm 11 15) = (s', .good body) ∧ selectionsFit hdrCx.flags 11 15 body = true) ∧
    ∀ i, i < 12 → (0xFFF#12).getLsbD i = true → hdrCx.flags.get i = 0 :=
  by
  have h : (hdrSt.checkClause hdrCx (clauseForm 11 15)).2 = .good [BitVec.ofNat 96 nopLast] := by decide +kernel
  exact ⟨rfl, rfl, ⟨_, _, Prod.ext_iff.mpr ⟨Eq.refl (hdrSt.checkClause hdrCx (clauseForm 11 15)).1, h⟩, by decide +kernel⟩,
    by decide +kernel⟩

/-- A record of zeros: no register live in. The first and the last record of the table. -/
theorem meets_RegionHeaderOpensRegion : tst.ctx? = some tcx ∧ (0xFB0#32).toNat % 16 = 0 ∧
    (0xFB0#32).toNat + 80 ≤ tcx.launch.lr.regsize.toNat ∧ regionRes0 0 = true ∧
    (∃ s', tst.peekWords tcx.run.core tcx.launch.pasid (tcx.launch.lr.regaddr.toNat + 0xFB0) 20 = (s', .ok (0, false))) ∧
    ∃ s', tst.peekWords tcx.run.core tcx.launch.pasid tcx.launch.lr.regaddr.toNat 20 = (s', .ok (0, false)) := by
  have h : ∀ a ∈ [tcx.launch.lr.regaddr.toNat + 0xFB0, tcx.launch.lr.regaddr.toNat],
      (tst.peekWords tcx.run.core tcx.launch.pasid a 20).2 = .ok (0, false) := by decide +kernel
  have k : ∀ a, (tst.peekWords tcx.run.core tcx.launch.pasid a 20).2 = .ok (0, false) →
      ∃ s', tst.peekWords tcx.run.core tcx.launch.pasid a 20 = (s', .ok (0, false)) := fun a ha => ⟨_, Prod.ext_iff.mpr ⟨rfl, ha⟩⟩
  exact ⟨rfl, by decide, by decide, by decide +kernel, k _ (h _ (by simp)), k _ (h _ (by simp))⟩

/-- The same run, of a privileged group. -/
def agtSt : State := { tst with launches := [{ placedLaunch with agent := true }] }
def agtCx : Ctx := { tcx with launch := { placedLaunch with agent := true } }

theorem meets_SpecialRegistersAndMasks :
    (Clear { common := c0, reads := [nm (.v 2) false], privileged := true, recallFirst := true } agtSt agtCx ∧
      ∃ t ts, agtCx.exec c0 = t :: ts) ∧
    Clear (regNeed c0 [nm (.v 254) true] []) tst tcx ∧ Clear (regNeed c0 [nm (.s 191) false] []) tst tcx ∧
    (∃ s', tst.launched tcx c0 { dst := some (.v 254, true), vals := (tcx.exec c0).map (fun t => (t.lane, tst.clock)) } = some s') ∧
    Clear { common := c0, reads := [nm (.v 2) true], recallFirst := true } tst tcx ∧
    Clear { common := c0, reads := [nm (.imm 5) false], recallFirst := true } tst tcx ∧
    Clear { common := c0, writes := [nm (.m 7) false], reads := [nm (.s 190) true], recallFirst := true } tst tcx ∧
    Clear { common := c0, writes := [nm (.s 190) true], reads := [nm (.m 7) false], recallFirst := true } tst tcx ∧
    Clear (regNeed c0 [nm (.s 190) true] [nm (.imm 17) false]) tst tcx ∧
    (∀ t ∈ tcx.exec c0, pending tst.inflight t [nm (.v 254) true] = false ∧ poisoned tcx.group t (nm (.v 254) true) = false) := by
  refine ⟨⟨clear_of rfl rfl, _, _, rfl⟩, clear_of rfl rfl, clear_of rfl rfl, ⟨_, rfl⟩, clear_of rfl rfl, clear_of rfl rfl,
    clear_of rfl rfl, clear_of rfl rfl, clear_of rfl rfl, by decide +kernel⟩

theorem meets_TrapAndBreakTrapTheirThreads :
    Clear (regNeed c0 [] [nm (.imm 255) false]) tst tcx ∧ Clear (regNeed c0 [] [nm (.s 191) false]) tst tcx ∧
    Clear (regNeed c0 [] []) tst tcx := by
  refine ⟨?_, ?_, ?_⟩ <;> exact clear_of rfl rfl

/-- The whole group without a mask; two members by mask 7 and by a uniform pair, the group's lane 1 held at the PC. -/
def maskG : Group := { Group.fresh placedRef 0 0 with masks := [(7, 3)], sregs := [(190, 3)] }
def laneSt : State :=
  { tst with
    groups := [maskG]
    runs := [{ placedRun false with lanes := 1 }]
    threads := thr.map (fun t => if t.lane == 1 then { t with pc := 0x10000C, cond := .held (.lanes none) } else t) }
def laneCx : Ctx := ⟨{ placedRun false with lanes := 1 }, placedLaunch, Block.fresh placedLaunch 0 0 0, maskG, laneSt.threads.take 1⟩
def bothCx : Ctx :=
  { laneCx with
    run := { placedRun false with lanes := 3 }
    threads := (laneSt.mergeHeld laneCx).threads }

theorem gathered_of {c : Common} {ws rs : List Names} {m : Option Opnd} (h : clearB (lanesNeed c ws rs m) (laneSt.mergeHeld laneCx)
    bothCx = true) (h1 : (privTrap (lanesNeed c ws rs m) laneCx).isNone = true)
    (h2 : (laneSt.lanesMissing laneCx (memberMask laneCx m)).isEmpty = true)
    (h3 : (bothCx.exec c).all (fun t => (memberMask bothCx m).getLsbD t.lane) = true) :
    Gathered c ws rs m laneSt laneCx bothCx :=
  ⟨rfl, Option.isNone_iff_eq_none.mp h1, rfl, List.isEmpty_iff.mp h2, clear_of rfl h, List.all_eq_true.mp h3⟩

theorem meets_CrossLaneMovesAndVotes :
    Gathered c0 [nm (.v 254) true] [nm (.v 252) true, nm (.imm 1) false] none laneSt laneCx bothCx ∧
    Gathered c0 [nm (.p 14) false] [nm (.p 15) false] (some (.m 7)) laneSt laneCx bothCx ∧
    Gathered c0 [nm (.v 254) true] [nm (.p 0) false] (some (.s 190)) laneSt laneCx bothCx ∧
    Gathered c0 [nm (.v 254) true] [nm (.v 2) true] none laneSt laneCx bothCx ∧
    Gathered c0 [nm (.p 0) false] [] (some (.m 7)) laneSt laneCx bothCx ∧
    Gathered c0 [nm (.v 254) true] [nm (.v 254) true, nm (.imm 16) false, nm (.s 188) true] none laneSt laneCx bothCx := by
  refine ⟨?_, ?_, ?_, ?_, ?_, ?_⟩ <;> exact gathered_of rfl rfl rfl rfl

theorem meets_GroupReductionsFollowLaneTree :
    Gathered c0 [nm (.v 255) false] [nm (.imm 1) false] (some (.m 7)) laneSt laneCx bothCx ∧
    Gathered c0 [nm (.v 254) true] (nm (.v 2) false :: nmOpt (some (.v 1)) false) none laneSt laneCx bothCx ∧
    (∃ w, winner .f16 false true laneCx.launch.lr.seed
      ((bothCx.exec c0).map (fun t => (⟨0x7E00, BitVec.ofNat 32 t.lane⟩ : Entrant))) = some w) :=
  ⟨gathered_of rfl rfl rfl rfl, gathered_of rfl rfl rfl rfl, ⟨_, rfl⟩⟩

/-- A minority of one lane, pip cores with room, and a record for the branch at offset 12. -/
def ejLr : LaunchRec := { placedRec with ejcount := 1 }
def ejSt : State :=
  { tst with
    launches := [{ placedLaunch with lr := ejLr }]
    threads := thr.map (fun t => if t.lane == 0 then { t with preds := 2 } else t)
    mem := (tst.mem.set 0x300000 12).set 0x300004 24 }
def ejCx : Ctx := { tcx with launch := { placedLaunch with lr := ejLr }, threads := ejSt.threads }
def cp1 : Common := { cb0 with guard := 1 }

theorem meets_BranchesSendTheirThreads :
    Clear (regNeed cb0 [] []) tst tcx ∧ (0 % 12 = 0 ∧ 0 < tcx.launch.lr.codesize.toNat) ∧
    (24 % 12 = 0 ∧ 24 < tcx.launch.lr.codesize.toNat) ∧ Clear (regNeed cb0 [] [nm (.v 255) false]) tst tcx ∧
    (∀ t ∈ tcx.exec cb0, (loWord (readOp tcx.group t 0 .uint false (.v 255))).toNat = 0) ∧
    tst.mayEject tcx [] = false ∧ Clear (regNeed cp1 [] []) ejSt ejCx ∧ ejCx.run.pip = false ∧
    (ejCx.exec cp1).map (·.lane) = [0] ∧
    (∀ t ∈ ejCx.exec cp1, loggedWait ejSt.inflight t = false ∧ ejSt.remoteWait t = false) ∧ ejSt.mayEject ejCx (ejCx.exec cp1) = true ∧
    (∃ s' e, ejSt.findEject 0 1 ejLr.ejaddr 12 33 0 ejLr.ejcount.toNat = (s', .record e) ∧ e.fits ejCx.vregs ejCx.sregs = true) :=
  ⟨clear_of rfl rfl, by decide, by decide, clear_of rfl rfl, by decide +kernel, by decide +kernel, clear_of rfl rfl, rfl,
    by decide +kernel, by decide +kernel, by decide +kernel, ⟨_, _, rfl, by decide +kernel⟩⟩

/-- A bound entry whose target is offset 24, and threads one call deep. -/
def callSt : State := { tst with mem := (tst.mem.set 0x310000 24).set 0x310007 0x80 }
def deepSt : State := { tst with threads := thr.map (fun t => { t with d := 256 }) }
def deepCx : Ctx := { tcx with threads := deepSt.threads }

theorem meets_CallsAndReturnsUseReturnStack :
    (let need (reads : List Names) : Need :=
      { common := cb0, reads := reads, ordered := true, afterLog := true, hold := fun cx t => topoHold tst cx (stackAddr t t.d) }
    Clear (need []) tst tcx ∧ Clear (need [nm (.v 255) false]) tst tcx) ∧
    (∀ t ∈ tcx.exec cb0, topoTrap tst tcx (stackAddr t t.d) = none ∧ callTrap tst tcx t 24 = none ∧ callTrap tst tcx t 0 = none) ∧
    (∃ s' res, tst.accessAll tcx.site false ((tcx.exec cb0).map (callReq tcx)) = (s', res) ∧ (∀ r ∈ res, r.2 = .done) ∧
      tst.hostBarred s' = false) ∧
    Clear { common := cb0, reads := [nm (.imm 0) false], ordered := true, afterLog := true
            hold := fun cx t => topoHold callSt cx (stackAddr t t.d) } callSt tcx ∧
    (∀ t ∈ tcx.exec cb0, calltTrap callSt tcx t (bindIndex tcx t (.imm 0) 0) = none ∧ callSt.remoteWait t = false) ∧
    (∃ s1, (callSt.acquireAt tcx.site true).bindings tcx (fun t => bindIndex tcx t (.imm 0) 0) (tcx.exec cb0) =
        (s1, (tcx.exec cb0).map (fun t => (t, .ok (.bound 24)))) ∧ callSt.hostBarred s1 = false ∧
      ∃ s' res, s1.accessAll tcx.site false ((tcx.exec cb0).map (callReq tcx)) = (s', res) ∧ (∀ r ∈ res, r.2 = .done) ∧
        s1.hostBarred s' = false ∧ callSt.hostBarred (s'.leave tcx cb0 (tcx.exec cb0) (fun t => t)) = false) ∧
    Clear { common := cb0, ordered := true, afterLog := true
            hold := fun cx t => !t.handlerReturns && topoHold deepSt cx (stackAddr t (t.d - 1)) } deepSt deepCx ∧
    (∀ t ∈ deepCx.exec cb0, t.handlerReturns = false ∧ topoTrap deepSt deepCx (stackAddr t (t.d - 1)) = none ∧
      retTrap deepSt deepCx t = none ∧ deepSt.behindFar deepCx.run.ref (retReq t) = false) ∧
    ∃ s' res, deepSt.accessAll deepCx.site true ((deepCx.exec cb0).map retReq) = (s', res) ∧ ∀ r ∈ res, ∃ x, r.2 = .val x :=
  ⟨⟨clear_of rfl rfl, clear_of rfl rfl⟩, by decide +kernel, ⟨_, _, rfl, by decide +kernel, rfl⟩, clear_of rfl rfl, by decide +kernel,
    ⟨_, rfl, rfl, _, _, rfl, by decide +kernel, rfl, rfl⟩, clear_of rfl rfl, by decide +kernel, ⟨_, _, rfl, vals_of rfl⟩⟩

/-- A join of lanes 0 and 1: both in the run; then lane 1 elsewhere. An ejected thread at its REJOIN. -/
def joinG : Group := { Group.fresh placedRef 0 0 with masks := [(7, 3)] }
def joinSt : State := { tst with groups := [joinG] }
def joinCx : Ctx := { tcx with group := joinG }
def loneSt : State := { joinSt with runs := [{ placedRun false with lanes := 1 }] }
def loneCx : Ctx := { joinCx with run := { placedRun false with lanes := 1 }, threads := thr.take 1 }
def pipSt : State :=
  { tst with
    runs := [{ placedRun false with pip := true, lanes := 1 }]
    threads := thr.map (fun t => if t.lane == 0 then { t with pip := some (newPip (EjectRec.ofNat 12) joinG t 0 0 1) } else t) }
def pipCx : Ctx := { tcx with run := { placedRun false with pip := true, lanes := 1 }, threads := pipSt.threads.take 1 }

/-- What an MJOIN acts on: its threads' arrivals noted, and those that pass it by. -/
def seenAt (s : State) (cx : Ctx) : State :=
  (s.arriveAgain cx.run.ref cx.run.pc (lanesOf ((cx.threads.filter (fun t => t.pip.isNone || !t.guard cb0)).map (·.lane)))).passBy cx cb0
    (cx.group.masks.get 7)
def joinSj : State := seenAt joinSt joinCx
def loneSj : State := seenAt loneSt loneCx

theorem meets_JoinsAndExitsMoveThreads :
    Clear (regNeed cb0 [] []) tst tcx ∧
    (∀ t ∈ tcx.exec cb0, tst.inFlight tcx.run.ref t.lane = false ∧ tst.keptAt tcx (tcx.exec cb0) t = false) ∧
    (joinSt.ctx? = some joinCx ∧ joinSj.ctx? = some joinCx ∧
      Clear { common := cb0, reads := [nm (.m 7) false], recallFirst := true, afterLog := true } joinSj joinCx ∧
      (∀ t ∈ joinCx.exec cb0, (joinG.masks.get 7).getLsbD t.lane = true ∧ joinSj.remoteWait t = false) ∧
      (joinSj.liveAwaited placedRef joinCx.run.pc (joinG.masks.get 7)).filter
        (fun t => !(joinCx.exec cb0).any (·.lane == t.lane)) = []) ∧
    (loneSt.ctx? = some loneCx ∧ loneSj.ctx? = some loneCx ∧ (∀ t ∈ loneCx.exec cb0, loneSj.remoteWait t = false) ∧
      Clear { common := cb0, reads := [nm (.m 7) false], recallFirst := true, afterLog := true } loneSj loneCx ∧
      ((loneSj.liveAwaited placedRef loneCx.run.pc (joinG.masks.get 7)).filter (fun t => !((loneCx.exec cb0).any (·.lane == t.lane) ||
        joined loneCx.group loneCx.run.pc 7 t))).map (·.lane) = [1]) ∧
    (Clear (regNeed cb0 [] []) pipSt pipCx ∧ pipCx.run.pip = true ∧
      (∀ t ∈ pipCx.exec cb0, pipSt.inFlight placedRef t.lane = false) ∧ ∀ i, i < 12 → pipCx.flags.get i = 0) ∧
    tcx.run.pip = false ∧ tst.stillOut placedRef 12 = false :=
  ⟨clear_of rfl rfl, by decide +kernel, ⟨rfl, rfl, clear_of rfl rfl, by decide +kernel, by decide +kernel⟩,
    ⟨rfl, rfl, by decide +kernel, clear_of rfl rfl, by decide +kernel⟩, ⟨clear_of rfl rfl, rfl, by decide +kernel, by decide +kernel⟩, rfl, by decide +kernel⟩
/-- An address in v2 and v3, data in v4; the same as a deterministic launch; a scratchpad with an absent line. -/
def memSt : State := put tst [(2, 0x500000), (4, 7)]
def memCx : Ctx := { tcx with threads := memSt.threads }
def acq : MemCtl := ⟨false, .acquire, true, .dev, 0⟩
def rel : MemCtl := ⟨false, .release, false, .sys, 0⟩

/-- A launch whose record of 512 bytes lies in memory; and a child's, which has no place there. -/
def childL : Launch := { placedLaunch with lr := { placedRec with bytes := List.replicate 512 0 } }
def childSt : State := { memSt with launches := [childL] }
def childCx : Ctx := { memCx with launch := childL }
def recSt : State := { memSt with launches := [{ childL with recAddr := some 0x330000 }] }
def recCx : Ctx := { memCx with launch := { childL with recAddr := some 0x330000 } }

theorem meets_LoadsBindWhatTheirAccessesBring :
    (let need (mc : MemCtl) : Need := {
        common := cx0, writes := [nm (.v 254) true], reads := addrNames (.v 2) true (some (.v 5)),
        ordered := true, afterLog := true,
        hold := fun cx t => topoHold memSt cx (effAddr cx.group t true (.v 2) (some (.v 5)) 3 mc.offset) };
      let req (t : Thread) : MemReq := ⟨t.lane, (effAddr memCx.group t true (.v 2) (some (.v 5)) 3 0).setWidth 57, .load .b64, 0, 0⟩;
      Clear (need (mc0 0)) memSt memCx ∧ Clear (need acq) memSt memCx ∧
      (∀ t ∈ memCx.exec cx0, topoTrap memSt memCx (effAddr memCx.group t true (.v 2) (some (.v 5)) 3 0) = none ∧
        accessTrap memSt memCx true (req t) = none ∧ (req t).va.toNat % 8 = 0 ∧
        accessTrap (memSt.promote.acquireAt memCx.site true) memCx true (req t) = none ∧ memSt.remoteWait t = false) ∧
      ∃ s1 res, (memSt.promote.acquireAt memCx.site true).accessAll memCx.site true ((memCx.exec cx0).map req) = (s1, res) ∧
        (∀ r ∈ res, ∃ x, r.2 = .val x) ∧ memSt.hostBarred s1 = false ∧
        ∃ s', s1.launched memCx cx0 { dst := some (.v 254, true), vals := valsOf res } = some s') ∧
    (let req (t : Thread) : MemReq := ⟨t.lane, (memCx.launch.lr.constaddr + effAddr memCx.group t false (.v 7) none 0 0xFFC).setWidth 57,
        .load .n32, 0, 0⟩;
      Clear { common := cx0, writes := [nm (.v 255) false], reads := addrNames (.v 7) false none, ordered := true, afterLog := true }
        memSt memCx ∧
      (∀ t ∈ memCx.exec cx0, (effAddr memCx.group t false (.v 7) none 0 0xFFC).toNat = 0xFFC ∧
        accessTrap memSt memCx true (req t) = none) ∧ 0xFFC + 4 ≤ memCx.launch.lr.constsize.toNat ∧
      ∃ s1 res, memSt.accessAll memCx.site true ((memCx.exec cx0).map req) = (s1, res) ∧ (∀ r ∈ res, ∃ x, r.2 = .val x) ∧
        memSt.hostBarred s1 = false ∧
        ∃ s', s1.launched memCx cx0 { dst := some (.v 255, false), vals := valsOf res } = some s') ∧
    (let req (t : Thread) : MemReq := ⟨t.lane, (0x330000 + effAddr recCx.group t false (.v 7) none 0 508).setWidth 57, .load .n32, 0, 0⟩;
      recCx.launch.recAddr = some 0x330000 ∧
      Clear { common := cx0, writes := [nm (.v 255) false], reads := addrNames (.v 7) false none, ordered := true, afterLog := true }
        recSt recCx ∧
      (∀ t ∈ recCx.exec cx0, (effAddr recCx.group t false (.v 7) none 0 508).toNat = 508 ∧ accessTrap recSt recCx true (req t) = none) ∧
      508 + 4 ≤ recCx.launch.lr.bytes.length ∧
      ∃ s1 res, recSt.accessAll recCx.site true ((recCx.exec cx0).map req) = (s1, res) ∧ (∀ r ∈ res, ∃ x, r.2 = .val x) ∧
        recSt.hostBarred s1 = false ∧
        ∃ s', s1.launched recCx cx0 { dst := some (.v 255, false), vals := valsOf res } = some s') ∧
    (Clear { common := cx0, writes := [nm (.v 255) false], reads := addrNames (.v 7) false none, ordered := true, afterLog := true }
        childSt childCx ∧ childCx.launch.recAddr = none ∧ 508 + 4 ≤ childCx.launch.lr.bytes.length ∧
      (∀ t ∈ childCx.exec cx0, (effAddr childCx.group t false (.v 7) none 0 508).toNat = 508) ∧
      ∃ s', childSt.launched childCx cx0 { dst := some (.v 255, false), vals := (childCx.exec cx0).map (fun t =>
        (t.lane, loadValue .n32 (fieldAt childCx.launch.lr.bytes 508 4))) } = some s') :=
  ⟨⟨clear_of rfl rfl, clear_of rfl rfl, by decide +kernel, _, _, rfl, vals_of rfl, rfl, _, rfl⟩,
    ⟨clear_of rfl rfl, by decide +kernel, by decide, _, _, rfl, vals_of rfl, rfl, _, rfl⟩,
    ⟨rfl, clear_of rfl rfl, by decide +kernel, by decide +kernel, _, _, rfl, vals_of rfl, rfl, _, rfl⟩,
    ⟨clear_of rfl rfl, rfl, by decide +kernel, by decide +kernel, _, rfl⟩⟩

def detLr : LaunchRec := { placedRec with det := true, fladdr := 0x600000, flsize := 0x10000 }
def detSt : State := { memSt with launches := [{ placedLaunch with lr := detLr }] }
def detCx : Ctx := { memCx with launch := { placedLaunch with lr := detLr } }

theorem meets_StoresAndAtomicsPerformTheirAccesses :
    (let st (t : Thread) : MemReq := ⟨t.lane, (effAddr memCx.group t true (.v 2) none 0 8).setWidth 57, .store 8,
          readOp memCx.group t 0 .uint true (.v 4), 0⟩;
      Clear { common := c0, reads := nm (.v 4) true :: addrNames (.v 2) true none, ordered := true, afterLog := true,
              hold := fun cx t => topoHold memSt cx (effAddr cx.group t true (.v 2) none 0 8) } memSt memCx ∧
      (∀ t ∈ memCx.exec c0, topoTrap memSt memCx (effAddr memCx.group t true (.v 2) none 0 8) = none ∧
        (st t).va.toNat % 8 = 0 ∧ accessTrap memSt memCx false (st t) = none ∧
        memSt.remoteWait t = false) ∧
      ∃ s1 res, (memSt.releaseAt memCx.site true).accessAll memCx.site false ((memCx.exec c0).map st) = (s1, res) ∧
        (∀ r ∈ res, r.2 = .done) ∧ (memSt.releaseAt memCx.site true).hostBarred s1 = false) ∧
    (let at_ (t : Thread) : MemReq := ⟨t.lane, (effAddr memCx.group t true (.v 2) none 0 0).setWidth 57, .atom .cas .n32,
        (atomData memCx.group t .cas .n32 (.v 4)).1, (atomData memCx.group t .cas .n32 (.v 4)).2⟩;
      let need (w : List Names) : Need := {
        common := c0, writes := w, reads := [nm (.v 2) true, atomNames .cas .n32 (.v 4)], ordered := true,
        afterLog := true, hold := fun cx t => topoHold memSt cx (effAddr cx.group t true (.v 2) none 0 0) };
      memCx.launch.lr.det = false ∧ Clear (need []) memSt memCx ∧ Clear (need [nm (.v 255) false]) memSt memCx ∧
      (∀ t ∈ memCx.exec c0, topoTrap memSt memCx (effAddr memCx.group t true (.v 2) none 0 0) = none ∧
        (at_ t).va.toNat % 4 = 0 ∧ accessTrap memSt memCx false (at_ t) = none ∧ accessTrap memSt memCx true (at_ t) = none) ∧
      (∃ s1 res, memSt.accessAll memCx.site false ((memCx.exec c0).map at_) = (s1, res) ∧ (∀ r ∈ res, ∃ x, r.2 = .val x) ∧
        memSt.hostBarred s1 = false) ∧
      (∃ s1 res, memSt.accessAll memCx.site true ((memCx.exec c0).map at_) = (s1, res) ∧ (∀ r ∈ res, ∃ x, r.2 = .val x) ∧
        memSt.hostBarred s1 = false ∧
        ∃ s', (s1.endRegion memCx.run.ref (lanesOf ((memCx.exec c0).map (·.lane)))).launched memCx c0
          { dst := some (.v 255, false), vals := valsOf res } = some s')) ∧
    (let need (e : Bool) : Need := {
        common := c0, reads := [nm (.v 2) true, atomNames .add .n32 (.v 4)], ordered := true, afterLog := true,
        ends := e, hold := fun cx t => topoHold detSt cx (effAddr cx.group t true (.v 2) none 0 0) };
      detCx.launch.lr.det = true ∧ detCx.block.detUsed + (detCx.exec c0).length ≤ detShare detCx.launch.lr ∧
      (∀ t ∈ detCx.exec c0, t.seq + 1 < 2 ^ 24 ∧ topoTrap detSt detCx (effAddr detCx.group t true (.v 2) none 0 0) = none ∧
        ((effAddr detCx.group t true (.v 2) none 0 0).setWidth 57).toNat % 4 = 0 ∧
        aperture ((effAddr detCx.group t true (.v 2) none 0 0).setWidth 57).toNat = none) ∧
      Clear (need true) detSt detCx ∧ Clear (need false) detSt detCx) :=
  ⟨⟨clear_of rfl rfl, by decide +kernel, _, _, rfl, by decide +kernel, rfl⟩,
    ⟨rfl, clear_of rfl rfl, clear_of rfl rfl, by decide +kernel, ⟨_, _, rfl, vals_of rfl, rfl⟩,
      ⟨_, _, rfl, vals_of rfl, rfl, _, rfl⟩⟩,
    ⟨rfl, by decide +kernel, by decide +kernel, clear_of rfl rfl, clear_of rfl rfl⟩⟩

/-- The last bytes of the block's scratchpad, the line present; and the same line absent. -/
def absentB : Block := { Block.fresh placedLaunch 0 0 0 with absent := [(511, 1)] }
def absentSt : State := { tst with blocks := [absentB] }
def absentCx : Ctx := { tcx with block := absentB }

theorem meets_ScratchpadAccessesComplete :
    (∀ t ∈ tcx.exec cx0, (effAddr tcx.group t false (.v 5) none 0 0xFFF8).toNat = 0xFFF8) ∧ 0xFFF8 % 8 = 0 ∧
    0xFFF8 + 8 ≤ tcx.launch.lr.scratchBytes ∧
    Clear { common := cx0, writes := [nm (.v 254) true], reads := addrNames (.v 5) false none, ordered := true } tst tcx ∧
    (∀ t ∈ tcx.exec cx0, parked tst tcx .n64 t.lane 0xFFF8 = false ∧ tcx.block.poisonedRange 0xFFF8 8 = false ∧
      tst.remoteWait t = false ∧ tcx.block.lineAbsent (0xFFF8 / 128) = false ∧
      stspAhead tst.inflight tcx.run.ref t.lane 0xFFF8 8 = false ∧ ldspAhead tst.inflight tcx.run.ref t.lane 0xFFF8 8 = false) ∧
    Clear { common := cx0, reads := nm (.v 254) true :: addrNames (.v 5) false none, ordered := true } tst tcx ∧
    Clear { common := cx0, reads := nm (.v 254) true :: addrNames (.v 5) false none, ordered := true } absentSt absentCx ∧
    absentB.lineAbsent (0xFFF8 / 128) = true ∧
    (∃ s', absentSt.launched absentCx cx0 { wait := .stsp 8 [511] [(0, 0xFFF8, 0)] } = some s') :=
  ⟨by decide +kernel, by decide, by decide, clear_of rfl rfl, by decide +kernel, clear_of rfl rfl, clear_of rfl rfl, by decide +kernel,
    ⟨_, rfl⟩⟩

theorem meets_FencesAndPrefetchesComplete :
    Clear { common := c0, ordered := true, afterLog := true } tst tcx ∧ (∀ t ∈ tcx.exec c0, tst.remoteWait t = false) ∧
    Clear { common := c0, reads := addrNames (.v 254) true (some (.v 255)), ordered := true, afterLog := true, noPoison := true } tst tcx ∧
    Clear { common := c0, reads := addrNames (.s 190) true none, ordered := true, afterLog := true, noPoison := true } tst tcx :=
  ⟨clear_of rfl rfl, by decide +kernel, clear_of rfl rfl, clear_of rfl rfl⟩
/-- Descriptors in uniform registers, two format slots, a team of two devices joined by a plan's port, the pair reserved. -/
def engG : Group :=
  { Group.fresh placedRef 0 0 with
    sregs := [(8, 0x500000), (10, 0x100), (12, 64), (14, 0x700000), (16, 0x700100), (22, 1), (25, 32), (26, 16), (31, 512),
      (40, 0x500000), (43, 0x1FF0100), (44, 4), (48, 0x500000), (50, 0x600000), (52, 1), (56, 9), (60, 0xFFFFFFFF), (62, 5), (65, 96), (66, 48)] }
def engLr : LaunchRec := { placedRec with slots := [0x11, 0x10000011], team := some ⟨[0, 1], 1, 0, 0x1000⟩ }
def engL : Launch := { placedLaunch with lr := engLr }
def planP : BitVec 1024 := 0x8001000000000000000000000000000000000000000000000000000000000000000000000000000000000000000000000000000000000000000000000000000000000003
def engSt : State :=
  { tst with
    launches := [engL], groups := [engG], pairs := [⟨0, some (0, 0), none, [], [], [], []⟩]
    fabReg := 0x10080, plans := [(0, planP)], plan := some 0 }
def engCx : Ctx := { tcx with launch := engL, group := engG }

theorem issuable_of {n : CmdNeed} {own : Option Trap} {full : Bool} {s : State} {cx : Ctx} {h : BitVec 64} {b : Block}
    (hc : s.ctx? = some cx) (hb : clearB n.need s cx = true)
    (hp : (cx.exec n.common).all (fun t => (n.pre cx t).isNone && !s.remoteWait t) = true) (ho : own = none) (hf : full = false)
    (he : cx.block.allocFuture n.cls ((inRegions (cx.exec n.common)).map (fun x => (cx.run.ref.gid, x.1))) = some (h, b)) :
    Issuable n own full s cx h b := by
  have hp := List.all_eq_true.mp hp
  simp only [Bool.and_eq_true, Option.isNone_iff_eq_none, Bool.not_eq_true'] at hp
  exact ⟨clear_of hc hb, fun t ht => (hp t ht).1, ho, hf, fun t ht => (hp t ht).2, he⟩

def copyNeed (x : Option Opnd) : CmdNeed := { common := c0, d := .h 15, reads := (.s 8, 5) :: nmOpt x true, roles := [1, 0], cls := .copy }
def jobNeed : CmdNeed := { common := c0, d := .h 0, reads := [nm (.s 16) true], roles := [1, 0], cls := .copy }
def engSite : EngSite := ⟨0, 0, 0, 1⟩

/-- A copy with a barrier that has not read its tag; a job that has not read its card. -/
def tagCmd (obj : BitVec 64) : Cmd :=
  { id := 0, ref := placedRef, core := 0, kind := .copy 0 .g2sp (some (obj, 0)), fn := 0, desc := [0x500000, 0, 0x100, 0, 64]
    handle := 0x400, lanes := 3, inside := false, inRegion := [], chunks := [], faulted := [], resume := 0, cancel := false, early := true
    flying := [], failed := false, lines := [2], txns := [], signalled := false, gen := 0 }
def cardCmd (card : BitVec 64) : Cmd := { tagCmd 0 with kind := .dcmp false card, lines := [] }
/-- An address mapped to the empty range of physical addresses, and one that nothing maps. -/
def holeAddr : Nat := 0x80000000
def earlySt (c : Cmd) : State := { engSt with cmds := [c], tlb := [placedTlb, { placedTlb with va := 0x80000000, pa := 2 ^ 46 }] }
def bareAddr : Nat := 0x40000000
def tagIs : Eng (BitVec 64 × Bool) → Nat
  | .ok (_, false) => 1
  | .bad => 2
  | .fault .notPresent _ => 3
  | _ => 0
def cardIs : Eng (List Byte × Bool) → Nat
  | .ok (_, false) => 1
  | .bad => 2
  | .fault .notPresent _ => 3
  | _ => 0

theorem meets_CopyEngineCommandsEnter :
    (∃ h b, Issuable (copyNeed none) (acopyTrap engSt engCx (engCx.exec c0) (CopyDesc.of 0 (descOf engG (.s 8) 5)) .g2sp none)
      (engSt.queueFull 0 0) engSt engCx h b ∧
      ∀ e, e = (((engSt.readied (copyNeed none) engCx b).clearLines 0 0 [2]).addCmd engCx (engCx.exec c0) (.copy 0 .g2sp none)
        (descOf engG (.s 8) 5) h [2] false) → engSt.hostBarred (e.2.beginCmd e.1) = false) ∧
    (∃ h b, Issuable (copyNeed (some (.s 14))) (acopyTrap engSt engCx (engCx.exec c0) (CopyDesc.of 0 (descOf engG (.s 8) 5)) .g2sp
        (some (pairWord (descOf engG (.s 14) 2) 0))) (engSt.queueFull 0 0) engSt engCx h b) ∧
    (pairWord (descOf engG (.s 16) 2) 0 = 0x700100 ∧ rangeBad engLr false 0x700100 64 = false ∧
      ∃ h b, Issuable jobNeed none (engSt.queueFull 0 1) engSt engCx h b ∧
        ∀ e, e = ((engSt.readied jobNeed engCx b).addCmd engCx (engCx.exec c0) (.dcmp false 0x700100) [] h [] true) →
          engSt.hostBarred (e.2.beginCmd e.1) = false) ∧
    (∀ c ∈ [tagCmd 0x700000, cardCmd 0x700100], (earlySt c).cmd? c.id = some c ∧ (earlySt c).launch? c.ref.launch = some engL ∧
      c.early = true ∧ c.failed = false ∧ c.faulted = []) ∧
    ([0x700000, holeAddr, bareAddr] : List Nat).map (fun a => tagIs ((earlySt (tagCmd (BitVec.ofNat 64 a))).readTag engSite a).2) = [1, 2, 3] ∧
    ([0x700100, holeAddr, bareAddr] : List Nat).map (fun a => cardIs ((earlySt (cardCmd (BitVec.ofNat 64 a))).openCard engSite false a).2) = [1, 2, 3] :=
  ⟨⟨_, _, issuable_of rfl rfl rfl rfl rfl rfl, fun e h => by subst h; decide +kernel⟩, ⟨_, _, issuable_of rfl rfl rfl rfl rfl rfl⟩,
    ⟨rfl, rfl, _, _, issuable_of rfl rfl rfl rfl rfl rfl, fun e h => by subst h; decide +kernel⟩, by decide +kernel, by decide +kernel,
    by decide +kernel⟩

theorem meets_HandlesAreWaitedTestedCancelled :
    Clear { common := c0, writes := [nm (.v 255) false], reads := [nm (.h 15) false], recallFirst := true } tst tcx ∧
    Clear { common := c0, writes := [nm (.p 15) false], reads := [nm (.h 0) false], recallFirst := true } tst tcx ∧
    Clear { common := c0, reads := [nm (.h 15) false], recallFirst := true } tst tcx ∧
    (∃ s', tst.launched tcx cx0 { dst := some (.p 15, false), wait := .handle [(0, 0)], fences := true, acq := some .sys } = some s') ∧
    (∃ t rest, tcx.exec c0 = t :: rest) ∧
    ∃ s', tst.launched tcx cx0 { wait := .count .copy 255, fences := true, acq := some .sys } = some s' :=
  ⟨clear_of rfl rfl, clear_of rfl rfl, clear_of rfl rfl, ⟨_, rfl⟩, ⟨_, _, rfl⟩, ⟨_, rfl⟩⟩

/-- A full queue of one slot, and an empty one; a destination per thread and per group. -/
def fullSt : State :=
  { tst with blocks := [(Block.fresh placedLaunch 0 0 0).modQueue 0 (fun q => { q with head := 0, headPh := !q.headPh })] }

theorem meets_QueueInstructionsServeInOrder :
    (let need (w rd : List Names) (e : Bool) : Need := { common := c0, writes := w, reads := rd, recallFirst := true, ordered := true,
                                                         afterLog := true, ends := e }
    0 < tcx.block.queues.length ∧ Clear (need [] [nm (.imm 0) false, nm (.v 254) true] false) tst tcx ∧
    (∃ id s1, (tst.releaseAt tcx.site false).fly tcx c0 3 { wait := .push 0 [(0, 1), (1, 2)], fences := true, ends := true } = some (id, s1)) ∧
    Clear (need [nm (.s 190) true] [nm (.imm 0) false] false) tst tcx ∧
    (∃ id s1, tst.fly tcx c0 3 { dst := some (.s 190, true), wait := .pop 0, fences := true, acq := some .blk, ends := true } = some (id, s1)) ∧
    Clear (need [nm (.p 15) false] [nm (.s 191) false, nm (.s 188) true] true) tst tcx ∧
    Clear (need [nm (.p 0) false, nm (.v 254) true] [nm (.imm 0) false] true) tst tcx ∧ 
    (∀ t ∈ tcx.exec c0, tst.remoteWait t = false) ∧ (Opnd.v 254).isUni = false ∧ (Opnd.s 190).isUni = true ∧
    Clear (need [nm (.p 0) false, nm (.s 190) true] [nm (.imm 0) false] true) tst tcx ∧
    (∃ s1, tst.tryPops tcx 0 [0] = (s1, [], none)) ∧ ∃ s1 l, (tst.releaseAt tcx.site false).tryPushes tcx 0 [(0, 9)] = (s1, l)) ∧
    ∃ s0 l s1 x, tst.tryPushes tcx 0 [(0, 9)] = (s0, l) ∧ s0.tryPops tcx 0 [0] = (s1, [(0, x)], none) :=
  ⟨⟨by decide +kernel, clear_of rfl rfl, ⟨_, _, rfl⟩, clear_of rfl rfl, ⟨_, _, rfl⟩, clear_of rfl rfl, clear_of rfl rfl,
    by decide +kernel, rfl, rfl, clear_of rfl rfl, ⟨_, rfl⟩, ⟨_, _, rfl⟩⟩, ⟨_, _, _, _, rfl, rfl⟩⟩

/-- The pair held by the block, free, and held by another. -/
def pairSt (h : Option (Nat × Nat)) : State := { tst with pairs := [⟨0, h, none, [], [], [], []⟩] }

theorem meets_MatrixReservationAndCommit :
    (let need (w : List Names) (r : Option (List Nat)) : Need := { common := c0, writes := w, roles := r, recallFirst := true,
                                                                   ordered := true, afterLog := true }
    (∀ h, (pairSt h).ctx? = some tcx) ∧ Clear (need [nm (.p 14) false] (some [2, 0])) (pairSt none) tcx ∧
    Clear (need [nm (.p 15) false] (some [2, 0])) (pairSt (some (0, 0))) tcx ∧ Clear (need [] (some [2, 0])) (pairSt (some (0, 1))) tcx ∧
    Clear (need [nm (.a 0) false] (some [2, 0])) (pairSt (some (0, 0))) tcx ∧ (pairSt (some (0, 0))).holdsPair tcx = true ∧
    pairFull (pairSt (some (0, 0))) tcx = false ∧ (∀ t ∈ tcx.exec c0, (pairSt (some (0, 0))).remoteWait t = false) ∧
    Clear (need [] none) (pairSt (some (0, 0))) tcx ∧ Clear (need [] none) (pairSt none) tcx ∧ (pairSt none).holdsPair tcx = false) ∧
    (∃ s', (pairSt none).launched tcx c0 { dst := some (.p 14, false), vals := [(0, 1)] } = some s') ∧
    (∃ s', (pairSt none).launched tcx c0 { wait := .drain, fences := true } = some s') ∧
    (∃ id s1, (pairSt (some (0, 0))).fly tcx c0 3 { wait := .commit, fences := true, ends := true } = some (id, s1)) ∧
    ∃ id s1, (pairSt none).fly tcx c0 3 { vals := [(0, 0), (1, 0)], fences := true, ends := true } = some (id, s1) :=
  ⟨⟨fun _ => rfl, clear_of rfl rfl, clear_of rfl rfl, clear_of rfl rfl, clear_of rfl rfl, rfl, rfl, by decide +kernel, clear_of rfl rfl,
    clear_of rfl rfl, rfl⟩, ⟨_, rfl⟩, ⟨_, rfl⟩, ⟨_, _, rfl⟩, ⟨_, _, rfl⟩⟩

theorem meets_MatrixCommandsEnterTheirQueue :
    (let base (reads : List Names) (bad : Bool) (pre : Ctx → Thread → Option Trap) : CmdNeed := {
        common := c0, d := .h 3, reads := reads, roles := [2, 0], cls := .matrix, formBad := bad
        wide := fun cx => engSt.wider .blk cx.block cx.run.ref, pre := pre }
    let sl := engLr.slot 0
    let sp := engLr.slot 1
    (∃ h k, Issuable (base [(.s 20, 3)] (sl.afmt == .none || sl.bfmt == .none) (reservedTrap engSt)) (mldwTrap engCx sl (descOf engG (.s 20) 3))
      (pairFull engSt engCx) engSt engCx h k ∧
      engSt.hostBarred ((engSt.readied (base [(.s 20, 3)] false (reservedTrap engSt)) engCx k).enqueueMatrix engCx (engCx.exec c0) (.mldw 0)
        (descOf engG (.s 20) 3) h []) = false) ∧
    (∃ h k, Issuable (base [(.s 24, 5), (.a 0, 1)] (sl.afmt == .none || (sl.sparse != 0) != false) (tileTrap engSt (.a 0)))
      (mmaTrap engCx sl false (descOf engG (.s 24) 5)) (pairFull engSt engCx) engSt engCx h k) ∧
    (∃ h k, Issuable (base [(.s 64, 5), (.a 0, 1)] (sp.afmt == .none || (sp.sparse != 0) != true) (tileTrap engSt (.a 0)))
      (mmaTrap engCx sp true (descOf engG (.s 64) 5)) (pairFull engSt engCx) engSt engCx h k) ∧
    (∃ h k, Issuable (base [(.s 30, 4), (.a 0, 1)] false (reservedTrap engSt)) (mstTrap engCx .bf16 false false (descOf engG (.s 30) 4))
      (pairFull engSt engCx) engSt engCx h k)) :=
  ⟨⟨_, _, issuable_of rfl rfl rfl rfl rfl rfl, by decide +kernel⟩, ⟨_, _, issuable_of rfl rfl rfl rfl rfl rfl⟩,
    ⟨_, _, issuable_of rfl rfl rfl rfl rfl rfl⟩, ⟨_, _, issuable_of rfl rfl rfl rfl rfl rfl⟩⟩

/-- An expected count of the whole block, and of two threads, whose arrival completes the phase. -/
theorem meets_BarriersHoldOrPassTheirThreads :
    (let need (rd : List Names) (e : Bool) : Need := { common := cb0, reads := rd, recallFirst := true, ordered := true, afterLog := true,
                                                       ends := e }
    Clear (need (nm (.imm 0) false :: nmOpt (some (.imm 2)) false) false) tst tcx ∧ Clear (need (nm (.s 191) false :: nmOpt none false) true) tst tcx ∧
    (∀ t ∈ tcx.exec cb0, tst.remoteWait t = false ∧ expected tcx none 0 t ≤ tcx.launch.lr.bsize ∧
      expected tcx (some (.imm 2)) 0 t ≤ tcx.launch.lr.bsize) ∧
    (0 < tcx.block.bars.length) ∧
    (∃ s1 ps, (tst.releaseAt tcx.site false).arriveEach placedRef 0 (expected tcx (some (.imm 2)) 0) (tcx.exec cb0) = (s1, ps)) ∧
    Clear (need [nm (.imm 0) false] false) tst tcx ∧ Clear (need [] false) tst tcx ∧
    Clear { need [] false with hold := fun cx _ => WExt.sys == .sys && fabHold engSt cx } engSt engCx ∧ fabTrap engSt engCx = none ∧
    engCx.launch.lr.team ≠ none) :=
  ⟨clear_of rfl rfl, clear_of rfl rfl, by decide +kernel, by decide +kernel, ⟨_, _, rfl⟩, clear_of rfl rfl, clear_of rfl rfl, clear_of rfl rfl,
    rfl, by decide⟩

def fabCmd (reads : List Names) (cls : EngClass) : CmdNeed := {
  common := cb0, d := .h 0, reads := reads, roles := [1, 0], cls := cls, ends := true
  pre := fun cx _ => fabTrap engSt cx, hold := fun cx _ => fabHold engSt cx }

theorem meets_FabricCommandsEnter :
    (∃ h b, Issuable (fabCmd [(.s 40, 8)] .fabric) (fabDescTrap engSt engCx (FabDesc.of (descOf engG (.s 40) 8)))
      (engSt.queueFull 0 2 || engSt.runBusyAt engCx (fabRanges (FabDesc.of (descOf engG (.s 40) 8)))) engSt engCx h b ∧
      ∀ e, e = (((engSt.readied (fabCmd [(.s 40, 8)] .fabric) engCx b).clearLines 0 0 []).addCmd engCx (engCx.exec cb0) .put
        (descOf engG (.s 40) 8) h []) → engSt.hostBarred (e.2.pumpFab e.1) = false) ∧
    (∃ h b, Issuable (fabCmd [nm (.s 42) true, (.s 56, 5)] .fabric) none
      (engSt.queueFull 0 2 || engSt.runBusyAt engCx [(pairWord (descOf engG (.s 42) 2) 0 % 2 ^ 57, 8)]) engSt engCx h b) ∧
    (pairWord (descOf engG (.s 42) 2) 0 % 2 ^ 57 % 8 = 0 ∧ (engSt.inWindow (pairWord (descOf engG (.s 42) 2) 0 % 2 ^ 57) 8).isSome = true ∧
      word (descOf engG (.s 56) 5) 4 = 0xFFFFFFFF ∧ ∃ p off, aperture (pairWord (descOf engG (.s 42) 2) 0 % 2 ^ 57) = some (p, off)) ∧
    (∃ h b, Issuable (fabCmd [(.s 48, 6)] .coll) (collTrap engSt engCx .f32 .allreduce (CollDesc.of (descOf engG (.s 48) 6)))
        (engSt.queueFull 0 3) engSt engCx h b ∧
      (engSt.readied (fabCmd [(.s 48, 6)] .coll) engCx b).launch? 0 = some engL) ∧
    (∃ h b, Issuable { common := cb0, d := .h 0, reads := [nm (.imm 63) false, nm (.s 62) false], roles := [0], cls := .fabric, ends := true }
      none (engSt.queueFull 0 2) engSt engCx h b) ∧
    ((∃ t rest, engCx.threads = t :: rest ∧ (loWord (readOp engG t 0 .sint false (.imm 63))).toNat ≤ 63 ∧
      loWord (readOp engG t 0 .sint false (.s 62)) ≠ 0) ∧ engSt.ownv = true ∧ engCx.launch.pasid = engSt.owner) ∧
    (∃ t rest, tcx.exec c0 = t :: rest) ∧ Clear { common := c0, reads := [nm (.s 191) false], recallFirst := true } tst tcx :=
  ⟨⟨_, _, issuable_of rfl rfl rfl (by decide +kernel) rfl rfl, fun e h => by subst h; decide +kernel⟩, ⟨_, _, issuable_of rfl rfl rfl rfl rfl rfl⟩,
    ⟨by decide +kernel, by decide +kernel, by decide +kernel, 1, 0, by decide +kernel⟩, ⟨_, _, issuable_of rfl rfl rfl (by decide +kernel) rfl rfl, rfl⟩,
    ⟨_, _, issuable_of rfl rfl rfl rfl rfl rfl⟩, ⟨⟨_, _, rfl, by decide +kernel, by decide +kernel⟩, rfl, rfl⟩, ⟨_, _, rfl⟩, clear_of rfl rfl⟩

/-- The pending-launch store with room and full. -/
def storeSt : State := { tst with children := List.replicate 4096 ⟨0, 0, 0, [], 0, 0, true⟩ }
theorem meets_DeviceLaunchStoresItsRecord :
    (let need : Need := {
        common := cx0, writes := [nm (.v 255) false, nm (.p 15) false], reads := [nm (.s 16) true], recallFirst := true,
        ordered := true, afterLog := true, ends := true }
    Clear need engSt engCx ∧ Clear need storeSt tcx) ∧ pairWord (descOf engG (.s 16) 2) 0 % 64 = 0 ∧
    recordOutside engSt 0 1 0x700100 8 = false ∧ (∀ t ∈ engCx.exec cx0, engSt.remoteWait t = false) ∧
    (∃ id s', (storeSt.releaseAt tcx.site true).fly tcx cx0 3
        { dst := some (.v 255, false), dst2 := some (.p 15), vals := [(0, 1), (1, 1)],
          val2 := [(0, false), (1, false)] } = some (id, s')) ∧
    (storeSt.releaseAt tcx.site true).children.length = 4096 ∧ (engSt.releaseAt engCx.site true).children.length < 4096 ∧
    (∃ s1 bs, (engSt.releaseAt engCx.site true).readPieces engSite 0x700100 8 = (s1, .ok (bs, false))) ∧
    ∃ id s', engSt.fly engCx cx0 3
        { dst := some (.v 255, false), dst2 := some (.p 15), vals := [(0, 0), (1, 0)],
          val2 := [(0, true), (1, true)] } = some (id, s') :=
  ⟨⟨clear_of rfl rfl, clear_of rfl rfl⟩, by decide +kernel, by decide +kernel, by decide +kernel, ⟨_, _, rfl⟩, by decide +kernel, by decide +kernel,
    ⟨_, _, rfl⟩, ⟨_, _, rfl⟩⟩
/-- No run on the pipe: the placed group is a candidate. -/
def freeSt : State := { tst with runs := [] }

theorem meets_IssueSlotsPickTheirRuns : tst.pipeFree false 0 0 = false ∧ freeSt.pipeFree false 0 0 = true ∧
    (freeSt.candidates 0 0).length = 1 := by decide +kernel

/-- An ejected thread whose pip core issues nothing. -/
def outSt : State :=
  { pipSt with
    runs := []
    threads := pipSt.threads.map (fun t => if t.lane == 0 then { t with cond := .ejected } else t) }

/-- The same with the other thread at the REJOIN behind the ejection's record, its group's soft count begun at 0. -/
def awaitSt (clock : BitVec 64) : State :=
  { outSt with
    clock := clock
    groups := [{ Group.fresh placedRef 0 0 with softStart := some 0 }]
    threads := outSt.threads.map (fun t => if t.lane == 1 then { t with cond := .held (.rejoin 0) } else t) }

theorem meets_IssueSlotsPickTheirRuns_pip :
    pipSt.pipBusy 0 0 = true ∧ outSt.pipBusy 0 0 = false ∧ ((outSt.pipThreads 0 0).filter outSt.pipReady).length = 1 ∧
    (∃ g, (awaitSt 2048).group? placedRef = some g ∧ (awaitSt 2048).softDue g = true ∧ (awaitSt 2047).softDue g = false) ∧
    (∃ t, ({ outSt with clock := 65536 } : State).thread? placedRef 0 = some t ∧ ({ outSt with clock := 65536 } : State).hardDue t = true ∧
      ({ outSt with clock := 65535 } : State).hardDue t = false) :=
  ⟨by decide +kernel, by decide +kernel, by decide +kernel, ⟨_, rfl, by decide +kernel, by decide +kernel⟩,
    ⟨_, rfl, by decide +kernel, by decide +kernel⟩⟩

/-- What a step leaves, or the state before it. -/
def after (i : Instr) (s : State) : State := match exec i s with
  | .next t => t
  | _ => s

def flySt : State := after (.rdsr c0 (.v 8) .clock) tst
def flushSt (f : Flush) : State := { tst with launches := [{ placedLaunch with flush := some f }] }
def resolvingSt : State := { tst with mem := (tst.mem.set 0x310000 24).set 0x310007 0x40 }

theorem pair_of {α β : Type} {p : α × β} {b : β} (h : p.2 = b) : ∃ a, p = (a, b) := ⟨p.1, by rw [← h]⟩

theorem binding_reads (acc : Access) (h : acc = .write ∨ acc = .read) :
    (resolvingSt.translate 0 1 (bindAddr placedRec 0) acc true).2 = .ok 0x310000 true true := by
  rcases h with rfl | rfl <;> decide +kernel

theorem meets_LongLatencyWorkCompletes :
    (∃ i, flySt.inflight.find? (·.id == 0) = some i) ∧
    (∃ l f, (flushSt ⟨[], none, none⟩).launch? 0 = some l ∧ l.flush = some f ∧ f.left = [] ∧ f.fault = none) ∧
    (∃ l f x, (flushSt ⟨[], none, some (0, .notPresent)⟩).launch? 0 = some l ∧ l.flush = some f ∧ f.fault = some x) ∧
    resolvingSt.launch? 0 = some placedLaunch ∧ 0 < placedRec.bindcount.toNat ∧ clusterOf (resolvingSt.launchCore 0) = 0 ∧
    (∃ s1, resolvingSt.translate 0 1 (bindAddr placedRec 0) .write true = (s1, .ok 0x310000 true true)) ∧
    Binding.ofNat (((resolvingSt.translate 0 1 (bindAddr placedRec 0) .write true).1.recallWords (lineOf 0x310000)
      (wordMask 0x310000 8)).mem.le 0x310000 8) = .resolving ∧
    ∃ s2, resolvingSt.translate 0 1 (bindAddr placedRec 0) .read true = (s2, .ok 0x310000 true true) :=
  ⟨Option.isSome_iff_exists.mp (by decide +kernel), ⟨_, _, rfl, rfl, rfl, rfl⟩, ⟨_, _, _, rfl, rfl, rfl⟩, rfl, by decide, by decide +kernel,
    pair_of (binding_reads .write (.inl rfl)), by decide +kernel, pair_of (binding_reads .read (.inr rfl))⟩

def faultE : LogEntry := ⟨7, 0, 1, .notPresent, 0x500000, .fetch placedRef 3, 0x10000C, none⟩
def faultSt : State := { tst with oplog := [faultE] }

/-- PASID 1 with a leaf of 1 GiB at address 0 (R65-R67). -/
def walkSt : State :=
  { tst with
    tlb := [], ptReg := 0x808002
    mem := [(0x808020, leBytes 0x820001 8), (0x820000, leBytes 0x821001 8), (0x821000, leBytes 0x822001 8), (0x822000, leBytes 0x11D 8)].foldl
      (fun m x => m.setBytes x.1 x.2) tst.mem }
def xlatIs : Xlat → Nat
  | .ok _ _ _ => 1
  | .fault _ => 2
  | .bad => 3
theorem xlat_fault {x : Xlat} (h : xlatIs x = 2) : ∃ k, x = .fault k := by
  cases x <;> simp [xlatIs] at h
  exact ⟨_, rfl⟩
theorem xlat_goes {x : Xlat} (h : xlatIs x = 1) : ∀ k, x ≠ .fault k := by
  rintro k rfl
  simp [xlatIs] at h

theorem meets_AddressSpaceEventsComplete :
    (23 < Config.clusters .gm2A ∧ State.reset.gated.contains 23 = false ∧ ∀ b ∈ State.reset.blocks, clusterOf b.core ≠ 23) ∧
    (∃ m, ({ State.reset with maint := [⟨.shootdown 1 5 0 1 true, [0]⟩] } : State).maint.find? (fun m => !m.acked.contains 23) = some m) ∧
    nextMaint 23 [] [⟨.shootdown 1 5 0 1 true, [0]⟩] = some ⟨.shootdown 1 5 0 1 true, [0]⟩ ∧
    ((∃ k, (walkSt.walkFor 0 1 bareAddr .read true).2 = .fault k) ∧ walkSt.hostBarred (walkSt.walkFor 0 1 bareAddr .read true).1 = false) ∧
    (∀ k, (walkSt.walkFor 0 1 0x500000 .read true).2 ≠ .fault k) ∧
    State.reset.serve false false = .served ∧ faultSt.ready = true ∧ (∃ e, faultSt.oplog.find? (·.id == 7) = some e) ∧
    (let s1 := ((faultSt.sameRequest faultE).flatMap LogEntry.away).foldl (fun (s : State) va => s.follow faultE.pasid va) faultSt;
      faultSt.hostBarred ((faultSt.sameRequest faultE).foldl (fun (s : State) e => if s.oplog.any (·.id == e.id)
        then (s.dropEntries [e]).retry e else s) s1) = false) :=
  ⟨⟨by decide, by decide +kernel, by decide +kernel⟩, ⟨_, rfl⟩, by decide +kernel, ⟨xlat_fault (by decide +kernel), by decide +kernel⟩, xlat_goes (by decide +kernel), by decide +kernel,
    by decide +kernel, ⟨_, rfl⟩, by decide +kernel⟩

/-- A copy of 64 bytes into the scratchpad in its queue, its one chunk moved, and a decompression job in its queue. -/
def copyC : Cmd := { tagCmd 0 with kind := .copy 0 .g2sp none, early := false }
def jobC : Cmd := { copyC with kind := .dcmp false 0x700100, desc := List.replicate 16 0, lines := [] }
def copySt : State := { engSt with cmds := [copyC] }
def movedSt : State := { engSt with cmds := [{ copyC with chunks := [0] }] }
def jobSt : State := { engSt with cmds := [jobC] }
def failedC : Cmd := { copyC with failed := true }
def failedSt : State := { engSt with cmds := [failedC] }

theorem meets_CopiesMoveAndComplete :
    (copySt.cmd? 0 = some copyC ∧ copySt.cmdSite copyC = some engSite ∧ 0 < (CopyDesc.of 0 copyC.desc).chunks ∧
      Machine.inWindow copyC.resume copyC.chunks 0 = true ∧ copyC.early = false ∧ copyC.failed = false ∧ copyC.cancel = false ∧
      copySt.quiesced copyC = false ∧
      (copySt.copyWordsOf engSite (CopyDesc.of 0 copyC.desc) .g2sp [] (chunkWords (CopyDesc.of 0 copyC.desc).total 0)).2 = .ok () ∧
      copySt.hostBarred (copySt.copyWordsOf engSite (CopyDesc.of 0 copyC.desc) .g2sp [] (chunkWords 64 0)).1 = false) ∧
    (movedSt.cmd? 0 = some { copyC with chunks := [0] } ∧ movedSt.arrivalLogged 0 = false ∧ ({ copyC with chunks := [0] } : Cmd).moved 0 = true ∧
      movedSt.hostBarred (movedSt.completeCopy { copyC with chunks := [0] } none true) = false) ∧
    (failedSt.cmd? 0 = some failedC ∧ failedSt.arrivalLogged 0 = false ∧
      failedSt.hostBarred (failedSt.completeCopy failedC none false) = false) ∧
    (jobSt.cmd? 0 = some jobC ∧ jobSt.cmdSite jobC = some engSite ∧ jobSt.launch? 0 = some engL ∧ jobSt.quiesced jobC = false ∧
      jobC.failed = false ∧ jobC.early = false ∧ jobC.faulted = [] ∧
      (jobSt.doJob engSite false 0x700100 engLr jobC.card jobC.cancel).2 = .ok (some stDone) ∧
      jobSt.hostBarred ((jobSt.doJob engSite false 0x700100 engLr jobC.card jobC.cancel).1.finishCmd 0 stDone) = false) :=
  ⟨⟨rfl, rfl, by decide +kernel, by decide +kernel, rfl, rfl, rfl, by decide +kernel, by decide +kernel, by decide +kernel⟩,
    ⟨rfl, by decide +kernel, by decide +kernel, by decide +kernel⟩, ⟨rfl, by decide +kernel, by decide +kernel⟩,
    ⟨rfl, rfl, rfl, by decide +kernel, rfl, rfl, rfl, by decide +kernel, by decide +kernel⟩⟩

/-- A pair whose queue's head is a commit, an MZERO that may start, or one that has. -/
def zeroCmd (started : Bool) : MatrixCmd := ⟨placedRef, .mzero 0, [], 0, 3, [], [], started⟩
def headSt (m : MatrixCmd) : State := { tst with pairs := [⟨0, some (0, 0), none, [m], [], [], []⟩] }

theorem meets_MatrixCommandsStartAndComplete :
    (∀ m, ∃ p, (headSt m).pair? 0 = some p ∧ p.queue = [m]) ∧
    (∀ m, ∃ l b, (headSt m).launch? 0 = some l ∧ (headSt m).block? 0 0 = some b ∧
      (headSt m).meetAll 1 .uncorrectable ((zeroCmd true).readsAt l.lr ⟨0, some (0, 0), none, [m], [], [], []⟩) = headSt m ∧
      (zeroCmd false).ready l.lr b = true ∧ (zeroCmd true).poisoned l.lr b ⟨0, some (0, 0), none, [zeroCmd true], [], [], []⟩ = false) ∧
    (zeroCmd false).op.writes = some 0 ∧ (∀ op, (zeroCmd false).op ≠ .mcommit op) ∧
    (MatrixOp.mst .bf16 false false .rne 0).writes = none ∧ (MatrixOp.mldw 0).writes = none :=
  ⟨fun _ => ⟨_, rfl, rfl⟩, fun _ => ⟨_, _, rfl, rfl, rfl, by decide +kernel, by decide +kernel⟩, rfl, (fun _ h => nomatch h), rfl, rfl⟩

/-- A codeword of memory and one of a slice; 114 and 115 degrees; a watchdog at zero. -/
def sliceSt : State := { tst with slices := [⟨0x500000, none, 0, 0, true⟩] }
def lateSt : State := { tst with launches := [{ placedLaunch with wdleft := 0 }] }
/-- The same with an error in each of the codewords, one that can be corrected and one that cannot. -/
def hurtSt : State := { sliceSt with damage := [⟨.half 0x500040, true⟩, ⟨.slice 0x500040, false⟩] }

theorem meets_DeviceWideEventsComplete :
    sliceSt.codeword (.half 0x500047) = some (.half 0x500040) ∧ sliceSt.codeword (.slice 0x500047) = some (.slice 0x500040) ∧
    sliceSt.codeword (.slice 0x600000) = none ∧ sliceSt.damage.find? (·.place == .half 0x500040) = none ∧
    (∃ d, hurtSt.damage.find? (·.place == .half 0x500040) = some d ∧ d.fixable = true) ∧
    (∃ d, hurtSt.damage.find? (·.place == .slice 0x500040) = some d ∧ d.fixable = false) ∧
    tst.fuseMin.toNat ≤ (0 : BitVec 32).toNat :=
  ⟨by decide +kernel, by decide +kernel, by decide +kernel, by decide +kernel, ⟨_, rfl, rfl⟩, ⟨_, rfl, rfl⟩, by decide +kernel⟩

theorem meets_DeviceWideEventsComplete_power :
    (114#8).toNat < 115 ∧ 115 ≤ (115#8).toNat ∧ (∃ l, lateSt.launch? 0 = some l ∧ l.wdleft = 0 ∧ l.done = false) ∧
    (∃ l, tst.launch? 0 = some l ∧ l.wdleft ≠ 0) ∧ tst.ctx? = some tcx ∧
    unassigned (((0xFF#8 ++ 0#88) : BitVec 96) >>> 88).toNat = true ∧
    decodeRaw (Raw.ofWord 0x084078028030000000000000) = .error .illegalOp :=
  ⟨by decide, by decide, ⟨_, rfl, rfl, by decide +kernel⟩, ⟨_, rfl, by decide +kernel⟩, rfl, by decide, by decide⟩

/-- 06, "A stream worked through": the nine bytes give nineteen, produced = 19 and DONE; cut to eight they give nine and TRUNCATED. -/
def streamSt : State := { engSt with mem := engSt.mem.setBytes 0x701000 [0x02, 0x61, 0x62, 0x63, 0xB0, 0x02, 0xF0, 0x00, 0x00] }
def streamEnd (n : Nat) : List Byte × List Byte :=
  let s := (streamSt.doJob engSite false 0x700100 engLr ⟨false, false, false, 64, 0x702000, n, 0x701000⟩ false).1
  (s.mem.bytes 0x702000 20, s.mem.bytes (0x700100 + 28) 8)

theorem test_stream :
    streamEnd 9 = ([0x61, 0x62, 0x63, 0x61, 0x62, 0x63, 0x61, 0x62, 0x63] ++ List.replicate 10 0x63 ++ [0], [19, 0, 0, 0, 1, 0, 0, 0]) ∧
    (streamEnd 8).2 = [9, 0, 0, 0, 2, 0, 0, 0] := by decide +kernel
/-- PASID 1 with a tracked address space, a queue of sixteen entries whose control block and ring lie in memory, and at 0x809000 a
launch record of one block of one group (R317): every byte that is not zero. -/
def hostBytes : List (Nat × List Byte) :=
  [(0x800010, leBytes (0x804000 + 1) 8), (0x804000, leBytes (0x806000 + 5) 8), (0x806000, leBytes 0x807000 8), (0x806008, [4]),
    (0x806018, [1]), (0x808020, [5]), (0x80803A, [0x20]), (0x80A011, [64]), (0x809000, leBytes 0x100000 8), (0x809008, [36]),
    (0x80900C, [2]), (0x809040, leBytes 0xFFFFFFFF 4), (0x809044, [1]), (0x809048, [0x10]), (0x80904C, [1]), (0x809054, [1, 0, 1, 1]),
    (0x809066, [1, 1]), (0x809076, [1, 1]), (0x809086, [1, 1]), (0x809091, [4]), (0x8090B8, [64]), (0x8090BC, [65]), (0x8090D1, [2])]
def hostSt : State :=
  { tst with
    qtReg := 0x800002, ptReg := 0x808002, capReg := 0x80A000
    mem := hostBytes.foldl (fun m x => m.setBytes x.1 x.2) tst.mem }
/-- The same with a packet at the ring's first slot. -/
def ringSt (bs : List Byte) : State := { hostSt with mem := hostSt.mem.setBytes 0x807000 bs }
def q10 : QueueRef := ⟨1, 0⟩
def qe : QueueEntry := ⟨0x800010, 0x804000, 0, 0, 0x806000, true⟩
def packetIs : NextPacket → Option (QueueEntry × Nat × List Byte)
  | .packet e i bs => some (e, i, bs)
  | _ => none
theorem packet_of {p : State × NextPacket} {e : QueueEntry} {i : Nat} {bs : List Byte} (h : packetIs p.2 = some (e, i, bs)) :
    ∃ s1, p = (s1, .packet e i bs) := by
  obtain ⟨a, b⟩ := p
  cases b <;> simp [packetIs] at h
  obtain ⟨rfl, rfl, rfl⟩ := h
  exact ⟨a, rfl⟩
def invalidIs : NextPacket → Option (QueueEntry × Nat)
  | .invalid e op => some (e, op)
  | _ => none
theorem invalid_of {p : State × NextPacket} {e : QueueEntry} {op : Nat} (h : invalidIs p.2 = some (e, op)) :
    ∃ s1, p = (s1, .invalid e op) := by
  obtain ⟨a, b⟩ := p
  cases b <;> simp [invalidIs] at h
  obtain ⟨rfl, rfl⟩ := h
  exact ⟨a, rfl⟩

/-- The started packet's state, and the admission of the record an address names. -/
def startedSt (bs : List Byte) : State :=
  ((ringSt bs).nextPacket q10).1.startPacket q10 qe 0 (bs ++ List.replicate (64 - bs.length) 0)
def admits (addr : Nat) : Option Nat :=
  let r := (startedSt [1]).readRecord 1 addr
  (r.1.takeOn 1 0 (some (q10, 0)) none (some (BitVec.ofNat 64 addr)) r.2).2
def untracked : State := { hostSt with mem := hostSt.mem.set 0x808020 1 }
/-- A ring that nothing maps. -/
def lostRing : State := { hostSt with mem := hostSt.mem.setBytes 0x806000 (leBytes bareAddr 8) }
def ringIs : NextPacket → Option QueueEntry
  | .ringFault e => some e
  | _ => none
theorem ring_of {p : State × NextPacket} {e : QueueEntry} (h : ringIs p.2 = some e) : ∃ s1, p = (s1, .ringFault e) := by
  obtain ⟨a, b⟩ := p
  cases b <;> simp [ringIs] at h
  subst h
  exact ⟨a, rfl⟩
def donePacket : Packet := ⟨q10, 0, List.replicate 64 0, some (0, 0)⟩
def doneSt : State := { hostSt with packets := [donePacket] }

theorem meets_QueuesStartTheirPackets :
    hostSt.serve false false = .served ∧ hostSt.queueEntry q10 = some qe ∧ qe.nidx = 0 ∧
    (∀ op ∈ List.range 8, ∃ s1, (ringSt [BitVec.ofNat 8 op]).nextPacket q10 = (s1, .packet qe 0 (BitVec.ofNat 8 op :: List.replicate 63 0))) ∧
    admits 0x809000 = none ∧ admits 0 = some 1 ∧
    (∃ p, hostSt.pasidEntry 1 = some p ∧ p.dt = true) ∧
    (untracked.pasidEntry 1).all (!·.dt) = true ∧
    (∃ s1, (ringSt [8]).nextPacket q10 = (s1, .invalid qe 8)) ∧ (∃ s1, lostRing.nextPacket q10 = (s1, .ringFault qe)) ∧
    ((∃ p, doneSt.packets.find? (fun p => p.q == q10 && p.idx == 0) = some p ∧ p.result.isSome = true) ∧ doneSt.tdi ≠ .error ∧
      doneSt.signalLogged q10 0 = false ∧ doneSt.hostBarred (doneSt.workOn donePacket) = false) := by
  refine ⟨by decide +kernel, by decide +kernel, rfl, fun op h => packet_of ?_, by decide +kernel, by decide +kernel, Option.map_eq_some_iff.mp (by decide +kernel),
    by decide +kernel, invalid_of (by decide +kernel), ring_of (by decide +kernel), ⟨_, rfl, by decide +kernel⟩, by decide, by decide +kernel,
    by decide +kernel⟩
  revert op; decide +kernel
/-- A launch with a block to claim, with one imaged out, one to be placed whole, and one whose block may move, leave or retire. -/
def claimL : Launch := { placedLaunch with ticket := 0 }
def claimSt : State := { hostSt with launches := [claimL], blocks := [], threads := [] }
def wholeL : Launch := { placedLaunch with ticket := 0, started := false, lr := { placedRec with admitall := true } }
def outB : Block := { Block.fresh placedLaunch 0 0 0 with life := .imagedOut }
def outBSt : State := { hostSt with blocks := [outB] }
def roomL : Launch := { placedLaunch with lr := { placedRec with nblk := 2 } }
def wideSt : State :=
  { hostSt with
    launches := [roomL], runs := []
    threads := thr.map (fun t => { t with cond := if t.lane == 0 then .exited else .held (.flushpt true) }) }
def endSt : State := { hostSt with runs := [], threads := thr.map (fun t => { t with cond := .exited }) }
def childC : Child := ⟨5, 0, 0x809000, (hostSt.readVirt 0 1 0x809000 512).2.getD [], 0, 0, true⟩
def kidSt (c : Child) : State := { hostSt with children := [c] }
def childAdmits (c : Child) : Option Nat :=
  let r := (kidSt c).childRecord 1 c
  (({ r.1 with children := [] } : State).takeOn 1 0 none (some 0) none r.2).2
/-- A launch whose block finds no place: its scratchpad is more than a core has. -/
def hugeL : Launch := { placedLaunch with id := 1, ticket := 0, lr := { placedRec with scratchGran := 65 } }
def crowdSt : State := { hostSt with launches := [placedLaunch, hugeL] }

theorem meets_BlocksComeAndGo :
    (claimSt.launch? 0 = some claimL ∧ claimSt.agentFor claimL = true ∧ claimSt.heldForAll claimL = false ∧
      claimL.started = true ∧ claimSt.outBlocks claimL = [] ∧ claimL.ticket < claimL.lr.nblk ∧ claimSt.toPlace claimL = .next ∧
      claimSt.claimPlan claimL 191 95 = some [(191, 95)] ∧ claimSt.claimPlan claimL 191 0 = none) ∧
    (wholeL.lr.admitall = true ∧ wholeL.started = false ∧ wholeL.ticket = 0 ∧
      ({ claimSt with launches := [wholeL] } : State).agentFor wholeL = true ∧
      ({ claimSt with launches := [wholeL] } : State).toPlace wholeL = .whole) ∧
    outBSt.toPlace placedLaunch = .out outB ∧
    (crowdSt.block? 0 0 = some (Block.fresh placedLaunch 0 0 0) ∧ crowdSt.lacksPlace hugeL = true ∧
      crowdSt.mayMove hugeL (Block.fresh placedLaunch 0 0 0) = true ∧
      crowdSt.movesTo placedLaunch (Block.fresh placedLaunch 0 0 0) 191 95 = true) ∧
    (wideSt.agentFor roomL = true ∧ wideSt.wantsRoom roomL = true ∧ roomL.proofer = none ∧
      (Block.fresh placedLaunch 0 0 0).life = .placed ∧ (∀ t ∈ wideSt.blockThreads 0 0, t.atWide = true) ∧
      ∃ t ∈ wideSt.blockThreads 0 0, t.cond ≠ .exited) ∧
    endSt.retires (Block.fresh placedLaunch 0 0 0) = true ∧
    ((kidSt childC).children.find? (·.id == 5) = some childC ∧ childC.parent = 0 ∧ (kidSt childC).root 0 = 0 ∧
      (kidSt childC).ready = true ∧ (kidSt childC).tdi ≠ .error ∧ placedLaunch.frozen = false ∧ placedLaunch.started = true ∧
      (kidSt childC).firstChild 0 = some childC ∧ childAdmits childC = none ∧ childAdmits ⟨5, 0, 0x809000, [], 0, 0, true⟩ = some 1) := by
  refine ⟨⟨?_, ?_, ?_, ?_, ?_, ?_, ?_, ?_, ?_⟩, ⟨?_, ?_, ?_, ?_, ?_⟩, ?_, ⟨?_, ?_, ?_, ?_⟩, ⟨?_, ?_, ?_, ?_, ?_, ?_⟩, ?_,
    ⟨?_, ?_, ?_, ?_, ?_, ?_, ?_, ?_, ?_, ?_⟩⟩ <;> decide +kernel

/-- A launch a Proofer works on, one that an IMAGE_SAVE names, and a thread that is late, inside a region and outside. -/
def workL : Launch := { placedLaunch with proofer := some ⟨4, [0], .out⟩, packet := some (q10, 0) }
def saveL : Launch := { placedLaunch with packet := some (q10, 0) }
def saveP : Packet := ⟨q10, 1, 4 :: List.replicate 63 0, none⟩
def saveSt : State := { hostSt with launches := [saveL], packets := [⟨q10, 0, 1 :: List.replicate 63 0, none⟩, saveP] }
def lateT : Thread := { (thr.headD (Thread.fresh placedRef 0 0 0)) with clauses := 256 }
def lateR : Region := ⟨0x100000, 0, 0, 0, 0, 0, 0, 0, 0, 0⟩
def workSt (r : Option Region) : State := { hostSt with launches := [workL], runs := [], threads := [{ lateT with region := r }] }

theorem meets_ProoferActs :
    (∃ p, workL.proofer = some p ∧ (workSt none).hostBarred ((workSt none).proofMove workL p) = false) ∧
    saveSt.packets.find? (fun p => pkOpcode p.bytes == 4 && p.result.isNone && (saveSt.saveTarget p.q).any (·.id == 0)) = some saveP ∧
    saveSt.hostBarred (saveSt.beginSave saveL saveP) = false ∧
    ((workSt none).thread? placedRef 0 = some lateT ∧ lateT.canonical = false ∧ 256 ≤ lateT.clauses ∧ lateT.cond = .issuable ∧
      (workSt none).inRun lateT = false ∧ lateT.region = none ∧ (workSt (some lateR)).endsSoon { lateT with region := some lateR } = false) := by
  refine ⟨⟨_, rfl, ?_⟩, ?_, ?_, ?_, ?_, ?_, ?_, ?_, ?_, ?_⟩ <;> decide +kernel

/-- The last bytes of BAR 4; the three answers of R375; both sides of the identification block's end. -/
theorem meets_HostRequestsAreServedByTheTable :
    (2 ^ 40 - 8 + 8 ≤ Config.bar4Size .gm2A) ∧ (2 ^ 40 - 8) % 8 = 0 ∧ Config.cap .gm2A ≤ 2 ^ 40 - 8 ∧
    tst.serve false false = .served ∧ tst.serve true false = .refused ∧ ({ tst with tdi := .error } : State).serve true false = .ones ∧
    ({ tst with tdi := .error } : State).serve false (31 < 32) = .served ∧ ({ tst with tdi := .error } : State).serve false (32 < 32) = .refused ∧
    ({ tst with tdi := .run } : State).serve true false = .served := by decide +kernel

/-- A halted thread of the debugged PASID, its register 5 named; a lane that is not there; a thread that waits at a cross-lane
instruction, with its PASID halted and not. -/
def dbgW (op : Nat) (lane : Nat) : BitVec 64 := BitVec.ofNat 64 (op * 2 ^ 60 + 5 * 2 ^ 48 + lane * 2 ^ 9)
def haltT : Thread := { lateT with cond := .halted }
def dbgSt : State := { hostSt with dbgCtl := 0x8000000000100000, runs := [], threads := [haltT] }
def laneT : Thread := { lateT with cond := .held (.lanes none) }
def acrossSt (ctl : BitVec 64) : State := { dbgSt with dbgCtl := ctl, threads := [laneT] }

theorem meets_DebugCommandsAct :
    dbgSt.serve false false = .served ∧ dbgSt.dbgOpen = true ∧ dbgSt.dbgThread (dbgW 1 63) = none ∧
    (∀ op ∈ [1, 2, 3, 4], dbgOp (dbgW op 0) = op ∧ dbgSt.dbgThread (dbgW op 0) = some haltT) ∧ dbgSt.dbgMay haltT = true ∧ haltT.pip = none ∧
    haltT.cond.acrossLanes = false ∧
    ((acrossSt 0x8000000000100001).dbgThread (dbgW 3 0) = some laneT ∧ (acrossSt 0x8000000000100001).dbgMay laneT = true ∧
      laneT.cond.acrossLanes = true ∧ (acrossSt 0x8000000000100000).dbgThread (dbgW 3 0) = some laneT ∧
      (acrossSt 0x8000000000100000).dbgMay laneT = false) ∧
    dbgSt.thread? placedRef 0 = some haltT ∧ dbgSt.group? placedRef = some (Group.fresh placedRef 0 0) ∧
    dbgSt.launch? 0 = some placedLaunch ∧ dbgReg placedLaunch (Group.fresh placedRef 0 0) (dbgW 1 0) = some (.v 5) ∧
    poisoned (Group.fresh placedRef 0 0) haltT (.v 5, 1) = false ∧
    (1#64).getLsbD 0 = true ∧ (0#64).getLsbD 0 = false := by
  refine ⟨?_, ?_, ?_, ?_, ?_, ?_, ?_, ⟨?_, ?_, ?_, ?_, ?_⟩, ?_, ?_, ?_, ?_, ?_, ?_, ?_⟩ <;> decide +kernel
/-- An up port to device 1, the export's page pinned in the serving cluster's TLB; the same with nothing in the TLB; and with the first
walk for a page that no table maps at its end. -/
def upP : Port := { Port.fresh 0 with st := .up }
def peerSt : State :=
  { engSt with ports := [upP], exported := some ⟨[0, 1], 1, 0, 0x1000⟩, tlb := [{ placedTlb with pin := true }] }
def missSt : State := { peerSt with tlb := [] }
def failedWalkSt : State := { missSt with walkFails := [(0, 1, 0, false), (0, 1, 0, true)] }
/-- A flit from device 1 for this device; an add of 5; a compare-and-swap to 5; a message of the launch that a tag names. -/
def fl (ty off len : Nat) (payload : List Byte) : Flit := ⟨mkHdr off 0 7 len false false 0 1 ty, payload⟩
def sfl (ty : Nat) (body : BitVec 128) : ShortFlit := ⟨mkHdr 0 0 7 0 false false 0 1 ty, body⟩
def atomFl (off : Nat) : Flit := fl 3 off 6 (reqPayload ⟨0, 0, .atom .add .b64, 5, 0⟩)
def casFl (cmp : BitVec 64) : Flit := fl 3 8 6 (reqPayload ⟨0, 0, .atom .cas .b64, 5, cmp⟩)
def collFl (tag : Nat) : Flit := fl 6 0 4 ([2, 1, 0, 0, 0, 0, 0, 0] ++ leBytes tag 8)
def servedOk (r : State × Served) : Option Nat := match r.2 with
  | .ok pa => some pa
  | _ => none
theorem served_of {r : State × Served} {pa : Nat} (h : servedOk r = some pa) : ∃ s1, r = (s1, .ok pa) := by
  obtain ⟨a, b⟩ := r
  cases b <;> simp [servedOk] at h
  exact ⟨a, by rw [h]⟩
theorem served_as {r : State × Served} {k : Served} (h : r.2 = k) : ∃ s1, r = (s1, k) := ⟨r.1, by rw [← h]⟩
/-- A word served and then read, sound or poisoned. -/
theorem read_of {s : State} {off : Nat} {b : Bool} (h : servedOk (s.serveAt 0 off 8 true) = some 8)
    (hb : ((s.serveAt 0 off 8 true).1.readPlace 8 8 (s.serveAt 0 off 8 true).1.exportPasid).2.2 = b) :
    ∃ s1 s2 bs, s.serveAt 0 off 8 true = (s1, .ok 8) ∧ s1.readPlace 8 8 s1.exportPasid = (s2, bs, b) := by
  obtain ⟨s1, h⟩ := served_of h
  rw [h] at hb
  exact ⟨s1, _, _, h, by rw [← hb]⟩

/-- Each answer of R73 at the export's last line and past its end; every kind of flit that may arrive. -/
theorem meets_PeerRequestsAreServed :
    let at_ (s : State) (ty : Nat) : State := s.oweCredit 0 ty
    let rd := fl 1 0xF80 32 []
    let wr := fl 2 0xFF8 2 (List.replicate 8 3)
    let pw : Flit := ⟨mkHdr 8 0 7 3 false true 0 1 2, leBytes 1 8 ++ [1, 2, 3, 4]⟩
    (peerSt.portUp 0 = true ∧ (∀ x ∈ [rd, wr, atomFl 8, collFl 3], peerSt.accepted.contains (flitGen x) = true ∧ hdrDst x.hdr = peerSt.devid) ∧
      [hdrType rd.hdr, hdrType wr.hdr, hdrType (atomFl 8).hdr, hdrType (collFl 3).hdr] = [1, 2, 3, 6]) ∧
    (∀ ty ∈ [1, 2, 3, 6], hdrType (mkHdr 0 5 7 1 false false 0 1 ty) = ty ∧ peerSt.accepted.contains (flitGen ⟨mkHdr 0 5 7 1 false false 0 1 ty, []⟩) = false ∧
      hdrDst (mkHdr 0 0 7 1 false false 1 1 ty) ≠ peerSt.devid ∧ hdrType (mkHdr 0 0 7 1 false false 1 1 ty) = ty) ∧
    (flitLen (fl 1 0 0 []) = 0 ∧ flitLen rd ≠ 0) ∧
    ((∃ s1, (at_ peerSt 1).serveAt 0 (flitOffset rd) (4 * flitLen rd) false = (s1, .ok 0xF80)) ∧
      (∃ s1, (at_ missSt 1).serveAt 0 (flitOffset rd) (4 * flitLen rd) false = (s1, .retry)) ∧
      (∃ s1, (at_ failedWalkSt 1).serveAt 0 (flitOffset rd) (4 * flitLen rd) false = (s1, .fatal)) ∧
      ∃ s1, (at_ peerSt 1).serveAt 0 (flitOffset (fl 1 0xF84 32 [])) (4 * flitLen (fl 1 0xF84 32 [])) false = (s1, .fatal)) ∧
    ((∃ s1, (at_ peerSt 2).serveAt 0 (flitOffset wr) (flitWritten wr).1.length true = (s1, .ok 0xFF8)) ∧
      ((flitWritten (fl 2 8 0 [1, 9])).2 = [] ∧ ∃ s1, (at_ peerSt 2).serveAt 0 8 (flitWritten (fl 2 8 0 [1, 9])).1.length true = (s1, .ok 8)) ∧
      ((flitWritten pw).2 = [true] ∧ ∃ s1, (at_ peerSt 2).serveAt 0 (flitOffset pw) (flitWritten pw).1.length true = (s1, .ok 8)) ∧
      (∃ s1, (at_ missSt 2).serveAt 0 (flitOffset wr) (flitWritten wr).1.length true = (s1, .retry)) ∧
      ∃ s1, (at_ failedWalkSt 2).serveAt 0 (flitOffset wr) (flitWritten wr).1.length true = (s1, .fatal)) ∧
    (flitAtom (fl 3 8 6 [15, 15]) = none ∧ flitAtom (atomFl 8) = some (.add, .b64, 5, 0) ∧ flitAtom (casFl 0) = some (.cas, .b64, 5, 0) ∧
      flitAtom (casFl 1) = some (.cas, .b64, 5, 1) ∧ BitVec.ofNat 64 (leNat (peerSt.mem.bytes 8 8)) = 0) ∧
    (∃ s1 s2 bs, (at_ peerSt 3).serveAt 0 8 8 true = (s1, .ok 8) ∧ s1.readPlace 8 8 s1.exportPasid = (s2, bs, false)) ∧
    (∃ s1 s2 bs, (at_ { peerSt with poison := [8] } 3).serveAt 0 8 8 true = (s1, .ok 8) ∧ s1.readPlace 8 8 s1.exportPasid = (s2, bs, true)) ∧
    ((∃ s1, (at_ missSt 3).serveAt 0 8 8 true = (s1, .retry)) ∧ ∃ s1, (at_ failedWalkSt 3).serveAt 0 8 8 true = (s1, .fatal)) ∧
    (flitTag (collFl 3) = 3 ∧ (at_ peerSt 6).teamLaunch (flitTag (collFl 9)) = none ∧ (at_ peerSt 6).teamLaunch (flitTag (collFl 3)) = some engL ∧
      engL.lr.team = some ⟨[0, 1], 1, 0, 0x1000⟩) := by
  intro at_ rd wr pw
  refine ⟨⟨?_, ?_, ?_⟩, ?_, ⟨?_, ?_⟩, ⟨served_of ?_, served_as ?_, served_as ?_, served_as ?_⟩,
    ⟨served_of ?_, ⟨?_, served_of ?_⟩, ⟨?_, served_of ?_⟩, served_as ?_, served_as ?_⟩, ⟨?_, ?_, ?_, ?_, ?_⟩, read_of ?_ ?_, read_of ?_ ?_,
    ⟨served_as ?_, served_as ?_⟩, ⟨?_, ?_, ?_, ?_⟩⟩ <;> decide +kernel

/-- A load and a store of an instruction in flight, refused 1,022 and 1,023 times before; a transaction of a command, and one of none. -/
def txnOf (n : Nat) : Txn := ⟨7, 1, fl 1 0 1 [], some 0, none, 3, n, none, none, some 0, true⟩
def txnSt (t : Txn) : State := { peerSt with txns := [t] }
def cmdT : Txn := { txnOf 0 with op := none, cmd := some 0 }
def lineT : Txn := { txnOf 0 with op := none }
def collT : Txn := { cmdT with flit := collFl 3, refused := 1023 }
def cmdSt (k : CmdKind) : State := { txnSt cmdT with cmds := [{ tagCmd 0 with kind := k }] }
theorem meets_PeerRepliesEndTheirTransactions :
    let arrives (s : State) (ty : Nat) (t : Txn) : Prop := hdrType (fl ty 0 1 [1, 0, 0, 0]).hdr = ty ∧
      (s.oweCredit 0 ty).txnFor (fl ty 0 1 [1, 0, 0, 0]).hdr = some t
    let pz (ty : Nat) : Flit := ⟨mkHdr 0 0 7 3 false true 0 1 ty, leBytes 1 8 ++ [1, 0, 0, 0]⟩
    let cmdAt (k : CmdKind) (ty : Nat) : Option CmdKind := (((cmdSt k).oweCredit 0 ty).dropTxn 7).cmd? 0 |>.map (·.kind)
    let short (ty : Nat) (t : Txn) : Prop := hdrType (sfl ty 9).hdr = ty ∧ hdrDst (sfl ty 9).hdr = (txnSt t).devid ∧
      ((txnSt t).oweCredit 0 ty).txnFor (sfl ty 9).hdr = some t
    ((txnSt (txnOf 0)).portUp 0 = true ∧ (txnSt (txnOf 0)).accepted.contains (flitGen (pz 4)) = true ∧
      hdrDst (pz 4).hdr = (txnSt (txnOf 0)).devid) ∧
    (∀ ty ∈ [4, 5, 7], hdrType (fl ty 0 1 []).hdr = ty ∧ (peerSt.oweCredit 0 ty).txnFor (fl ty 0 1 []).hdr = none) ∧
    ((txnOf 0).op = some 0 ∧ arrives (txnSt (txnOf 0)) 4 (txnOf 0) ∧ arrives (txnSt (txnOf 0)) 5 (txnOf 0) ∧ arrives (txnSt (txnOf 0)) 7 (txnOf 0)) ∧
    ((flitData (fl 4 0 1 [1, 0, 0, 0])).2.any id = false ∧ hdrType (pz 4).hdr = 4 ∧
      ((txnSt (txnOf 0)).oweCredit 0 4).txnFor (pz 4).hdr = some (txnOf 0) ∧ (flitData (pz 4)).2.any id = true) ∧
    (flitPsn (fl 7 0 1 [1, 0, 0, 0]) = false ∧ hdrType (pz 7).hdr = 7 ∧ ((txnSt (txnOf 0)).oweCredit 0 7).txnFor (pz 7).hdr = some (txnOf 0) ∧
      flitPsn (pz 7) = true) ∧
    (cmdT.op = none ∧ cmdT.cmd = some 0 ∧ arrives (cmdSt .get) 4 cmdT ∧ arrives (cmdSt .put) 5 cmdT ∧
      arrives (cmdSt (.fatom .add .b64 .weak .dev 0)) 7 cmdT ∧ cmdAt .get 4 = some .get ∧ cmdAt .put 5 = some .put ∧
      cmdAt (.coll .f32 .add .redscat 0) 5 = some (.coll .f32 .add .redscat 0) ∧
      cmdAt (.fatom .add .b64 .weak .dev 0) 7 = some (.fatom .add .b64 .weak .dev 0)) ∧
    (lineT.op = none ∧ lineT.cmd = none ∧ arrives (txnSt lineT) 4 lineT) ∧
    (short 0x11 (txnOf 1022) ∧ (txnOf 1022).refused + 1 < 1024) ∧
    (short 0x11 (txnOf 1023) ∧ 1024 ≤ (txnOf 1023).refused + 1 ∧ hdrType (txnOf 1023).flit.hdr ≠ 6) ∧
    (short 0x11 collT ∧ hdrType collT.flit.hdr = 6) ∧ short 0x12 (txnOf 0) := by
  intro arrives pz cmdAt short
  refine ⟨⟨?_, ?_, ?_⟩, ?_, ⟨?_, ⟨?_, ?_⟩, ⟨?_, ?_⟩, ⟨?_, ?_⟩⟩, ⟨?_, ?_, ?_, ?_⟩, ⟨?_, ?_, ?_, ?_⟩,
    ⟨?_, ?_, ⟨?_, ?_⟩, ⟨?_, ?_⟩, ⟨?_, ?_⟩, ?_, ?_, ?_, ?_⟩, ⟨?_, ?_, ?_, ?_⟩, ⟨⟨?_, ?_, ?_⟩, ?_⟩, ⟨⟨?_, ?_, ?_⟩, ?_, ?_⟩,
    ⟨⟨?_, ?_, ?_⟩, ?_⟩, ?_, ?_, ?_⟩ <;> decide +kernel

/-- Refused with its time come; lost with a path again, and without one; a restart for a launch's next collective, for one past, and for
no launch. -/
def lostSt (p : Port) (t : Txn) : State := { peerSt with ports := [p], txns := [t] }
def dueT : Txn := { txnOf 1 with resendAt := some 0 }
def lostT : Txn := { txnOf 0 with lost := some 0, port := none }
def restartFl (tag : Nat) (b : BitVec 128) : ShortFlit := ⟨mkHdr tag 0 7 0 false false 0 1 0x14, b⟩
def pastL : Launch := { engL with collseq := 1 }
def pastSt : State := { peerSt with launches := [pastL] }
theorem meets_RequestsAreSentAgainOrGivenUp :
    ((lostSt upP dueT).txns.find? (·.id == 7) = some dueT ∧ (0#64).toNat ≤ (lostSt upP dueT).clock.toNat) ∧
    ((lostSt upP lostT).txns.find? (·.id == 7) = some lostT ∧ lostT.resendAt = none ∧ lostT.lost.isSome = true ∧
      ((lostSt upP lostT).pathTo lostT.dst (flitOffset lostT.flit)).isSome = true) ∧
    (lostSt (Port.fresh 0) lostT).pathTo lostT.dst (flitOffset lostT.flit) = none ∧
    (peerSt.portUp 0 = true ∧ hdrType (sfl 0x10 0x1111).hdr = 0x10 ∧ hdrType (sfl 0x15 0).hdr = 0x15 ∧ hdrDst (sfl 0x15 0).hdr = peerSt.devid) ∧
    (hdrType (restartFl 3 0).hdr = 0x14 ∧ hdrDst (restartFl 3 0).hdr = peerSt.devid ∧
      (peerSt.oweCredit 0 0x14).teamLaunch ((restartFl 9 0).hdr.extractLsb' 88 40).toNat = none ∧
      (peerSt.oweCredit 0 0x14).teamLaunch ((restartFl 3 0).hdr.extractLsb' 88 40).toNat = some engL ∧
      engL.lr.team = some ⟨[0, 1], 1, 0, 0x1000⟩ ∧ engL.collseq ≤ ((restartFl 3 0).body.extractLsb' 0 32).toNat ∧
      (restartFl 3 0x100000000).body.getLsbD 32 = true ∧ (restartFl 3 0).body.getLsbD 32 = false) ∧
    ((pastSt.oweCredit 0 0x14).teamLaunch ((restartFl 3 0).hdr.extractLsb' 88 40).toNat = some pastL ∧
      ((restartFl 3 0).body.extractLsb' 0 32).toNat < pastL.collseq ∧ (pastSt.oweCredit 0 0x14).coll? pastL.id 0 = none) := by
  refine ⟨⟨?_, ?_⟩, ⟨?_, ?_, ?_, ?_⟩, ?_, ⟨?_, ?_, ?_, ?_⟩, ⟨?_, ?_, ?_, ?_, ?_, ?_, ?_, ?_⟩, ?_, ?_, ?_⟩ <;> decide +kernel

/-! Two frames with an empty body, their control words, CRC and check symbols as the sender of the model gives them: kind 2 number 0, and
idle. The kernel evaluates a long fold only if its accumulator is forced at each step. -/

def forced {α β : Type} (f : β → α → β) (key : β → Nat) : β → List α → β
  | c, [] => c
  | c, a :: l => if key c = 0 then forced f key (f c a) l else forced f key (f c a) l
theorem foldl_forced {α β : Type} (f : β → α → β) (key : β → Nat) (l : List α) : ∀ c, l.foldl f c = forced f key c l := by
  induction l with
  | nil => intro c; rfl
  | cons a l ih => intro c; simp [forced, ih]
theorem gfMulAt_zero (b : Gf) (n : Nat) : gfMulAt 0 b n 0 = 0 := by
  induction n with
  | zero => rfl
  | succ n ih => simp only [gfMulAt, show gfX 0 = 0 from rfl, ite_self]; exact ih
theorem zeros_foldl (a : Gf) (n : Nat) : (List.replicate n 0).foldl (fun acc c => c ^^^ gfMul acc a) 0 = 0 := by
  induction n with
  | zero => rfl
  | succ n ih => simp only [List.replicate_succ, List.foldl_cons, gfMul, gfMulAt_zero]; exact ih

def kindOf (bs : List Byte) : Option (Nat × Nat) := (receive bs).map (fun r => (bits r.2 28 26, bits r.2 11 0))
def frameOf (tail : List Byte) : List Byte := List.replicate 256 0 ++ tail
def numberedTail : List Byte :=
  [0, 0, 0, 8, 0, 0, 0, 0, 97, 136, 16, 58, 0, 0, 0, 0, 72, 118, 109, 175, 45, 66, 92, 134, 205, 153, 147, 93, 181, 45, 228,
    211, 26, 97, 75, 37, 157, 70, 166, 54, 165, 205, 69, 154, 190, 47, 171, 59, 235, 149, 218, 124, 68, 112, 5, 53, 99, 61,
    144, 85, 201, 194, 255, 236]
def idleTail : List Byte :=
  [9, 0, 0, 0, 0, 0, 0, 0, 139, 216, 47, 21, 0, 0, 0, 0, 12, 223, 25, 178, 159, 82, 166, 67, 242, 153, 131, 212, 210, 223, 154,
    148, 207, 82, 242, 148, 162, 173, 164, 232, 184, 121, 184, 229, 79, 52, 148, 57, 211, 141, 9, 98, 76, 183, 100, 167, 197,
    81, 142, 172, 167, 54, 70, 145]

theorem received_of {t : List Byte} {c : BitVec 32} {k n : Nat}
    (hl : symbolsOf (frameOf t) = List.replicate 128 0 ++ symbolsOf t)
    (hs : ((gfPowers 24 1).map (fun a => forced (fun acc c => c ^^^ gfMul acc a) BitVec.toNat 0 (symbolsOf t))).all (· == 0) = true)
    (hb : (frameOf t).length = 320 ∧ (bytesOf (symbolsOf (frameOf t))).take 272 = (frameOf t).take 272)
    (hc : ~~~(forced crcStep BitVec.toNat (BitVec.allOnes 32) (((frameOf t).take 272).take 264)) = c)
    (hw : let w := fieldAt ((frameOf t).take 272) 256 16
      (bits w 127 96 == 0 && bits w 63 29 == 0 && bits w 28 26 ≤ 3 && bits w 95 64 == c.toNat) = true ∧ bits w 28 26 = k ∧ bits w 11 0 = n) :
    ∃ body w, receive (frameOf t) = some (body, w) ∧ bits w 28 26 = k ∧ bits w 11 0 = n := by
  have hd : rsDecode (symbolsOf (frameOf t)) = some (symbolsOf (frameOf t)) := by
    have : (syndromes (symbolsOf (frameOf t))).all (· == 0) = true := by
      rw [hl]
      simp only [syndromes, List.foldl_append, zeros_foldl]
      simp only [foldl_forced _ BitVec.toNat]
      exact hs
    simp only [rsDecode, this, if_true]
  have hr : rsReceive (frameOf t) = some ((frameOf t).take 272) := by simp only [rsReceive, hb.1, hd, Option.map_some, hb.2, if_true]
  refine ⟨((frameOf t).take 272).take 256, _, ?_, hw.2⟩
  simp only [receive, hr]
  rw [if_pos]
  rw [crc32, foldl_forced _ BitVec.toNat, hc]
  exact hw.1

theorem numbered_received : ∃ body w, receive (frameOf numberedTail) = some (body, w) ∧ bits w 28 26 = 2 ∧ bits w 11 0 = 0 :=
  received_of (c := 0x3a108861) rfl (by decide +kernel) (by decide +kernel) (by decide +kernel) (by decide +kernel)
theorem idle_received : ∃ body w, receive (frameOf idleTail) = some (body, w) ∧ bits w 28 26 = 0 ∧ bits w 11 0 = 9 :=
  received_of (c := 0x152fd88b) rfl (by decide +kernel) (by decide +kernel) (by decide +kernel) (by decide +kernel)

/-- The frames at a port that expects the number and at one that expects another; the boundaries of 63 and 4,096 frame times, of 1,024
good frames and of 64 idle ones; ports of the plan and beyond it that are down. -/
def duty : Port := { upP with owed := [1, 0, 0, 0], owedWait := 63, unacked := [(0, 2, [], 1)], ackWait := 4096 }
def trainP (good idle : Nat) : Port := { Port.fresh 0 with st := .training good idle }
def downSt (p : Port) : State := { peerSt with ports := [p] }
theorem meets_LinkLayerMovesFrames :
    (peerSt.port? 0 = some upP ∧ upP.st = .up ∧ receive [] = none) ∧
    (∃ body w, receive (frameOf idleTail) = some (body, w) ∧ bits w 28 26 = 0 ∧ bits w 11 0 = 9) ∧
    (∃ body w, receive (frameOf numberedTail) = some (body, w) ∧ bits w 28 26 = 2 ∧ bits w 11 0 = 0) ∧
    upP.expected = 0 ∧ ({ upP with expected := 4095 } : Port).expected ≠ 0 ∧
    (duty.owes = true ∧ 63 ≤ duty.owedWait ∧ duty.replay = [] ∧ duty.unacked.length < 1024 ∧ duty.unacked ≠ [] ∧ 4096 ≤ duty.ackWait) ∧
    ((downSt (Port.fresh 0)).port? 0 = some (Port.fresh 0) ∧ (Port.fresh 0).st = .down ∧ (downSt (Port.fresh 0)).mayTrain 0 = true ∧
      (downSt (Port.fresh 1)).port? 1 = some (Port.fresh 1) ∧ (downSt (Port.fresh 1)).mayTrain 1 = false) ∧
    (∀ x ∈ [(1023, 0), (1024, 62), (1024, 63)], (downSt (trainP x.1 x.2)).port? 0 = some (trainP x.1 x.2) ∧
      (trainP x.1 x.2).st = .training x.1 x.2 ∧ (trainP x.1 x.2).st ≠ .down) :=
  ⟨⟨by decide +kernel, rfl, by decide +kernel⟩, idle_received, numbered_received, rfl, by decide, by decide +kernel,
    by decide +kernel, by decide +kernel⟩

/-- A reconfiguration to plan 0 in each of its steps, drained and not; the plan's coordinator this device, and the one that sends; a bound
of one microsecond. -/
def trn (step : Nat) (gone : Bool) : Transition := ⟨1, 5, 0, 0, step, gone, [0], 0⟩
def trSt (p : BitVec 1024) (step : Nat) (gone : Bool) (txns : List Txn) : State :=
  { peerSt with trans := some (trn step gone), tgen := 1, txns := txns, plans := [(0, p)], clock := 940 }
def plan1 : BitVec 1024 := planP ||| 0x10000
def planB : BitVec 1024 := planP ||| 0x1000100010000000000000000
def rdy (kind : Nat) : ShortFlit := sfl 0x13 (BitVec.ofNat 128 (kind + 0x500000000))
def goodReply : List Byte := [0x4F, 1, 0, 0] ++ leBytes (crc32 [0x4F, 1, 0, 0]).toNat 4
theorem meets_ReconfigurationEventsComplete :
    let s := trSt plan1 3 false []
    let s1 := s.oweCredit 0 0x13
    (s.portUp 0 = true ∧ (∀ k ∈ [0, 1, 2], hdrType (rdy k).hdr = 0x13 ∧ hdrDst (rdy k).hdr = s.devid ∧ readyKind (rdy k) = k) ∧
      s1.readies.contains (hdrSrc (rdy 0).hdr, readyGen (rdy 0), readyPlan (rdy 0)) = false ∧
      s1.transFor (rdy 1) [3] = some (trn 3 false) ∧ s1.planAt 0 = some plan1 ∧
      ∀ n ∈ [2, 3], ((trSt plan1 n false []).oweCredit 0 0x13).transFor (rdy 2) [2, 3] = some (trn n false)) ∧
    (planDrain planB = 1 ∧ planReady planB = 1 ∧ planLight planB = 1 ∧ 1 * (940 - 94 * (trSt planB 2 false []).throttle.toNat) =
      ((trSt planB 2 false []).clock - (trn 2 false).since).toNat) ∧
    ((trSt planB 2 false []).drained = true ∧ (trSt planB 2 false [txnOf 0]).drained = false ∧
      (trSt planB 2 false [txnOf 0]).planAt 0 = some planB) ∧
    ((trSt planB 3 false []).planAt 0 = some planB ∧ planCoord planB = (trSt planB 3 false []).devid ∧
      (trSt planB 3 false []).allReady (trn 3 false) planB = false) ∧
    ((trn 5 true).step ≠ 7 ∧ (trn 5 true).step ≠ 2 ∧ (trn 5 true).gone = true ∧ (trn 7 true).step = 7) ∧
    ((trn 6 true).step = 6 ∧ (trSt planP 6 true []).planAt 0 = some planP) ∧ replyGood goodReply = true ∧ replyGood [] = false := by
  intro s s1
  refine ⟨⟨?_, ?_, ?_, ?_, ?_, ?_⟩, ⟨?_, ?_, ?_, ?_⟩, ⟨?_, ?_, ?_⟩, ⟨?_, ?_, ?_⟩, ?_, ⟨?_, ?_⟩, ?_, ?_⟩ <;> decide +kernel

/-- A measurement there is, and the last index that is none; each form of a request right and wrong, in each state of the order. -/
def offer : List Byte :=
  [0x12, 0xE3, 2, 0] ++ List.replicate 8 0 ++ [2] ++ List.replicate 15 0 ++ [1] ++ List.replicate 7 0 ++ [2, 0, 0x10, 0, 3, 0, 2, 0]
theorem meets_SpdmRequestsFollowTheirOrder :
    offersOurs offer = true ∧ offersOurs [] = false ∧ (tst.measured (fieldAt [0x12, 0xE0, 0, 0] 3 1)).isSome = true ∧ tst.measured (fieldAt [0x12, 0xE0, 0, 0xFE] 3 1) = none ∧
    (fieldAt [0x10, 0x84] 0 1 = 0x10 ∧ fieldAt [0x12, 0xE1] 0 1 = 0x12 ∧ fieldAt [0x13, 0xE1] 0 1 = 0x13 ∧ fieldAt [0x12, 0x82, 1] 2 1 = 1 ∧
      fieldAt [0x12, 0x82, 2] 2 1 = 2) ∧
    (∀ x ∈ [Spdm.version, .capabilities, .negotiated, .exchanged, .session], ({ tst with spdm := x } : State).spdm = x) ∧
    ({ tst with spdm := .start } : State).spdm ≠ .version ∧
    Spdm.rank .negotiated ≤ ({ tst with spdm := .session } : State).spdm.rank ∧ ¬ Spdm.rank .negotiated ≤ ({ tst with spdm := .start } : State).spdm.rank := by
  refine ⟨?_, ?_, ?_, ?_, ?_, ?_, ?_, ?_, ?_⟩ <;> decide +kernel

theorem meets_InterfaceRequestsMoveTheInterface :
    let at_ (t : Tdi) : State := { tst with spdm := .session, ideKeyed := true, ide := true, tdi := t }
    ((at_ .unlocked).spdm = .session ∧ (at_ .unlocked).ideKeyed = true) ∧ ((at_ .unlocked).tdi = .unlocked ∧ (at_ .unlocked).ide = true) ∧
    ((at_ .locked).tdi = .locked ∧ (at_ .run).tdi = .run ∧ (at_ .error).tdi = .error) ∧ ({ at_ .run with ide := false } : State).ide = false :=
  ⟨⟨rfl, rfl⟩, ⟨rfl, rfl⟩, ⟨rfl, rfl, rfl⟩, rfl⟩

/-- FIPS 180-4's example: the digest of "abc". -/
theorem test_sha384 : shaBytes [0x61, 0x62, 0x63] = (leBytes
    0xcb00753f45a35e8bb5a03d699ac65007272c32ab0eded1631a8b605a43ff5bed8086072ba1e7cc2358baeca134c825a7 48).reverse := by decide +kernel

/-! Further clauses: ejected threads, handlers, parked loads, the checks of R39, the accesses themselves, and the forms of a state. -/

/-- Reached, computed. -/
def reachedB (n : Need) (s : State) (cx : Ctx) : Bool :=
  (privTrap n cx).isNone && s.damage.isEmpty
    && cx.threads.all (fun t => !n.recallsGuard t && !pending s.inflight t n.guard) && !(cx.exec n.common).isEmpty
    && (s.groupThreads cx.run.ref).all (fun t => !handedOver n t)
    && (cx.exec n.common).all (fun t => !n.recalls t && !pending s.inflight t n.names && !orderedWait s.inflight t
      && !loggedWait s.inflight t && !n.hold cx t)

theorem reached_of {n : Need} {s : State} {cx : Ctx} (h : s.ctx? = some cx) (hb : reachedB n s cx = true) : Reached n s cx := by
  simp only [reachedB, Bool.and_eq_true, List.all_eq_true, Bool.not_eq_true', Option.isNone_iff_eq_none,
    List.isEmpty_eq_false_iff, List.isEmpty_iff] at hb
  obtain ⟨⟨⟨⟨⟨h1, h2⟩, h3⟩, h4⟩, h5⟩, h6⟩ := hb
  exact ⟨h, h1, h2, h3, h4, fun t ht => (h6 t ht).1.1.1.1, .inr h5, fun t ht => (h6 t ht).1.1.1.2,
    fun _ t ht => (h6 t ht).1.1.2, fun _ t ht => (h6 t ht).1.2, fun t ht => (h6 t ht).2⟩

/-- An ejected thread whose registers and predicates were all handed over. -/
def hoP (t : Thread) : Pip :=
  { newPip (EjectRec.ofNat 12) joinG t 0 0 1 with
    hop := BitVec.allOnes 15, hov := BitVec.allOnes 256, hbp := BitVec.allOnes 15, hbv := BitVec.allOnes 256 }
def hoSt : State :=
  { tst with
    runs := [{ placedRun false with pip := true, lanes := 1 }]
    threads := thr.map (fun t => if t.lane == 0 then { t with pip := some (hoP t) } else t) }
def hoCx : Ctx := { pipCx with threads := hoSt.threads.take 1 }
/-- Threads in a region whose live-ins are predicate 0 and vector register 9. -/
def liveR : Region := ⟨0x100000, 0x200, 0, 1, 0, 0, 0, 0, 0, 0⟩
def liveSt : State := { tst with threads := thr.map (fun t => { t with region := some liveR }) }
def liveCx : Ctx := { tcx with threads := liveSt.threads }

/-- `v2p` of predicates 0 and 1: by an ejected thread, outside any region; and into a live-in. -/
theorem meets_ComparisonAndSelectionResults_v2p :
    let named (cx : Ctx) : List Names := allPreds.filter (fun n => (cx.exec c0).any (fun t => (maskPreds cx.group 3 .immC t).contains n))
    (hoCx.run.pip = true ∧ Clear (regNeed c0 (named hoCx) [nm (.v 2) false, nm .immC false]) hoSt hoCx ∧ ∀ t ∈ hoCx.exec c0, t.region = none) ∧
    liveCx.run.pip = false ∧ Clear (regNeed c0 [] ([nm (.v 2) false, nm .immC false] ++ named liveCx)) liveSt liveCx ∧
    (liveCx.exec c0).filter (fun t => t.region.any (fun r => (maskPreds liveCx.group 3 .immC t).any r.names)) ≠ [] :=
  ⟨⟨rfl, clear_of rfl rfl, by decide +kernel⟩, rfl, clear_of rfl rfl, by decide +kernel⟩

/-- A handler that returns to a header; to an address that is no multiple of 12; past the code object; to a word in no clause. -/
def handSt (pc : BitVec 64) : State :=
  { tst with threads := thr.map (fun t => { t with inHandler := true, trapDepth := 0, d := 0, trappc := pc, trapClause := none }) }
def handCx (pc : BitVec 64) : Ctx := { tcx with threads := (handSt pc).threads }
theorem meets_CallsAndReturnsUseReturnStack_handler :
    let need (s : State) : Need := { common := cb0, ordered := true, afterLog := true
                                     hold := fun cx t => !t.handlerReturns && topoHold s cx (stackAddr t (t.d - 1)) }
    (∀ t ∈ (handCx 0x100000).exec cb0, t.handlerReturns = true) ∧
    Clear (need (handSt 0x100000)) (handSt 0x100000) (handCx 0x100000) ∧
    (handSt 0x100000).isHeader placedLaunch 0 0x100000 = true ∧
    Clear (need (handSt 0x100001)) (handSt 0x100001) (handCx 0x100001) ∧ (0x100001 - 0x100000) % 12 ≠ 0 ∧
    Clear (need (handSt 0x100024)) (handSt 0x100024) (handCx 0x100024) ∧ placedRec.codesize.toNat ≤ 0x24 ∧
    Clear (need (handSt 0x10000C)) (handSt 0x10000C) (handCx 0x10000C) ∧
    (handSt 0x10000C).isHeader placedLaunch 0 0x10000C = false :=
  ⟨by decide +kernel, clear_of rfl rfl, by decide +kernel, clear_of rfl rfl, by decide, clear_of rfl rfl, by decide, clear_of rfl rfl,
    by decide +kernel⟩

/-- An LDSP whose line is absent goes in flight for both threads. -/
theorem meets_ScratchpadAccessesComplete_parked :
    Clear { common := cx0, writes := [nm (.v 254) true], reads := addrNames (.v 5) false none, ordered := true } absentSt absentCx ∧
    (∀ t ∈ absentCx.exec cx0, parked absentSt absentCx .n64 t.lane 0xFFF8 = true ∧ absentB.lineAbsent (0xFFF8 / 128) = true) ∧
    ∃ id s', absentSt.fly absentCx cx0 3 { dst := some (.v 254, true), wait := .ldsp .n64 [511] [(0, 0xFFF8), (1, 0xFFF8)] } =
      some (id, s') :=
  ⟨clear_of rfl rfl, by decide +kernel, _, _, rfl⟩

/-- A register past the allotment; a poisoned source; a destination that is a live-in. -/
def fewL : Launch := { placedLaunch with lr := { placedRec with roles := [⟨8, 8, 1, 0⟩] } }
def fewSt : State := { tst with launches := [fewL] }
def fewCx : Ctx := { tcx with launch := fewL }
def poisSt : State := { tst with threads := thr.map (fun t => { t with vpoison := [6] }) }
def poisCx : Ctx := { tcx with threads := poisSt.threads }
def leadG : Group := { Group.fresh placedRef 0 0 with role := 3 }
def leadSt : State := { tst with groups := [leadG] }
def leadCx : Ctx := { tcx with group := leadG }
def addI : Instr := .iadd c0 .i32 false (.v 9) (.v 6) (.imm 1) 0
theorem meets_InstructionsTrapAsTheirChecksSay :
    (registersOf addI = some (c0, [nm (.v 9) false], [nm (.v 6) false, nm (.imm 1) false]) ∧ fewSt.ctx? = some fewCx ∧ fewSt.damage = [] ∧
      [nm (.v 9) false].any (Names.beyond fewCx.vregs fewCx.sregs fewCx.launch.lr.tiles) = true) ∧
    Reached (regNeed c0 [nm (.v 9) false] [nm (.v 6) false, nm (.imm 1) false]) poisSt poisCx ∧
    (∀ t ∈ poisCx.exec c0, poisoned poisCx.group t (nm (.v 6) false) = true) ∧
    Reached (regNeed c0 [nm (.v 9) false] [nm (.v 6) false, nm (.imm 1) false]) liveSt liveCx ∧
    (∀ t ∈ liveCx.exec c0, t.region.any (fun r => r.names (nm (.v 9) false)) = true) ∧
    (tst.ctx? = some tcx ∧ tst.damage = [] ∧ tcx.launch.agent = false ∧ (tcx.launch.lr.slot 0).afmt = .none) ∧
    (leadSt.ctx? = some leadCx ∧ leadSt.damage = [] ∧ ∀ l ∈ [[0, 2], [0, 1], [0]], l.contains leadCx.group.role = false) ∧
    (slotSt.ctx? = some slotCx ∧ (slotCx.launch.lr.slot 0).afmt ≠ .none ∧ (slotCx.launch.lr.slot 0).bfmt ≠ .none) ∧
    (detSt.ctx? = some detCx ∧ detCx.launch.lr.det = true ∧ (Opnd.v 8) ≠ .p 15) ∧
    (let m (ws rs : List Names) : Need := { common := c0, writes := ws, reads := rs, ordered := true, afterLog := true }
     let vn (off : BitVec 24) (t : Thread) : Nat := ((effAddr memCx.group t true (.v 2) none 0 off).setWidth 57).toNat
     (Clear (m [nm (.v 8) false] (addrNames (.v 2) true none)) memSt memCx ∧
       Clear (m [] (nm (.v 8) false :: addrNames (.v 2) true none)) memSt memCx ∧
       Clear (m [] [nm (.v 2) true, atomNames .add .n32 (.v 4)]) memSt memCx ∧
       ∀ t ∈ memCx.exec c0, (aperture (vn 2 t)).isSome = false ∧ vn 2 t % 4 ≠ 0) ∧
     Clear (m [nm (.v 8) false] (addrNames (.v 5) false none)) memSt memCx ∧
     Clear { common := c0, writes := [nm (.v 8) false], reads := addrNames (.v 5) false none, ordered := true } memSt memCx ∧
     Clear { common := c0, reads := nm (.v 8) false :: addrNames (.v 5) false none, ordered := true } memSt memCx ∧
     (∀ t ∈ memCx.exec c0, (effAddr memCx.group t false (.v 5) none 0 3).toNat % 4 ≠ 0 ∧
       (effAddr memCx.group t false (.v 5) none 0 0x1000).toNat % 4 = 0 ∧
       memCx.launch.lr.constsize.toNat < (effAddr memCx.group t false (.v 5) none 0 0x1000).toNat + 4 ∧
       (effAddr memCx.group t false (.v 5) none 0 0x10000).toNat % 4 = 0 ∧
       memCx.launch.lr.scratchBytes < (effAddr memCx.group t false (.v 5) none 0 0x10000).toNat + 4)) ∧
    (Clear (regNeed cb0 [] []) tst tcx ∧
      ((tcx.run.pc + (1 : BitVec 32).signExtend 64 - tcx.launch.lr.codeaddr).msb = false ∧
        (tcx.run.pc + (1 : BitVec 32).signExtend 64 - tcx.launch.lr.codeaddr).toNat % 12 ≠ 0) ∧
      (tcx.run.pc + (24 : BitVec 32).signExtend 64 - tcx.launch.lr.codeaddr).toNat = 36 ∧ 36 % 12 = 0 ∧ tcx.launch.lr.codesize.toNat ≤ 36 ∧
      Clear (regNeed cb0 [] [nm (.v 255) false]) tst tcx) := by
  refine ⟨⟨rfl, rfl, rfl, by decide +kernel⟩, reached_of rfl rfl, by decide +kernel, reached_of rfl rfl, by decide +kernel,
    ⟨rfl, rfl, rfl, by decide +kernel⟩, ⟨rfl, rfl, by decide⟩, ⟨rfl, by decide +kernel, by decide +kernel⟩, ⟨rfl, rfl, by decide⟩,
    ⟨⟨clear_of rfl rfl, clear_of rfl rfl, clear_of rfl rfl, by decide +kernel⟩, clear_of rfl rfl, clear_of rfl rfl, clear_of rfl rfl,
      by decide +kernel⟩, clear_of rfl rfl, by decide +kernel, by decide +kernel, by decide, by decide, clear_of rfl rfl⟩

/-- A state in its forms, in which an instruction and a step go on. -/
def formedSt : State := put tst [(2, 0x500000), (6, 100)]
theorem meets_StepsKeepTheForms : State.Formed formedSt ∧ (∃ t, exec addI formedSt = .next t) ∧ ∃ t, step formedSt = .next t := by
  refine ⟨⟨by decide +kernel, by decide +kernel, ?_, by decide +kernel, by decide +kernel⟩, ⟨_, rfl⟩, _, rfl⟩
  have h : ∀ t ∈ formedSt.threads, t.pip = none := by decide +kernel
  exact fun t ht p hp => by simp [h t ht] at hp

/-- A line that core 0 holds, sound, writable and seen; the same before its first write; the last eight bytes of it. -/
def heldL : L1Line := ⟨0, 1, 0x500000, 0x500000, [], BitVec.allOnes 128, 0, 0, 0, 0, true, true⟩
def readL : L1Line := { heldL with wperm := false, seen := false }
def hitSt (l : L1Line) : State := { tst with l1 := [l] }
def site0 : Site := tcx.site

theorem lines_fit (l : L1Line) (h : l ∈ [heldL, readL]) : (hitSt l).LinesFit := by
  simp only [List.mem_cons, List.not_mem_nil, or_false] at h
  rcases h with rfl | rfl <;> exact ⟨by decide +kernel, by decide +kernel, by decide +kernel⟩
/-- A translation that the program's TLB entry gives. -/
theorem goes_to {s : State} {va : Nat} {acc : Access} (h : s.tlb.find? (·.covers 0 1 va) = some placedTlb)
    (hp : s.place? va true true = .ok va true true) (ha : acc ≠ .fetch) : s.translate 0 1 va acc true = (s, .ok va true true) := by
  rw [State.translate, h]
  cases acc <;> simp_all [placedTlb]
theorem bare_fits : tst.LinesFit := ⟨by decide +kernel, by decide +kernel, by decide +kernel⟩
theorem bare_sound : tst.Sound := ⟨rfl, rfl, by decide +kernel, by decide +kernel⟩

/-- A hit; a line that must first be made writable; a miss; an ejected thread; an atomic, a compare-and-swap that matches and one that
does not. -/
theorem meets_AccessesReadAndWriteTheirBytes :
    (aperture 0x500078 = none ∧ heldL.bytes.wf = true ∧ 120 + 8 ≤ 128 ∧ 0x500078 % 128 = 120 ∧ inHost 0x500078 = false) ∧
    ((hitSt heldL).damage = [] ∧ (hitSt heldL).LinesFit ∧ (hitSt heldL).l1? 0 1 0x500078 = some heldL ∧ heldL.holds 120 8 = true ∧
      heldL.poison &&& lineWords 120 8 = 0) ∧
    (((hitSt readL).l1? 0 1 0x500078).filter (fun l => l.wperm && l.seen) = none ∧
      (hitSt readL).translate 0 1 0x500078 .write true = (hitSt readL, .ok 0x500078 true true) ∧ (hitSt readL).LinesFit ∧
      (hitSt readL).l1? 0 1 0x500078 = some readL ∧ readL.pline = lineOf 0x500078) ∧
    (tst.LinesFit ∧ tst.Sound ∧ tst.memWf = true ∧ tst.l1? 0 1 0x500078 = none ∧ tst.l1 = [] ∧
      ∀ a ∈ [Access.read, Access.write], tst.translate 0 1 0x500078 a true = (tst, .ok 0x500078 true true)) ∧
    BitVec.ofNat 64 (tst.mem.le 0x500078 8) = 0 ∧ site0 = ⟨0, false, 1, false⟩ ∧ (BitVec.ofNat 57 0x500078).toNat = 0x500078 := by
  refine ⟨⟨by decide +kernel, by decide +kernel, by decide, by decide, by decide +kernel⟩, ⟨rfl, lines_fit _ (by simp), rfl, by decide +kernel, by decide +kernel⟩,
    ⟨by decide +kernel, goes_to rfl (by decide +kernel) (by simp), lines_fit _ (by simp), rfl, by decide +kernel⟩, ⟨bare_fits, bare_sound, by decide +kernel, rfl, rfl, ?_⟩,
    by decide +kernel, rfl, by decide⟩
  intro a ha
  simp only [List.mem_cons, List.not_mem_nil, or_false] at ha
  rcases ha with rfl | rfl <;> exact goes_to rfl (by decide +kernel) (by simp)

/-! Clauses of the device's own events. -/

/-- A re-planted launch whose blocks all stand, and one of which a block is still recorded. -/
def replantL : Launch := { placedLaunch with started := false }
def replantSt (b : Block) : State := { hostSt with launches := [replantL], blocks := [b] }
/-- A debug command on a register by its encoding. -/
def dbgR (op reg : Nat) : BitVec 64 := BitVec.ofNat 64 (op * 2 ^ 60 + reg * 2 ^ 48)
theorem meets_BlocksComeAndGo_start :
    (∀ b ∈ [Block.fresh placedLaunch 0 0 0, outB], (replantSt b).agentFor replantL = true ∧ (replantSt b).heldForAll replantL = false) ∧
    replantL.started = false ∧ replantL.lr.admitall = false ∧
    (replantSt (Block.fresh placedLaunch 0 0 0)).mayStart replantL = true ∧
    (replantSt (Block.fresh placedLaunch 0 0 0)).toPlace replantL = .start ∧
    (replantSt outB).mayStart replantL = false ∧ (replantSt outB).nextRecorded replantL = some outB ∧
    claimSt.readCaps.claimPlan claimL 191 95 = some [(191, 95)] ∧ claimSt.readCaps.claimPlan claimL 191 0 = none ∧
    (({ (kidSt childC).childRecord 1 childC |>.1 with children := [] } : State).takeOn 1 0 none (some 0) (some 0x809000)
      ((kidSt childC).childRecord 1 childC).2).2 = none := by
  refine ⟨?_, ?_, ?_, ?_, ?_, ?_, ?_, ?_, ?_, ?_⟩ <;> decide +kernel

/-- Work held for a harvest of its PASID, and once the harvest is over; a group of the agent in a cluster that is gated. -/
def heldE : LogEntry := { faultE with kind := .held }
def heldSt (m : List MaintOp) : State := { tst with oplog := [heldE], maint := m }
theorem meets_AddressSpaceEventsComplete_held :
    (∀ m, ∃ e, (heldSt m).oplog.find? (·.id == 7) = some e ∧ e.kind = .held) ∧
    (heldSt [⟨.harvest q10 0 1 0 none, []⟩]).harvesting 1 = true ∧ (heldSt []).harvesting 1 = false ∧ faultE.kind ≠ .held ∧
    (heldSt []).ready = true ∧ (heldSt []).askedHost (((heldSt []).sameRequest heldE).flatMap LogEntry.away |>.foldl
      (fun (s : State) va => s.follow heldE.pasid va) (heldSt [])) = false ∧
    (agtSt.blocks.all (fun b => (agtSt.launch? b.launch).any (·.agent)) = true ∧ agtSt.gated.contains 0 = false) :=
  ⟨fun _ => ⟨_, rfl, rfl⟩, by decide +kernel, by decide +kernel, by decide, by decide +kernel, by decide +kernel, by decide +kernel,
    by decide +kernel⟩

/-- A matrix command whose block a Proofer has made canonical. -/
def frozenSt : State := { headSt (zeroCmd true) with launches := [{ placedLaunch with proofer := some ⟨5, [0], .out⟩ }] }
theorem meets_MatrixCommandsStartAndComplete_held :
    (frozenSt.matrixHeld (zeroCmd true) = true ∧ ∃ p, frozenSt.pair? 0 = some p ∧ p.queue = [zeroCmd true]) ∧
    (headSt (zeroCmd true)).matrixHeld (zeroCmd true) = false ∧
    ∃ b2 p2, ((headSt (zeroCmd true)).overMatrix placedRec (Block.fresh placedLaunch 0 0 0) 0 (zeroCmd true)).block? 0 0 = some b2 ∧
      ((headSt (zeroCmd true)).overMatrix placedRec (Block.fresh placedLaunch 0 0 0) 0 (zeroCmd true)).pair? 0 = some p2 :=
  ⟨⟨by decide +kernel, _, rfl, rfl⟩, by decide +kernel, _, _, rfl, rfl⟩

/-- The registers that a debug command may name; one that is poisoned; a mask, which the group holds. -/
theorem meets_DebugCommandsAct_registers :
    let g := Group.fresh placedRef 0 0
    dbgReg placedLaunch g (dbgR 1 0x200) = some (.s 0) ∧ dbgReg placedLaunch g (dbgR 1 0x5) = some (.v 5) ∧
    dbgReg placedLaunch g (dbgR 1 0xFFF) = none ∧ poisoned g { haltT with vpoison := [5] } (.v 5, 1) = true ∧ dbgSt.damage = [] ∧
    (∃ w, ∃ i, dbgReg placedLaunch g w = some (.f i)) ∧ (∃ w, ∃ i, dbgReg placedLaunch g w = some (.m i)) := by
  refine ⟨by decide +kernel, by decide +kernel, by decide +kernel, by decide +kernel, by decide +kernel, ⟨dbgR 1 0x620, 0, by decide +kernel⟩,
    ⟨dbgR 1 0x600, 0, by decide +kernel⟩⟩

/-- A request without a path, lost a millisecond ago, and lost just now. -/
def pathless (now : Nat) : State := { lostSt (Port.fresh 0) lostT with time := now }
theorem meets_RequestsAreSentAgainOrGivenUp_time :
    (∀ n, (pathless n).txns.find? (·.id == 7) = some lostT ∧ lostT.lost = some 0) ∧
    (pathless (1000 * microsecond)).pathTo lostT.dst (flitOffset lostT.flit) = none ∧
    0 + 1000 * microsecond ≤ (pathless (1000 * microsecond)).time ∧ (pathless 0).time < 0 + 1000 * microsecond :=
  ⟨fun _ => ⟨rfl, rfl⟩, by decide +kernel, by decide +kernel, by decide +kernel⟩

end Sys2Proof.Tests
end

section
/-! Every step keeps the forms (O10). `State.Formed` says that memory and every register file are in canonical form, and the
agenda an agenda of events. The rules for the parts of a state come first, then one lemma for each function of the model that
gives a state, in the model's order and under the name of the file that defines it; `exec` and `step` are assembled from
them. -/

namespace Sys2Proof.Machine

/-! Proofs are checked one after another: side by side, so many would ask for too many threads. -/

set_option Elab.async false

variable {s t : State} {α : Type}

/-- The register files of a pip context are in canonical form. -/
structure Pip.Formed (p : Pip) : Prop where
  vregs : p.vregs.wf = true
  sregs : p.sregs.wf = true
  flags : p.flags.wf = true

/-- The register files of a thread, and those of its pip context, are in canonical form. -/
structure Thread.Formed (t : Thread) : Prop where
  vregs : t.vregs.wf = true
  handles : t.handles.wf = true
  pip : ∀ p, t.pip = some p → p.Formed

/-- The register files and the counts of a group are in canonical form. -/
structure Group.Formed (g : Group) : Prop where
  sregs : g.sregs.wf = true
  masks : g.masks.wf = true
  flags : g.flags.wf = true
  outstanding : g.outstanding.wf = true

theorem State.Formed.thread (h : s.Formed) {t : Thread} (ht : t ∈ s.threads) : t.Formed :=
  ⟨(h.threads t ht).1, (h.threads t ht).2, fun p hp => let ⟨v, u, f⟩ := h.pips t ht p hp; ⟨v, u, f⟩⟩

theorem State.Formed.group (h : s.Formed) {g : Group} (hg : g ∈ s.groups) : g.Formed :=
  let ⟨u, m, f, o⟩ := h.groups g hg; ⟨u, m, f, o⟩

/-- A state is in its forms when its memory, its threads, its groups and its agenda are. -/
theorem State.Formed.of_parts (hm : s.memWf = true) (ht : ∀ t ∈ s.threads, t.Formed) (hg : ∀ g ∈ s.groups, g.Formed)
    (ha : ∀ i ∈ s.agenda, encode i = none) : s.Formed where
  mem := hm
  threads t h := ⟨(ht t h).vregs, (ht t h).handles⟩
  pips t h p hp := let q := (ht t h).pip p hp; ⟨q.vregs, q.sregs, q.flags⟩
  groups g h := let q := hg g h; ⟨q.sregs, q.masks, q.flags, q.outstanding⟩
  agenda := ha

/-- A change of other fields keeps the forms. -/
theorem State.Formed.frame (h : s.Formed) (hm : t.mem = s.mem := by rfl) (ht : t.threads = s.threads := by rfl)
    (hg : t.groups = s.groups := by rfl) (ha : t.agenda = s.agenda := by rfl) : t.Formed :=
  ⟨by rw [State.memWf, hm]; exact h.mem, ht ▸ h.threads, ht ▸ h.pips, hg ▸ h.groups, ha ▸ h.agenda⟩

theorem Thread.Formed.frame {t u : Thread} (h : t.Formed) (hv : u.vregs = t.vregs := by rfl)
    (hh : u.handles = t.handles := by rfl) (hp : u.pip = t.pip := by rfl) : u.Formed :=
  ⟨hv ▸ h.vregs, hh ▸ h.handles, hp ▸ h.pip⟩

theorem Group.Formed.frame {g u : Group} (h : g.Formed) (hs : u.sregs = g.sregs := by rfl) (hm : u.masks = g.masks := by rfl)
    (hf : u.flags = g.flags := by rfl) (ho : u.outstanding = g.outstanding := by rfl) : u.Formed :=
  ⟨hs ▸ h.sregs, hm ▸ h.masks, hf ▸ h.flags, ho ▸ h.outstanding⟩

theorem Pip.Formed.frame {p q : Pip} (h : p.Formed) (hv : q.vregs = p.vregs := by rfl) (hs : q.sregs = p.sregs := by rfl)
    (hf : q.flags = p.flags := by rfl) : q.Formed := ⟨hv ▸ h.vregs, hs ▸ h.sregs, hf ▸ h.flags⟩

/-- What an instruction answers is in its forms, if it answers a next state. -/
def Out.Formed : Out → Prop
  | .next t => t.Formed
  | _ => True

/-- The state that an instruction's act gives is in its forms. -/
def Act.Formed : Act → Prop
  | .done t | .over t | .trap t _ => t.Formed
  | .stall => True

/-- The state in which the next step is performed is in its forms. -/
def Next.Formed : Next → Prop
  | .exec _ t | .done t => t.Formed

/-- The state that may follow is in its forms. -/
def Opt.Formed : Option State → Prop
  | some t => t.Formed
  | none => True

/-! The state among several results, and the state that a choice, a fold or an act gives. -/

theorem State.Formed.left {p : State × α} {x : α} (h : p.1.Formed) (e : p = (t, x)) : t.Formed := by subst e; exact h
theorem State.Formed.right {p : α × State} {x : α} (h : p.2.Formed) (e : p = (x, t)) : t.Formed := by subst e; exact h

theorem State.Formed.fst {x : α} (h : s.Formed) : (s, x).1.Formed := h
theorem State.Formed.snd {x : α} (h : s.Formed) : (x, s).2.Formed := h

theorem Opt.Formed.some {o : Option State} (h : Opt.Formed o) (e : o = some t) : t.Formed := by subst e; exact h
theorem Opt.Formed.map {f : α → State} {o : Option α} (hf : ∀ x, (f x).Formed) : Opt.Formed (o.map f) := by
  cases o with
  | none => trivial
  | some x => exact hf x
theorem Opt.Formed.orElse {o : Option State} {p : Unit → Option State} (h : Opt.Formed o) (hp : Opt.Formed (p ())) :
    Opt.Formed (o.orElse p) := by
  cases o with
  | none => exact hp
  | some => exact h
theorem Out.Formed.next {o : Out} (h : Out.Formed o) (e : o = .next t) : t.Formed := by subst e; exact h

theorem Act.Formed.done {a : Act} (h : a.Formed) (e : a = .done t) : t.Formed := by subst e; exact h
theorem Act.Formed.over {a : Act} (h : a.Formed) (e : a = .over t) : t.Formed := by subst e; exact h
theorem Act.Formed.trap {a : Act} {l : List (Nat × Trap)} (h : a.Formed) (e : a = .trap t l) : t.Formed := by subst e; exact h

theorem State.Formed.ite {c : Prop} [Decidable c] (h : s.Formed) (ht : t.Formed) : (if c then s else t).Formed := by
  split
  · exact h
  · exact ht

theorem State.Formed.iteFst {c : Prop} [Decidable c] {p q : State × α} (hp : p.1.Formed) (hq : q.1.Formed) :
    (if c then p else q).1.Formed := by
  split
  · exact hp
  · exact hq

theorem State.Formed.iteSnd {c : Prop} [Decidable c] {p q : α × State} (hp : p.2.Formed) (hq : q.2.Formed) :
    (if c then p else q).2.Formed := by
  split
  · exact hp
  · exact hq

theorem State.Formed.foldlMem {f : State → α → State} {l : List α} (h : s.Formed)
    (hf : ∀ s x, x ∈ l → s.Formed → (f s x).Formed) : (l.foldl f s).Formed := by
  induction l generalizing s with
  | nil => exact h
  | cons x l ih => exact ih (hf s x List.mem_cons_self h) fun s y hy => hf s y (List.mem_cons_of_mem _ hy)

theorem State.Formed.foldl {f : State → α → State} {l : List α} (h : s.Formed)
    (hf : ∀ s x, s.Formed → (f s x).Formed) : (l.foldl f s).Formed := h.foldlMem fun s x _ => hf s x

/-! A change of memory, threads, groups or the agenda alone. -/

theorem State.Formed.withMem (h : s.Formed) (hm : t.memWf = true) (ht : t.threads = s.threads := by rfl)
    (hg : t.groups = s.groups := by rfl) (ha : t.agenda = s.agenda := by rfl) : t.Formed :=
  ⟨hm, ht ▸ h.threads, ht ▸ h.pips, hg ▸ h.groups, ha ▸ h.agenda⟩

theorem State.Formed.withThreads (h : s.Formed) (ht : ∀ x ∈ t.threads, x.Formed) (hm : t.mem = s.mem := by rfl)
    (hg : t.groups = s.groups := by rfl) (ha : t.agenda = s.agenda := by rfl) : t.Formed :=
  .of_parts (memWf_of_eq h.mem hm) ht (hg ▸ fun _ hx => h.group hx) (ha ▸ h.agenda)

theorem State.Formed.withGroups (h : s.Formed) (hg : ∀ x ∈ t.groups, x.Formed) (hm : t.mem = s.mem := by rfl)
    (ht : t.threads = s.threads := by rfl) (ha : t.agenda = s.agenda := by rfl) : t.Formed :=
  .of_parts (memWf_of_eq h.mem hm) (ht ▸ fun _ hx => h.thread hx) hg (ha ▸ h.agenda)

theorem State.Formed.withAgenda (h : s.Formed) (ha : ∀ i ∈ t.agenda, encode i = none) (hm : t.mem = s.mem := by rfl)
    (ht : t.threads = s.threads := by rfl) (hg : t.groups = s.groups := by rfl) : t.Formed :=
  ⟨memWf_of_eq h.mem hm, ht ▸ h.threads, ht ▸ h.pips, hg ▸ h.groups, ha⟩

/-- Events that are added to the agenda keep the forms. -/
theorem State.Formed.withEvents {l : List Instr} (h : s.Formed) (ha : t.agenda = s.agenda ++ l)
    (hl : ∀ i ∈ l, encode i = none) (hm : t.mem = s.mem := by rfl)
    (ht : t.threads = s.threads := by rfl) (hg : t.groups = s.groups := by rfl) : t.Formed :=
  h.withAgenda (fun i hi => (List.mem_append.1 (ha ▸ hi)).elim (h.agenda i) (hl i)) hm ht hg

/-! Keyed updates. -/

/-- A property that an update keeps holds of every entry after it. -/
theorem modify_keeps {β : Type} {p : β → Bool} {f : β → β} {l : List β} {P : β → Prop} (h : ∀ x ∈ l, P x)
    (hf : ∀ x, P x → P (f x)) : ∀ x ∈ modify p f l, P x := by
  intro y hy
  obtain ⟨x, hx, rfl⟩ := List.mem_map.1 hy
  split
  · exact hf x (h x hx)
  · exact h x hx

theorem State.Formed.modThreads {p : Thread → Bool} {f : Thread → Thread} (h : s.Formed)
    (hf : ∀ t, t.Formed → (f t).Formed) : (s.modThreads p f).Formed :=
  .of_parts h.mem (modify_keeps (fun _ ht => h.thread ht) hf) (fun _ hg => h.group hg) h.agenda

theorem State.Formed.modThread {r lane} {f : Thread → Thread} (h : s.Formed) (hf : ∀ t, t.Formed → (f t).Formed) :
    (s.modThread r lane f).Formed := h.modThreads hf

theorem State.Formed.modGroup {r} {f : Group → Group} (h : s.Formed) (hf : ∀ g, g.Formed → (f g).Formed) :
    (s.modGroup r f).Formed :=
  .of_parts h.mem (fun _ ht => h.thread ht) (modify_keeps (fun _ hg => h.group hg) hf) h.agenda

theorem State.Formed.modBlock {l b} {f : Block → Block} (h : s.Formed) : (s.modBlock l b f).Formed := h.frame
theorem State.Formed.modLaunch {i} {f : Launch → Launch} (h : s.Formed) : (s.modLaunch i f).Formed := h.frame
theorem State.Formed.modPair {i} {f : Pair → Pair} (h : s.Formed) : (s.modPair i f).Formed := h.frame
theorem State.Formed.modPort {i} {f : Port → Port} (h : s.Formed) : (s.modPort i f).Formed := h.frame
theorem State.Formed.modCmd {i} {f : Cmd → Cmd} (h : s.Formed) : (s.modCmd i f).Formed := h.frame
theorem State.Formed.modSlice {p} {f : SliceLine → SliceLine} (h : s.Formed) : (s.modSlice p f).Formed := h.frame
theorem State.Formed.modL1 {core p} {f : L1Line → L1Line} (h : s.Formed) : (s.modL1 core p f).Formed := h.frame
theorem State.Formed.modColl {l q} {f : CollState → CollState} (h : s.Formed) : (s.modColl l q f).Formed := h.frame

/-! Register files: what is written to a thread or a group keeps their form. -/

theorem Store.wf_nil {n : Nat} : Store.wf ([] : Store n) = true := rfl

/-- Cells written one after another keep the form. -/
theorem Store.foldl_set_wf {n : Nat} {α : Type} {f : Store n → α → Store n} {l : List α} {m : Store n} (h : m.wf = true)
    (hf : ∀ m x, Store.wf m = true → Store.wf (f m x) = true) : Store.wf (l.foldl f m) = true := by
  induction l generalizing m with
  | nil => exact h
  | cons x l ih => exact ih (hf m x h)

theorem pickRegs_wf {n w : Nat} (m : BitVec n) (st : Store w) : (pickRegs m st).wf = true :=
  Store.foldl_set_wf Store.wf_nil fun r i hr => by split <;> simp only [Store.set_wf, hr]

theorem Thread.Formed.setV {t : Thread} {i x} (h : t.Formed) : (t.setV i x).Formed := by
  unfold Thread.setV
  split
  next p e =>
    have hp := h.pip p e
    exact ⟨h.vregs, h.handles, fun q hq => by cases hq; exact ⟨Store.set_wf _ _ hp.vregs, hp.sregs, hp.flags⟩⟩
  next e => exact ⟨Store.set_wf _ _ h.vregs, h.handles, h.pip⟩

/-- A change of a thread's pip context that keeps its register files. -/
theorem Thread.Formed.withPip {t u : Thread} {f : Pip → Pip} (h : t.Formed) (he : u.pip = t.pip.map f)
    (hp : ∀ p, p.Formed → (f p).Formed) (hv : u.vregs = t.vregs := by rfl) (hh : u.handles = t.handles := by rfl) :
    u.Formed where
  vregs := hv ▸ h.vregs
  handles := hh ▸ h.handles
  pip q hq := by
    rw [he] at hq
    obtain ⟨p, e, rfl⟩ := Option.map_eq_some_iff.1 hq
    exact hp p (h.pip p e)

theorem Thread.Formed.noPip {t u : Thread} (h : t.Formed) (he : u.pip = none := by rfl) (hv : u.vregs = t.vregs := by rfl)
    (hh : u.handles = t.handles := by rfl) : u.Formed :=
  ⟨hv ▸ h.vregs, hh ▸ h.handles, fun p hp => by simp [he] at hp⟩

theorem Thread.Formed.setP {t : Thread} {i b} (h : t.Formed) : (t.setP i b).Formed := by
  unfold Thread.setP
  split
  · exact h
  · split
    next p e => exact ⟨h.vregs, h.handles, fun q hq => by cases hq; exact (h.pip p e).frame⟩
    next => exact h.frame

theorem Thread.Formed.setH {t : Thread} {i x} (h : t.Formed) : (t.setH i x).Formed :=
  ⟨h.vregs, Store.set_wf _ _ h.handles, h.pip⟩

theorem Thread.Formed.write {t : Thread} {o wide x} (h : t.Formed) : (t.write o wide x).Formed := by
  unfold Thread.write
  split
  · split
    · exact h.setV.setV
    · exact h.setV
  · exact h.setP
  · exact h.setH
  · exact h

theorem Thread.Formed.apply {t : Thread} {ws} (h : t.Formed) : (t.apply ws).Formed := by
  unfold Thread.apply
  induction ws generalizing t with
  | nil => exact h
  | cons w ws ih => exact ih h.write

theorem Thread.Formed.land {t : Thread} {i o w x} (h : t.Formed) : (t.land i o w x).Formed := by
  unfold Thread.land
  dsimp only
  split
  · exact h.write
  · have hw : (({ t.write o w x with pip := none } : Thread).write o w x).Formed := (h.write.noPip).write
    exact ⟨hw.vregs, hw.handles, h.write.pip⟩

theorem Thread.Formed.finish {t : Thread} {i} (h : t.Formed) : (t.finish i).Formed := by
  unfold Thread.finish
  dsimp only
  split
  · refine .land ?_
    split
    · exact h.land
    · exact h
  · split
    · exact h.land
    · exact h

theorem Thread.Formed.trapRegs {t : Thread} {tr pc clause} (h : t.Formed) : (t.trapRegs tr pc clause).Formed := h.frame
theorem Thread.Formed.enterHandler {t : Thread} {entry} (h : t.Formed) : (t.enterHandler entry).Formed := h.frame
theorem Thread.Formed.goOn {t : Thread} {last} (h : t.Formed) : (t.goOn last).Formed := h.frame
theorem Thread.Formed.onward {t : Thread} {r} (h : t.Formed) : (t.onward r).Formed := h.frame
theorem Thread.Formed.goTo {t : Thread} {r pc} (h : t.Formed) : (t.goTo r pc).Formed := h.frame
theorem Thread.Formed.stay {t : Thread} {r c} (h : t.Formed) : (t.stay r c).Formed := h.frame
theorem Thread.Formed.toResolver {t : Thread} {cx k} (h : t.Formed) : (t.toResolver cx k).Formed := h.frame

theorem Thread.Formed.leaveHandler {t : Thread} {r} (h : t.Formed) : (t.leaveHandler r).Formed := by
  cases r with
  | start | resume => exact h.frame
  | double => exact h

theorem Thread.Formed.ageThread {t : Thread} {r lanes} (h : t.Formed) : (ageThread r lanes t).Formed := by
  unfold Machine.ageThread
  split
  · split <;> exact h.frame
  · exact h

theorem Thread.Formed.backTo {t : Thread} {vs ps pc resume} (h : t.Formed) : (t.backTo vs ps pc resume).Formed := by
  unfold Thread.backTo
  split
  · exact h
  · refine ⟨?_, h.handles, fun p hp => by cases hp⟩
    dsimp only
    exact Store.foldl_set_wf h.vregs fun m i hm => by split <;> simp only [Store.set_wf, hm]

theorem Thread.Formed.recalled {t : Thread} {pc resume} (h : t.Formed) : (t.recalled pc resume).Formed := h.backTo
theorem Thread.Formed.handBack {t : Thread} {pc} (h : t.Formed) : (t.handBack pc).Formed := h.backTo

theorem newPip_formed (e : EjectRec) (g : Group) (t : Thread) (pip : Nat) (since : BitVec 64) (turn : Nat) :
    (newPip e g t pip since turn).Formed := by
  unfold newPip
  constructor <;> dsimp only
  · exact pickRegs_wf ..
  · exact pickRegs_wf ..
  · exact Store.wf_nil

theorem Group.Formed.setS {g : Group} {i x} (h : g.Formed) : (g.setS i x).Formed :=
  ⟨Store.set_wf _ _ h.sregs, h.masks, h.flags, h.outstanding⟩

theorem Group.Formed.write {g : Group} {o wide x} (h : g.Formed) : (g.write o wide x).Formed := by
  unfold Group.write
  split
  · split
    · exact h.setS.setS
    · exact h.setS
  · exact ⟨h.sregs, Store.set_wf _ _ h.masks, h.flags, h.outstanding⟩
  · exact h

theorem Group.Formed.apply {g : Group} {ws} (h : g.Formed) : (g.apply ws).Formed := by
  unfold Group.apply
  induction ws generalizing g with
  | nil => exact h
  | cons w ws ih => exact ih h.write

theorem Group.Formed.finish {g : Group} {i} (h : g.Formed) : (g.finish i).Formed := by
  unfold Group.finish
  split
  · exact h.write
  · exact h

/-! Threads and groups at their start. -/

theorem Thread.fresh_formed (ref : GroupRef) (lane : Nat) (pc rsbase : BitVec 64) : (Thread.fresh ref lane pc rsbase).Formed :=
  ⟨Store.wf_nil, Store.wf_nil, fun p hp => by cases hp⟩

theorem Group.fresh_formed (ref : GroupRef) (role core : Nat) : (Group.fresh ref role core).Formed :=
  ⟨Store.wf_nil, Store.wf_nil, Store.wf_nil, Store.wf_nil⟩

theorem startThreads_formed {l : Launch} {ref : GroupRef} {role : Nat} : ∀ t ∈ startThreads l ref role, t.Formed := by
  intro t ht
  obtain ⟨i, -, rfl⟩ := List.mem_map.1 ht
  exact Thread.fresh_formed ..

theorem freshThreads_formed {l : Launch} {idx : Nat} : ∀ t ∈ freshThreads l idx, t.Formed := by
  intro t ht
  obtain ⟨g, -, h⟩ := List.mem_flatMap.1 ht
  exact startThreads_formed t h

theorem blockGroups_formed {l : Launch} {idx core : Nat} : ∀ g ∈ blockGroups l idx core, g.Formed := by
  intro g hg
  obtain ⟨i, -, rfl⟩ := List.mem_map.1 hg
  exact (Group.fresh_formed ⟨l.id, idx, i⟩ (l.lr.groupRoles.getD i 0) (core + i % l.lr.cores)).frame

theorem agentThreads_formed {l : Launch} {fw : List Byte} {core : Nat} : ∀ t ∈ agentThreads l fw core, t.Formed := by
  intro t ht
  obtain ⟨u, hu, rfl⟩ := List.mem_map.1 ht
  have h := startThreads_formed u hu
  split <;> exact h.frame

theorem agentGroups_formed {p : Part} {id : Nat} : ∀ g ∈ agentGroups p id, g.Formed := by
  intro g hg
  obtain ⟨c, -, rfl⟩ := List.mem_map.1 hg
  exact Group.fresh_formed ..

/-! Threads and groups from an image. -/

theorem regsFrom_wf {bs : List Byte} {a : Nat} {rs : List Nat} {m : Store 32} (h : m.wf = true) :
    (regsFrom bs a rs m).wf = true := by
  induction rs generalizing a m with
  | nil => exact h
  | cons r rs ih => exact ih (Store.set_wf _ _ h)

theorem handlesFrom_wf {bs : List Byte} {a : Nat} {rs : List Nat} {m : Store 64} (h : m.wf = true) :
    (handlesFrom bs a rs m).wf = true := by
  induction rs generalizing a m with
  | nil => exact h
  | cons r rs ih => exact ih (Store.set_wf _ _ h)

theorem loadGroup_formed (bs : List Byte) (l : LaunchRec) (launch a : Nat) : (loadGroup bs l launch a).Formed :=
  ⟨regsFrom_wf Store.wf_nil, handlesFrom_wf Store.wf_nil, Store.wf_nil, Store.wf_nil⟩

/-- Every cell of a register file that is not kept takes an unspecified value, in canonical form. -/
theorem freeStore_wf {s : State} {w : Nat} {keep : Nat → Bool} {n : Nat} {m : Store w} (h : m.wf = true) :
    (s.freeStore keep n m).2.wf = true := by
  induction n generalizing s m with
  | zero => exact h
  | succ n ih =>
    unfold State.freeStore
    split
    · exact ih h
    · exact ih (Store.set_wf _ _ h)

/-! ### Sys2Proof/Machine/State.lean -/

theorem reset_formed : State.reset.Formed :=
  ⟨reset_memWf, fun _ h => (List.not_mem_nil h).elim, fun _ h => (List.not_mem_nil h).elim, fun _ h =>
    (List.not_mem_nil h).elim,
    fun _ h => (List.not_mem_nil h).elim⟩

/-! ### Sys2Proof/Machine/Base.lean -/

theorem State.Formed.fresh (h : s.Formed) : s.fresh.2.Formed := h.frame.snd

theorem State.Formed.free (h : s.Formed) : s.free.2.Formed := h.frame.snd

theorem State.Formed.freeBytes {n} (h : s.Formed) : (s.freeBytes n).1.Formed := by
  induction n generalizing s with
  | zero => exact h
  | succ n ih => exact (ih h.free).fst

theorem State.Formed.choose {n} (h : s.Formed) : (s.choose n).2.Formed := h.frame.snd

/-! ### Sys2Proof/Machine/Errors.lean -/

theorem State.Formed.log {k cause pasid wh count pc} (h : s.Formed) : (s.log k cause pasid wh count pc).Formed := h.frame

theorem State.Formed.notePoison {pasid pa p} (h : s.Formed) : (s.notePoison pasid pa p).Formed := .ite h.log h

theorem State.Formed.spoil {pa} (h : s.Formed) : (s.spoil pa).Formed := .ite h.modSlice h.frame

theorem State.Formed.spoilAll {ws} (h : s.Formed) : (s.spoilAll ws).Formed := h.foldl (fun _ _ hs => hs.spoil)

theorem State.Formed.poisonAt {x1} (h : s.Formed) : (s.poisonAt x1).Formed := by
  unfold State.poisonAt
  split
  · exact h.frame
  · exact h.modSlice
  · exact h.frame
  · exact h.modBlock
  · exact h.modThread (fun _ hx => hx.frame)
  · exact h.modGroup (fun _ hx => hx.frame)
  · exact h.modBlock
  · exact h.modPair

theorem State.Formed.countCorrection {at_} (h : s.Formed) : (s.countCorrection at_).2.Formed := h.frame.snd

theorem State.Formed.meet {pasid why d} (h : s.Formed) : (s.meet pasid why d).Formed :=
  .ite h.frame.countCorrection.log h.frame.poisonAt.log

theorem State.Formed.meetAll {pasid why p} (h : s.Formed) : (s.meetAll pasid why p).Formed := h.foldl (fun _ _ hs => hs.meet)

theorem State.Formed.writeOver {whole touched} (h : s.Formed) : (s.writeOver whole touched).Formed := .ite h.frame.meetAll h

theorem State.Formed.overSlice {pline whole touched} (h : s.Formed) : (s.overSlice pline whole touched).Formed := h.writeOver

theorem State.Formed.overL1 {core pline whole touched} (h : s.Formed) : (s.overL1 core pline whole touched).Formed :=
  h.writeOver

theorem State.Formed.overScratch {launch blk ea n} (h : s.Formed) : (s.overScratch launch blk ea n).Formed := h.writeOver

theorem State.Formed.overWeights {pair off n} (h : s.Formed) : (s.overWeights pair off n).Formed := h.writeOver

theorem State.Formed.overVregs {ref lane m} (h : s.Formed) : (s.overVregs ref lane m).Formed := h.writeOver

theorem State.Formed.overSregs {ref m} (h : s.Formed) : (s.overSregs ref m).Formed := h.writeOver

/-! ### Sys2Proof/Machine/Mem.lean -/

theorem State.Formed.putHome {pa bs} (h : s.Formed) : (s.putHome pa bs).Formed := h.withMem (putHome_memWf pa bs h.mem)

theorem State.Formed.wordHome {l w} (h : s.Formed) : (s.wordHome l w).Formed :=
  .ite (.ite h.putHome.spoil h.putHome) (h.foldl (fun _ _ hs => .ite hs.putHome hs))

theorem State.Formed.visitL1 {core pline off n pasid why} (h : s.Formed) : (s.visitL1 core pline off n pasid why).Formed :=
  h.meetAll

theorem State.Formed.wordsHome {l ws} (h : s.Formed) : (s.wordsHome l ws).Formed :=
  h.overSlice.foldl (fun _ _ hs => .ite hs.wordHome hs)

theorem State.Formed.recallWords {pline ws} (h : s.Formed) : (s.recallWords pline ws).Formed := by
  unfold State.recallWords
  split
  · exact h
  · split
    · exact h
    · dsimp only
      split
      · exact h
      · refine .modSlice ?_
        split
        · exact h.visitL1
        · exact h.visitL1.wordsHome.modL1

theorem State.Formed.evictSlice {pline} (h : s.Formed) : (s.evictSlice pline).Formed := by
  unfold State.evictSlice
  dsimp only
  split
  · exact h.recallWords.meetAll
  · exact h.recallWords.meetAll.frame

theorem State.Formed.touchSlice {pline pasid why} (h : s.Formed) : (s.touchSlice pline pasid why).Formed := by
  unfold State.touchSlice
  split
  · exact h
  · dsimp only
    split
    · exact h.meetAll.frame
    · split
      · exact h.meetAll.frame
      · split
        · exact h.choose.evictSlice.meetAll.frame
        · exact h.choose.meetAll.frame

theorem State.Formed.visitLines {pasid why n x2 x3} (h : s.Formed) : (s.visitLines pasid why n x2 x3).Formed := by
  induction n generalizing s x2 x3 with
  | zero => exact h
  | succ n ih => exact .ite h (ih h.touchSlice.meetAll)

theorem State.Formed.visit {pa n pasid why} (h : s.Formed) : (s.visit pa n pasid why).Formed := h.visitLines

theorem State.Formed.inspect {pa n} (h : s.Formed) : (s.inspect pa n).Formed := h.meetAll

theorem State.Formed.readHome {pa n pasid} (h : s.Formed) : (s.readHome pa n pasid).1.Formed := h.visit.fst

theorem State.Formed.predicted {cluster pline contended} (h : s.Formed) : (s.predicted cluster pline contended).Formed := by
  unfold State.predicted
  split
  · exact h.frame
  · dsimp only
    split
    · exact h.frame
    · split <;> exact h.frame

theorem State.Formed.noteUse {core pline} (h : s.Formed) : (s.noteUse core pline).Formed := h.frame

theorem State.Formed.recallOther {core pline ws} (h : s.Formed) : (s.recallOther core pline ws).Formed := by
  unfold State.recallOther
  split
  · exact .ite h.recallWords h
  · exact h

theorem State.Formed.register {core pline ws} (h : s.Formed) : (s.register core pline ws).Formed :=
  h.touchSlice.recallOther.modSlice.noteUse.modL1.predicted

theorem State.Formed.copyWords {core pline ws} (h : s.Formed) : (s.copyWords core pline ws).Formed := h.modL1

theorem State.Formed.cleanLine {l} (h : s.Formed) : (s.cleanLine l).Formed := by
  unfold State.cleanLine
  split
  · exact h
  · dsimp only
    split
    · exact h.touchSlice.recallOther.visitL1
    · exact h.touchSlice.recallOther.visitL1.wordsHome.register.overL1.copyWords

theorem State.Formed.giveBack {l} (h : s.Formed) : (s.giveBack l).Formed := by
  unfold State.giveBack
  split
  · exact .ite h.recallWords h
  · exact h

theorem State.Formed.dropLine {l} (h : s.Formed) : (s.dropLine l).Formed := h.cleanLine.giveBack.frame

theorem State.Formed.releaseCore {core} (h : s.Formed) : (s.releaseCore core).Formed := h.foldl (fun _ _ hs => hs.cleanLine)

theorem State.Formed.acquireCore {core} (h : s.Formed) : (s.acquireCore core).Formed := h.frame

theorem State.Formed.roomL1 {core} (h : s.Formed) : (s.roomL1 core).Formed := by
  unfold State.roomL1
  dsimp only
  split
  · exact h
  · split
    · exact h.choose.dropLine
    · exact h.choose

theorem State.Formed.nameLine {core pasid va pa wperm seen} (h : s.Formed) :
    (s.nameLine core pasid va pa wperm seen).Formed := by
  unfold State.nameLine
  split
  · exact h.modL1
  · dsimp only
    split
    · exact h.dropLine.roomL1.frame
    · exact h.roomL1.frame

theorem State.Formed.fillLine {core pasid va why} (h : s.Formed) : (s.fillLine core pasid va why).Formed := by
  unfold State.fillLine
  split
  · exact h
  · exact h.visit.overL1.modL1

theorem State.Formed.loadL1 {core pasid va pa n wperm seen} (h : s.Formed) :
    (s.loadL1 core pasid va pa n wperm seen).1.Formed := by
  unfold State.loadL1
  dsimp only
  split
  all_goals
    refine .fst (.visitL1 ?_)
    split
    · exact .ite h h.fillLine
    · exact h.nameLine.fillLine

theorem State.Formed.storeL1 {core pasid va pa bs} (h : s.Formed) : (s.storeL1 core pasid va pa bs).Formed :=
  h.nameLine.overL1.modL1

theorem State.Formed.writeHome {pa bs} (h : s.Formed) : (s.writeHome pa bs).Formed := h.touchSlice.recallWords.overSlice.putHome

theorem State.Formed.writeLines {n x2 x3} (h : s.Formed) : (s.writeLines n x2 x3).Formed := by
  induction n generalizing s x2 x3 with
  | zero => exact h
  | succ n ih => exact .ite h (ih h.writeHome)

theorem State.Formed.readPlace {pa n pasid} (h : s.Formed) : (s.readPlace pa n pasid).1.Formed :=
  h.touchSlice.recallWords.readHome

theorem State.Formed.dropLines {p} (h : s.Formed) : (s.dropLines p).Formed := h.foldl (fun _ _ hs => hs.dropLine)

/-! ### Sys2Proof/Machine/Translate.lean -/

theorem State.Formed.walk {va x1 n} (h : s.Formed) : (s.walk va x1 n).1.Formed := by
  induction n generalizing s x1 with
  | zero =>
    unfold State.walk
    dsimp only
    split
    · split <;> exact h.visit.fst
    · split <;> exact h.visit.visit.fst
  | succ n ih =>
    unfold State.walk
    dsimp only
    split
    · exact h.visit.fst
    · exact h.visit.fst
    · exact ih h.visit

theorem State.Formed.walkFrom {p va} (h : s.Formed) : (s.walkFrom p va).1.Formed := by
  unfold State.walkFrom
  split
  · exact h
  · exact h.walk

theorem State.Formed.markDirty {p va} (h : s.Formed) : (s.markDirty p va).Formed := by
  unfold State.markDirty
  split
  · exact h
  · exact .ite h h.touchSlice.recallWords.writeHome

theorem State.Formed.installTlb {e} (h : s.Formed) : (s.installTlb e).Formed := by
  unfold State.installTlb
  dsimp only
  split
  · exact h.frame
  · split <;> exact h.frame

theorem State.Formed.holdSlow (h : s.Formed) : s.holdSlow.Formed := h.frame

theorem State.Formed.setAD {l wr} (h : s.Formed) : (s.setAD l wr).1.Formed := by
  unfold State.setAD
  dsimp only
  split
  all_goals
    split
    · exact h
    · split
      · exact h.recallWords.writeHome.fst
      · exact h.recallWords.fst

/-- What holds of every value that a recursion on a number gives from the value of the number below. -/
theorem brecOn_keeps {β : Type} {P : β → Prop} {F : (n : Nat) → Nat.below (motive := fun _ => β) n → β}
    (hF : ∀ n b, (∀ m (e : n = m + 1), P (e ▸ b : Nat.below (motive := fun _ => β) (m + 1)).1) → P (F n b)) (n : Nat) :
    P (Nat.brecOn n F) := by
  induction n with
  | zero => exact hF 0 _ fun _ e => nomatch e
  | succ n ih => exact hF (n + 1) _ fun m e => by cases e; exact ih

/-- The recursion is taken level by level, and the walk below a level stands for any that keeps the forms: the kernel, where it
compares two matches on a walk, would evaluate the walk. -/
theorem State.Formed.walkTry {cluster pasid va acc kernel n} (h : s.Formed) :
    (s.walkTry cluster pasid va acc kernel n).1.Formed := by
  delta State.walkTry
  refine brecOn_keeps (P := fun k : State → State × Xlat => ∀ s, s.Formed → (k s).1.Formed) (fun n b ih s h => ?_) n s h
  delta State.walkTry._f
  split
  · exact h
  next m =>
    have again := ih m rfl
    have hv : (if pasid.toNat < 2 ^ ptLog s then s.visit (ptBase s + 32 * pasid.toNat) 32 else s).Formed := .ite h.visit h
    obtain ⟨walk, ew, hw⟩ : ∃ f, f = State.walkFrom ∧ ∀ s p, s.Formed → (f s p va).1.Formed :=
      ⟨_, rfl, fun _ _ h => h.walkFrom⟩
    obtain ⟨set, ea, ha⟩ : ∃ f, f = State.setAD ∧ ∀ s l w, s.Formed → (f s l w).1.Formed :=
      ⟨_, rfl, fun _ _ _ h => h.setAD⟩
    rw [← ew, ← ea]
    dsimp only
    split
    · exact hv
    next p _ =>
      split
      next e => exact ((hw _ p hv).left e).fst
      next e =>
        have hs := (hw _ p hv).left e
        split
        · exact hs.fst
        · split
          · exact hs.holdSlow.fst
          · split
            next e' => exact again _ ((ha _ _ _ hs).left e')
            next e' =>
              have hd := (ha _ _ _ hs).left e'
              exact (State.Formed.ite hd.markDirty hd).installTlb.fst

theorem State.Formed.walkFor {cluster pasid va acc kernel} (h : s.Formed) : (s.walkFor cluster pasid va acc kernel).1.Formed :=
  h.walkTry

theorem State.Formed.translate {cluster pasid va acc kernel} (h : s.Formed) :
    (s.translate cluster pasid va acc kernel).1.Formed := by
  unfold State.translate
  split
  · dsimp only
    split
    all_goals
      split
      · exact h
      · exact h.walkFor
  · exact h.walkFor

/-! ### Sys2Proof/Machine/Ops.lean -/

theorem State.Formed.dropRun (h : s.Formed) : s.dropRun.Formed := h.frame

theorem State.Formed.modRun {f} (h : s.Formed) : (s.modRun f).Formed := by
  unfold State.modRun
  split
  · exact h
  · exact h.frame

theorem State.Formed.rotate (h : s.Formed) : s.rotate.Formed := by
  unfold State.rotate
  split
  · exact h
  · exact h.frame

theorem State.Formed.removeLaunches {ids} (h : s.Formed) : (s.removeLaunches ids).Formed :=
  .of_parts h.mem (fun _ ht => h.thread (List.mem_filter.1 ht).1) (fun _ hg => h.group (List.mem_filter.1 hg).1) h.agenda

theorem State.Formed.packetDone {q idx status aux} (h : s.Formed) : (s.packetDone q idx status aux).Formed := h.frame

theorem State.Formed.spoilBuffers {ps} (h : s.Formed) : (s.spoilBuffers ps).Formed := by
  refine h.foldl (fun _ _ hs => ?_)
  dsimp only
  split
  · exact hs.freeBytes.withMem (Store.setBytes_wf _ _ hs.freeBytes.mem)
  · exact hs

theorem State.Formed.endSaves {q idx status aux} (h : s.Formed) : (s.endSaves q idx status aux).Formed := by
  unfold State.endSaves
  dsimp only
  split
  · exact h
  · split
    · exact h.spoilBuffers.frame
    · exact h.frame

theorem State.Formed.stopContext {id k cause wh pc} (h : s.Formed) : (s.stopContext id k cause wh pc).Formed := by
  unfold State.stopContext
  split
  · exact h
  · refine .log ?_
    split
    · exact h.removeLaunches.endSaves.packetDone
    · exact h.removeLaunches

theorem State.Formed.arriveAt {cluster pasid obj tag} (h : s.Formed) : (s.arriveAt cluster pasid obj tag).1.Formed := by
  unfold State.arriveAt
  dsimp only
  split
  next e => exact (h.translate.left e).fst
  next e => exact (h.translate.left e).fst
  next e =>
    split
    · exact (h.translate.left e).visit.recallWords.fst
    · split
      next e2 => exact ((h.translate.left e).visit.recallWords.translate.left e2).fst
      next e2 => exact ((h.translate.left e).visit.recallWords.translate.left e2).fst
      next e2 =>
        split
        · exact ((h.translate.left e).visit.recallWords.translate.left e2).fst
        · exact ((h.translate.left e).visit.recallWords.translate.left e2).writeHome.fst

theorem State.Formed.arriveHeld {launch blk x} (h : s.Formed) : (s.arriveHeld launch blk x).Formed := by
  unfold State.arriveHeld
  split
  · split
    next e => exact (h.arriveAt.left e).frame
    next e => exact (h.arriveAt.left e).stopContext
    next e => exact (h.arriveAt.left e).modBlock
  · exact h

theorem State.Formed.arriveDue {launch blk} (h : s.Formed) : (s.arriveDue launch blk).Formed := by
  unfold State.arriveDue
  split
  · exact h
  · exact h.modBlock.foldl (fun _ _ hs => hs.arriveHeld)

theorem State.Formed.stepStop {t} (h : s.Formed) : (s.stepStop t).Formed := by
  unfold State.stepStop
  split
  · exact (h.modThread (fun _ hx => hx.frame)).log
  · exact h

theorem State.Formed.stepStops (h : s.Formed) : s.stepStops.Formed := h.foldl (fun _ _ hs => hs.stepStop)

theorem State.Formed.trapThread {r lane tr pc clause} (h : s.Formed) : (s.trapThread r lane tr pc clause).Formed := by
  unfold State.trapThread
  split
  · refine .ite (.log (.modThread ?_ fun _ hx => hx.frame))
      (.ite (.stepStops (.modThread ?_ fun _ hx => hx.enterHandler)) (.stopContext ?_))
    all_goals exact h.modThread fun _ hx => hx.trapRegs
  · exact h

theorem State.Formed.trapThreads {r pc clause l} (h : s.Formed) : (s.trapThreads r pc clause l).Formed := by
  induction l generalizing s with
  | nil => exact h
  | cons x l ih => exact ih h.trapThread

theorem State.Formed.endClause {r yields} (h : s.Formed) : (s.endClause r yields).Formed := by
  refine .ite h.dropRun (.of_parts h.mem (fun t ht => ?_) (modify_keeps (fun _ hg => h.group hg) fun _ hg => hg.frame) h.agenda)
  obtain ⟨u, hu, rfl⟩ := List.mem_map.1 ht
  exact (h.thread hu).ageThread

theorem State.Formed.place {r lanes pc resume} (h : s.Formed) : (s.place r lanes pc resume).Formed :=
  h.modThreads (fun _ hx => hx.frame)

theorem State.Formed.unpark {r} (h : s.Formed) : (s.unpark r).Formed := h.modGroup (fun _ hx => hx.frame)

theorem State.Formed.joinCore {r} (h : s.Formed) : (s.joinCore r).Formed := by
  unfold State.joinCore
  split
  · exact h
  · exact h.acquireCore.unpark

theorem State.Formed.endPipRun {r lane} (h : s.Formed) : (s.endPipRun r lane).Formed := by
  unfold State.endPipRun
  split
  · exact h.frame.modThread (fun _ hx => hx.frame)
  · exact h

theorem State.Formed.recallThread {r lane} (h : s.Formed) : (s.recallThread r lane).Formed := by
  unfold State.recallThread
  split
  · exact h
  · split
    · exact h
    · dsimp only
      split
      · exact h.endPipRun.modThread fun t ht => ht.withPip rfl fun p hp => hp.frame
      · exact (h.endPipRun.overVregs.modThread fun _ hx => hx.recalled).joinCore

theorem State.Formed.recallDue {r} (h : s.Formed) : (s.recallDue r).Formed := h.foldl (fun _ _ hs => hs.recallThread)

theorem State.Formed.tick (h : s.Formed) : s.tick.Formed := h.frame

theorem State.Formed.stall (h : s.Formed) : s.stall.Formed := h.modRun.rotate

theorem State.Formed.trapRun {c tr atHdr} (h : s.Formed) : (s.trapRun c tr atHdr).Formed := by
  unfold State.trapRun
  dsimp only
  split
  · split
    · exact h.recallThread
    · exact h.dropRun
  · exact h.endClause.trapThreads

theorem State.Formed.trapSome {c l} (h : s.Formed) : (s.trapSome c l).Formed := by
  unfold State.trapSome
  dsimp only
  split
  · split
    · exact h.recallThread
    · exact h.dropRun
  · exact h.endClause.place.trapThreads

theorem State.Formed.endRegion {r lanes} (h : s.Formed) : (s.endRegion r lanes).Formed := by
  unfold State.endRegion
  refine .arriveDue (.modBlock (.frame (?_ : (s.modThreads _ _).Formed)))
  exact h.modThreads (fun _ hx => hx.frame)

theorem State.Formed.advance {c} (h : s.Formed) : (s.advance c).Formed := by
  unfold State.advance
  split
  · exact h
  · refine .ite (.ite (.stepStops (.modThreads ?_ fun _ hx => hx.frame)) ?_) h.modRun.rotate
    all_goals exact h.modRun.endClause.place

theorem State.Formed.goOnRun {r c} (h : s.Formed) : (s.goOnRun r c).Formed := by
  unfold State.goOnRun
  split
  · exact h
  · exact .ite h.advance h

theorem State.Formed.meetRegs {n} (h : s.Formed) : (s.meetRegs n).Formed := by
  unfold State.meetRegs
  split
  · exact h
  · exact .ite h h.meetAll

theorem State.Formed.recallRun {c} (h : s.Formed) : (s.recallRun c).Formed := h.foldl (fun _ _ hs => hs.recallThread)

theorem State.Formed.issueOn {n pre own act} (h : s.Formed) (hact : ∀ c ex s, s.Formed → (act c ex s).Formed)
    (hn : ∀ c l s, s.Formed → (n.noted c l s).Formed := by exact fun _ _ _ hs => hs) : Out.Formed
      (issueOn n pre own act s) := by
  unfold Machine.issueOn
  split
  · trivial
  · split
    · exact h.trapRun
    · dsimp only
      split
      · exact h.recallRun
      split
      · exact h.stall
      split
      · exact h.advance
      split
      · exact h.recallRun
      split
      · exact (h.foldl fun _ _ hs => hs.recallThread).stall
      split
      · exact h.stall
      split
      · exact h.trapSome
      split
      · exact h.stall
      split
      · exact (hn _ _ _ h).trapSome
      split
      next e =>
        have hd := (hact _ _ _ h).done e
        exact .goOnRun (.ite hd.endRegion hd)
      next e => exact (hact _ _ _ h).over e
      · exact h.stall
      next e => exact ((hact _ _ _ h).trap e).trapSome

theorem State.Formed.issue {n pre own act} (h : s.Formed) (hact : ∀ c ex s, s.Formed → (act c ex s).Formed)
    (hn : ∀ c l s, s.Formed → (n.noted c l s).Formed := by exact fun _ _ _ hs => hs) : Out.Formed (issue n pre own act s) :=
  h.meetRegs.issueOn hact hn

/-! ### Sys2Proof/Machine/Fetch.lean -/

theorem State.Formed.peek32 {core pasid acc va} (h : s.Formed) : (s.peek32 core pasid acc va).1.Formed := by
  unfold State.peek32
  dsimp only
  split
  next e =>
    split
    · exact (h.translate.left e).visitL1.fst
    · exact (h.translate.left e).visit.fst
  next e => exact (h.translate.left e).fst

theorem State.Formed.fetch32 {core pasid va} (h : s.Formed) : (s.fetch32 core pasid va).1.Formed := h.peek32

theorem State.Formed.peekWords {core pasid x1 n} (h : s.Formed) : (s.peekWords core pasid x1 n).1.Formed := by
  induction n generalizing s x1 with
  | zero => exact h
  | succ n ih =>
    unfold State.peekWords
    split
    next e =>
      split
      next e1 => exact ((ih (h.peek32.left e)).left e1).fst
      next e1 => exact ((ih (h.peek32.left e)).left e1).fst
    next e => exact (h.peek32.left e).fst

theorem State.Formed.fetchWord {core pasid pc} (h : s.Formed) : (s.fetchWord core pasid pc).1.Formed := by
  unfold State.fetchWord
  dsimp only
  split
  next e =>
    split
    next e1 =>
      split
      next e2 => exact (((h.fetch32.left e).fetch32.left e1).fetch32.left e2).fst
      next e2 => exact (((h.fetch32.left e).fetch32.left e1).fetch32.left e2).fst
      next e3 => exact (((h.fetch32.left e).fetch32.left e1).fetch32.left e3).fst
    next e1 => exact ((h.fetch32.left e).fetch32.left e1).fst
    next e2 => exact ((h.fetch32.left e).fetch32.left e2).fst
  next e => exact (h.fetch32.left e).fst
  next e => exact (h.fetch32.left e).fst

theorem State.Formed.fetchBody {core pasid code size n x2} (h : s.Formed) :
    (s.fetchBody core pasid code size n x2).1.Formed := by
  induction n generalizing s x2 with
  | zero => exact h
  | succ n ih =>
    unfold State.fetchBody
    split
    · exact h
    · split
      next e1 =>
        split
        · exact (h.fetchWord.left e1).fst
        · split
          next e => exact ((ih (h.fetchWord.left e1)).left e).fst
          next e => exact ((ih (h.fetchWord.left e1)).left e).fst
      next e => exact (h.fetchWord.left e).fst
      next e => exact (h.fetchWord.left e).fst

theorem State.Formed.checkClause {c form} (h : s.Formed) : (s.checkClause c form).1.Formed := by
  unfold State.checkClause
  dsimp only
  split
  next e => exact (h.fetchBody.left e).fst
  next e => exact (h.fetchBody.left e).fst

theorem State.Formed.fetchFault {c k va} (h : s.Formed) : (s.fetchFault c k va).Formed := by
  unfold State.fetchFault
  refine .frame (?_ : (s.fresh.2.dropRun.modThreads _ _).Formed)
  exact h.fresh.dropRun.modThreads (fun _ hx => hx.frame)

theorem State.Formed.fetchStop {c x1} (h : s.Formed) : (s.fetchStop c x1).Formed := by
  unfold State.fetchStop
  split
  · exact .ite h.recallRun h.fetchFault
  · exact h.trapRun

theorem State.Formed.forgetPass {c} (h : s.Formed) : (s.forgetPass c).Formed := .ite (h.modThreads (fun _ hx => hx.frame)) h

theorem State.Formed.fetchNext {c} (h : s.Formed) : (s.fetchNext c).Formed := by
  unfold State.fetchNext
  dsimp only
  split
  · exact h.forgetPass.trapSome
  · split
    · exact h.forgetPass.trapRun
    · split
      next e => exact (h.forgetPass.fetchWord.left e).fetchStop
      next e => exact (h.forgetPass.fetchWord.left e).fetchStop
      next e2 =>
        split
        · exact (h.forgetPass.fetchWord.left e2).notePoison.trapRun
        · split
          · exact (h.forgetPass.fetchWord.left e2).trapRun
          · split
            · exact h.forgetPass.fetchWord.left e2
            · split
              · split
                next e => exact ((h.forgetPass.fetchWord.left e2).checkClause.left e).trapRun
                next e => exact ((h.forgetPass.fetchWord.left e2).checkClause.left e).trapRun
                next e => exact ((h.forgetPass.fetchWord.left e2).checkClause.left e).fetchStop
              · split
                · exact h.forgetPass.fetchWord.left e2
                · exact (h.forgetPass.fetchWord.left e2).trapRun

/-! ### Sys2Proof/Machine/Vec.lean -/

theorem State.Formed.freeWrs {l} (h : s.Formed) : (s.freeWrs l).1.Formed := by
  induction l generalizing s with
  | nil => exact h
  | cons x l ih => exact (ih h.free).fst

theorem State.Formed.overRegs {ref ex f} (h : s.Formed) : (s.overRegs ref ex f).Formed := by
  unfold State.overRegs
  dsimp only
  split
  · exact h.foldl (fun _ _ hs => hs.overVregs)
  · exact (h.foldl (fun _ _ hs => hs.overVregs)).overSregs

theorem State.Formed.writeAll {ref ex f} (h : s.Formed) : (s.writeAll ref ex f).Formed := by
  unfold State.writeAll
  dsimp only
  split
  · exact h.overRegs.modThreads fun _ hx => hx.apply
  · refine .ite ?_ (.ite (.modGroup ?_ fun _ hg => hg.apply) (.modGroup (.freeWrs ?_) fun _ hg => hg.apply))
    all_goals exact h.overRegs.modThreads fun _ hx => hx.apply

theorem State.Formed.vecOp {c writes reads f} (h : s.Formed) : Out.Formed (vecOp c writes reads f s) :=
  h.issue (fun _ _ _ hs => hs.writeAll)

theorem State.Formed.modFlags {ref pip lanes} {f : Store 16 → Store 16} (h : s.Formed)
    (hf : ∀ m, Store.wf m = true → Store.wf (f m) = true) : (s.modFlags ref pip lanes f).Formed := by
  refine .ite (h.modThreads fun t ht => ?_) (h.modGroup fun g hg => ⟨hg.sregs, hg.masks, hf _ hg.flags, hg.outstanding⟩)
  exact ht.withPip rfl fun p hp => ⟨hp.vregs, hp.sregs, hf _ hp.flags⟩

theorem flagUp_wf {m : Store 16} {i : Nat} (h : m.wf = true) : (flagUp m i).wf = true := Store.set_wf _ _ h

theorem flagDown_wf {m : Store 16} {i : Nat} (h : m.wf = true) : (flagDown m i).wf = true := Store.set_wf _ _ h

theorem State.Formed.countUp {c k f} (h : s.Formed) (e : countUp c k s = some (t, f)) : t.Formed := by
  unfold Machine.countUp at e
  split at e
  · cases e; exact h
  · split at e
    · cases e
    · cases e; exact h.modFlags fun _ hm => flagUp_wf hm

theorem State.Formed.fly {c k lanes f i} (h : s.Formed) (e : s.fly c k lanes f = some (i, t)) : t.Formed := by
  unfold State.fly at e
  split at e
  · cases e
  next e' => cases e; exact (h.countUp e').frame

theorem State.Formed.longOp {c d wide reads f} (h : s.Formed) : Out.Formed (longOp c d wide reads f s) := by
  refine h.issue fun cx ex s hs => ?_
  split
  next e => exact hs.fly e
  next => trivial

/-! ### Sys2Proof/Machine/Integer.lean -/

theorem State.Formed.intOp1 {c ty sat f d a k} (h : s.Formed) : Out.Formed (intOp1 c ty sat f d a k s) := h.vecOp

theorem State.Formed.intOp2 {c ty sat f d a b k} (h : s.Formed) : Out.Formed (intOp2 c ty sat f d a b k s) := h.vecOp

theorem State.Formed.intOp3 {c ty sat f d a b e} (h : s.Formed) : Out.Formed (intOp3 c ty sat f d a b e s) := h.vecOp

theorem State.Formed.execIadd {c ty sat d a b k} (h : s.Formed) : Out.Formed (execIadd c ty sat d a b k s) := h.intOp2

theorem State.Formed.execIadd3 {c ty sat d a b e} (h : s.Formed) : Out.Formed (execIadd3 c ty sat d a b e s) := h.intOp3

theorem State.Formed.execIsub {c ty sat d a b k} (h : s.Formed) : Out.Formed (execIsub c ty sat d a b k s) := h.intOp2

theorem State.Formed.execImul {c ty d a b k} (h : s.Formed) : Out.Formed (execImul c ty d a b k s) := h.intOp2

theorem State.Formed.execImulh {c ty d a b k} (h : s.Formed) : Out.Formed (execImulh c ty d a b k s) := h.intOp2

theorem State.Formed.execImad {c ty sat d a b e} (h : s.Formed) : Out.Formed (execImad c ty sat d a b e s) := h.intOp3

theorem State.Formed.execImadw {c ty d a b e} (h : s.Formed) : Out.Formed (execImadw c ty d a b e s) := h.vecOp

theorem State.Formed.execIabs {c ty sat d a k} (h : s.Formed) : Out.Formed (execIabs c ty sat d a k s) := h.intOp1

theorem State.Formed.execIneg {c ty sat d a k} (h : s.Formed) : Out.Formed (execIneg c ty sat d a k s) := h.intOp1

theorem State.Formed.execImin {c ty d a b k} (h : s.Formed) : Out.Formed (execImin c ty d a b k s) := h.intOp2

theorem State.Formed.execImax {c ty d a b k} (h : s.Formed) : Out.Formed (execImax c ty d a b k s) := h.intOp2

theorem State.Formed.execIsad {c ty d a b e} (h : s.Formed) : Out.Formed (execIsad c ty d a b e s) := h.intOp3

theorem State.Formed.execLea {c wide sh d a b k} (h : s.Formed) : Out.Formed (execLea c wide sh d a b k s) := h.vecOp

theorem State.Formed.carryOp {c wide f carry d a b e} (h : s.Formed) : Out.Formed (carryOp c wide f carry d a b e s) := h.vecOp

theorem State.Formed.execAddc {c wide d a b e} (h : s.Formed) : Out.Formed (execAddc c wide d a b e s) := h.carryOp

theorem State.Formed.execSubc {c wide d a b e} (h : s.Formed) : Out.Formed (execSubc c wide d a b e s) := h.carryOp

theorem State.Formed.execIdiv {c ty d a b k} (h : s.Formed) : Out.Formed (execIdiv c ty d a b k s) := h.intOp2

theorem State.Formed.execIrem {c ty d a b k} (h : s.Formed) : Out.Formed (execIrem c ty d a b k s) := h.intOp2

/-! ### Sys2Proof/Machine/Logic.lean -/

theorem State.Formed.bitOp2 {c wide f d a b k} (h : s.Formed) : Out.Formed (bitOp2 c wide f d a b k s) := h.vecOp

theorem State.Formed.execAndb {c wide d a b k} (h : s.Formed) : Out.Formed (execAndb c wide d a b k s) := h.bitOp2

theorem State.Formed.execOrb {c wide d a b k} (h : s.Formed) : Out.Formed (execOrb c wide d a b k s) := h.bitOp2

theorem State.Formed.execXorb {c wide d a b k} (h : s.Formed) : Out.Formed (execXorb c wide d a b k s) := h.bitOp2

theorem State.Formed.execNotb {c wide d a k} (h : s.Formed) : Out.Formed (execNotb c wide d a k s) := h.vecOp

theorem State.Formed.execTlog {c tt d a b e} (h : s.Formed) : Out.Formed (execTlog c tt d a b e s) := h.vecOp

theorem State.Formed.shiftOp {c wide f d a b k} (h : s.Formed) : Out.Formed (shiftOp c wide f d a b k s) := h.vecOp

theorem State.Formed.execShl {c wide d a b k} (h : s.Formed) : Out.Formed (execShl c wide d a b k s) := h.shiftOp

theorem State.Formed.execShr {c wide d a b k} (h : s.Formed) : Out.Formed (execShr c wide d a b k s) := h.shiftOp

theorem State.Formed.execSar {c wide d a b k} (h : s.Formed) : Out.Formed (execSar c wide d a b k s) := h.shiftOp

theorem State.Formed.execFunl {c d a b e} (h : s.Formed) : Out.Formed (execFunl c d a b e s) := h.vecOp

theorem State.Formed.execFunr {c d a b e} (h : s.Formed) : Out.Formed (execFunr c d a b e s) := h.vecOp

theorem State.Formed.execRot {c wide right d a b k} (h : s.Formed) : Out.Formed (execRot c wide right d a b k s) := h.shiftOp

theorem State.Formed.execBfe {c ty d a b k} (h : s.Formed) : Out.Formed (execBfe c ty d a b k s) := h.vecOp

theorem State.Formed.execBfi {c wide d a b e} (h : s.Formed) : Out.Formed (execBfi c wide d a b e s) := h.vecOp

theorem State.Formed.execBmsk {c d a b k} (h : s.Formed) : Out.Formed (execBmsk c d a b k s) := h.vecOp

theorem State.Formed.countOp {c wide f d a k} (h : s.Formed) : Out.Formed (countOp c wide f d a k s) := h.vecOp

theorem State.Formed.execPopc {c wide d a k} (h : s.Formed) : Out.Formed (execPopc c wide d a k s) := h.countOp

theorem State.Formed.execClz {c wide d a k} (h : s.Formed) : Out.Formed (execClz c wide d a k s) := h.countOp

theorem State.Formed.execCtz {c wide d a k} (h : s.Formed) : Out.Formed (execCtz c wide d a k s) := h.countOp

theorem State.Formed.execBrev {c wide d a k} (h : s.Formed) : Out.Formed (execBrev c wide d a k s) := h.vecOp

theorem State.Formed.execBysel {c d a b e} (h : s.Formed) : Out.Formed (execBysel c d a b e s) := h.vecOp

/-! ### Sys2Proof/Machine/Compare.lean -/

theorem State.Formed.execIsetp {c ty cmp d a b k} (h : s.Formed) : Out.Formed (execIsetp c ty cmp d a b k s) := h.vecOp

theorem State.Formed.execFsetp {c cmp unord d a b k} (h : s.Formed) : Out.Formed (execFsetp c cmp unord d a b k s) := h.vecOp

theorem State.Formed.execHsetp2 {c ty cmp unord d a b e} (h : s.Formed) : Out.Formed (execHsetp2 c ty cmp unord d a b e s) :=
  h.vecOp

theorem State.Formed.execSel {c wide d a b e} (h : s.Formed) : Out.Formed (execSel c wide d a b e s) := h.vecOp

theorem State.Formed.execPset {c tt d a b e} (h : s.Formed) : Out.Formed (execPset c tt d a b e s) := h.vecOp

theorem State.Formed.execP2v {c d} (h : s.Formed) : Out.Formed (execP2v c d s) := h.vecOp

theorem State.Formed.execV2p {c a b k} (h : s.Formed) : Out.Formed (execV2p c a b k s) := h.issue (fun _ _ _ hs => hs.writeAll)

/-! ### Sys2Proof/Machine/Fp32.lean -/

theorem State.Formed.fpOp2 {c ftz f d a b k} (h : s.Formed) : Out.Formed (fpOp2 c ftz f d a b k s) := h.vecOp

theorem State.Formed.execFadd {c rm ftz d a b k} (h : s.Formed) : Out.Formed (execFadd c rm ftz d a b k s) := h.fpOp2

theorem State.Formed.execFsub {c rm ftz d a b k} (h : s.Formed) : Out.Formed (execFsub c rm ftz d a b k s) := h.fpOp2

theorem State.Formed.execFmul {c rm ftz d a b k} (h : s.Formed) : Out.Formed (execFmul c rm ftz d a b k s) := h.fpOp2

theorem State.Formed.execFfma {c rm ftz d a b e} (h : s.Formed) : Out.Formed (execFfma c rm ftz d a b e s) := h.vecOp

theorem State.Formed.execFmin {c nan ftz d a b k} (h : s.Formed) : Out.Formed (execFmin c nan ftz d a b k s) := h.fpOp2

theorem State.Formed.execFmax {c nan ftz d a b k} (h : s.Formed) : Out.Formed (execFmax c nan ftz d a b k s) := h.fpOp2

theorem State.Formed.execFdiv {c rm ftz d a b k} (h : s.Formed) : Out.Formed (execFdiv c rm ftz d a b k s) := h.longOp

theorem State.Formed.fun1 {f c rm ftz d a k} (h : s.Formed) : Out.Formed (fun1 f c rm ftz d a k s) := h.longOp

theorem State.Formed.execFsqrt {c rm ftz d a k} (h : s.Formed) : Out.Formed (execFsqrt c rm ftz d a k s) := h.fun1

theorem State.Formed.execFrcp {c rm ftz d a k} (h : s.Formed) : Out.Formed (execFrcp c rm ftz d a k s) := h.fun1

theorem State.Formed.execFrsq {c ftz d a k} (h : s.Formed) : Out.Formed (execFrsq c ftz d a k s) := h.fun1

theorem State.Formed.execFex2 {c ftz d a k} (h : s.Formed) : Out.Formed (execFex2 c ftz d a k s) := h.fun1

theorem State.Formed.execFlg2 {c ftz d a k} (h : s.Formed) : Out.Formed (execFlg2 c ftz d a k s) := h.fun1

theorem State.Formed.execFsin {c ftz d a k} (h : s.Formed) : Out.Formed (execFsin c ftz d a k s) := h.fun1

theorem State.Formed.execFcos {c ftz d a k} (h : s.Formed) : Out.Formed (execFcos c ftz d a k s) := h.fun1

theorem State.Formed.execFtanh {c ftz d a k} (h : s.Formed) : Out.Formed (execFtanh c ftz d a k s) := h.fun1

theorem State.Formed.execFclass {c d a k} (h : s.Formed) : Out.Formed (execFclass c d a k s) := h.vecOp

/-! ### Sys2Proof/Machine/Route.lean -/

theorem State.Formed.enqueue {port it} (h : s.Formed) : (s.enqueue port it).Formed := h.modPort

theorem State.Formed.sendItem {it} (h : s.Formed) : (s.sendItem it).Formed := by
  unfold State.sendItem
  split
  · exact h.enqueue
  · exact h.frame

theorem State.Formed.oweCredit {port type} (h : s.Formed) : (s.oweCredit port type).Formed := by
  unfold State.oweCredit
  split
  · exact h.modPort
  · exact h

theorem State.Formed.forwarded {it} (h : s.Formed) : (s.forwarded it).Formed := by
  unfold State.forwarded
  split
  · exact h.frame.oweCredit
  · exact h

theorem State.Formed.unstrand (h : s.Formed) : s.unstrand.Formed := by
  unfold State.unstrand
  refine h.frame.foldl (fun _ _ hs => ?_)
  split
  · exact hs.forwarded
  · split
    · exact hs.enqueue
    · exact hs.frame

theorem State.Formed.sendFlit {dst type off len psn payload op cmd lane} (h : s.Formed) :
    (s.sendFlit dst type off len psn payload op cmd lane).2.Formed := by
  unfold State.sendFlit
  split
  next e =>
    dsimp only
    split
    · exact (h.fresh.right e).frame.enqueue
    · exact (h.fresh.right e).frame

/-! ### Sys2Proof/Machine/Access.lean -/

theorem State.Formed.waitLocked {o} (h : s.Formed) (ho : Out.Formed o) : Out.Formed (waitLocked s o) := by
  unfold Machine.waitLocked
  split
  · split
    · exact h
    · exact ho
  · exact ho

theorem State.Formed.sameLine {w va pa} (h : s.Formed) : (s.sameLine w va pa).Formed := by
  unfold State.sameLine
  split
  · exact .ite h h.dropLine
  · exact h

theorem State.Formed.loadPart {w va n} (h : s.Formed) : (s.loadPart w va n).1.Formed := by
  unfold State.loadPart
  dsimp only
  split
  · exact h.loadL1.notePoison.fst
  · split
    next e => exact (h.translate.left e).fst
    next e => exact (h.translate.left e).fst
    next e1 =>
      split
      · exact (h.translate.left e1).holdSlow.fst
      · split
        · exact (h.translate.left e1).frame.fst
        · split
          · exact (h.translate.left e1).readPlace.notePoison.fst
          · exact (h.translate.left e1).sameLine.loadL1.notePoison.fst



theorem State.Formed.loadAtBytes {w a n} (h : s.Formed) : (State.loadAt.bytes w s a n).1.Formed := by
  induction n generalizing s a with
  | zero => exact h
  | succ n ih =>
    unfold State.loadAt.bytes
    split
    next e => exact (h.loadPart.left e).fst
    next e =>
      split
      next e' => exact ((ih (h.loadPart.left e)).left e').fst
      next e' => exact ((ih (h.loadPart.left e)).left e').fst

theorem State.Formed.loadAt {w va n} (h : s.Formed) : (s.loadAt w va n).1.Formed := by
  unfold State.loadAt
  split
  · exact h.loadPart
  · exact h.loadAtBytes

theorem State.Formed.storeAt {w va bs} (h : s.Formed) : (s.storeAt w va bs).1.Formed := by
  unfold State.storeAt
  dsimp only
  split
  · exact h.storeL1.fst
  · split
    next e => exact (h.translate.left e).fst
    next e => exact (h.translate.left e).fst
    next e1 =>
      split
      · exact (h.translate.left e1).holdSlow.fst
      · split
        · exact (h.translate.left e1).frame.fst
        · split
          · exact (h.translate.left e1).writeHome.fst
          · exact (h.translate.left e1).sameLine.storeL1.fst

theorem State.Formed.pushOwn {core pline ws} (h : s.Formed) : (s.pushOwn core pline ws).Formed := by
  unfold State.pushOwn
  dsimp only
  split
  · exact h.meetAll
  · exact .ite h.meetAll h.meetAll.wordsHome

theorem State.Formed.takeWords {core pline ws} (h : s.Formed) : (s.takeWords core pline ws).Formed := h.overL1.copyWords

theorem State.Formed.forget {core pline ws} (h : s.Formed) : (s.forget core pline ws).Formed := h.modL1.modSlice

theorem State.Formed.ownWords {w va pa ws wp seen} (h : s.Formed) : (s.ownWords w va pa ws wp seen).Formed :=
  .ite h.sameLine.nameLine.pushOwn.takeWords.noteUse h.sameLine.nameLine.touchSlice.recallOther.pushOwn.register.takeWords

theorem State.Formed.homeWords {w pa ws} (h : s.Formed) : (s.homeWords w pa ws).Formed :=
  h.touchSlice.recallOther.pushOwn.forget.noteUse.predicted

theorem State.Formed.settleWords {w va pa n wp seen} (h : s.Formed) : (s.settleWords w va pa n wp seen).Formed :=
  .ite h.touchSlice.recallWords (.ite h.homeWords h.ownWords)

theorem State.Formed.settlePeek {w va pa n} (h : s.Formed) : (s.settlePeek w va pa n).Formed :=
  .ite h.touchSlice.recallWords (.ite h.homeWords
    (.ite h.pushOwn.takeWords.noteUse h.touchSlice.recallOther.pushOwn.takeWords.noteUse.predicted))

theorem State.Formed.atomAt {w va op ty v cmp result} (h : s.Formed) : (s.atomAt w va op ty v cmp result).1.Formed := by
  unfold State.atomAt
  extract_lets n go host write
  have hgo {s pa wp seen} (h : s.Formed) : (go s pa wp seen).1.Formed := by
    unfold go
    dsimp only
    split
    · exact h.settleWords.visit.notePoison.fst
    · exact .fst (.ite h.settleWords.visit.putHome h.settleWords.visit.putHome.copyWords)
  have hhost {s pa} (h : s.Formed) : (host s pa).1.Formed := by
    unfold host
    split
    · exact h
    · split
      · exact h.holdSlow.fst
      · exact h.free.frame.fst
  have hwrite {s} (h : s.Formed) : (write s).1.Formed := by
    unfold write
    split
    next e => exact (h.translate.left e).fst
    next e => exact (h.translate.left e).fst
    next e => exact .iteFst (hhost (h.translate.left e)) (hgo (h.translate.left e))
  split
  · split
    next => exact h
    next => exact h
    next e =>
      have ht := h.translate.left e
      split
      · exact hwrite h
      · extract_lets there
        have hp : there.Formed := ht.settlePeek.visit
        split
        · exact hwrite h
        · split
          next e' => exact (ht.translate.left e').fst
          next => exact ht.fst
          next => exact hp.fst
  · exact hwrite h

theorem State.Formed.accessOne {w result q} (h : s.Formed) : (s.accessOne w result q).1.Formed := by
  unfold State.accessOne
  dsimp only
  split
  · exact h
  · split
    · split
      next e => exact (h.loadAt.left e).fst
      next e => exact (h.loadAt.left e).fst
    · exact h.storeAt
    · exact h.atomAt

theorem State.Formed.accessAll {w result l} (h : s.Formed) : (s.accessAll w result l).1.Formed := by
  induction l generalizing s with
  | nil => exact h
  | cons x l ih => exact (ih h.accessOne).fst

theorem State.Formed.readsOnly {w l} (h : s.Formed) : (s.readsOnly w l).Formed := h.accessAll.frame

theorem State.Formed.releaseAt {w wide} (h : s.Formed) : (s.releaseAt w wide).Formed := .ite h.releaseCore h

theorem State.Formed.acquireAt {w wide} (h : s.Formed) : (s.acquireAt w wide).Formed := .ite h.acquireCore h

theorem State.Formed.promote (h : s.Formed) : s.promote.Formed := h.foldl (fun _ _ hs => hs.releaseCore)

theorem State.Formed.pullThread {ref lane} (h : s.Formed) : (s.pullThread ref lane).Formed := h.frame

theorem State.Formed.trapBack {i lane tr} (h : s.Formed) : (s.trapBack i lane tr).Formed := by
  unfold State.trapBack
  split
  · exact h
  · exact .ite (h.endPipRun.modThread (fun _ hx => hx.frame)).recallThread h.pullThread.trapThread

theorem State.Formed.trapFlight {id lanes tr} (h : s.Formed) : (s.trapFlight id lanes tr).Formed := by
  unfold State.trapFlight
  split
  · exact h
  · refine .recallDue (.foldl ?_ (fun _ _ hs => hs.trapBack))
    split
    · dsimp only
      split
      · exact h.frame.modFlags (fun _ hm => flagDown_wf hm)
      · exact h.frame
    · exact h.frame

theorem State.Formed.finishRet {i lane x} (h : s.Formed) : (s.finishRet i lane x).Formed := by
  unfold State.finishRet
  split
  · exact h
  · exact .ite h.trapFlight (.ite h.trapFlight (h.modThread (fun _ hx => hx.frame)).stepStops)

theorem State.Formed.releaseFlight {i done} (h : s.Formed) : (s.releaseFlight i done).Formed := by
  unfold State.releaseFlight
  refine (h.modThreads (fun _ hs => ?_)).stepStops
  split
  · split
    · exact hs.goOn
    · exact hs
  · exact hs

theorem State.Formed.overFlight {i done} (h : s.Formed) : (s.overFlight i done).Formed :=
  .overSregs (.ite h (h.foldl (fun _ _ hs => hs.overVregs)))

theorem State.Formed.recallHolders {i} (h : s.Formed) : (s.recallHolders i).Formed := h.foldl (fun _ _ hs => hs.recallThread)

theorem State.Formed.completeLanes {id} (h : s.Formed) : (s.completeLanes id).Formed := by
  unfold State.completeLanes
  split
  · exact h
  next i _ =>
    extract_lets done written told ended on left acquired gone due
    have hw : written.Formed := h.recallHolders.overFlight.modThreads fun _ hx => hx.finish
    have ht : told.Formed := hw.modGroup fun _ hg => hg.finish
    have he : ended.Formed := .ite ht.endRegion ht
    have ho : on.Formed := .ite (he.foldl fun _ _ hs => .ite hs.finishRet hs) he.releaseFlight
    have ha : acquired.Formed := by
      unfold acquired
      split
      · exact ho.acquireAt
      · exact ho
    have hg : gone.Formed := ha.frame
    have hd : due.Formed := by
      unfold due
      split
      · exact hg.modFlags fun _ hm => flagDown_wf hm
      · exact hg
    split
    · exact h
    · split
      · exact h.recallHolders
      · split
        · exact ho
        · split
          · exact hd.recallDue
          · exact ha.frame.recallDue

theorem State.Formed.arrive {id lane x} (h : s.Formed) : (s.arrive id lane x).Formed := h.frame

theorem State.Formed.logFaults {w id pc clause fs} (h : s.Formed) : (s.logFaults w id pc clause fs).Formed := by
  unfold State.logFaults
  split
  · exact h
  · exact h.frame

theorem State.Formed.sendReqs {id reqs ts} (h : s.Formed) : (s.sendReqs id reqs ts).Formed := by
  induction reqs generalizing s ts with
  | nil => cases ts with
    | nil => exact h
    | cons => exact h.frame
  | cons x reqs ih => exact ih h.sendFlit

/-! ### Sys2Proof/Machine/FlushLog.lean -/

theorem State.Formed.writeEntry {core l e} (h : s.Formed) : (s.writeEntry core l e).Formed := by
  unfold State.writeEntry
  dsimp only
  split
  next e => exact .ite h (h.translate.left e).writeHome
  next e => exact (h.translate.left e).frame
  · exact h

theorem State.Formed.putRun {core l blk es} (h : s.Formed) : (s.putRun core l blk es).Formed :=
  h.foldl (fun _ _ hs => hs.frame.writeEntry)

theorem State.Formed.drainBuffer {core p} (h : s.Formed) : (s.drainBuffer core p).Formed := by
  unfold State.drainBuffer
  refine h.foldl (fun _ _ hs => ?_)
  split
  · exact hs.putRun
  · exact hs

theorem State.Formed.drainBuffers {p} (h : s.Formed) : (s.drainBuffers p).Formed := h.foldl (fun _ _ hs => hs.drainBuffer)

theorem State.Formed.restoreLog {l b} (h : s.Formed) : (s.restoreLog l b).Formed := h.putRun

theorem State.Formed.rewriteEntry {core launch blk slot} (h : s.Formed) : (s.rewriteEntry core launch blk slot).Formed := by
  unfold State.rewriteEntry
  split
  · exact h.writeEntry
  · exact h

/-! ### Sys2Proof/Machine/Meet.lean -/

theorem State.Formed.holdSome {c k lanes x} (h : s.Formed) : (s.holdSome c k lanes x).Formed :=
  .ite (h.endClause.modThreads (fun _ hx => hx.frame)) (h.modRun.modThreads (fun _ hx => hx.frame)).goOnRun

theorem State.Formed.releaseHeld {p ends wide} (h : s.Formed) : (s.releaseHeld p ends wide).Formed := by
  have hb : (if ends then (s.threads.filter (fun t => (p t).isSome)).foldl
      (fun (s : State) t => s.endRegion t.ref (lanesOf [t.lane])) s else s).Formed := .ite
        (h.foldl fun _ _ hs => hs.endRegion) h
  unfold State.releaseHeld
  refine .ite (.foldl (.stepStops ?_) fun _ _ hs => hs.acquireCore) (.stepStops ?_)
  all_goals
    refine hb.withThreads fun t ht => ?_
    obtain ⟨u, hu, rfl⟩ := List.mem_map.1 ht
    split
    · exact (hb.thread hu).goOn
    · exact hb.thread hu

theorem State.Formed.settleBar {launch blk b} (h : s.Formed) : (s.settleBar launch blk b).Formed := by
  unfold State.settleBar
  split
  · exact h
  · split
    · exact h
    · exact .ite h (h.modBlock.modThreads (fun _ hx => hx.frame)).releaseHeld

theorem State.Formed.settleBars {launch blk} (h : s.Formed) : (s.settleBars launch blk).Formed := by
  unfold State.settleBars
  split
  · exact h
  · exact h.foldl (fun _ _ hs => hs.settleBar)

theorem State.Formed.arriveBar {ref lane b e} (h : s.Formed) : (s.arriveBar ref lane b e).Formed := by
  unfold State.arriveBar
  split
  · exact h
  · split
    · exact h
    · exact h.modBlock.modThread (fun _ hx => hx.frame)

theorem State.Formed.applyEntry {w e} (h : s.Formed) : (s.applyEntry w e).1.Formed := by
  unfold State.applyEntry
  split
  next e' => exact (h.translate.left e').fst
  next e' => exact (h.translate.left e').fst
  next e' =>
    have ht := h.translate.left e'
    split
    · exact ht.fst
    · generalize ep : State.atomAt _ w e.va.toNat e.op e.ty e.v e.cmp false = p
      have ha : p.1.Formed := ep ▸ ht.atomAt
      obtain ⟨u, x⟩ := p
      cases x <;> exact ha

theorem State.Formed.applyEntries {w l} (h : s.Formed) : (s.applyEntries w l).1.Formed := by
  induction l generalizing s with
  | nil => exact h
  | cons x l ih =>
    unfold State.applyEntries
    split
    next e => exact ih (h.applyEntry.left e)
    next e => exact (h.applyEntry.left e).fst

theorem State.Formed.applyFlush {launch} (h : s.Formed) : (s.applyFlush launch).Formed := by
  unfold State.applyFlush
  split
  · exact h
  · split
    · exact h
    · dsimp only
      split
      next e => exact (h.applyEntries.left e).modLaunch
      next e =>
        have ha := h.applyEntries.left e
        split
        · exact ha.frame
        · exact ha.modLaunch.stopContext
        · exact ha.modLaunch.stopContext

theorem State.Formed.startFlush {launch w} (h : s.Formed) : (s.startFlush launch w).Formed :=
  h.drainBuffers.frame.modLaunch.applyFlush

theorem State.Formed.finishWide {launch w blks} (h : s.Formed) : (s.finishWide launch w blks).Formed := by
  unfold State.finishWide
  exact .releaseHeld (.ite h.frame h)

theorem State.Formed.sendWide {l t} (h : s.Formed) : (s.sendWide l t).Formed := h.foldl (fun _ _ hs => hs.sendFlit)

theorem State.Formed.completeWide {l w blks} (h : s.Formed) : (s.completeWide l w blks).Formed := .ite h.startFlush h.finishWide

theorem State.Formed.settleSys {l} (h : s.Formed) : (s.settleSys l).Formed := by
  unfold State.settleSys
  split
  · exact h
  next t _ =>
    have hs : (if s.wideArrivals.contains (l.teamTag, l.wbarseq, s.rank t) then s
        else ({ s with wideArrivals := s.wideArrivals ++ [(l.teamTag, l.wbarseq, s.rank t)] }).sendWide l t).Formed :=
      .ite h h.frame.sendWide
    exact .ite hs.frame.completeWide hs

theorem State.Formed.settleExtent {launch w k} (h : s.Formed) : (s.settleExtent launch w k).Formed := by
  unfold State.settleExtent
  split
  · exact h
  · exact .ite h (.ite h.settleSys h.completeWide)

theorem State.Formed.settleWide {launch} (h : s.Formed) : (s.settleWide launch).Formed :=
  (h.foldl (fun _ _ hs => hs.settleExtent)).settleExtent.settleExtent.settleExtent

theorem State.Formed.finishFlush {launch} (h : s.Formed) : (s.finishFlush launch).Formed := by
  unfold State.finishFlush
  split
  · exact h
  · split
    · exact h
    · exact (h.frame.modThreads (fun _ hx => hx.frame)).finishWide

theorem State.Formed.afterExit {ref} (h : s.Formed) : (s.afterExit ref).Formed := .settleWide (.settleBars (.ite h h.unpark))

theorem State.Formed.noteOwing {ref pc l} (h : s.Formed) : (s.noteOwing ref pc l).Formed := h.modGroup (fun _ hx => hx.frame)

theorem State.Formed.arriveAgain {ref pc lanes} (h : s.Formed) : (s.arriveAgain ref pc lanes).Formed :=
  .ite h (h.modGroup (fun _ hx => hx.frame))

theorem State.Formed.goneOn {ref ts} (h : s.Formed) : (s.goneOn ref ts).Formed := .ite h (h.modGroup (fun _ hx => hx.frame))

theorem State.Formed.look {ref} (h : s.Formed) : (s.look ref).Formed := by
  unfold State.look
  refine h.modThreads (fun _ hs => ?_)
  split
  · exact hs.frame
  · exact hs

theorem State.Formed.recallNamed {ref lanes} (h : s.Formed) : (s.recallNamed ref lanes).Formed :=
  h.foldl (fun _ _ hs => hs.recallThread)

/-! ### Sys2Proof/Machine/MemInstr.lean -/

theorem State.Formed.noteReads {result mk c l} (h : s.Formed) : (noteReads result mk c l s).Formed := by
  unfold Machine.noteReads
  refine h.foldl (fun _ _ hs => ?_)
  split
  · exact .ite hs.accessOne hs
  · exact hs

theorem State.Formed.poisonStop {c lane} (h : s.Formed) : (s.poisonStop c lane).Formed := h.stopContext

theorem State.Formed.memAct {p mk cx ex} (h : s.Formed) : (memAct p mk cx ex s).Formed := by
  unfold Machine.memAct
  extract_lets w wide once who released before _
  have hr : released.Formed := h.releaseAt
  have hb : before.Formed := .ite hr.promote.acquireAt hr
  split
  · trivial
  · split
    next e =>
      have hu := hb.accessAll.left e
      extract_lets acquired _
      have ha : acquired.Formed := hu.acquireAt
      split
      · exact hb.readsOnly
      · exact hu.poisonStop
      · split
        · trivial
        · split
          · split
            · exact State.Formed.ite ha.endRegion ha
            · split
              next e => exact ha.fly e
              next => trivial
          · split
            · exact hb
            · split
              · trivial
              · split
                next => trivial
                next e => exact (hu.fly e).sendReqs.logFaults

theorem State.Formed.memOp {n p ea mk} (h : s.Formed) : Out.Formed (memOp n p ea mk s) :=
  h.issue (fun _ _ _ hs => hs.memAct) (fun _ _ _ hs => hs.noteReads)

theorem State.Formed.execLd {c ty scale d a idx mc} (h : s.Formed) : Out.Formed (execLd c ty scale d a idx mc s) := by
  unfold Machine.execLd
  exact h.memOp

theorem State.Formed.execSt {c ty scale d a idx mc} (h : s.Formed) : Out.Formed (execSt c ty scale d a idx mc s) := by
  unfold Machine.execSt
  exact h.memOp

theorem State.Formed.execLdc {c ty lr scale d a idx mc} (h : s.Formed) : Out.Formed (execLdc c ty lr scale d a idx mc s) := by
  refine h.issue (fun cx ex s hs => ?_) fun cx l s hs => ?_
  · split
    · split
      next e => exact hs.fly e
      next => trivial
    · exact hs.memAct
  · dsimp only
    split
    · exact hs.noteReads
    · exact hs

theorem State.Formed.spill {core} (h : s.Formed) : (s.spill core).Formed := .ite h h.drainBuffer

theorem State.Formed.detAct {hash op ty mk cx ex} (h : s.Formed) : (detAct hash op ty mk cx ex s).Formed := by
  unfold Machine.detAct
  split
  · exact h
  · split
    · exact ((h.foldl (fun _ _ hs => hs.frame.spill)).modThreads (fun _ hx => hx.frame)).modBlock
    · exact h

theorem State.Formed.atomOp {c ty op d a b mc isRed} (h : s.Formed) : Out.Formed (atomOp c ty op d a b mc isRed s) := by
  unfold Machine.atomOp
  dsimp only
  split
  · refine h.issue (fun _ _ _ hs => ?_)
    split
    · trivial
    · refine State.Formed.detAct ?_
      split
      · refine .acquireAt ?_
        split
        · refine .promote ?_
          split
          · exact hs.releaseAt
          · exact hs
        · split
          · exact hs.releaseAt
          · exact hs
      · split
        · refine .promote ?_
          split
          · exact hs.releaseAt
          · exact hs
        · split
          · exact hs.releaseAt
          · exact hs
  · exact h.memOp

theorem State.Formed.execAtom {c ty op d a b mc} (h : s.Formed) : Out.Formed (execAtom c ty op d a b mc s) := h.atomOp

theorem State.Formed.execRed {c ty op a b mc} (h : s.Formed) : Out.Formed (execRed c ty op a b mc s) := h.atomOp

theorem State.Formed.execFence {c rp scope order} (h : s.Formed) : Out.Formed (execFence c rp scope order s) := by
  unfold Machine.execFence
  refine h.issue (fun _ _ _ hs => ?_)
  split
  · trivial
  · exact .ite (.acquireAt (.ite (.promote (.ite hs.releaseAt hs)) (.ite hs.releaseAt hs))) (.ite (.promote
      (.ite hs.releaseAt hs)) (.ite hs.releaseAt hs))

theorem State.Formed.prefetch {w slice va} (h : s.Formed) : (s.prefetch w slice va).Formed := by
  unfold State.prefetch
  split
  · exact h
  · split
    next e =>
      exact .ite (h.translate.left e) (.ite (h.translate.left e).visit (h.translate.left e).visit.sameLine.nameLine.fillLine)
    next e => exact h.translate.left e

theorem State.Formed.execPref {c slice a idx offset} (h : s.Formed) : Out.Formed (execPref c slice a idx offset s) :=
  h.issue (fun _ _ _ hs => hs.foldl (fun _ _ ht => ht.prefetch))

/-! ### Sys2Proof/Machine/Scratch.lean -/

theorem State.Formed.putSp {launch blk l} (h : s.Formed) : (s.putSp launch blk l).Formed :=
  (h.foldl (fun _ _ hs => hs.overScratch)).modBlock

theorem State.Formed.readSp {launch blk pasid ea n} (h : s.Formed) : (s.readSp launch blk pasid ea n).1.Formed := by
  unfold State.readSp
  dsimp only
  split
  · exact h.meetAll.notePoison.fst
  · exact h.meetAll.fst

theorem State.Formed.loadSp {launch blk pasid ty ea} (h : s.Formed) : (s.loadSp launch blk pasid ty ea).1.Formed := by
  unfold State.loadSp
  split
  next e => exact (h.readSp.left e).fst
  next e => exact (h.readSp.left e).fst

theorem State.Formed.loadsSp {launch blk pasid ty l} (h : s.Formed) : (s.loadsSp launch blk pasid ty l).1.Formed := by
  induction l generalizing s with
  | nil => exact h
  | cons x l ih => exact (ih h.loadSp).fst

theorem State.Formed.settle {launch blk x1 l} (h : s.Formed) : (s.settle launch blk x1 l).Formed := by
  induction l generalizing s x1 with
  | nil => exact h
  | cons x l ih =>
    unfold State.settle
    split
    · exact ih h
    · split
      · exact ih (.ite h.loadsSp.frame h.loadsSp.frame.trapFlight)
      · exact .ite (ih h.putSp.frame) (ih h)
      · exact ih h

theorem State.Formed.clearLines {launch blk lines} (h : s.Formed) : (s.clearLines launch blk lines).Formed := h.modBlock

theorem State.Formed.releaseLines {launch blk lines} (h : s.Formed) : (s.releaseLines launch blk lines).Formed := by
  unfold State.releaseLines
  dsimp only
  split
  · exact h.modBlock
  · exact h.frame.settle

theorem State.Formed.execLdsp {c ty scale d a idx mc} (h : s.Formed) : Out.Formed (execLdsp c ty scale d a idx mc s) := by
  unfold Machine.execLdsp
  refine h.issue (fun _ _ _ hs => ?_) (fun _ _ _ hs => hs.loadsSp)
  split
  · trivial
  · dsimp only
    split
    all_goals
      split
      · exact .ite hs.loadsSp.writeAll.acquireAt hs.loadsSp.writeAll
      · split
        next e => exact .settle (.fly (.ite hs.loadsSp.writeAll.acquireAt hs.loadsSp.writeAll) e)
        · trivial

theorem State.Formed.execStsp {c ty scale d a idx mc} (h : s.Formed) : Out.Formed (execStsp c ty scale d a idx mc s) := by
  refine h.issue fun cx ex s hs => ?_
  have hr : (if mc.order.isRelease then s.releaseAt cx.site (s.wider mc.scope cx.block cx.run.ref) else s).Formed :=
    .ite hs.releaseAt hs
  dsimp only
  generalize (if mc.order.isRelease = true then s.releaseAt cx.site (s.wider mc.scope cx.block cx.run.ref) else s) = u at hr ⊢
  split
  · trivial
  · split
    · exact hr.putSp
    · split
      next e => exact hr.fly e
      next => trivial

/-! ### Sys2Proof/Machine/Engine.lean -/

theorem State.Formed.finishHandle {launch blk x st} (h : s.Formed) : (s.finishHandle launch blk x st).Formed := h.modBlock

theorem State.Formed.countCmd {ref c up} (h : s.Formed) : (s.countCmd ref c up).Formed :=
  h.modGroup fun _ hg => ⟨hg.sregs, hg.masks, hg.flags, Store.set_wf _ _ hg.outstanding⟩

theorem State.Formed.engineOp {n own full act} (h : s.Formed) (hact : ∀ x0 x1 x2 s, s.Formed → (act x0 x1 x2 s).Formed) :
    Out.Formed (engineOp n own full act s) := by
  unfold Machine.engineOp
  refine h.issue (fun _ _ _ hs => ?_)
  split
  · trivial
  · split
    · trivial
    · dsimp only
      split
      next e2 =>
        split
        · trivial
        · exact ((hact _ _ _ _ hs.modBlock.releaseAt).done e2).writeAll.countCmd
      · exact hact _ _ _ _ hs.modBlock.releaseAt

theorem State.Formed.addCmd {cx ex kind desc x lines early} (h : s.Formed) :
    (s.addCmd cx ex kind desc x lines early).2.Formed :=
  h.frame.snd

theorem State.Formed.engLoad {w va n} (h : s.Formed) : (s.engLoad w va n).1.Formed := by
  unfold State.engLoad
  split
  next e => exact (h.translate.left e).fst
  next e => exact (h.translate.left e).fst
  next e =>
    split
    · exact (h.translate.left e).holdSlow.fst
    · split
      · exact (h.translate.left e).frame.fst
      · exact (h.translate.left e).readHome.notePoison.fst

theorem State.Formed.engStore {w va bs poison} (h : s.Formed) : (s.engStore w va bs poison).1.Formed := by
  unfold State.engStore
  split
  next e => exact (h.translate.left e).fst
  next e => exact (h.translate.left e).fst
  next e =>
    split
    · exact (h.translate.left e).holdSlow.fst
    · split
      · exact (h.translate.left e).frame.fst
      · exact .fst (.ite (h.translate.left e).writeHome.spoil (h.translate.left e).writeHome)

theorem State.Formed.markSp {w ea} (h : s.Formed) : (s.markSp w ea).Formed := h.modBlock

theorem State.Formed.engRead {w at_ a} (h : s.Formed) : (s.engRead w at_ a).1.Formed := by
  unfold State.engRead
  split
  · exact h.engLoad
  · split
    next e => exact (h.readSp.left e).fst
    next e => exact (h.readSp.left e).fst
  · split
    · dsimp only
      split
      · exact h.meetAll.notePoison.fst
      · exact h.meetAll.fst
    · exact h

theorem State.Formed.engWrite {w at_ a bs poison} (h : s.Formed) : (s.engWrite w at_ a bs poison).1.Formed := by
  unfold State.engWrite
  split
  · exact h.engStore
  · exact h.putSp.fst
  · split
    · exact h.overWeights.modPair.fst
    · exact h

theorem State.Formed.copyWordsOf {w c dir later l} (h : s.Formed) : (s.copyWordsOf w c dir later l).1.Formed := by
  induction l generalizing s with
  | nil => exact h
  | cons x l ih =>
    unfold State.copyWordsOf
    split
    all_goals
      split
      · exact ih h
      · split
        next e => exact (h.engRead.left e).fst
        next e => exact (h.engRead.left e).fst
        next e2 =>
          split
          next e =>
            exact .fst (.ite (ih ((h.engRead.left e2).engWrite.left e)).markSp (ih ((h.engRead.left e2).engWrite.left e)))
          next e => exact ((h.engRead.left e2).engWrite.left e).fst
          next e => exact ((h.engRead.left e2).engWrite.left e).fst

theorem State.Formed.chunkFault {c pasid chunk k va} (h : s.Formed) : (s.chunkFault c pasid chunk k va).Formed := h.frame

theorem State.Formed.landLines {c still} (h : s.Formed) : (s.landLines c still).Formed := .ite h h.modCmd.releaseLines

theorem State.Formed.finishCmd {id st} (h : s.Formed) : (s.finishCmd id st).Formed := by
  unfold State.finishCmd
  split
  · exact h
  · exact h.landLines.frame.finishHandle.countCmd

/-! ### Sys2Proof/Machine/Barriers.lean -/

theorem State.Formed.arriveEach {ref b e l} (h : s.Formed) : (s.arriveEach ref b e l).1.Formed := by
  induction l generalizing s with
  | nil => exact h
  | cons x l ih => exact (ih h.arriveBar.settleBar).fst

theorem State.Formed.execBar {c a b k} (h : s.Formed) : Out.Formed (execBar c a b k s) := by
  unfold Machine.execBar
  refine h.issue (fun _ _ _ hs => ?_)
  split
  · trivial
  · dsimp only
    split
    · exact .ite hs.releaseAt.arriveEach.endRegion hs.releaseAt.arriveEach.endRegion.acquireAt
    · exact .holdSome (.ite hs.releaseAt.arriveEach.endRegion hs.releaseAt.arriveEach.endRegion.acquireAt)

theorem State.Formed.execBara {c a b k} (h : s.Formed) : Out.Formed (execBara c a b k s) := by
  unfold Machine.execBara
  refine h.issue (fun _ _ _ hs => ?_)
  split
  · trivial
  · exact hs.releaseAt.arriveEach

theorem State.Formed.execBarw {c a} (h : s.Formed) : Out.Formed (execBarw c a s) := h.issue (fun _ _ _ hs => hs.holdSome)

theorem State.Formed.meetWide {c x cx ex} (h : s.Formed) : (meetWide c x cx ex s).Formed := by
  unfold Machine.meetWide
  split
  · trivial
  · exact h.releaseAt.endRegion.holdSome.settleWide

theorem State.Formed.execWbar {c ext} (h : s.Formed) : Out.Formed (execWbar c ext s) := h.issue (fun _ _ _ hs => hs.meetWide)

theorem State.Formed.execFlushpt {c} (h : s.Formed) : Out.Formed (execFlushpt c s) := h.issue (fun _ _ _ hs => hs.meetWide)

theorem State.Formed.readPieces {w x1 n} (h : s.Formed) : (s.readPieces w x1 n).1.Formed := by
  induction n generalizing s x1 with
  | zero => exact h
  | succ n ih =>
    unfold State.readPieces
    split
    next e =>
      split
      next e1 => exact ((ih (h.engLoad.left e)).left e1).fst
      next e1 => exact ((ih (h.engLoad.left e)).left e1).fst
      next e1 => exact ((ih (h.engLoad.left e)).left e1).fst
    next e => exact (h.engLoad.left e).fst
    next e => exact (h.engLoad.left e).fst

theorem State.Formed.execDlaunch {c d a e} (h : s.Formed) : Out.Formed (execDlaunch c d a e s) := by
  unfold Machine.execDlaunch
  refine h.issue (fun _ _ _ hs => ?_)
  split
  · trivial
  · dsimp only
    split
    · split
      next e => exact hs.releaseAt.fly e
      · trivial
    · split
      next e3 =>
        split
        · trivial
        · exact (hs.releaseAt.readPieces.left e3).fetchFault
      next e => exact (hs.releaseAt.readPieces.left e).fetchFault
      next e3 =>
        split
        · exact hs.releaseAt.readPieces.left e3
        · split
          next e => exact (hs.releaseAt.readPieces.left e3).frame.fly e
          · trivial

/-! ### Sys2Proof/Machine/HostIf.lean -/

theorem State.Formed.answer {m} (h : s.Formed) : (s.answer m).Formed := h.frame

theorem State.Formed.hostWrite {t f} (h : s.Formed) (hf : ∀ s, s.Formed → (f s).Formed) : (s.hostWrite t f).Formed := by
  unfold State.hostWrite
  split
  · exact hf _ h
  · exact h.answer
  · exact h

/-! ### Sys2Proof/Machine/Control.lean -/

theorem State.Formed.leave {cx k ex f} (h : s.Formed) (hf : ∀ t, t.Formed → (f t).Formed) : (s.leave cx k ex f).Formed := by
  unfold State.leave
  refine (h.endClause.modThreads (fun _ hs => ?_)).stepStops
  split
  · exact hf _ hs
  · exact hs.frame.onward

theorem State.Formed.branchOp {c reads target} (h : s.Formed) : Out.Formed (branchOp c reads target s) :=
  h.issue (fun _ _ _ hs => hs.leave (fun _ hx => hx.goTo))

theorem State.Formed.execBra {c off} (h : s.Formed) : Out.Formed (execBra c off s) := h.branchOp

theorem State.Formed.execBrx {c a} (h : s.Formed) : Out.Formed (execBrx c a s) := h.branchOp

theorem State.Formed.findEject {core pasid base boff n x2 x3} (h : s.Formed) :
    (s.findEject core pasid base boff n x2 x3).1.Formed := by
  induction n generalizing s x2 x3 with
  | zero => exact h
  | succ n ih =>
    unfold State.findEject
    split
    · exact h
    · dsimp only
      split
      next e => exact (h.peekWords.left e).fst
      next e => exact (h.peekWords.left e).fst
      next e1 =>
        split
        · exact (h.peekWords.left e1).fst
        · split
          · exact (h.peekWords.left e1).fst
          · split <;> exact ih (h.peekWords.left e1)

theorem State.Formed.meetHandOver {cx e lane} (h : s.Formed) : (s.meetHandOver cx e lane).Formed := h.meetAll

theorem State.Formed.ejectAll {cx e ts} (h : s.Formed) : (s.ejectAll cx e ts).Formed := by
  induction ts generalizing s with
  | nil => exact h
  | cons t ts ih =>
    unfold State.ejectAll
    split
    · exact h
    · refine ih (h.meetHandOver.modThread fun t ht => ⟨ht.vregs, ht.handles, fun p hp => ?_⟩)
      cases hp
      exact newPip_formed ..

theorem State.Formed.execBraDv {c off} (h : s.Formed) : Out.Formed (execBraDv c off s) := by
  unfold Machine.execBraDv
  refine h.issue (fun _ _ _ hs => ?_)
  dsimp only
  split
  all_goals
    split
    · exact hs.leave (fun _ hx => hx.goTo)
    · split
      · trivial
      · split
        next e => exact (hs.findEject.left e).fetchFault
        next e => exact (hs.findEject.left e).leave (fun _ hx => hx.goTo)
        next e3 =>
          split
          · exact ((hs.findEject.left e3).leave (fun _ hx => hx.goTo)).releaseCore.ejectAll.recallNamed
          · exact (hs.findEject.left e3).leave (fun _ hx => hx.goTo)

theorem State.Formed.callOp {c reads target} (h : s.Formed) : Out.Formed (callOp c reads target s) := by
  unfold Machine.callOp
  refine h.issue (fun _ _ _ hs => ?_)
  split
  next e => exact (hs.memAct.done e).leave (fun _ hx => hx.frame.goTo)
  · exact hs.memAct

theorem State.Formed.execCall {c off} (h : s.Formed) : Out.Formed (execCall c off s) := h.callOp

theorem State.Formed.execCalli {c a} (h : s.Formed) : Out.Formed (execCalli c a s) := h.callOp

theorem State.Formed.readBinding {cx k} (h : s.Formed) : (s.readBinding cx k).1.Formed := by
  unfold State.readBinding
  split
  next e => exact (h.translate.left e).fst
  next e => exact (h.translate.left e).fst
  next e =>
    dsimp only
    split
    · exact (h.translate.left e).recallWords.visit.notePoison.fst
    · exact (h.translate.left e).recallWords.visit.fst

theorem State.Formed.setResolving {cx k} (h : s.Formed) : (s.setResolving cx k).1.Formed := by
  unfold State.setResolving
  split
  next e => exact (h.translate.left e).fst
  next e => exact (h.translate.left e).fst
  next e => exact (h.translate.left e).recallWords.writeHome.fst

theorem State.Formed.waitFault {cx lane k va} (h : s.Formed) : (s.waitFault cx lane k va).Formed := by
  unfold State.waitFault
  refine .frame (?_ : (s.fresh.2.modThread _ _ _).Formed)
  exact h.fresh.modThread (fun _ hx => hx.stay)

theorem State.Formed.bindings {cx ix l} (h : s.Formed) : (s.bindings cx ix l).1.Formed := by
  induction l generalizing s with
  | nil => exact h
  | cons x l ih => exact (ih h.readBinding).fst

theorem State.Formed.resolveAll {cx l} (h : s.Formed) : (s.resolveAll cx l).1.Formed := by
  induction l generalizing s with
  | nil => exact h
  | cons x l ih => exact (ih h.setResolving).fst

theorem State.Formed.execCallt {c a k} (h : s.Formed) : Out.Formed (execCallt c a k s) := by
  unfold Machine.execCallt
  refine h.issue (fun _ _ _ hs => ?_) (fun _ _ _ hs => hs.bindings)
  split
  · trivial
  · dsimp only
    split
    · trivial
    · split
      · exact hs
      · split
        next e3 =>
          split
          · trivial
          · refine ((hs.acquireAt.bindings.memAct.done e3).resolveAll.leave (fun _ ht => ?_)).foldl (fun _ _ ht => ?_)
            · split
              · exact ht.frame.goTo
              · exact ht.toResolver
              · exact ht.stay
              · exact ht.stay
            · split
              · exact ht.waitFault
              · split
                · exact ht.waitFault
                · exact ht
              · exact ht
        · exact hs.acquireAt.bindings.memAct

theorem State.Formed.execRet {c} (h : s.Formed) : Out.Formed (execRet c s) := by
  refine h.issue (fun cx ex s hs => ?_) fun _ _ _ hs => hs.noteReads
  dsimp only
  split
  · trivial
  · split
    · exact hs.readsOnly
    · split
      · exact hs
      · split
        next => trivial
        next id u e =>
          have hu : u.Formed := by
            split at e
            · cases e
              exact hs.accessAll
            · exact hs.accessAll.fly e
          refine State.Formed.foldl (hu.sendReqs.goneOn.leave fun t ht => ?_) fun _ _ hs => hs.waitFault
          split
          · exact ht.leaveHandler.onward
          · exact ht.frame
          · exact ht.stay

theorem State.Formed.execExit {c} (h : s.Formed) : Out.Formed (execExit c s) := by
  refine h.issue (fun cx ex s hs => ?_)
  dsimp only
  split
  · trivial
  · have left : (s.leave cx c ex (fun t =>
        if (ex.filter (fun t => !s.inFlight cx.run.ref t.lane && !s.keptAt cx ex t)).any (·.lane == t.lane) then
          { t with pc := cx.run.pc, resume := cx.run.resume, cond := .exited, pip := none, stepping := false }
        else t.stay cx.run (.held (if s.inFlight cx.run.ref t.lane then .exiting else .kept)))).Formed := by
      refine hs.leave fun t ht => ?_
      split
      · exact ht.noPip
      · exact ht.stay
    split
    · exact left
    · exact left.endRegion.afterExit

theorem State.Formed.clearDeferred {ref} (h : s.Formed) : (s.clearDeferred ref).Formed :=
  .ite h (h.modThreads (fun _ hx => hx.frame))

theorem State.Formed.execYield {c} (h : s.Formed) : Out.Formed (execYield c s) :=
  h.issue (fun _ _ _ hs => .ite (hs.leave (fun _ hx => hx.frame.goTo)) (hs.leave (fun _ hx => hx.frame.goTo)).clearDeferred)

theorem State.Formed.execMset {c d a k} (h : s.Formed) : Out.Formed (execMset c d a k s) :=
  h.issue (fun _ _ _ hs => hs.writeAll)

theorem State.Formed.execMget {c d a} (h : s.Formed) : Out.Formed (execMget c d a s) := h.issue (fun _ _ _ hs => hs.writeAll)

theorem State.Formed.passBy {cx c mask} (h : s.Formed) : (s.passBy cx c mask).Formed := by
  unfold State.passBy
  dsimp only
  split
  · exact h
  · split
    · exact h.modGroup (fun _ hx => hx.frame)
    · exact .ite ((h.modGroup (fun _ hx => hx.frame)).modGroup (fun _ hx => hx.frame)) (h.modGroup (fun _ hx => hx.frame))

theorem State.Formed.execMjoin {c a} (h : s.Formed) : Out.Formed (execMjoin c a s) := by
  unfold Machine.execMjoin
  refine State.Formed.issue ?_ (fun _ _ _ hs => ?_) (fun _ _ _ hs => hs.noteOwing)
  · split
    · exact .ite h.arriveAgain h.arriveAgain.passBy
    · exact h
  · split
    · trivial
    · dsimp only
      split
      all_goals
        split
        · exact (((hs.releaseAt.leave (fun _ hx => hx.goTo)).modThreads (fun _ hx => hx.goOn)).stepStops.modGroup
            (fun _ hx => hx.frame)).acquireAt
        · exact (hs.releaseAt.leave (fun _ hx => hx.stay)).recallNamed

theorem State.Formed.execRejoin {c} (h : s.Formed) : Out.Formed (execRejoin c s) := by
  unfold Machine.execRejoin
  refine h.issue (fun _ _ _ hs => ?_)
  dsimp only
  split
  · split
    · trivial
    · exact (((hs.foldl (fun _ _ ht => ht.overVregs)).leave (fun _ hx => hx.handBack)).modGroup
        (fun _ hx => hx.frame)).joinCore
  · split
    · exact (hs.leave (fun _ hx => hx.stay)).modGroup (fun _ hx => hx.frame)
    · exact (hs.leave (fun _ hx => hx.goTo)).joinCore

/-! ### Sys2Proof/Machine/Sched.lean -/

theorem State.Formed.countTurn {core pipe cls} (h : s.Formed) : (s.countTurn core pipe cls).Formed := .ite h.frame h.frame

theorem State.Formed.execIssueArbitration {core pipe} (h : s.Formed) : Out.Formed (execIssueArbitration core pipe s) := by
  unfold Machine.execIssueArbitration
  split
  · exact h
  · dsimp only
    split
    · exact h
    next c _ =>
      have hl : ((s.look c.g.ref).countTurn core pipe c.cls).Formed := h.look.countTurn
      exact hl.withGroups (modify_keeps (fun _ hg => hl.group hg) fun _ hg => hg.frame)

theorem State.Formed.execPipIssue {cluster pip} (h : s.Formed) : Out.Formed (execPipIssue cluster pip s) := by
  unfold Machine.execPipIssue
  split
  · exact h
  · split
    · exact h
    · refine State.Formed.frame (s := s.modThread _ _ _) (h.modThread fun t ht => ?_)
      exact ht.withPip rfl fun p hp => hp.frame

theorem State.Formed.execEjectSoftTimeout {ref} (h : s.Formed) : Out.Formed (execEjectSoftTimeout ref s) := by
  unfold Machine.execEjectSoftTimeout
  split
  · exact h
  · split
    · exact h.modGroup (fun _ hx => hx.frame)
    · exact h

theorem State.Formed.execEjectHardTimeout {ref lane} (h : s.Formed) : Out.Formed (execEjectHardTimeout ref lane s) := by
  unfold Machine.execEjectHardTimeout
  split
  · exact h
  · split
    · exact h.recallThread
    · exact h

theorem State.Formed.sweepLog (h : s.Formed) : s.sweepLog.Formed := h.frame

theorem State.Formed.withdrawBar {t} (h : s.Formed) : (s.withdrawBar t).Formed := by
  unfold State.withdrawBar
  split
  · exact h.modBlock.modThread (fun _ hx => hx.frame)
  · exact h

/-! ### Sys2Proof/Machine/Debug.lean -/

theorem State.Formed.dbgWrite {t f} (h : s.Formed) (hf : ∀ s, s.Formed → (f s).Formed) : (s.dbgWrite t f).Formed :=
  h.hostWrite (fun _ hs => .ite (hf _ hs) hs)

theorem State.Formed.parkRun {r} (h : s.Formed) : (s.parkRun r).Formed := h.frame.place

theorem State.Formed.parkRuns {pasid} (h : s.Formed) : (s.parkRuns pasid).Formed := h.foldl (fun _ _ hs => hs.parkRun)

theorem State.Formed.setDbgCtl {w} (h : s.Formed) : (s.setDbgCtl w).Formed := .ite h.frame.parkRuns h.frame

theorem State.Formed.execDebugControlWrite {w t} (h : s.Formed) : Out.Formed (execDebugControlWrite w t s) :=
  h.dbgWrite (fun _ hx => hx.setDbgCtl)

theorem State.Formed.dbgDo {w f} (h : s.Formed)
    (hf : ∀ x0 g t s, s.Formed → (f x0 g t s).1.Formed) : (s.dbgDo w f).Formed := by
  unfold State.dbgDo
  dsimp only
  split
  · exact h.frame
  · split
    · exact h.frame
    · split
      · exact (hf _ _ _ _ h.recallThread).frame
      · exact h.frame

theorem State.Formed.dbgMeet {l t o} (h : s.Formed) : (s.dbgMeet l t o).Formed := h.meetAll

theorem State.Formed.dbgRead {w} (h : s.Formed) : (s.dbgRead w).Formed := by
  unfold State.dbgRead
  refine h.dbgDo (fun _ _ _ _ hs => ?_)
  split
  · exact hs.fst
  · exact hs.frame.fst
  · dsimp only
    split
    · split <;> exact hs.dbgMeet.frame.fst
    · exact hs.dbgMeet.fst

theorem State.Formed.dbgPut {w} (h : s.Formed) : (s.dbgPut w).Formed := by
  unfold State.dbgPut
  refine h.dbgDo (fun _ _ _ _ hs => ?_)
  split
  · exact hs.fst
  · exact hs.fst
  · exact .fst (.ite (hs.overRegs.modGroup (fun _ hx => hx.write)) (hs.overRegs.modThread (fun _ hx => hx.write)))

theorem State.Formed.setGoing {t f} (h : s.Formed) (hf : ∀ t, t.Formed → (f t).Formed) : (s.setGoing t f).Formed :=
  (h.withdrawBar.modThread (fun _ hs => (hf _ hs).frame)).sweepLog

theorem State.Formed.dbgStep {w} (h : s.Formed) : (s.dbgStep w).Formed := by
  unfold State.dbgStep
  refine h.dbgDo (fun _ _ _ _ hs => ?_)
  split
  · exact hs.fst
  · exact (hs.setGoing (fun _ hx => hx.frame)).fst

theorem State.Formed.dbgResume {w} (h : s.Formed) : (s.dbgResume w).Formed :=
  h.dbgDo (fun _ _ _ _ hs => (hs.setGoing (fun _ hx => hx.frame)).fst)

theorem State.Formed.dbgCommand {w} (h : s.Formed) : (s.dbgCommand w).Formed := by
  unfold State.dbgCommand
  split
  · exact h.dbgRead
  · exact h.dbgPut
  · exact h.dbgStep
  · exact h.dbgResume
  · exact h

theorem State.Formed.execReadReg {w t} (h : s.Formed) : Out.Formed (execReadReg w t s) :=
  .ite (h.dbgWrite (fun _ hx => hx.dbgRead)) h

theorem State.Formed.execWriteReg {w t} (h : s.Formed) : Out.Formed (execWriteReg w t s) :=
  .ite (h.dbgWrite (fun _ hx => hx.dbgPut)) h

theorem State.Formed.execDbgStep {w t} (h : s.Formed) : Out.Formed (execDbgStep w t s) :=
  .ite (h.dbgWrite (fun _ hx => hx.dbgStep)) h

theorem State.Formed.execDbgResume {w t} (h : s.Formed) : Out.Formed (execDbgResume w t s) :=
  .ite (h.dbgWrite (fun _ hx => hx.dbgResume)) h

/-! ### Sys2Proof/Machine/Half.lean -/

theorem State.Formed.packedOp2 {c ty f d a b} (h : s.Formed) : Out.Formed (packedOp2 c ty f d a b s) := h.vecOp

theorem State.Formed.execHadd2 {c ty rm d a b} (h : s.Formed) : Out.Formed (execHadd2 c ty rm d a b s) := h.packedOp2

theorem State.Formed.execHmul2 {c ty rm d a b} (h : s.Formed) : Out.Formed (execHmul2 c ty rm d a b s) := h.packedOp2

theorem State.Formed.execHfma2 {c ty rm d a b e} (h : s.Formed) : Out.Formed (execHfma2 c ty rm d a b e s) := h.vecOp

theorem State.Formed.execHmin2 {c ty nan d a b} (h : s.Formed) : Out.Formed (execHmin2 c ty nan d a b s) := h.packedOp2

theorem State.Formed.execHmax2 {c ty nan d a b} (h : s.Formed) : Out.Formed (execHmax2 c ty nan d a b s) := h.packedOp2

/-! ### Sys2Proof/Machine/Convert.lean -/

theorem State.Formed.execCvt {c dty sty rm sat d a} (h : s.Formed) : Out.Formed (execCvt c dty sty rm sat d a s) := h.vecOp

theorem State.Formed.execCvth {c dty sty rm sat d a b} (h : s.Formed) : Out.Formed (execCvth c dty sty rm sat d a b s) := by
  unfold Machine.execCvth
  split <;> exact h.vecOp

theorem State.Formed.execFrnd {c ty rm d a} (h : s.Formed) : Out.Formed (execFrnd c ty rm d a s) := h.vecOp

theorem State.Formed.slotOp {f c useB slot d a b} (h : s.Formed) : Out.Formed (slotOp f c useB slot d a b s) :=
  h.issue (fun _ _ _ hs => hs.writeAll)

theorem State.Formed.execQnt {c useB slot d a b} (h : s.Formed) : Out.Formed (execQnt c useB slot d a b s) := h.slotOp

theorem State.Formed.execDqnt {c useB slot d a b} (h : s.Formed) : Out.Formed (execDqnt c useB slot d a b s) := h.slotOp

/-! ### Sys2Proof/Machine/Paging.lean -/

theorem State.Formed.noteWalk {cluster pasid va acc ok} (h : s.Formed) : (s.noteWalk cluster pasid va acc ok).Formed := h.frame

theorem State.Formed.execPageWalk {cluster pasid va acc} (h : s.Formed) : Out.Formed (execPageWalk cluster pasid va acc s) := by
  unfold Machine.execPageWalk
  split
  · exact h
  · split
    next e => exact .ite h (h.walkFor.left e).noteWalk
    next e => exact (h.walkFor.left e).noteWalk

theorem State.Formed.writeSdCtl {w} (h : s.Formed) : (s.writeSdCtl w).Formed := .ite h.frame (.ite h.frame h.frame)

theorem State.Formed.execShootdownStart {w t} (h : s.Formed) : Out.Formed (execShootdownStart w t s) :=
  h.hostWrite (fun _ hx => hx.writeSdCtl)

theorem State.Formed.execSddropClear {w t} (h : s.Formed) : Out.Formed (execSddropClear w t s) :=
  h.hostWrite (fun _ hs => .ite hs.frame hs)

theorem State.Formed.shoot {kind pasid addr pages cluster} (h : s.Formed) : (s.shoot kind pasid addr pages cluster).Formed :=
  h.dropLines.frame

theorem State.Formed.unsee {pasid cluster} (h : s.Formed) : (s.unsee pasid cluster).Formed := by
  unfold State.unsee
  refine .frame (?_ : (List.foldl _ s _).Formed)
  exact h.foldl (fun _ _ hs => hs.cleanLine)

theorem State.Formed.takeBitmap {x1} (h : s.Formed) : (s.takeBitmap x1).1.Formed := by
  unfold State.takeBitmap
  split
  · exact h.visit.recallWords.writeHome.fst
  · exact h

theorem State.Formed.beginFrom {ahead ms} (h : s.Formed) : (s.beginFrom ahead ms).1.Formed := by
  induction ms generalizing s ahead with
  | nil => exact h
  | cons m ms ih =>
    unfold State.beginFrom
    split
    next e =>
      split at e
      · cases e; exact ih h
      · cases e; exact ih h.takeBitmap

theorem State.Formed.beginHarvests (h : s.Formed) : s.beginHarvests.Formed := h.beginFrom.frame

theorem State.Formed.releaseHarvest {pasid} (h : s.Formed) : (s.releaseHarvest pasid).Formed := by
  refine h.withAgenda fun i hi => ?_
  rcases List.mem_append.1 hi with hi | hi
  · obtain ⟨e, -, rfl⟩ := List.mem_map.1 hi
    rfl
  · exact h.agenda i hi

theorem State.Formed.completeMaint (h : s.Formed) : s.completeMaint.Formed := by
  unfold State.completeMaint
  refine ((h.frame.foldl (fun _ _ hs => ?_)).foldl (fun _ _ hs => ?_)).beginHarvests
  · split
    · exact hs
    · exact hs.releaseHarvest
  · split
    · exact .ite hs.frame hs
    · exact hs.packetDone

theorem State.Formed.performMaint {cluster x1} (h : s.Formed) : (s.performMaint cluster x1).Formed := by
  unfold State.performMaint
  split
  · exact h.shoot
  · exact h.unsee

theorem State.Formed.execShootdownAck {cluster} (h : s.Formed) : Out.Formed (execShootdownAck cluster s) := by
  unfold Machine.execShootdownAck
  split
  · exact h
  · split
    · exact h
    · exact h.performMaint.frame.completeMaint

theorem State.Formed.execClusterPowerGate {cluster off} (h : s.Formed) : Out.Formed (execClusterPowerGate cluster off s) := by
  unfold Machine.execClusterPowerGate
  split
  · exact h
  · split
    · exact h.frame
    · split
      · exact h
      · exact h.shoot.frame.completeMaint

/-! ### Sys2Proof/Machine/Admit.lean -/

theorem State.Formed.readVirt {cluster pasid x1 n} (h : s.Formed) : (s.readVirt cluster pasid x1 n).1.Formed := by
  induction n generalizing s x1 with
  | zero => exact h
  | succ n ih =>
    unfold State.readVirt
    dsimp only
    split
    · exact h
    · split
      next e1 =>
        split
        · exact (h.translate.left e1).fst
        · split
          · exact (h.translate.left e1).readHome.fst
          · split
            next e => exact ((ih (h.translate.left e1).readHome).left e).fst
            next e => exact ((ih (h.translate.left e1).readHome).left e).fst
      next e => exact (h.translate.left e).fst

theorem State.Formed.readCaps (h : s.Formed) : s.readCaps.Formed := h.inspect

theorem State.Formed.readRecord {pasid addr} (h : s.Formed) : (s.readRecord pasid addr).1.Formed := by
  unfold State.readRecord
  split
  next e => exact (h.readVirt.left e).fst
  next e =>
    dsimp only
    split
    · exact (h.readVirt.left e).fst
    · split
      next e2 => exact ((h.readVirt.left e).readVirt.left e2).fst
      next e2 => exact ((h.readVirt.left e).readVirt.left e2).fst

theorem State.Formed.enter {x} (h : s.Formed) : (s.enter x).Formed := h.frame

theorem State.Formed.takeOn {pasid cls packet parent recAddr bs} (h : s.Formed) :
    (s.takeOn pasid cls packet parent recAddr bs).1.Formed := by
  unfold State.takeOn
  split
  · exact h
  · dsimp only
    split
    · exact h.readCaps.fst
    · exact h.readCaps.fresh.enter.fst

/-! ### Sys2Proof/Machine/Packets.lean -/

theorem State.Formed.markRead {a} (h : s.Formed) : (s.markRead a).Formed :=
  .ite h.touchSlice.recallWords h.touchSlice.recallWords.writeHome

theorem State.Formed.seeQueue {e} (h : s.Formed) : (s.seeQueue e).Formed := h.markRead.markRead

theorem State.Formed.readQueue {q} (h : s.Formed) : (s.readQueue q).Formed := h.inspect.inspect

theorem State.Formed.readQueues (h : s.Formed) : s.readQueues.Formed :=
  h.foldl (fun _ _ hs => .ite hs.inspect.inspect hs.inspect)

theorem State.Formed.seeQueues (h : s.Formed) : s.seeQueues.Formed := by
  unfold State.seeQueues
  refine h.readQueues.foldl (fun _ _ hs => ?_)
  dsimp only
  split
  · exact hs
  · refine hs.markRead.foldl (fun _ _ ht => ?_)
    split
    · exact ht.markRead
    · exact ht

theorem State.Formed.readQcb {e} (h : s.Formed) : (s.readQcb e).Formed := h.inspect

theorem State.Formed.stopQueue {e err info} (h : s.Formed) : (s.stopQueue e err info).Formed := h.writeHome

theorem State.Formed.act {e w} (h : s.Formed) : (s.act e w).1.Formed := by
  unfold State.act
  dsimp only
  split
  · split
    · exact h.readQcb.fst
    · exact h.readQcb.stopQueue.fst
  · split
    · exact h.readQcb.writeHome.fst
    · exact h.readQcb.stopQueue.fst

theorem State.Formed.notifyQueue {q e w} (h : s.Formed) : (s.notifyQueue q e w).Formed := by
  unfold State.notifyQueue
  split
  · exact h.frame
  · dsimp only
    split
    · split
      next e => exact h.frame.act.left e
      next e => exact (h.frame.act.left e).act
    · exact h.frame.act

theorem State.Formed.execNotify {page off width w t} (h : s.Formed) : Out.Formed (execNotify page off width w t s) :=
  h.hostWrite (fun _ hs => .ite hs (hs.seeQueues.foldl (fun _ _ ht => ht.notifyQueue)))

theorem State.Formed.queueLoad {pasid va n} (h : s.Formed) : (s.queueLoad pasid va n).1.Formed := by
  unfold State.queueLoad
  dsimp only
  split
  · exact h
  · split
    next e => exact (h.translate.left e).fst
    next e => exact (h.translate.left e).fst
    next e1 =>
      split
      · exact (h.translate.left e1).holdSlow.fst
      · split
        · exact (h.translate.left e1).freeBytes.frame.fst
        · exact (h.translate.left e1).readHome.notePoison.fst

theorem State.Formed.queueStore {pasid va bs} (h : s.Formed) : (s.queueStore pasid va bs).1.Formed := by
  unfold State.queueStore
  dsimp only
  split
  · exact h
  · split
    next e => exact (h.translate.left e).fst
    next e => exact (h.translate.left e).fst
    next e1 =>
      split
      · exact (h.translate.left e1).holdSlow.fst
      · split
        · exact (h.translate.left e1).frame.fst
        · exact (h.translate.left e1).writeHome.fst

theorem State.Formed.nextPacket {q} (h : s.Formed) : (s.nextPacket q).1.Formed := by
  unfold State.nextPacket
  dsimp only
  split
  · exact h.readQueue.fst
  · split
    · exact h.readQueue.seeQueue.readQcb.fst
    · split
      next e2 =>
        split
        · exact (h.readQueue.seeQueue.readQcb.queueLoad.left e2).fst
        · split <;> exact (h.readQueue.seeQueue.readQcb.queueLoad.left e2).fst
      next e => exact (h.readQueue.seeQueue.readQcb.queueLoad.left e).fst

theorem State.Formed.startPacket {q e idx bs} (h : s.Formed) : (s.startPacket q e idx bs).Formed := by
  have hw := h.writeHome (pa := e.qcb + 16) (bs := leBytes (idx + 1) 8)
  unfold State.startPacket
  generalize s.writeHome _ _ = u at hw ⊢
  exact hw.frame

theorem State.Formed.packet {q op f} (h : s.Formed) (hf : ∀ x0 x1 x2 s, s.Formed → (f x0 x1 x2 s).Formed) :
    (s.packet q op f).Formed := by
  unfold State.packet
  split
  next e => exact .ite (hf _ _ _ _ (h.nextPacket.left e).startPacket) h
  · exact h

theorem State.Formed.execNopPacket {q} (h : s.Formed) : Out.Formed (execNopPacket q s) :=
  h.packet (fun _ _ _ _ hs => hs.packetDone)

theorem State.Formed.execLaunchPacket {q} (h : s.Formed) : Out.Formed (execLaunchPacket q s) := by
  unfold Machine.execLaunchPacket
  refine h.packet (fun _ _ _ _ hs => ?_)
  split
  next e =>
    split
    next e1 => exact ((hs.readRecord.left e).takeOn.left e1).packetDone
    next e1 => exact (hs.readRecord.left e).takeOn.left e1

theorem State.Formed.logSignal {q idx k va} (h : s.Formed) : (s.logSignal q idx k va).Formed := h.frame

theorem State.Formed.loadPlan {p} (h : s.Formed) : (s.loadPlan p).Formed := by
  unfold State.loadPlan
  dsimp only
  split
  · exact h
  · split
    · exact h.packetDone
    · split
      next e => exact .ite (h.queueLoad.left e).packetDone (h.queueLoad.left e).frame.packetDone
      next e => exact (h.queueLoad.left e).packetDone

theorem State.Formed.perform {p} (h : s.Formed) : (s.perform p).Formed := by
  unfold State.perform
  split
  · split
    next e => exact .ite (h.queueLoad.left e).packetDone (h.queueLoad.left e)
    next e => exact (h.queueLoad.left e).packetDone
  · split
    next e => exact (h.queueStore.left e).packetDone
    next e => exact (h.queueStore.left e).packetDone
    next e => exact .ite (h.queueStore.left e).packetDone (h.queueStore.left e).logSignal
  · exact h.loadPlan
  · exact h

theorem State.Formed.startWork {q op} (h : s.Formed) : (s.startWork q op).Formed := h.packet (fun _ _ _ _ hs => hs.perform)

theorem State.Formed.execWaitSignalPacket {q} (h : s.Formed) : Out.Formed (execWaitSignalPacket q s) := h.startWork

theorem State.Formed.execSetSignalPacket {q} (h : s.Formed) : Out.Formed (execSetSignalPacket q s) := h.startWork

theorem State.Formed.execPlanLoadPacket {q} (h : s.Formed) : Out.Formed (execPlanLoadPacket q s) := h.startWork

theorem State.Formed.execDirtyHarvestPacket {q} (h : s.Formed) : Out.Formed (execDirtyHarvestPacket q s) := by
  unfold Machine.execDirtyHarvestPacket
  refine h.packet (fun _ _ _ _ hs => ?_)
  split
  · exact hs.packetDone
  · exact .ite hs.packetDone hs.frame.beginHarvests

theorem State.Formed.execInvalidPacket {q} (h : s.Formed) : Out.Formed (execInvalidPacket q s) := by
  unfold Machine.execInvalidPacket
  split
  next e => exact (h.nextPacket.left e).stopQueue
  next e => exact (h.nextPacket.left e).free.stopQueue
  · exact h

theorem State.Formed.dropPacket {p} (h : s.Formed) : (s.dropPacket p).Formed := h.frame

theorem State.Formed.loseSignal {p} (h : s.Formed) : (s.loseSignal p).Formed := h.dropPacket.log

theorem State.Formed.writeSignal {p st aux} (h : s.Formed) : (s.writeSignal p st aux).Formed := by
  unfold State.writeSignal
  split
  · exact h.dropPacket
  · split
    next e => exact (h.queueStore.left e).dropPacket
    next e => exact (h.queueStore.left e).loseSignal
    next e => exact .ite (h.queueStore.left e).loseSignal (h.queueStore.left e).logSignal

theorem State.Formed.pumpPacket {p} (h : s.Formed) : (s.pumpPacket p).Formed := by
  unfold State.pumpPacket
  split
  · exact h.writeSignal
  · exact h.perform

/-! ### Sys2Proof/Machine/Interface.lean -/

theorem State.Formed.haltQueue {e} (h : s.Formed) : (s.haltQueue e).Formed := h.writeHome

theorem State.Formed.haltQueues (h : s.Formed) : s.haltQueues.Formed := h.readQueues.foldl (fun _ _ hs => hs.haltQueue)

theorem State.Formed.stopWithDevice {id} (h : s.Formed) : (s.stopWithDevice id).Formed := by
  unfold State.stopWithDevice
  split
  · exact h
  · refine .log ?_
    split
    · exact h.removeLaunches.frame.endSaves.packetDone
    · exact h.removeLaunches.frame

theorem State.Formed.stopAll (h : s.Formed) : s.stopAll.Formed := (h.foldl (fun _ _ hs => hs.stopWithDevice)).removeLaunches

theorem State.Formed.dropWork (h : s.Formed) : s.dropWork.Formed := h.frame

theorem State.Formed.silence (h : s.Formed) : s.silence.Formed := h.withAgenda fun _ hi => (List.not_mem_nil hi).elim

theorem State.Formed.enterError (h : s.Formed) : s.enterError.Formed := by
  have hp : ({ s.spoilBuffers s.packets with packets := [] } : State).Formed := h.spoilBuffers.frame
  have hu := hp.stopAll.dropWork.haltQueues.silence
  unfold State.enterError
  generalize State.silence _ = u at hu ⊢
  exact State.Formed.frame (s := u.log .tdiError 0 0 0) hu.log

theorem State.Formed.fallIfLocked (h : s.Formed) : s.fallIfLocked.Formed := .ite h.enterError h

theorem State.Formed.endPackets (h : s.Formed) : s.endPackets.Formed := h.foldl (fun _ _ hs => .ite hs hs.pumpPacket)

theorem State.Formed.scrub (h : s.Formed) : s.scrub.Formed := h.stopAll.endPackets.dropWork.withMem (scrub_memWf s)

/-! ### Sys2Proof/Machine/Bars.lean -/

theorem State.Formed.barRead {w} (h : s.Formed) : (s.barRead w).1.Formed := by
  unfold State.barRead
  split
  · exact h
  · split
    next e => exact (h.readHome.left e).fst
    next e => exact (h.readHome.left e).notePoison.free.fst

/-- As for the walk, the read of a word stands for any that keeps the forms. -/
theorem State.Formed.barWords {w n} (h : s.Formed) : (s.barWords w n).1.Formed := by
  delta State.barWords
  refine brecOn_keeps (P := fun k : State → Nat → State × List Byte => ∀ s w, s.Formed → (k s w).1.Formed)
    (fun n b ih s w h => ?_) n s w h
  delta State.barWords._f
  obtain ⟨read, er, hr⟩ : ∃ f, f = State.barRead ∧ ∀ s w, s.Formed → (f s w).1.Formed :=
    ⟨_, rfl, fun _ _ h => h.barRead⟩
  rw [← er]
  split
  · exact h
  next m => exact ih m rfl _ _ (hr _ _ h)

theorem State.Formed.barLoad {a n} (h : s.Formed) : (s.barLoad a n).1.Formed := h.barWords.fst

theorem State.Formed.execHostBar4Read {addr len t} (h : s.Formed) : Out.Formed (execHostBar4Read addr len t s) := by
  unfold Machine.execHostBar4Read
  split
  · exact h
  · split
    · exact h.barLoad.answer
    · exact h.answer
    · exact h.answer

theorem State.Formed.barStore {a bs} (h : s.Formed) : (s.barStore a bs).Formed := h.writeLines

theorem State.Formed.release (h : s.Formed) : s.release.Formed := h.frame

theorem State.Formed.execHostBar4Write {addr data t} (h : s.Formed) : Out.Formed (execHostBar4Write addr data t s) := by
  unfold Machine.execHostBar4Write
  split
  · exact h
  · exact h.hostWrite (fun _ hx => hx.barStore.release)

theorem State.Formed.barAtomic {op n addr v cmp} (h : s.Formed) : (s.barAtomic op n addr v cmp).1.Formed := by
  unfold State.barAtomic
  split
  next e =>
    have hr := h.readPlace.left e
    split
    · exact hr.notePoison.free
    · dsimp only
      split
      · exact hr.writeHome
      · exact hr.writeHome
      · exact .ite hr.writeHome hr

theorem State.Formed.execHostAtomicop {op wide addr v cmp t} (h : s.Formed) :
    Out.Formed (execHostAtomicop op wide addr v cmp t s) := by
  unfold Machine.execHostAtomicop
  dsimp only
  split
  all_goals
    split
    · exact h
    · split
      · exact h.answer
      · exact h.answer
      · split
        · exact h.answer
        · split
          · exact h.answer
          · exact h.barAtomic.release.answer

theorem State.Formed.setKey {i k w} (h : s.Formed) : (s.setKey i k w).Formed := .ite h h.frame

theorem State.Formed.setBreak {core i upper w} (h : s.Formed) : (s.setBreak core i upper w).Formed := h.frame

theorem State.Formed.setReg {off w} (h : s.Formed) : (s.setReg off w).Formed := by
  unfold State.setReg
  split
  · exact h.frame
  · exact h.frame
  · exact h.frame
  · exact h.frame
  · exact h.writeSdCtl
  · exact .ite h.frame h
  · exact h.frame
  · exact h.frame
  · exact h.frame
  · exact .ite h.setDbgCtl h
  · exact .ite h.dbgCommand h
  · exact .ite h.frame h
  · exact h.frame
  · exact .ite h.setKey (.ite h.setBreak h)

theorem State.Formed.reachReg {off w} (h : s.Formed) : (s.reachReg off w).Formed := .ite h.enterError h.setReg

theorem State.Formed.setBar {off w} (h : s.Formed) : (s.setBar off w).Formed := .ite (.ite h.frame h.fallIfLocked) h

theorem State.Formed.execRegisterWrite {space off w t} (h : s.Formed) : Out.Formed (execRegisterWrite space off w t s) := by
  unfold Machine.execRegisterWrite
  split
  · exact h.setBar
  · split
    · exact h.reachReg
    · exact h.answer
    · exact h

/-! ### Sys2Proof/Machine/Lanes.lean -/

theorem State.Formed.mergeHeld {cx} (h : s.Formed) : (s.mergeHeld cx).Formed := (h.modThreads (fun _ hx => hx.frame)).modRun

theorem State.Formed.gather {cx} (h : s.Formed) : (s.gather cx).Formed := h.arriveAgain.mergeHeld

theorem State.Formed.lanesOp {c writes reads msk f} (h : s.Formed) : Out.Formed (lanesOp c writes reads msk f s) := by
  unfold Machine.lanesOp
  dsimp only
  split
  · trivial
  · split
    · exact h.trapRun
    · split
      · exact h.recallRun
      · split
        · exact h.arriveAgain.holdSome.recallNamed
        · exact h.gather.issue (fun _ _ _ hs => hs.writeAll) (fun _ _ _ hs => hs.noteOwing)

theorem State.Formed.execShfl {c mode wide d a b msk} (h : s.Formed) : Out.Formed (execShfl c mode wide d a b msk s) :=
  h.lanesOp

theorem State.Formed.execVote {c mode d a msk} (h : s.Formed) : Out.Formed (execVote c mode d a msk s) := h.lanesOp

theorem State.Formed.execBallot {c d a msk} (h : s.Formed) : Out.Formed (execBallot c d a msk s) := h.lanesOp

theorem State.Formed.execMatchOp {c wide all d a msk} (h : s.Formed) : Out.Formed (execMatchOp c wide all d a msk s) :=
  h.lanesOp

theorem State.Formed.execElect {c d msk} (h : s.Formed) : Out.Formed (execElect c d msk s) := h.lanesOp

theorem State.Formed.execGred {c ty op d a msk} (h : s.Formed) : Out.Formed (execGred c ty op d a msk s) := h.lanesOp

theorem State.Formed.execGscan {c ty op excl d a msk} (h : s.Formed) : Out.Formed (execGscan c ty op excl d a msk s) :=
  h.lanesOp

theorem State.Formed.execGarg {c ty nanwin hash isMin d a b msk} (h : s.Formed) :
    Out.Formed (execGarg c ty nanwin hash isMin d a b msk s) :=
  h.lanesOp

theorem State.Formed.execBxch {c wide d a b e} (h : s.Formed) : Out.Formed (execBxch c wide d a b e s) := h.lanesOp

/-! ### Sys2Proof/Machine/Peer.lean -/

theorem State.Formed.readWords {w at_ x1 n} (h : s.Formed) : (s.readWords w at_ x1 n).1.Formed := by
  induction n generalizing s x1 with
  | zero => exact h
  | succ n ih =>
    unfold State.readWords
    split
    next e => exact (h.engRead.left e).fst
    next e => exact (h.engRead.left e).fst
    next e =>
      split
      next e1 => exact ((ih (h.engRead.left e)).left e1).fst
      next e1 => exact ((ih (h.engRead.left e)).left e1).fst
      next e1 => exact ((ih (h.engRead.left e)).left e1).fst

theorem State.Formed.writeWords {w at_ x1 x2 l} (h : s.Formed) : (s.writeWords w at_ x1 x2 l).1.Formed := by
  induction l generalizing s x1 x2 with
  | nil => exact h
  | cons x l ih =>
    unfold State.writeWords
    split
    next e => exact .fst (.ite (ih (h.engWrite.left e)).markSp (ih (h.engWrite.left e)))
    next e => exact (h.engWrite.left e).fst
    next e => exact (h.engWrite.left e).fst

theorem State.Formed.sendChunk {w c d put l} (h : s.Formed) : (s.sendChunk w c d put l).1.Formed := by
  induction l generalizing s with
  | nil => exact h
  | cons x l ih =>
    unfold State.sendChunk
    dsimp only
    split
    all_goals
      rename_i e
      have hr := State.Formed.left (.iteFst h.readWords h) e
    · exact hr.fst
    · exact hr.fst
    · exact ih hr.sendFlit.modCmd

theorem State.Formed.dropChunk {c d k} (h : s.Formed) : (s.dropChunk c d k).Formed := h.frame

theorem State.Formed.startChunks {id put n} (h : s.Formed) : (s.startChunks id put n).Formed := by
  induction n generalizing s with
  | zero => exact h
  | succ n ih =>
    unfold State.startChunks
    split
    · exact h
    · split
      · exact h
      · dsimp only
        split
        · exact h
        · split
          · exact h
          · split
            next e => exact ih (h.sendChunk.left e)
            next e4 =>
              split
              · exact ih (h.sendChunk.left e4).dropChunk.chunkFault
              · exact h
            next e => exact (h.sendChunk.left e).modCmd

theorem State.Formed.pumpFab {id} (h : s.Formed) : (s.pumpFab id).Formed := by
  unfold State.pumpFab
  split
  · exact h
  · dsimp only
    split
    · split
      · exact .ite h h.startChunks
      · exact .ite (.ite h h.startChunks) (.ite (.finishCmd (.ite h h.startChunks)) (.ite (.finishCmd
          (.ite h h.startChunks)) (.ite (.finishCmd (.ite h h.startChunks)) (.ite (.ite (.modCmd (.sendFlit
            (.ite h h.startChunks))) (.finishCmd (.ite h h.startChunks))) (.ite h h.startChunks)))))
    · split
      · exact .ite h h.startChunks
      · exact .ite (.ite h h.startChunks) (.ite (.finishCmd (.ite h h.startChunks)) (.ite (.finishCmd
          (.ite h h.startChunks)) (.ite (.finishCmd (.ite h h.startChunks)) (.ite (.ite (.modCmd (.sendFlit
            (.ite h h.startChunks))) (.finishCmd (.ite h h.startChunks))) (.ite h h.startChunks)))))
    · exact h

theorem State.Formed.checkFab {b id} (h : s.Formed) : (s.checkFab b id).Formed := by
  unfold State.checkFab
  split
  · exact h.modCmd.pumpFab
  · exact h.finishCmd
  · exact h.modCmd

theorem State.Formed.checkWaiting (h : s.Formed) : s.checkWaiting.Formed := by
  unfold State.checkWaiting
  refine h.foldl (fun _ _ hs => ?_)
  split
  · exact hs.checkFab
  · exact hs

theorem State.Formed.fabDone {id txn chunk} (h : s.Formed) : (s.fabDone id txn chunk).Formed := by
  unfold State.fabDone
  dsimp only
  split
  · exact h.modCmd
  · exact .pumpFab (.ite h.modCmd (.ite h.modCmd.modCmd.landLines h.modCmd.modCmd))

/-! ### Sys2Proof/Machine/Coll.lean -/

theorem State.Formed.openColl {launch seq} (h : s.Formed) : (s.openColl launch seq).Formed := .ite h h.frame

theorem State.Formed.sendColl {d off psn payload cmd} (h : s.Formed) : (s.sendColl d off psn payload cmd).Formed := by
  unfold State.sendColl
  split
  next e =>
    split
    · exact (h.sendFlit.right e).modCmd
    · exact h.sendFlit.right e

theorem State.Formed.sendHead {l t d seq fn n cmd} (h : s.Formed) : (s.sendHead l t d seq fn n cmd).Formed := h.sendColl

theorem State.Formed.joinColl {l t seq fn n cmd} (h : s.Formed) : (s.joinColl l t seq fn n cmd).Formed :=
  h.openColl.modColl.foldl (fun _ _ hs => hs.sendHead)

theorem State.Formed.sendBlock {d rank seq tag cmd x1 x2 x3 n} (h : s.Formed) :
    (s.sendBlock d rank seq tag cmd x1 x2 x3 n).Formed := by
  induction n generalizing s x1 x2 x3 with
  | zero => exact h
  | succ n ih => exact .ite h (ih h.sendColl)

theorem State.Formed.readLine {w x1 n} (h : s.Formed) : (s.readLine w x1 n).1.Formed := by
  induction n generalizing s x1 with
  | zero => exact h
  | succ n ih =>
    unfold State.readLine
    split
    next e => exact (h.engLoad.left e).fst
    next e => exact (h.engLoad.left e).fst
    next e =>
      split
      next e1 => exact ((ih (h.engLoad.left e)).left e1).fst
      next e1 => exact ((ih (h.engLoad.left e)).left e1).fst
      next e1 => exact ((ih (h.engLoad.left e)).left e1).fst

theorem State.Formed.writeLine {w n x2 x3} (h : s.Formed) : (s.writeLine w n x2 x3).1.Formed := by
  induction n generalizing s x2 x3 with
  | zero => exact h
  | succ n ih =>
    unfold State.writeLine
    split
    · exact h
    · dsimp only
      split
      next e => exact ih (h.engStore.left e)
      next e => exact (h.engStore.left e).fst
      next e => exact (h.engStore.left e).fst

theorem State.Formed.endColl {launch seq cmd st} (h : s.Formed) : (s.endColl launch seq cmd st).Formed := h.frame.finishCmd

theorem State.Formed.abandonColl {launch seq cmd ty kind desc} (h : s.Formed) :
    (s.abandonColl launch seq cmd ty kind desc).Formed := by
  unfold State.abandonColl
  split
  · split
    · exact h.freeBytes.writeLine.endColl
    · exact h
  · exact h

theorem State.Formed.shareSource {l t w c x d ty kind seq} (h : s.Formed) : (s.shareSource l t w c x d ty kind seq).Formed := by
  unfold State.shareSource
  dsimp only
  split
  next e => exact (h.readLine.left e).chunkFault
  next e => exact (h.readLine.left e).modCmd
  next e =>
    exact .ite (h.readLine.left e).stopContext ((h.readLine.left e).foldl
      (fun _ _ hs => .ite hs.modColl.modColl hs.modColl.sendBlock))

theorem State.Formed.pumpColl {launch seq} (h : s.Formed) : (s.pumpColl launch seq).Formed := by
  unfold State.pumpColl
  split
  · split
    · split
      · dsimp only
        split
        · exact h.abandonColl
        · split
          · exact h
          · split
            · exact h.endColl
            · split
              · split
                · exact .endColl (.ite h h.shareSource)
                · split
                  · exact .ite h h.shareSource
                  · split
                    · exact .stopContext (.ite h h.shareSource)
                    · split
                      next e => exact .endColl (.left (.writeLine (.ite h h.shareSource)) e)
                      · exact .chunkFault (.ite h h.shareSource)
                      next e => exact .endColl (.left (.writeLine (.ite h h.shareSource)) e)
              · exact .ite h h.shareSource
      · exact h
    · exact h
  · exact h

/-! ### Sys2Proof/Machine/Topo.lean -/

theorem State.Formed.sendShort {dst type gen body off} (h : s.Formed) : (s.sendShort dst type gen body off).Formed := h.sendItem

theorem State.Formed.sendCircuit {slot p} (h : s.Formed) : (s.sendCircuit slot p).Formed := h.frame

theorem State.Formed.retrain {ports p gen} (h : s.Formed) : (s.retrain ports p gen).Formed := h.foldl (fun _ _ hs => hs.modPort)

theorem State.Formed.takeDown {ports} (h : s.Formed) : (s.takeDown ports).Formed := h.foldl (fun _ _ hs => hs.modPort)

theorem State.Formed.endReconf {t st} (h : s.Formed) : (s.endReconf t st).Formed := h.frame.finishCmd.checkWaiting.unstrand

theorem State.Formed.logReconf {t} (h : s.Formed) : (s.logReconf t).Formed := by
  unfold State.logReconf
  split <;> exact h.log

theorem State.Formed.failEarly {t} (h : s.Formed) : (s.failEarly t).Formed := h.logReconf.endReconf

theorem State.Formed.failLate {t} (h : s.Formed) : (s.failLate t).Formed := by
  unfold State.failLate
  dsimp only
  split
  · split
    all_goals
      split
      · exact h.logReconf.sendCircuit.retrain.frame
      · exact h.logReconf.retrain.frame
  · exact h.logReconf.takeDown.endReconf

theorem State.Formed.commit {t} (h : s.Formed) : (s.commit t).Formed := h.frame.endReconf

theorem State.Formed.beginReconf {c slot new} (h : s.Formed) : (s.beginReconf c slot new).Formed := by
  unfold State.beginReconf
  split
  · exact h.finishCmd
  · exact .ite h.finishCmd h.frame

theorem State.Formed.reconfMove (h : s.Formed) : Opt.Formed s.reconfMove := by
  unfold State.reconfMove
  split
  · exact .map (fun _ => h.beginReconf)
  · split
    · trivial
    · dsimp only
      split
      · split
        · trivial
        · split
          · exact h.frame
          · exact .ite h.frame h.frame.sendShort
      · split
        · split
          · exact h.frame
          · trivial
        · split
          · refine .frame (?_ : (List.foldl _ s _).Formed)
            exact h.foldl (fun _ _ hs => .ite hs.sendShort hs)
          · trivial
      · split
        · exact h.commit
        · split
          · exact h.takeDown.frame
          · exact h.retrain.frame
      · split
        · exact h.commit
        · trivial
      · split
        · split
          · exact h.endReconf
          · trivial
        · exact h.endReconf
      · trivial

theorem State.Formed.moveReconf {n} (h : s.Formed) : (State.moveReconf n s).Formed := by
  induction n generalizing s with
  | zero => exact h
  | succ n ih =>
    unfold State.moveReconf
    split
    next e => exact ih (h.reconfMove.some e)
    · exact h

theorem State.Formed.runReconf (h : s.Formed) : s.runReconf.Formed := h.moveReconf

/-! ### Sys2Proof/Machine/Fabric.lean -/

theorem State.Formed.fabCopy {c kind d a} (h : s.Formed) : Out.Formed (fabCopy c kind d a s) :=
  h.engineOp (fun _ _ _ _ hs => hs.clearLines.addCmd.pumpFab)

theorem State.Formed.execFput {c d a} (h : s.Formed) : Out.Formed (execFput c d a s) := h.fabCopy

theorem State.Formed.execFget {c d a} (h : s.Formed) : Out.Formed (execFget c d a s) := h.fabCopy

theorem State.Formed.execFatom {c ty op d a b mc} (h : s.Formed) : Out.Formed (execFatom c ty op d a b mc s) := by
  unfold Machine.execFatom
  refine h.engineOp (fun _ _ _ _ hs => ?_)
  dsimp only
  split
  · exact hs.clearLines.addCmd.sendFlit.modCmd
  · exact hs.clearLines.addCmd

theorem State.Formed.execColl {c ty op kind d a} (h : s.Formed) : Out.Formed (execColl c ty op kind d a s) := by
  unfold Machine.execColl
  refine h.engineOp (fun _ _ _ _ hs => ?_)
  dsimp only
  split
  · exact hs.addCmd.modLaunch
  · exact hs.addCmd.modLaunch.joinColl.pumpColl

theorem State.Formed.execTgset {c a k} (h : s.Formed) : Out.Formed (execTgset c a k s) := by
  unfold Machine.execTgset
  refine h.issue (fun _ _ _ hs => ?_)
  split
  · exact hs.modBlock
  · exact hs

theorem State.Formed.execReconf {c d a b k} (h : s.Formed) : Out.Formed (execReconf c d a b k s) := by
  unfold Machine.execReconf
  exact h.engineOp (fun _ _ _ _ hs => hs.addCmd.runReconf)

/-! ### Sys2Proof/Machine/Engines.lean -/

theorem State.Formed.readTag {w obj} (h : s.Formed) : (s.readTag w obj).1.Formed := by
  unfold State.readTag
  split
  next e => exact (h.engLoad.left e).fst
  next e => exact (h.engLoad.left e).fst
  next e => exact (h.engLoad.left e).fst

theorem State.Formed.cardWrite {w sp card off x} (h : s.Formed) : (s.cardWrite w sp card off x).1.Formed := h.engWrite

theorem State.Formed.cardRead {w sp card} (h : s.Formed) : (s.cardRead w sp card).1.Formed := by
  unfold State.cardRead
  split
  · split
    next e => exact (h.readSp.left e).fst
    next e => exact (h.readSp.left e).fst
  · exact h.engLoad

theorem State.Formed.openCard {w sp card} (h : s.Formed) : (s.openCard w sp card).1.Formed := by
  unfold State.openCard
  split
  next e =>
    split
    next e1 => exact ((h.cardRead.left e).cardWrite.left e1).fst
    next e1 => exact ((h.cardRead.left e).cardWrite.left e1).fst
    next e1 => exact ((h.cardRead.left e).cardWrite.left e1).fst
  · exact h.cardRead

theorem State.Formed.jobLines {c ls} (h : s.Formed) : (s.jobLines c ls).Formed :=
  .ite h.clearLines.modCmd h.clearLines.modCmd.releaseLines

theorem State.Formed.stopEngine {c} (h : s.Formed) : (s.stopEngine c).Formed := h.stopContext

theorem State.Formed.beginCmd {id} (h : s.Formed) : (s.beginCmd id).Formed := by
  unfold State.beginCmd
  split
  · exact h
  · split
    · split
      · exact h
      · split
        · split
          next e => exact (h.readTag.left e).chunkFault
          next e => exact (h.readTag.left e).modCmd
          next e => exact .ite (h.readTag.left e).stopEngine (h.readTag.left e).modCmd
        · split
          next e => exact (h.openCard.left e).chunkFault
          next e => exact (h.openCard.left e).modCmd
          next e => exact .ite (h.openCard.left e).stopEngine (h.openCard.left e).modCmd.jobLines
        · exact h
    · exact h

theorem State.Formed.enterCopy {cx ex dims dir obj desc x} (h : s.Formed) : (s.enterCopy cx ex dims dir obj desc x).Formed :=
  .beginCmd (.addCmd (.ite h.clearLines.modBlock h.clearLines))

theorem State.Formed.execAcopy {c cb dims dir d a b} (h : s.Formed) : Out.Formed (execAcopy c cb dims dir d a b s) := by
  unfold Machine.execAcopy
  exact h.engineOp (fun _ _ _ _ hs => hs.enterCopy)

theorem State.Formed.moveChunk {c w d dir chunk} (h : s.Formed) : (s.moveChunk c w d dir chunk).Formed := by
  unfold State.moveChunk
  dsimp only
  split
  next e => exact .ite (h.copyWordsOf.left e).modCmd.landLines (h.copyWordsOf.left e).modCmd
  next e => exact .ite (h.copyWordsOf.left e) h.chunkFault
  · exact h.modCmd

theorem State.Formed.execCopyChunkComplete {cmd chunk} (h : s.Formed) : Out.Formed (execCopyChunkComplete cmd chunk s) := by
  unfold Machine.execCopyChunkComplete
  refine h.waitLocked ?_
  split
  · exact h
  · split
    · dsimp only
      split
      · exact h
      · exact h.moveChunk
    · exact h

theorem State.Formed.holdArrival {c obj tag} (h : s.Formed) : (s.holdArrival c obj tag).Formed := h.modBlock.arriveDue

theorem State.Formed.completeCopy {c bar whole} (h : s.Formed) : (s.completeCopy c bar whole).Formed := by
  unfold State.completeCopy
  dsimp only
  split
  · exact .finishCmd (.ite h.modBlock h)
  · split
    · exact .finishCmd (.ite h.modBlock h)
    · split
      · split
        · exact h.finishCmd.holdArrival
        · split
          next e => exact (h.arriveAt.left e).finishCmd
          next e => exact (h.arriveAt.left e).finishCmd
          next e => exact (h.arriveAt.left e).finishCmd
          next e => exact (h.arriveAt.left e).stopContext
          next e => exact (h.arriveAt.left e).frame
      · exact h.finishCmd

theorem State.Formed.cancelCopy {c dims} (h : s.Formed) : (s.cancelCopy c dims).Formed := by
  unfold State.cancelCopy
  split
  · exact h
  · dsimp only
    exact h.frame

theorem State.Formed.landFlying {c dims dir} (h : s.Formed) : (s.landFlying c dims dir).Formed := by
  unfold State.landFlying
  refine h.foldl (fun _ _ hs => ?_)
  split
  · exact .ite hs.moveChunk hs
  · exact hs

theorem State.Formed.execCopyComplete {cmd} (h : s.Formed) : Out.Formed (execCopyComplete cmd s) := by
  unfold Machine.execCopyComplete
  refine h.waitLocked ?_
  split
  · exact h
  · split
    · split
      · exact h
      · exact h.completeCopy
    · exact h

theorem State.Formed.execDcmp {c sp d a} (h : s.Formed) : Out.Formed (execDcmp c sp d a s) := by
  unfold Machine.execDcmp
  exact h.engineOp (fun _ _ _ _ hs => hs.addCmd.beginCmd)

theorem State.Formed.engBytes {w sp x1 n} (h : s.Formed) : (s.engBytes w sp x1 n).1.Formed := by
  induction n generalizing s x1 with
  | zero => exact h
  | succ n ih =>
    unfold State.engBytes
    dsimp only
    split
    all_goals
      rename_i e
      have ho := State.Formed.left (.iteFst (by
        split
        next er => exact (h.readSp.left er).fst
        next er => exact (h.readSp.left er).fst) h.engLoad) e
    · split
      next er => exact ((ih ho).left er).fst
      next er => exact ((ih ho).left er).fst
      next er => exact ((ih ho).left er).fst
    · exact ho.fst
    · exact ho.fst

theorem State.Formed.engPut {w sp n x2 x3} (h : s.Formed) : (s.engPut w sp n x2 x3).1.Formed := by
  induction n generalizing s x2 x3 with
  | zero => exact h
  | succ n ih =>
    unfold State.engPut
    split
    · exact h
    · dsimp only
      split
      all_goals
        rename_i e
        have hp := State.Formed.left (.iteFst h.putSp.fst h.engStore) e
      · exact ih hp
      · exact hp.fst
      · exact hp.fst

theorem State.Formed.jobWrite {w sp card k out st} (h : s.Formed) : (s.jobWrite w sp card k out st).1.Formed := by
  unfold State.jobWrite
  split
  next e =>
    split
    next e1 => exact ((h.engPut.left e).cardWrite.left e1).cardWrite
    · exact (h.engPut.left e).cardWrite
  · exact h.engPut

theorem State.Formed.jobRead {w k inp n} (h : s.Formed) : (s.jobRead w k inp n).1.Formed := by
  unfold State.jobRead
  split
  next e => exact (h.engBytes.left e).fst
  · exact h.engBytes

theorem State.Formed.obrRun {w k n x2 x3 x4} (h : s.Formed) : (s.obrRun w k n x2 x3 x4).1.Formed := by
  induction n generalizing s x2 x3 x4 with
  | zero => exact h
  | succ n ih =>
    unfold State.obrRun
    split
    · exact h
    · split
      next e => exact (h.jobRead.left e).fst
      next e => exact (h.jobRead.left e).fst
      next e => exact (h.jobRead.left e).fst
      next e1 =>
        split
        next e => exact ((h.jobRead.left e1).jobRead.left e).fst
        next e => exact ((h.jobRead.left e1).jobRead.left e).fst
        next e => exact ((h.jobRead.left e1).jobRead.left e).fst
        next e2 =>
          split
          · exact ((h.jobRead.left e1).jobRead.left e2).fst
          · exact ih ((h.jobRead.left e1).jobRead.left e2)

theorem State.Formed.runJob {w sp card k cancel} (h : s.Formed) : (s.runJob w sp card k cancel).1.Formed := by
  unfold State.runJob
  split
  next e =>
    have hs := State.Formed.right (.iteSnd h.choose h) e
    split
    next eo => exact (hs.obrRun.left eo).fst
    next eo => exact (hs.obrRun.left eo).fst
    next eo => exact (hs.obrRun.left eo).fst
    next eo =>
      have ho := hs.obrRun.left eo
      split
      next ew => exact (ho.jobWrite.left ew).fst
      next ew => exact (ho.jobWrite.left ew).fst
      next ew => exact (ho.jobWrite.left ew).fst

theorem State.Formed.doJob {w sp card l k cancel} (h : s.Formed) : (s.doJob w sp card l k cancel).1.Formed := by
  unfold State.doJob
  split
  · split
    next e => exact (h.cardWrite.left e).fst
    next e => exact (h.cardWrite.left e).fst
    next e => exact (h.cardWrite.left e).fst
  · exact h.runJob

theorem State.Formed.execDcmpJobComplete {cmd} (h : s.Formed) : Out.Formed (execDcmpJobComplete cmd s) := by
  unfold Machine.execDcmpJobComplete
  refine h.waitLocked ?_
  split
  · exact h
  · split
    · split
      · exact h.finishCmd
      · split
        · exact h
        · split
          next e => exact (h.doJob.left e).finishCmd
          next e => exact (h.doJob.left e).stopEngine
          next e => exact .ite (h.doJob.left e) h.chunkFault
          · exact h.finishCmd
    · exact h

theorem State.Formed.stopJob {c sp card} (h : s.Formed) : (s.stopJob c sp card).Formed := by
  unfold State.stopJob
  split
  · split
    · exact h
    · split
      next e => exact h.doJob.left e
      next e => exact (h.doJob.left e).stopEngine
      · split
        next e => exact h.jobWrite.left e
        · exact h
  · exact h

theorem State.Formed.execFwait {c d a} (h : s.Formed) : Out.Formed (execFwait c d a s) := by
  refine h.issue fun cx ex s hs => ?_
  dsimp only
  split
  next e => exact hs.fly e
  next => trivial

theorem State.Formed.execFtest {c d a} (h : s.Formed) : Out.Formed (execFtest c d a s) :=
  h.issue (fun _ _ _ hs => .ite hs.writeAll.acquireAt hs.writeAll)

theorem State.Formed.finishMatrix {pair m st} (h : s.Formed) : (s.finishMatrix pair m st).Formed :=
  .countCmd (.finishHandle (.ite h.modPair h.modPair.releaseLines))

theorem State.Formed.withdraw {c} (h : s.Formed) : (s.withdraw c).Formed := h.frame

theorem State.Formed.cancelHandle {b x} (h : s.Formed) : (s.cancelHandle b x).Formed := by
  unfold State.cancelHandle
  split
  · split
    · exact .ite h.withdraw.finishCmd h
    · exact h
    · exact h
    · exact h.modCmd.pumpFab
    · exact h.modCmd.pumpFab
    · exact h.cancelCopy
    · exact h.modCmd
  · split
    · split
      · exact h.finishMatrix
      · exact h
    · exact h

theorem State.Formed.execFcancel {c a} (h : s.Formed) : Out.Formed (execFcancel c a s) := by
  unfold Machine.execFcancel
  refine h.issue (fun _ _ _ hs => hs.foldl (fun _ _ ht => ?_))
  dsimp only
  split
  · exact .ite ht ht.cancelHandle
  · exact ht

theorem State.Formed.execWaitc {c scope cls a} (h : s.Formed) : Out.Formed (execWaitc c scope cls a s) := by
  refine h.issue fun cx ex s hs => ?_
  dsimp only
  split
  next e => exact hs.fly e
  next => trivial

/-! ### Sys2Proof/Machine/Queues.lean -/

theorem State.Formed.pushVal {l launch blk i x} (h : s.Formed) : (s.pushVal l launch blk i x).Formed := by
  unfold State.pushVal
  split
  · exact h
  · exact h.overScratch.modBlock

theorem State.Formed.headVal {l blk i behind} (h : s.Formed) : (s.headVal l blk i behind).1.Formed := by
  unfold State.headVal
  split
  · exact h
  · split
    next e => exact (h.readSp.left e).fst
    next e => exact (h.readSp.left e).fst

theorem State.Formed.popStep {launch blk i} (h : s.Formed) : Opt.Formed (s.popStep launch blk i) := by
  unfold State.popStep
  split
  · split
    · trivial
    · dsimp only
      split
      · split
        · exact h.modBlock
        · split
          · exact h.modBlock
          · split
            · split
              next e => exact (h.headVal.left e).modBlock.arrive
              next e => exact (h.headVal.left e).trapFlight
            · trivial
      · trivial
  · trivial

theorem State.Formed.pushStep {launch blk i} (h : s.Formed) : Opt.Formed (s.pushStep launch blk i) := by
  unfold State.pushStep
  split
  · split
    · trivial
    · split
      · trivial
      · split
        · split
          · split
            · trivial
            · exact h.pushVal.frame.arrive
          · exact h.modBlock
        · exact h.modBlock
  · trivial

theorem State.Formed.serveQueue {launch blk i n} (h : s.Formed) : (s.serveQueue launch blk i n).Formed := by
  induction n generalizing s with
  | zero => exact h
  | succ n ih =>
    unfold State.serveQueue
    split
    next e => exact ih ((h.popStep.orElse h.pushStep).some e)
    · exact h

theorem State.Formed.settleQueue {launch blk i} (h : s.Formed) : (s.settleQueue launch blk i).Formed := h.serveQueue

theorem State.Formed.holdOutside {cx k ex id} (h : s.Formed) : (s.holdOutside cx k ex id).Formed := by
  unfold State.holdOutside
  dsimp only
  split
  · exact h
  · exact h.holdSome

theorem State.Formed.execQpush {c a b} (h : s.Formed) : Out.Formed (execQpush c a b s) := by
  unfold Machine.execQpush
  refine h.issue (fun _ _ _ hs => ?_)
  dsimp only
  split
  · trivial
  · split
    · trivial
    next e => exact (hs.releaseAt.fly e).modBlock.settleQueue.holdOutside

theorem State.Formed.execQpop {c d a} (h : s.Formed) : Out.Formed (execQpop c d a s) := by
  refine h.issue fun cx ex s hs => ?_
  dsimp only
  split
  next => trivial
  next e => exact (hs.fly e).modBlock.settleQueue.holdOutside

theorem State.Formed.tryPushes {cx q l} (h : s.Formed) : (s.tryPushes cx q l).1.Formed := by
  induction l generalizing s with
  | nil => exact h
  | cons x l ih => exact (ih (.ite h.pushVal.settleQueue h)).fst

theorem State.Formed.execQtryPush {c d a b} (h : s.Formed) : Out.Formed (execQtryPush c d a b s) := by
  unfold Machine.execQtryPush
  refine h.issue (fun _ _ _ hs => ?_)
  dsimp only
  split
  · trivial
  · exact hs.releaseAt.tryPushes.writeAll

theorem State.Formed.tryPops {cx q l} (h : s.Formed) : (s.tryPops cx q l).1.Formed := by
  induction l generalizing s with
  | nil => exact h
  | cons x l ih =>
    unfold State.tryPops
    dsimp only
    split
    all_goals
      split
      · exact h
      · split
        next e => exact (h.headVal.left e).fst
        next e => exact (ih (h.headVal.left e).modBlock.settleQueue).fst

theorem State.Formed.execQtryPop {c d a e} (h : s.Formed) : Out.Formed (execQtryPop c d a e s) := by
  unfold Machine.execQtryPop
  refine h.issue (fun _ _ _ hs => ?_) (fun _ _ _ hs => .ite hs.headVal hs)
  split
  next e1 =>
    dsimp only
    split
    · split
      · exact .ite ((hs.tryPops.left e1).writeAll.modGroup (fun _ hx => hx.write)) (hs.tryPops.left e1).writeAll
      · exact (hs.tryPops.left e1).writeAll
    · refine .acquireAt ?_
      split
      · exact .ite ((hs.tryPops.left e1).writeAll.modGroup (fun _ hx => hx.write)) (hs.tryPops.left e1).writeAll
      · exact (hs.tryPops.left e1).writeAll

/-! ### Sys2Proof/Machine/Matrix.lean -/

theorem State.Formed.grantPair {i launch blk} (h : s.Formed) : (s.grantPair i launch blk).Formed :=
  .modPair (.ite h h.overWeights)

theorem State.Formed.execMres {c d} (h : s.Formed) : Out.Formed (execMres c d s) := by
  unfold Machine.execMres
  refine h.issue (fun _ _ _ hs => ?_)
  dsimp only
  split
  next e => exact .fly (.ite hs.grantPair hs) e
  · trivial

theorem State.Formed.execMrel {c} (h : s.Formed) : Out.Formed (execMrel c s) := by
  refine h.issue fun cx ex s hs => ?_
  split
  next e => exact hs.fly e
  next => trivial

theorem State.Formed.enqueueMatrix {cx ex op desc x lines} (h : s.Formed) : (s.enqueueMatrix cx ex op desc x lines).Formed :=
  h.modPair

theorem State.Formed.matrixOp {c d desc n tile formBad own op lines} (h : s.Formed) :
    Out.Formed (matrixOp c d desc n tile formBad own op lines s) :=
  h.engineOp (fun _ _ _ _ hs => hs.clearLines.enqueueMatrix)

theorem State.Formed.execMldw {c slot d a} (h : s.Formed) : Out.Formed (execMldw c slot d a s) := h.matrixOp

theorem State.Formed.mmaOp {c sparse slot d a b} (h : s.Formed) : Out.Formed (mmaOp c sparse slot d a b s) :=
  h.engineOp (fun _ _ _ _ hs => hs.enqueueMatrix)

theorem State.Formed.execMma {c slot d a b} (h : s.Formed) : Out.Formed (execMma c slot d a b s) := h.mmaOp

theorem State.Formed.execMmas {c slot d a b} (h : s.Formed) : Out.Formed (execMmas c slot d a b s) := h.mmaOp

theorem State.Formed.execMzero {c d} (h : s.Formed) : Out.Formed (execMzero c d s) := by
  unfold Machine.execMzero
  refine h.issue (fun _ _ _ hs => ?_)
  split
  · trivial
  · exact hs.releaseAt.enqueueMatrix.countCmd

theorem State.Formed.execMst {c ty bias rs rm d a b} (h : s.Formed) : Out.Formed (execMst c ty bias rs rm d a b s) := h.matrixOp

theorem State.Formed.execMcommit {c} (h : s.Formed) : Out.Formed (execMcommit c s) := by
  refine h.issue fun cx ex s hs => ?_
  dsimp only
  split
  · split
    · trivial
    · split
      next => trivial
      next e => exact (hs.fly e).enqueueMatrix.holdOutside
  · split
    next => trivial
    next e => exact (hs.fly e).modBlock.holdOutside

theorem State.Formed.execMatrixCommandStart {pair} (h : s.Formed) : Out.Formed (execMatrixCommandStart pair s) := by
  unfold Machine.execMatrixCommandStart
  split
  · exact h
  · split
    · exact h
    · split
      · split
        · exact h.frame
        · split
          · exact h
          · dsimp only
            split
            · exact h.modPair.modBlock
            · exact h.modPair
      · exact h.modPair

theorem State.Formed.overMatrix {l b pair m} (h : s.Formed) : (s.overMatrix l b pair m).Formed := by
  unfold State.overMatrix
  split
  · exact h.overWeights.overWeights
  · exact h.writeOver
  · split
    · exact h.foldl (fun _ _ hs => hs.overScratch)
    · exact h
  · exact h

theorem State.Formed.performMatrix {pair m} (h : s.Formed) : (s.performMatrix pair m).Formed := by
  unfold State.performMatrix
  split
  · split
    · exact h.notePoison.stopContext
    · dsimp only
      split
      · exact h.overMatrix.modBlock.modPair.finishMatrix
      · exact h.overMatrix
  · exact h

theorem State.Formed.execMatrixCommandComplete {pair} (h : s.Formed) : Out.Formed (execMatrixCommandComplete pair s) := by
  unfold Machine.execMatrixCommandComplete
  split
  · exact h
  · split
    · exact h
    · split
      · exact h
      · split
        · exact h.meetAll.performMatrix
        · exact h

/-! ### Sys2Proof/Machine/Blocks.lean -/

theorem State.Formed.ensurePair {i} (h : s.Formed) : (s.ensurePair i).Formed := .ite h h.frame

theorem State.Formed.placeBlock {l idx core pair} (h : s.Formed) : (s.placeBlock l idx core pair).Formed := by
  have ha : ((List.range l.lr.cores).foldl (fun (s : State) i => s.acquireCore (core + i)) (s.ensurePair pair)).Formed :=
    h.ensurePair.foldl fun _ _ hs => hs.acquireCore
  refine .of_parts ha.mem (fun t ht => ?_) (fun g hg => ?_) ha.agenda
  · exact (List.mem_append.1 ht).elim ha.thread (freshThreads_formed t)
  · exact (List.mem_append.1 hg).elim ha.group (blockGroups_formed g)

theorem State.Formed.placeBlocks {l x1 x2} (h : s.Formed) : (s.placeBlocks l x1 x2).Formed := by
  induction x2 generalizing s x1 with
  | nil => exact h
  | cons x x2 ih => exact ih h.placeBlock

theorem State.Formed.plant {b core pair} (h : s.Formed) : (s.plant b core pair).Formed := by
  unfold State.plant
  have hp : (s.ensurePair pair).Formed := h.ensurePair
  generalize s.ensurePair pair = u at hp ⊢
  dsimp only
  split
  · have ho := hp.overWeights (pair := pair) (off := 0) (n := 2097152)
    generalize u.overWeights _ _ _ = v at ho ⊢
    exact ho.withGroups (modify_keeps (fun _ hg => ho.group hg) fun _ hg => hg.frame)
  · exact hp.withGroups (modify_keeps (fun _ hg => hp.group hg) fun _ hg => hg.frame)

theorem State.Formed.reissue {b c} (h : s.Formed) : (s.reissue b c).Formed := by
  unfold State.reissue
  cases c.kind with
  | dcmp => exact h.beginCmd
  | put => exact h.checkFab
  | get => exact h.checkFab
  | coll =>
    dsimp only
    split
    · exact h.endColl
    · split
      · exact h.joinColl.pumpColl
      · exact h
  | copy => exact h
  | fatom => exact h
  | reconf => exact h

theorem State.Formed.resumeBlock {launch blk} (h : s.Formed) : (s.resumeBlock launch blk).Formed := by
  unfold State.resumeBlock
  split
  · exact h
  · exact (h.foldl (fun _ _ hs => hs.acquireCore)).foldl (fun _ _ hs => hs.reissue)

theorem State.Formed.tryPlant {l b core pair} (h : s.Formed) : (s.tryPlant l b core pair).Formed := by
  unfold State.tryPlant
  split
  · exact h
  · exact .ite ((h.foldl (fun _ _ hs => hs.plant)).foldl (fun _ _ hs => hs.resumeBlock)) (h.foldl (fun _ _ hs => hs.plant))

theorem State.Formed.claim {l core pair} (h : s.Formed) : (s.claim l core pair).Formed := by
  unfold State.claim
  split
  · exact h
  · exact h.modLaunch.placeBlocks

theorem State.Formed.claimAll {l} (h : s.Formed) : (s.claimAll l).Formed := by
  unfold State.claimAll
  split
  · exact h
  · exact h.modLaunch.placeBlocks

theorem State.Formed.finishContext {id} (h : s.Formed) : (s.finishContext id).Formed := by
  unfold State.finishContext
  dsimp only
  split
  · split
    · exact h
    · split
      · exact h.removeLaunches.endSaves.packetDone
      · exact h.removeLaunches
  · exact h

theorem State.Formed.startReplanted {id} (h : s.Formed) : (s.startReplanted id).Formed := by
  unfold State.startReplanted
  split
  · exact h
  · exact (((h.foldl (fun _ _ hs => hs.restoreLog)).modLaunch.foldl (fun _ _ hs => hs.resumeBlock)).foldl
      (fun _ _ hs => hs.settleBars)).settleWide.finishContext

theorem State.Formed.execBlockClaim {launch core pair} (h : s.Formed) : Out.Formed (execBlockClaim launch core pair s) := by
  unfold Machine.execBlockClaim
  split
  · exact h
  · split
    · exact h.readCaps.claimAll
    · exact h.readCaps.tryPlant
    · exact h.readCaps.claim
    · exact h.startReplanted
    · exact h

theorem State.Formed.retire {b} (h : s.Formed) : (s.retire b).Formed := by
  have hr : ((List.range b.cores).foldl (fun (s : State) i => s.releaseCore (b.core + i)) s).Formed :=
    h.foldl fun _ _ hs => hs.releaseCore
  refine .finishContext (.settleWide (.modLaunch ?_))
  exact .of_parts hr.mem (fun _ ht => hr.thread (List.mem_filter.1 ht).1) (fun _ hg => hr.group
    (List.mem_filter.1 hg).1) hr.agenda

theorem State.Formed.execBlockRetire {launch blk} (h : s.Formed) : Out.Formed (execBlockRetire launch blk s) := by
  unfold Machine.execBlockRetire
  split
  · exact h
  · split
    · exact h.retire
    · exact h

theorem State.Formed.childRecord {pasid c} (h : s.Formed) : (s.childRecord pasid c).1.Formed := by
  unfold State.childRecord
  dsimp only
  split
  · exact h
  · split
    next e => exact (h.readVirt.left e).fst
    next e => exact (h.readVirt.left e).fst

theorem State.Formed.execChildAdmission {entry} (h : s.Formed) : Out.Formed (execChildAdmission entry s) := by
  unfold Machine.execChildAdmission
  split
  · exact h
  · split
    · split
      · exact h
      · split
        next e4 =>
          dsimp only
          split
          next e => exact (h.childRecord.left e4).frame.takeOn.left e
          next e => exact ((h.childRecord.left e4).frame.takeOn.left e).log.finishContext
    · exact h

theorem State.Formed.execWatchdogExpiry {launch} (h : s.Formed) : Out.Formed (execWatchdogExpiry launch s) := by
  unfold Machine.execWatchdogExpiry
  split
  · exact h
  · split
    · exact h.stopContext
    · exact h

/-! ### Sys2Proof/Machine/Complete.lean -/

theorem State.Formed.bindFound {i} (h : s.Formed) : (s.bindFound i).Formed := by
  unfold State.bindFound
  dsimp only
  split
  · exact h
  · split
    · exact h.frame.modPair
    · exact h.frame

theorem State.Formed.execLongLatencyComplete {op} (h : s.Formed) : Out.Formed (execLongLatencyComplete op s) := by
  unfold Machine.execLongLatencyComplete
  split
  · exact h
  · exact h.bindFound.completeLanes

theorem State.Formed.writeBinding {launch k target} (h : s.Formed) : (s.writeBinding launch k target).Formed := by
  unfold State.writeBinding
  split
  · exact h
  · split
    · exact h
    · split
      next e2 =>
        dsimp only
        split
        · refine .modThreads ?_ (fun _ hx => hx.frame)
          split <;> exact (h.translate.left e2).recallWords.writeHome
        · exact (h.translate.left e2).recallWords
      next e => exact (h.translate.left e).frame
      next e => exact h.translate.left e

theorem State.Formed.execBindingResolved {launch k target} (h : s.Formed) :
    Out.Formed (execBindingResolved launch k target s) :=
  h.writeBinding

theorem State.Formed.execBindingFailed {launch k} (h : s.Formed) : Out.Formed (execBindingFailed launch k s) := h.writeBinding

theorem State.Formed.execFlushComplete {launch} (h : s.Formed) : Out.Formed (execFlushComplete launch s) := by
  unfold Machine.execFlushComplete
  split
  · exact h
  · split
    · split
      · exact h.finishFlush
      · exact h
    · exact h

theorem State.Formed.resumeFlush {launch} (h : s.Formed) : (s.resumeFlush launch).Formed := h.frame.modLaunch.applyFlush

theorem State.Formed.execFlushFaultResolved {launch} (h : s.Formed) : Out.Formed (execFlushFaultResolved launch s) := by
  unfold Machine.execFlushFaultResolved
  split
  · split
    · exact h.resumeFlush
    · exact h
  · exact h

/-! ### Sys2Proof/Machine/Device.lean -/

theorem State.Formed.execScrubStep {codeword err} (h : s.Formed) : Out.Formed (execScrubStep codeword err s) := by
  unfold Machine.execScrubStep
  split
  · exact h
  · split
    · exact h
    · exact h.meet

theorem State.Formed.resetKeeping : s.resetKeeping.Formed := reset_formed.frame

theorem State.Formed.startAgents {id fw} (h : s.Formed) : (s.startAgents id fw).Formed := by
  refine .of_parts h.mem (fun t ht => ?_) (fun g hg => ?_) h.agenda
  · refine (List.mem_append.1 ht).elim h.thread fun ht => ?_
    obtain ⟨c, -, hc⟩ := List.mem_flatMap.1 ht
    exact agentThreads_formed t hc
  · exact (List.mem_append.1 hg).elim h.group (agentGroups_formed g)

theorem State.Formed.boot {pkg} (h : s.Formed) : (s.boot pkg).Formed := by
  unfold State.boot
  exact h.choose.fresh.startAgents.frame

theorem State.Formed.execDeviceReset {pkg} : Out.Formed (execDeviceReset pkg s) := by
  unfold Machine.execDeviceReset
  dsimp only
  split
  · exact .boot .resetKeeping
  · exact .log .resetKeeping

theorem State.Formed.meltdown (h : s.Formed) : s.meltdown.Formed := h.stopAll.frame

theorem State.Formed.execThrottleTick {pnow tj} (h : s.Formed) : Out.Formed (execThrottleTick pnow tj s) :=
  .ite h.frame.meltdown h.frame

theorem State.Formed.execUnassignedOpcode {w} (h : s.Formed) : Out.Formed (execUnassignedOpcode w s) := by
  unfold Machine.execUnassignedOpcode
  split
  · trivial
  · split
    · exact h.trapRun
    · exact h

/-! ### Sys2Proof/Machine/Pages.lean -/

theorem State.Formed.landPage {f} (h : s.Formed) : (s.landPage f).Formed := by
  unfold State.landPage
  split
  · exact h.writeLines.spoilAll.writeHome
  · exact h

theorem State.Formed.unpage {pasid p} (h : s.Formed) : (s.unpage pasid p).Formed := h.frame

theorem State.Formed.pagesCome {launch pasid} (h : s.Formed) : (s.pagesCome launch pasid).Formed := .ite h h.frame

theorem State.Formed.endFetch {f} (h : s.Formed) : (s.endFetch f).Formed := by
  have told : ({ s with
      fetches := s.fetches.filter (·.id != f.id)
      agenda := s.agenda ++ (s.oplog.filter (fun e => e.pasid == f.pasid && e.away.any f.page.covers)).map
        (fun e => if f.lost then .faultUnresolvable e.id else .faultResolved e.id) } : State).Formed := by
    refine h.withEvents rfl fun i hi => ?_
    obtain ⟨e, -, rfl⟩ := List.mem_map.1 hi
    split <;> rfl
  unfold State.endFetch
  split
  · exact h
  · dsimp only
    split
    · exact .pagesCome (.ite told told.landPage.unpage)
    · exact .ite told told.landPage.unpage

theorem State.Formed.setFetch {f} (h : s.Formed) : (s.setFetch f).Formed := h.frame

theorem State.Formed.askLine {f} (h : s.Formed) : (s.askLine f).Formed := h.sendFlit.setFetch

theorem State.Formed.ownLines {pasid a n} (h : s.Formed) : (s.ownLines pasid a n).1.Formed := by
  induction n generalizing s a with
  | zero => exact h
  | succ n ih => exact ih (h.readHome (pa := a) (n := 128) (pasid := pasid))

theorem State.Formed.runFetch {f} (h : s.Formed) : (s.runFetch f).Formed :=
  .ite (.ite h.setFetch.endFetch h.freeBytes.frame.setFetch.endFetch) (.ite
    (.ite h.ownLines.setFetch.endFetch h.setFetch.endFetch) h.askLine)

/-- A fold that gives a state beside another result. -/
theorem State.Formed.foldlFst {β : Type} {f : State × β → α → State × β} {l : List α} {p : State × β}
    (h : p.1.Formed) (hf : ∀ p x, p.1.Formed → (f p x).1.Formed) : (l.foldl f p).1.Formed := by
  induction l generalizing p with
  | nil => exact h
  | cons x l ih => exact ih (hf p x h)

theorem State.Formed.startFetches {pasid early launch ps} (h : s.Formed) : (s.startFetches pasid early launch ps).Formed := by
  unfold State.startFetches
  dsimp only
  refine State.Formed.foldl (.frame (State.Formed.foldlFst h.fst fun p _ hp => ?_)) (fun _ _ hs => hs.runFetch)
  exact hp.fresh.fst

theorem State.Formed.lineCame {txn bs ps} (h : s.Formed) : (s.lineCame txn bs ps).Formed := by
  unfold State.lineCame
  split
  · exact h
  · exact .ite h.askLine h.setFetch.endFetch

theorem State.Formed.lineLost {txn} (h : s.Formed) : Opt.Formed (s.lineLost txn) := .map (fun _ => h.setFetch.endFetch)

theorem State.Formed.follow {pasid va} (h : s.Formed) : (s.follow pasid va).Formed := by
  unfold State.follow
  split
  · exact h
  · exact .ite h.startFetches h.unpage

/-! ### Sys2Proof/Machine/Faults.lean -/

theorem State.Formed.replay {op reqs} (h : s.Formed) : (s.replay op reqs).Formed := by
  unfold State.replay
  split
  · exact h
  · split
    · exact h
    · dsimp only
      split
      · exact h.accessAll.stopContext
      · exact (h.accessAll.frame.logFaults.foldl (fun _ _ hs => hs.trapFlight)).completeLanes

theorem State.Formed.unwait {entry} (h : s.Formed) : (s.unwait entry).Formed := h.modThreads (fun _ hx => hx.frame)

theorem State.Formed.unfault {cmd chunk} (h : s.Formed) : (s.unfault cmd chunk).Formed := by
  unfold State.unfault
  split
  · exact h
  · dsimp only
    split
    · exact h.modCmd.dropChunk.pumpFab
    · exact h.modCmd.dropChunk.pumpFab
    · exact h.modCmd.pumpColl
    · exact h.modCmd.beginCmd

theorem State.Formed.rearrive {e launch blk obj tag cmd} (h : s.Formed) : (s.rearrive e launch blk obj tag cmd).Formed := by
  unfold State.rearrive
  dsimp only
  split
  next e1 =>
    split
    · exact (h.arriveAt.left e1).finishCmd
    · exact (h.arriveAt.left e1).modBlock
  next e1 =>
    split
    · exact (h.arriveAt.left e1).finishCmd
    · exact (h.arriveAt.left e1).modBlock
  next e1 =>
    split
    · exact (h.arriveAt.left e1).finishCmd
    · exact (h.arriveAt.left e1).modBlock
  next e => exact (h.arriveAt.left e).stopContext
  next e => exact (h.arriveAt.left e).frame

theorem State.Formed.retry {e} (h : s.Formed) : (s.retry e).Formed := by
  unfold State.retry
  split
  · exact h.replay
  · exact h.unwait
  · exact h.unwait
  · exact h.unfault
  · split
    · exact h.pumpPacket
    · exact h
  · exact h.rearrive
  · exact h.resumeFlush
  · exact h.rewriteEntry
  · exact h.writeBinding

theorem State.Formed.dropEntries {es} (h : s.Formed) : (s.dropEntries es).Formed := h.frame

theorem State.Formed.execFaultResolved {entry} (h : s.Formed) : Out.Formed (execFaultResolved entry s) := by
  unfold Machine.execFaultResolved
  split
  · exact h
  · split
    · exact h
    · dsimp only
      split
      · exact h
      · split
        · exact h.foldl (fun _ _ hs => hs.follow)
        · exact (h.foldl (fun _ _ hs => hs.follow)).foldl (fun _ _ hs => .ite hs.dropEntries.retry hs)

theorem State.Formed.trapWaiting {e} (h : s.Formed) : (s.trapWaiting e).Formed := h.foldl (fun _ _ hs => hs.trapThread)

theorem State.Formed.tellAbandoned {launch seq} (h : s.Formed) : (s.tellAbandoned launch seq).Formed := by
  unfold State.tellAbandoned
  split
  · exact h.foldl (fun _ _ hs => hs.sendShort)
  · exact h

theorem State.Formed.failCmd {cmd chunk} (h : s.Formed) : (s.failCmd cmd chunk).Formed := by
  unfold State.failCmd
  split
  · exact h
  · dsimp only
    split
    · exact h.modCmd.dropChunk.pumpFab
    · exact h.modCmd.dropChunk.pumpFab
    · exact h.modCmd.tellAbandoned.abandonColl
    · exact h.modCmd

theorem State.Formed.giveUp {e} (h : s.Formed) : (s.giveUp e).Formed := by
  unfold State.giveUp
  split
  · exact h.foldl (fun _ _ hs => hs.trapFlight)
  · exact h.trapWaiting
  · exact h.trapWaiting
  · exact h.failCmd
  · split
    · exact .ite h.loseSignal h.packetDone
    · exact h
  · split
    · exact h.finishCmd
    · exact h.modBlock
  · split
    · exact h.stopContext
    · exact h
  · exact h
  · exact h

theorem State.Formed.execFaultUnresolvable {entry} (h : s.Formed) : Out.Formed (execFaultUnresolvable entry s) := by
  unfold Machine.execFaultUnresolvable
  split
  · exact h
  · split
    · exact h
    · exact h.foldl (fun _ _ hs => .ite hs.dropEntries.giveUp hs)

/-! ### Sys2Proof/Machine/Flits.lean -/

theorem State.Formed.sendBack {hdr type body} (h : s.Formed) : (s.sendBack hdr type body).Formed := h.sendItem

theorem State.Formed.sendReply {f type psn payload} (h : s.Formed) : (s.sendReply f type psn payload).Formed := h.sendItem

theorem State.Formed.reject {hdr} (h : s.Formed) : (s.reject hdr).Formed := h.sendBack.log

theorem State.Formed.relay {port type it} (h : s.Formed) : (s.relay port type it).Formed := .ite h.oweCredit h.frame.sendItem

theorem State.Formed.takeFlit {port type f act} (h : s.Formed) (hact : ∀ s, s.Formed → (act s).Formed) :
    (s.takeFlit port type f act).Formed :=
  .ite h (.ite h.oweCredit.reject (.ite h.relay (hact _ h.oweCredit)))

theorem State.Formed.takeShort {port type f act} (h : s.Formed) (hact : ∀ s, s.Formed → (act s).Formed) :
    (s.takeShort port type f act).Formed :=
  .ite h (.ite h.relay (hact _ h.oweCredit))

theorem pageWalk_event {cluster : Nat} {pasid : BitVec 20} {va : BitVec 57} {acc : Access} :
    ∀ i ∈ [Instr.pageWalk cluster pasid va acc], encode i = none := fun i hi => by
  cases List.mem_singleton.1 hi
  rfl

theorem State.Formed.serveAt {port off n write} (h : s.Formed) : (s.serveAt port off n write).1.Formed := by
  unfold State.serveAt
  split
  · exact h
  · split
    · exact h
    · dsimp only
      generalize (if write = true then Access.write else Access.read) = acc
      split
      · split
        · exact h
        · split
          · exact h
          · exact h.translate
      · split
        · exact (h.withEvents rfl pageWalk_event).fst
        · split
          · exact (h.withEvents rfl pageWalk_event).fst
          · split
            · exact h
            · exact h.frame.fst

theorem State.Formed.retryAfter {f} (h : s.Formed) : (s.retryAfter f).Formed := by
  unfold State.retryAfter
  split
  next e => exact (h.choose.right e).sendBack

theorem State.Formed.serveFlit {port f n write act} (h : s.Formed) (hact : ∀ s x1, s.Formed → (act s x1).Formed) :
    (s.serveFlit port f n write act).Formed := by
  unfold State.serveFlit
  split
  next e => exact hact _ _ (h.serveAt.left e)
  next e => exact (h.serveAt.left e).retryAfter
  next e => exact (h.serveAt.left e).reject

theorem State.Formed.replyWords {f pasid pa n} (h : s.Formed) : (s.replyWords f pasid pa n).Formed :=
  h.readHome.notePoison.sendReply

theorem State.Formed.servePage {f} (h : s.Formed) : (s.servePage f).Formed := .ite h.replyWords h.sendBack

theorem State.Formed.execFlitRead {port f} (h : s.Formed) : Out.Formed (execFlitRead port f s) :=
  h.takeFlit (fun _ hs => .ite hs.servePage (hs.serveFlit (fun _ _ ht => ht.replyWords)))

theorem State.Formed.execFlitWrite {port f} (h : s.Formed) : Out.Formed (execFlitWrite port f s) :=
  h.takeFlit (fun _ hx => hx.serveFlit (fun _ _ ht => ht.writeHome.spoilAll.sendReply))

theorem State.Formed.execFlitAtomic {port f} (h : s.Formed) : Out.Formed (execFlitAtomic port f s) := by
  unfold Machine.execFlitAtomic
  refine h.takeFlit (fun _ hs => ?_)
  split
  · exact hs.reject
  · exact hs.serveFlit (fun _ _ ht => .ite ht.readPlace.notePoison.sendReply (.sendReply
      (.ite hs.serveAt.readPlace ht.readPlace.writeHome)))

theorem State.Formed.dropTxn {id} (h : s.Formed) : (s.dropTxn id).Formed := h.frame

theorem State.Formed.forgetTxn {cmd id} (h : s.Formed) : (s.forgetTxn cmd id).Formed := h.modCmd

theorem State.Formed.arriveAndComplete {op lane x} (h : s.Formed) : (s.arriveAndComplete op lane x).Formed :=
  h.arrive.completeLanes

theorem State.Formed.landPiece {c t bs ps} (h : s.Formed) : (s.landPiece c t bs ps).Formed := by
  unfold State.landPiece
  dsimp only
  split
  · exact h
  · split
    next e => exact (h.writeWords.left e).fabDone
    next e => exact (h.writeWords.left e).dropChunk.chunkFault.pumpFab
    next e => exact (h.writeWords.left e).modCmd.dropChunk.pumpFab

theorem State.Formed.execFlitReadReply {port f} (h : s.Formed) : Out.Formed (execFlitReadReply port f s) := by
  unfold Machine.execFlitReadReply
  refine h.takeFlit (fun _ hs => ?_)
  split
  · exact hs
  · refine .runReconf ?_
    split
    · exact .ite hs.dropTxn.trapFlight hs.dropTxn.arriveAndComplete
    · split
      · exact hs.dropTxn.landPiece
      · exact hs.dropTxn
    · exact hs.dropTxn.lineCame

theorem State.Formed.execFlitWriteAck {port f} (h : s.Formed) : Out.Formed (execFlitWriteAck port f s) := by
  unfold Machine.execFlitWriteAck
  refine h.takeFlit (fun _ hs => ?_)
  split
  · exact hs
  · refine .runReconf ?_
    split
    · exact hs.dropTxn.arriveAndComplete
    · split
      · split
        · exact hs.dropTxn.fabDone
        · exact hs.dropTxn.forgetTxn
      · exact hs.dropTxn
    · exact hs.dropTxn

theorem State.Formed.endFatom {c ty order old} (h : s.Formed) : (s.endFatom c ty order old).Formed := by
  unfold State.endFatom
  refine .finishCmd ?_
  split
  · refine .acquireCore ?_
    split
    · exact h.putSp
    · exact h
  · split
    · exact h.putSp
    · exact h

theorem State.Formed.poisonFar {ref lane pc} (h : s.Formed) : (s.poisonFar ref lane pc).Formed := h.stopContext

theorem State.Formed.poisonReplied {op lane} (h : s.Formed) : (s.poisonReplied op lane).Formed := by
  unfold State.poisonReplied
  split
  · exact .ite h.trapFlight h.poisonFar
  · exact h

theorem State.Formed.fatomReplied {c txn old bad} (h : s.Formed) : (s.fatomReplied c txn old bad).Formed := by
  unfold State.fatomReplied
  split
  · exact .ite h.log.finishCmd h.endFatom
  · exact .ite h.poisonFar h.forgetTxn.pumpFab

theorem State.Formed.execFlitAtomicReply {port f} (h : s.Formed) : Out.Formed (execFlitAtomicReply port f s) := by
  unfold Machine.execFlitAtomicReply
  refine h.takeFlit (fun _ hs => ?_)
  split
  · exact hs
  · refine .runReconf ?_
    split
    · exact .ite hs.dropTxn.poisonReplied hs.dropTxn.arriveAndComplete
    · exact hs.dropTxn.fatomReplied
    · exact hs.dropTxn

theorem State.Formed.takeHead {l t seq rank fn n} (h : s.Formed) : (s.takeHead l t seq rank fn n).Formed := by
  unfold State.takeHead
  dsimp only
  split
  · split
    · exact h.modColl.modColl.sendHead
    · exact h.modColl
  · exact h.modColl

theorem State.Formed.takeColl {l t f} (h : s.Formed) : (s.takeColl l t f).Formed :=
  .ite (.settleWide (.ite h h.frame)) (.ite h (.pumpColl (.ite h.openColl.takeHead (.ite h.openColl.modColl h.openColl))))

theorem State.Formed.execFlitCollectiveData {port f} (h : s.Formed) : Out.Formed (execFlitCollectiveData port f s) := by
  unfold Machine.execFlitCollectiveData
  refine h.takeFlit (fun _ hs => ?_)
  split
  · exact hs.retryAfter
  · split
    · exact hs.retryAfter
    · exact hs.takeColl.sendReply

theorem State.Formed.execCollectiveRestart {port f} (h : s.Formed) : Out.Formed (execCollectiveRestart port f s) := by
  unfold Machine.execCollectiveRestart
  refine h.takeShort (fun _ hs => ?_)
  split
  · exact hs
  · split
    · exact hs
    · exact .ite hs (.ite hs.openColl.modColl.pumpColl hs.modColl)

theorem State.Formed.failTxn {t} (h : s.Formed) : (s.failTxn t).Formed := by
  unfold State.failTxn
  dsimp only
  split
  · split
    · exact h.dropTxn.stopContext
    · exact h.dropTxn
  · split
    · exact h.dropTxn.stopContext
    · exact h.dropTxn
  · split
    next e => exact h.dropTxn.lineLost.some e
    · exact h.dropTxn.stopContext
    · exact h.dropTxn

theorem State.Formed.execRetryAfter {port f} (h : s.Formed) : Out.Formed (execRetryAfter port f s) := by
  unfold Machine.execRetryAfter
  refine h.takeShort (fun _ hs => ?_)
  split
  · exact hs
  · exact .ite hs.failTxn.runReconf hs.frame

theorem State.Formed.execStaleReject {port f} (h : s.Formed) : Out.Formed (execStaleReject port f s) := by
  unfold Machine.execStaleReject
  refine h.takeShort (fun _ hs => ?_)
  split
  · exact hs
  · exact hs.failTxn.runReconf

theorem State.Formed.resend {t} (h : s.Formed) : (s.resend t).Formed := by
  unfold State.resend
  dsimp only
  split
  · exact h.frame.enqueue
  · exact h.frame

theorem State.Formed.execRemoteResend {txn} (h : s.Formed) : Out.Formed (execRemoteResend txn s) := by
  unfold Machine.execRemoteResend
  split
  · exact h
  · split
    all_goals
      split
      · exact h.resend
      · exact h

theorem State.Formed.execRerouteTimeout {txn} (h : s.Formed) : Out.Formed (execRerouteTimeout txn s) := by
  unfold Machine.execRerouteTimeout
  split
  · exact h
  · split
    · exact h.failTxn.runReconf
    · exact h

theorem State.Formed.execBufferRelease {port f} (h : s.Formed) : Out.Formed (execBufferRelease port f s) := by
  unfold Machine.execBufferRelease
  split
  · exact h
  · exact h.modPort

theorem State.Formed.execLinkProbe {port f} (h : s.Formed) : Out.Formed (execLinkProbe port f s) := h.takeShort (fun _ hx => hx)

theorem State.Formed.takeReady {port kind f act} (h : s.Formed) (hact : ∀ s, s.Formed → (act s).Formed) :
    (s.takeReady port kind f act).Formed :=
  .ite h (h.takeShort hact)

theorem State.Formed.execReady {port f} (h : s.Formed) : Out.Formed (execReady port f s) :=
  h.takeReady (fun _ hs => .runReconf (.ite hs hs.frame))

theorem State.Formed.execGo {port f} (h : s.Formed) : Out.Formed (execGo port f s) := by
  unfold Machine.execGo
  refine h.takeReady (fun _ hs => ?_)
  split
  · exact hs.frame.runReconf
  · exact hs

theorem State.Formed.execAbort {port f} (h : s.Formed) : Out.Formed (execAbort port f s) := by
  unfold Machine.execAbort
  refine h.takeReady (fun _ hs => ?_)
  split
  · exact hs.failEarly.runReconf
  · exact hs

/-! ### Sys2Proof/Machine/Proofer.lean -/

theorem State.Formed.dropLane {id lane} (h : s.Formed) : (s.dropLane id lane).Formed := by
  unfold State.dropLane
  split
  · exact h
  · dsimp only
    split
    · split
      · exact h.frame.modBlock.modFlags (fun _ hm => flagDown_wf hm)
      · exact h.frame.modBlock
    · exact h.frame

theorem State.Formed.cutFlights {ref lane} (h : s.Formed) : (s.cutFlights ref lane).Formed := by
  unfold State.cutFlights
  refine .frame (?_ : (List.foldl _ s _).Formed)
  exact h.foldl (fun _ _ hs => hs.dropLane)

theorem State.Formed.dropDet {t seq} (h : s.Formed) : (s.dropDet t seq).Formed := h.frame.modBlock

theorem State.Formed.discardCmd {c} (h : s.Formed) : (s.discardCmd c).Formed := by
  unfold State.discardCmd
  split
  · refine .finishCmd ?_
    split
    · exact h.cancelCopy.landFlying
    · exact h.cancelCopy
  · exact h.stopJob.finishCmd
  · exact h.finishCmd

theorem State.Formed.dropCmds {t} (h : s.Formed) : (s.dropCmds t).Formed := (h.foldl (fun _ _ hs => hs.discardCmd)).modBlock

theorem State.Formed.rollBack {t r} (h : s.Formed) : (s.rollBack t r).Formed :=
  (h.pullThread.withdrawBar.cutFlights.dropDet.dropCmds.modThread (fun _ hx => hx.frame)).sweepLog

theorem State.Formed.rollBackAll {t r} (h : s.Formed) : (s.rollBackAll t r).Formed := by
  unfold State.rollBackAll
  refine h.foldl (fun _ _ hs => ?_)
  split
  · exact .ite hs hs.rollBack
  · exact hs

theorem State.Formed.endMates {l} (h : s.Formed) : (s.endMates l).Formed := by
  refine h.foldl fun _ _ hs => .ite (.afterExit ?_) ?_
  all_goals exact hs.endRegion.modThread fun _ hx => hx.frame

theorem State.Formed.standFull {t} (h : s.Formed) : (s.standFull t).Formed :=
  (h.withdrawBar.modThread (fun _ hx => hx.frame)).sweepLog

theorem State.Formed.quiet {t} (h : s.Formed) : (s.quiet t).Formed := by
  unfold State.quiet
  split
  · exact h
  · split
    · exact h.recallThread
    · split
      · exact .ite (.ite h h.rollBackAll) (.ite h.endMates h)
      · split
        · exact .ite h.cutFlights.standFull h
        · exact h
        · exact h.standFull
        · exact h.standFull
        · exact h.standFull
        · exact .ite h.standFull h
        · exact h

theorem State.Formed.quietAll {launch blks} (h : s.Formed) : (s.quietAll launch blks).Formed := by
  unfold State.quietAll
  refine h.foldl (fun _ _ hs => ?_)
  split
  · exact hs.quiet
  · exact hs

theorem State.Formed.execProoferClauseLimit {g lane} (h : s.Formed) : Out.Formed (execProoferClauseLimit g lane s) := by
  unfold Machine.execProoferClauseLimit
  split
  · exact h
  · dsimp only
    split
    · exact h
    · split
      · split
        · exact h
        · exact h.rollBackAll
      · exact h.standFull

theorem State.Formed.cutCmd {c} (h : s.Formed) : (s.cutCmd c).Formed := by
  unfold State.cutCmd
  dsimp only
  split
  · exact h.clearLines.modCmd
  · exact h.clearLines.modCmd
  · exact h.clearLines.modCmd
  · exact h.modCmd
  · exact h.modCmd

theorem State.Formed.stopColl {l c seq} (h : s.Formed) : (s.stopColl l c seq).Formed := by
  unfold State.stopColl
  split
  · exact h
  · exact (h.foldl (fun _ _ hs => hs.sendShort)).modColl.withdraw.modCmd

theorem State.Formed.dropMatrix {b} (h : s.Formed) : (s.dropMatrix b).Formed :=
  (h.foldl (fun _ _ hs => hs.finishMatrix)).modBlock

theorem State.Formed.endWork {c} (h : s.Formed) : (s.endWork c).Formed := by
  unfold State.endWork
  cases c.kind with
  | copy dims dir bar =>
    dsimp only
    split
    · exact .ite h.landFlying.completeCopy h.landFlying
    · exact h.landFlying
  | dcmp => exact .ite h.finishCmd h
  | put => exact h.pumpFab
  | get => exact h.pumpFab
  | fatom => exact h
  | coll => exact h
  | reconf => exact h

theorem State.Formed.stopEngines {l blks} (h : s.Formed) : (s.stopEngines l blks).Formed := by
  have cut : ((s.proofCmds l.id blks).foldl (fun (s : State) c => match c.kind with
      | .coll _ _ _ seq => s.stopColl l c seq
      | _ => s.cutCmd c) s).Formed := by
    refine h.foldl fun _ _ hs => ?_
    split
    · exact hs.stopColl
    · exact hs.cutCmd
  unfold State.stopEngines
  exact cut.drainBuffers.frame.foldl fun _ _ hs => hs.dropMatrix

theorem State.Formed.freeStore {w n keep} {m : Store w} (h : s.Formed) : (s.freeStore keep n m).1.Formed := by
  induction n generalizing s m with
  | zero => exact h
  | succ n ih =>
    unfold State.freeStore
    split
    · exact ih h
    · exact ih h.free

theorem State.Formed.forgetRegs {t vregs x} (h : s.Formed) (ht : t.Formed) : (s.forgetRegs t vregs x).Formed := by
  have hv := @freeStore_wf s _ (fun i => x.testBit i) vregs _ ht.vregs
  unfold State.forgetRegs
  dsimp only
  exact h.freeStore.freeStore.free.modThread fun u hu => ⟨hv, freeStore_wf ht.handles, hu.pip⟩

theorem State.Formed.recorded {t} (h : s.Formed) (ht : t.Formed) : (s.recorded t).Formed := by
  unfold State.recorded
  split
  · split
    · split
      · exact h.forgetRegs ht
      · exact h
    · exact h
  · exact h

theorem State.Formed.uproot {b} (h : s.Formed) : (s.uproot b).Formed :=
  (h.foldl (fun _ _ hs => hs.releaseCore)).modPair.modBlock

theorem State.Formed.letGo {launch blks} (h : s.Formed) : (s.letGo launch blks).Formed := by
  unfold State.letGo
  refine .foldl (.modLaunch (.frame (?_ : (s.modThreads _ _).Formed))) (fun _ _ hs => hs.settleBars)
  exact h.modThreads (fun _ hx => hx.frame)

theorem State.Formed.takeOut {launch blks} (h : s.Formed) : (s.takeOut launch blks).Formed :=
  State.Formed.letGo (.foldl (h.foldlMem fun _ _ ht hs => hs.recorded (h.thread
    (List.mem_filter.1 ht).1)) fun _ _ hs => hs.uproot)

theorem State.Formed.endMove {l blks core pair} (h : s.Formed) : (s.endMove l blks core pair).Formed := by
  unfold State.endMove
  dsimp only
  split
  · split
    · exact h.takeOut.tryPlant
    · exact h.takeOut
  · exact h.takeOut

theorem State.Formed.startProofer {launch blks p} (h : s.Formed) : (s.startProofer launch blks p).Formed := h.frame.modLaunch

theorem State.Formed.execBlockMigrate {launch blk core pair} (h : s.Formed) :
    Out.Formed (execBlockMigrate launch blk core pair s) := by
  unfold Machine.execBlockMigrate
  split
  · split
    · exact h.startProofer
    · exact h
  · exact h

theorem State.Formed.execBlockImageOut {launch blk} (h : s.Formed) : Out.Formed (execBlockImageOut launch blk s) := by
  unfold Machine.execBlockImageOut
  split
  · dsimp only
    split
    · exact h
    · exact h.startProofer
  · exact h

/-! ### Sys2Proof/Machine/Yarind.lean -/

theorem State.Formed.readOrFree {pasid a n} (h : s.Formed) : (s.readOrFree pasid a n).1.Formed := by
  unfold State.readOrFree
  split
  next e => exact (h.readVirt.left e).fst
  next e => exact (h.readVirt.left e).freeBytes

theorem State.Formed.codeBlob {l} (h : s.Formed) : (s.codeBlob l).1.Formed := h.readOrFree.readOrFree.readOrFree.readOrFree.fst

theorem State.Formed.image {l nonce} (h : s.Formed) : (s.image l nonce).1.Formed := h.codeBlob.fst

/-! ### Sys2Proof/Machine/System.lean -/

theorem State.Formed.execClause {flagX flagY wait} (h : s.Formed) : Out.Formed (execClause flagX flagY wait s) := by
  unfold Machine.execClause
  split
  · trivial
  · split
    · exact h.trapRun
    · split
      next e => exact (h.checkClause.left e).trapRun
      next e => exact (h.checkClause.left e).fetchStop
      next e2 =>
        split
        · exact (h.checkClause.left e2).modRun.rotate
        · exact (h.checkClause.left e2).dropRun

theorem State.Formed.execRegion {bnd off} (h : s.Formed) : Out.Formed (execRegion bnd off s) := by
  unfold Machine.execRegion
  split
  · trivial
  · dsimp only
    split
    · exact h.trapRun
    · split
      next e => exact (h.peekWords.left e).fetchStop
      next e => exact (h.peekWords.left e).fetchStop
      next e2 =>
        split
        · exact (h.peekWords.left e2).trapRun
        · split
          · exact (h.peekWords.left e2).trapRun
          · exact ((h.peekWords.left e2).endRegion.fresh.modThreads (fun _ hx => hx.frame)).goOnRun

theorem State.Formed.execNop {c} (h : s.Formed) : Out.Formed (execNop c s) := h.issue (fun _ _ _ hs => hs)

theorem State.Formed.execTrap {c a} (h : s.Formed) : Out.Formed (execTrap c a s) := h.issue (fun _ _ _ hs => hs)

theorem State.Formed.execBrk {c} (h : s.Formed) : Out.Formed (execBrk c s) := h.issue (fun _ _ _ hs => hs)

theorem State.Formed.execRdsr {c d sr} (h : s.Formed) : Out.Formed (execRdsr c d sr s) := by
  unfold Machine.execRdsr
  split
  · exact h.longOp
  · exact h.issue (fun _ _ _ hs => hs.writeAll)

theorem State.Formed.execWrsr {c sr a k} (h : s.Formed) : Out.Formed (execWrsr c sr a k s) := by
  unfold Machine.execWrsr
  refine h.issue (fun _ _ _ hs => ?_)
  dsimp only
  split
  · exact hs
  · exact hs.modBlock
  · refine hs.modThreads (fun _ ht => ?_)
    split <;> exact ht.frame

/-! ### Sys2Proof/Machine/Image.lean -/

theorem State.Formed.writeBuffer {pasid a b} (h : s.Formed) : (s.writeBuffer pasid a b).Formed :=
  .ite h.answer h.writeLines.spoilAll

theorem State.Formed.readBuffer {pasid a n} (h : s.Formed) : (s.readBuffer pasid a n).1.Formed := by
  unfold State.readBuffer
  split
  · exact h
  · split
    · exact h.freeBytes.answer.fst
    · split
      · exact h
      · split
        next e3 =>
          split
          · exact (h.ownLines.left e3).notePoison.fst
          · exact (h.ownLines.left e3).fst

theorem State.Formed.beginSave {l p} (h : s.Formed) : (s.beginSave l p).Formed := .ite h h.startProofer

theorem State.Formed.startSave {p} (h : s.Formed) : (s.startSave p).Formed := by
  unfold State.startSave
  split
  · exact h.packetDone
  · exact .ite h.packetDone (.ite h.packetDone (.ite h.packetDone h.beginSave))

theorem State.Formed.execImageSavePacket {q} (h : s.Formed) : Out.Formed (execImageSavePacket q s) :=
  h.packet (fun _ _ _ _ hs => hs.startSave)

theorem State.Formed.keepFrames {pasid nonce} (h : s.Formed) : (s.keepFrames pasid nonce).Formed := h.frame

theorem State.Formed.finishSave {l blks q idx buf cap} (h : s.Formed) : (s.finishSave l blks q idx buf cap).Formed := by
  unfold State.finishSave
  dsimp only
  split
  · exact (h.letGo.foldl (fun _ _ hs => hs.resumeBlock)).packetDone
  · refine .packetDone ?_
    split
    · refine .packetDone (.removeLaunches (.keepFrames (.writeBuffer (.image (.frame (?_ : (List.foldl _ s _).Formed))))))
      exact h.foldl (fun _ _ hs => hs.uproot)
    · refine .removeLaunches (.keepFrames (.writeBuffer (.image (.frame (?_ : (List.foldl _ s _).Formed)))))
      exact h.foldl (fun _ _ hs => hs.uproot)

theorem State.Formed.proofStep {launch n} (h : s.Formed) : (s.proofStep launch n).Formed := h.modLaunch

theorem State.Formed.proofMove {l p} (h : s.Formed) : (s.proofMove l p).Formed := by
  unfold State.proofMove
  dsimp only
  split
  · exact .ite (h.foldl (fun _ _ hs => .ite hs.recallThread hs)) (h.foldl (fun _ _ hs => .ite hs.recallThread hs)).proofStep
  · exact (h.modThreads (fun _ hx => hx.frame)).quietAll.proofStep
  · exact .ite h.quietAll.proofStep h.quietAll
  · exact .ite h h.proofStep
  · split
    · exact h.foldl (fun _ _ hs => hs.endWork)
    · exact .ite (h.foldl (fun _ _ hs => hs.endWork)) (h.foldl (fun _ _ hs => hs.endWork)).stopEngines.proofStep
  · split
    · exact h.endMove
    · exact h.takeOut
    · exact h.finishSave

theorem State.Formed.execPreempt {launch} (h : s.Formed) : Out.Formed (execPreempt launch s) := by
  unfold Machine.execPreempt
  refine h.waitLocked ?_
  split
  · exact h
  · split
    · exact h
    · split
      · exact h.proofMove
      · dsimp only
        split
        · exact h.beginSave
        · exact h

theorem State.Formed.loadThread {bs code l ref lane a phases} (h : s.Formed) :
    (s.loadThread bs code l ref lane a phases).1.Formed := by
  unfold State.loadThread
  dsimp only
  split
  · exact h.freeStore.freeStore.free
  · exact h.freeStore.freeStore.free

theorem State.loadThread_formed {bs code l ref lane a phases} : (s.loadThread bs code l ref lane a phases).2.Formed := by
  unfold State.loadThread
  dsimp only
  refine iteInduction (motive := fun p : State × Thread => p.2.Formed) (fun _ => ?_) fun _ => ?_
  · exact ⟨Store.wf_nil, Store.wf_nil, fun _ hp => nomatch hp⟩
  · dsimp only
    refine iteInduction (motive := Thread.Formed) (fun _ => ?_) fun _ => ?_
    all_goals exact ⟨freeStore_wf (regsFrom_wf Store.wf_nil), freeStore_wf
      (handlesFrom_wf Store.wf_nil), fun _ hp => nomatch hp⟩

theorem State.Formed.loadThreads {bs code l ref phases lane as} (h : s.Formed) :
    (s.loadThreads bs code l ref phases lane as).1.Formed := by
  induction as generalizing s lane with
  | nil => exact h
  | cons a as ih => exact ih h.loadThread

theorem State.loadThreads_formed {bs code l ref phases lane as} :
    ∀ t ∈ (s.loadThreads bs code l ref phases lane as).2, t.Formed := by
  induction as generalizing s lane with
  | nil => exact fun _ h => nomatch h
  | cons a as ih =>
    intro t ht
    rcases List.mem_cons.1 ht with rfl | ht
    · exact State.loadThread_formed
    · exact ih t ht

theorem State.Formed.loadCmds {bs pasid l launch scratch clear x1} (h : s.Formed) :
    (s.loadCmds bs pasid l launch scratch clear x1).1.Formed := by
  induction x1 generalizing s with
  | nil => exact h
  | cons x x1 ih =>
    unfold State.loadCmds
    split
    · exact ih h
    · exact (ih h.fresh).fst

theorem State.Formed.loadBlock {bs code pasid l launch gs es a} (h : s.Formed) :
    (s.loadBlock bs code pasid l launch gs es a).Formed := by
  unfold State.loadBlock
  dsimp only
  refine State.Formed.foldl h.loadCmds.frame fun s x hs => ?_
  refine .of_parts hs.loadThreads.mem (fun t ht => ?_) (fun g hg => ?_) hs.loadThreads.agenda
  · exact (List.mem_append.1 ht).elim hs.loadThreads.thread (State.loadThreads_formed t)
  · refine (List.mem_append.1 hg).elim hs.loadThreads.group fun hg => ?_
    cases List.mem_singleton.1 hg
    have hl := loadGroup_formed bs l launch x
    exact ⟨hl.sregs, hl.masks, hl.flags, Store.foldl_set_wf Store.wf_nil fun _ _ hm => Store.set_wf _ _ hm⟩

theorem State.Formed.markRemote {pasid p} (h : s.Formed) : (s.markRemote pasid p).Formed := by
  unfold State.markRemote
  split
  · exact h.writeHome
  · exact h

theorem State.Formed.imageRefusal {pasid bs come code} (h : s.Formed) (e : s.imageRefusal pasid bs come = .ok (t, code)) :
    t.Formed := by
  unfold State.imageRefusal at e
  dsimp only at e
  split at e
  · cases e
  · split at e
    · cases e
    · split at e
      · cases e
      · split at e
        · cases e
        · cases e
          exact ((h.foldl fun _ _ hs => hs.markRemote).foldl fun _ _ hs => hs.landPage).readVirt

theorem State.Formed.loadChildren {bs launch x1 n} (h : s.Formed) : (s.loadChildren bs launch x1 n).Formed := by
  induction n generalizing s x1 with
  | zero => exact h
  | succ n ih => exact ih h.frame

theorem State.Formed.replantImage {bs code pasid cls packet} (h : s.Formed) :
    (s.replantImage bs code pasid cls packet).Formed := by
  unfold State.replantImage
  dsimp only
  split
  · exact (h.fresh.enter.foldl (fun _ _ hs => hs.loadBlock)).loadChildren.pagesCome
  · exact (h.fresh.enter.foldl (fun _ _ hs => hs.loadBlock)).loadChildren.startFetches

theorem State.Formed.checkImage {x} (h : s.Formed) : (s.checkImage x).Formed := by
  unfold State.checkImage
  dsimp only
  split
  · exact h.startFetches
  · split
    · exact h
    · have hs : ∀ fs ls, ({ s with fetches := fs, loads := ls } : State).Formed := fun _ _ => h.frame
      split
      · exact (hs _ _).packetDone
      · split
        · exact (hs _ _).packetDone
        next e => exact ((hs _ _).imageRefusal e).replantImage

theorem State.Formed.startLoad {e p} (h : s.Formed) : (s.startLoad e p).Formed := by
  unfold State.startLoad
  split
  next e => exact (h.readBuffer.left e).packetDone
  next e =>
    exact .ite (h.readBuffer.left e).packetDone (.ite (h.readBuffer.left e).packetDone (h.readBuffer.left e).frame.checkImage)

theorem State.Formed.execImageLoadPacket {q} (h : s.Formed) : Out.Formed (execImageLoadPacket q s) :=
  h.packet (fun _ _ _ _ hs => hs.startLoad)

theorem State.Formed.workOn {p} (h : s.Formed) : (s.workOn p).Formed := by
  unfold State.workOn
  split
  · exact h.checkImage
  · exact h.pumpPacket

theorem State.Formed.execPacketComplete {q idx} (h : s.Formed) : Out.Formed (execPacketComplete q idx s) := by
  unfold Machine.execPacketComplete
  split
  · exact h
  · split
    · exact h
    · exact h.waitLocked h.workOn

/-! ### Sys2Proof/Machine/Link.lean -/

theorem State.Formed.emit {port kind fseq body} (h : s.Formed) : (s.emit port kind fseq body).Formed := by
  unfold State.emit
  split
  · exact h
  · exact h.frame.modPort

theorem State.Formed.emitNew {port kind body} (h : s.Formed) : (s.emitNew port kind body).Formed := by
  unfold State.emitNew
  split
  · exact h
  · exact h.emit.modPort

theorem State.Formed.emitRelease {port} (h : s.Formed) : (s.emitRelease port).Formed := by
  unfold State.emitRelease
  split
  · exact h
  · exact h.emitNew.modPort

theorem State.Formed.emitItem {port it} (h : s.Formed) : (s.emitItem port it).Formed := by
  unfold State.emitItem
  dsimp only
  split
  · exact h.modPort.forwarded.frame.emitNew
  · exact h.modPort.forwarded.emitNew

theorem State.Formed.emitAgain {port n rest} (h : s.Formed) : (s.emitAgain port n rest).Formed := by
  unfold State.emitAgain
  split
  · exact h
  · dsimp only
    split <;> exact h.modPort.emit

theorem State.Formed.reroute {it} (h : s.Formed) : (s.reroute it).Formed := by
  unfold State.reroute
  split
  · split
    · split
      · exact h.resend
      · exact h
    · exact h.sendItem
  · exact .ite h.sendItem h

theorem State.Formed.dropPort {port} (h : s.Formed) : (s.dropPort port).Formed := by
  unfold State.dropPort
  split
  · exact h
  · exact (h.frame.foldl (fun _ _ hs => hs.reroute)).runReconf

theorem State.Formed.execPortDown {port} (h : s.Formed) : Out.Formed (execPortDown port s) := by
  unfold Machine.execPortDown
  split
  · split
    · exact h
    · exact h.dropPort
  · exact h

theorem State.Formed.emitTraining {port good gen fseq} (h : s.Formed) : (s.emitTraining port good gen fseq).Formed :=
  .ite h.emit h.emit

theorem State.Formed.emitUp {port p} (h : s.Formed) : (s.emitUp port p).Formed := by
  unfold State.emitUp
  split
  · exact .ite h.dropPort h.emitAgain
  · split
    · exact h.emit
    · split
      · exact h.emitRelease
      · split
        · exact h.free.emitNew
        · split
          · exact h.emitItem
          · exact .ite h.emitRelease h.emit

theorem State.Formed.execFrameTime {port} (h : s.Formed) : Out.Formed (execFrameTime port s) := by
  unfold Machine.execFrameTime
  split
  · exact h
  · split
    · split
      · exact h.modPort.emitTraining
      · exact h
    · exact h.unstrand.emitTraining
    · exact h.unstrand.modPort.emitUp.modPort.runReconf

theorem State.Formed.execBufferReleaseForced {port} (h : s.Formed) : Out.Formed (execBufferReleaseForced port s) := by
  unfold Machine.execBufferReleaseForced
  split
  · exact h
  · exact .ite h.modPort.emitRelease h

theorem State.Formed.execReplayTimeout {port} (h : s.Formed) : Out.Formed (execReplayTimeout port s) := by
  unfold Machine.execReplayTimeout
  split
  · exact h
  · split
    · exact h.modPort
    · exact h

/-- What a frame brings are events. -/
theorem arrivalOf_event {port : Nat} {x : OutItem} {i : Instr} (h : arrivalOf port x = some i) : encode i = none := by
  cases x with
  | flit f =>
    simp only [arrivalOf] at h
    split at h <;> cases h <;> rfl
  | short f =>
    simp only [arrivalOf] at h
    split at h
    case h_4 =>
      split at h
      · cases h; rfl
      · split at h
        · cases h; rfl
        · split at h <;> cases h; rfl
    all_goals cases h; try rfl

theorem State.Formed.execLinkFrame {port bytes} (h : s.Formed) : Out.Formed (execLinkFrame port bytes s) := by
  unfold Machine.execLinkFrame
  split
  · exact h
  · split
    · exact h
    · split
      · exact h.modPort
      next body w _ =>
        dsimp only
        refine State.Formed.runReconf (.ite h.modPort (.ite ?_ h.modPort.modPort))
        refine State.Formed.withEvents (s := (s.modPort port (·.heard w)).modPort port
          (·.accept)) h.modPort.modPort rfl fun i hi => ?_
        obtain ⟨x, -, hx⟩ := List.mem_filterMap.1 hi
        exact arrivalOf_event hx

theorem State.Formed.takeTraining {port p good body} (h : s.Formed) : (s.takeTraining port p good body).Formed :=
  .ite h.modPort (.ite h.modPort.log h.modPort)

theorem State.Formed.execTrainingFrame {port bytes} (h : s.Formed) : Out.Formed (execTrainingFrame port bytes s) := by
  unfold Machine.execTrainingFrame
  split
  · exact h
  · dsimp only
    split
    · exact .ite h.modPort h
    · split
      · refine .runReconf ?_
        split
        · exact .modPort (.ite h.modPort h)
        · exact .ite (.takeTraining (.ite h.modPort h)) (.ite (.ite (.unstrand (.modPort (.ite h.modPort h))) (.modPort
            (.ite h.modPort h))) (.modPort (.ite h.modPort h)))
      · exact .ite h.modPort h

/-! ### Sys2Proof/Machine/Move.lean -/

theorem State.Formed.execMov {c wide d a k} (h : s.Formed) : Out.Formed (execMov c wide d a k s) := h.vecOp

theorem State.Formed.execMovi {c d k} (h : s.Formed) : Out.Formed (execMovi c d k s) := h.vecOp

theorem State.Formed.execMoviW {c d k} (h : s.Formed) : Out.Formed (execMoviW c d k s) := h.vecOp

theorem State.Formed.execMoviHi {c d k} (h : s.Formed) : Out.Formed (execMoviHi c d k s) := h.vecOp

theorem State.Formed.execUmov {c wide d a k} (h : s.Formed) : Out.Formed (execUmov c wide d a k s) := h.vecOp

theorem State.Formed.execUmovBc {c wide d a k} (h : s.Formed) : Out.Formed (execUmovBc c wide d a k s) := h.vecOp

theorem State.Formed.execUmovLn {c wide d a b k} (h : s.Formed) : Out.Formed (execUmovLn c wide d a b k s) := by
  unfold Machine.execUmovLn
  refine h.issue (fun _ _ _ hs => ?_)
  dsimp only
  split
  · trivial
  · split
    · exact hs.writeAll
    · exact hs

theorem State.Formed.execHget {c d a} (h : s.Formed) : Out.Formed (execHget c d a s) := h.vecOp

theorem State.Formed.execHput {c d a} (h : s.Formed) : Out.Formed (execHput c d a s) := h.vecOp

/-! ### Sys2Proof/Machine/Topology.lean -/

theorem State.Formed.execReconfDrainDone (h : s.Formed) : Out.Formed (execReconfDrainDone s) := .ite h.runReconf h

theorem State.Formed.execReconfDrainTimeout (h : s.Formed) : Out.Formed (execReconfDrainTimeout s) := by
  unfold Machine.execReconfDrainTimeout
  split
  · exact h.failEarly.runReconf
  · exact h

theorem State.Formed.sendAborts {t p} (h : s.Formed) : (s.sendAborts t p).Formed := h.foldl (fun _ _ hs => hs.sendShort)

theorem State.Formed.execReadyTimeout (h : s.Formed) : Out.Formed (execReadyTimeout s) := by
  unfold Machine.execReadyTimeout
  split
  · exact h.sendAborts.failEarly.runReconf
  · exact h

theorem State.Formed.execReconfLightTimeout (h : s.Formed) : Out.Formed (execReconfLightTimeout s) := by
  unfold Machine.execReconfLightTimeout
  split
  · exact .runReconf (.ite h.endReconf h.failLate)
  · exact h

theorem State.Formed.execSwitchReply {bytes} (h : s.Formed) : Out.Formed (execSwitchReply bytes s) := by
  unfold Machine.execSwitchReply
  split
  · exact h
  · split
    · exact h
    · split
      · exact h.retrain.frame.runReconf
      · exact h.failLate.runReconf

/-! ### Sys2Proof/Machine/Trust.lean -/

theorem State.Formed.respond {code req more} (h : s.Formed) : (s.respond code req more).Formed := h.frame

theorem State.Formed.reply {code req ok more f} (h : s.Formed) (hf : ∀ s, s.Formed → (f s).Formed) :
    Out.Formed (s.reply code req ok more f) :=
  .ite (hf _ h.respond) h.answer

theorem State.Formed.loseSession {back} (h : s.Formed) : (s.loseSession back).Formed := .ite h.frame.fallIfLocked h.frame

theorem State.Formed.execGetVersion {req} (h : s.Formed) : Out.Formed (execGetVersion req s) :=
  h.reply (fun _ hx => hx.loseSession)

theorem State.Formed.execGetCapabilities {req} (h : s.Formed) : Out.Formed (execGetCapabilities req s) :=
  h.reply (fun _ hx => hx.frame)

theorem State.Formed.execNegotiateAlgorithms {req} (h : s.Formed) : Out.Formed (execNegotiateAlgorithms req s) :=
  h.reply (fun _ hx => hx.frame)

theorem State.Formed.execGetDigests {req} (h : s.Formed) : Out.Formed (execGetDigests req s) := h.reply (fun _ hx => hx)

theorem State.Formed.execGetCertificate {req} (h : s.Formed) : Out.Formed (execGetCertificate req s) := h.reply (fun _ hx => hx)

theorem State.Formed.execChallenge {req} (h : s.Formed) : Out.Formed (execChallenge req s) := h.reply (fun _ hx => hx)

theorem State.Formed.execGetMeasurements {req} (h : s.Formed) : Out.Formed (execGetMeasurements req s) := by
  unfold Machine.execGetMeasurements
  split
  · exact h.reply (fun _ hx => hx)
  · exact h.answer

theorem State.Formed.execKeyExchange {req} (h : s.Formed) : Out.Formed (execKeyExchange req s) := h.reply (fun _ hx => hx.frame)

theorem State.Formed.execFinish {req} (h : s.Formed) : Out.Formed (execFinish req s) := h.reply (fun _ hx => hx.frame)

theorem State.Formed.execKeyUpdate {req} (h : s.Formed) : Out.Formed (execKeyUpdate req s) := h.reply (fun _ hx => hx)

theorem State.Formed.execHeartbeat (h : s.Formed) : Out.Formed (execHeartbeat s) := h.reply (fun _ hx => hx)

theorem State.Formed.execVendorDefinedRequest {req} (h : s.Formed) : Out.Formed (execVendorDefinedRequest req s) :=
  h.reply (fun _ hx => hx)

theorem State.Formed.execEndSession (h : s.Formed) : Out.Formed (execEndSession s) := h.reply (fun _ hx => hx.loseSession)

theorem State.Formed.execSpdmSessionLoss (h : s.Formed) : Out.Formed (execSpdmSessionLoss s) := .ite h.loseSession h

theorem State.Formed.execIdeQuery {req} (h : s.Formed) : Out.Formed (execIdeQuery req s) := h.reply (fun _ hx => hx)

theorem State.Formed.execIdeKeyProg {req} (h : s.Formed) : Out.Formed (execIdeKeyProg req s) := h.reply (fun _ hx => hx.frame)

theorem State.Formed.execIdeKSetGo {req} (h : s.Formed) : Out.Formed (execIdeKSetGo req s) := h.reply (fun _ hx => hx.frame)

theorem State.Formed.execIdeKSetStop {req} (h : s.Formed) : Out.Formed (execIdeKSetStop req s) :=
  h.reply (fun _ hx => hx.frame.fallIfLocked)

theorem State.Formed.execIdeIntegrityFailure (h : s.Formed) : Out.Formed (execIdeIntegrityFailure s) :=
  .ite h.frame.fallIfLocked h

theorem State.Formed.execGetTdispVersion (h : s.Formed) : Out.Formed (execGetTdispVersion s) := h.reply (fun _ hx => hx)

theorem State.Formed.execGetTdispCapabilities (h : s.Formed) : Out.Formed (execGetTdispCapabilities s) :=
  h.reply (fun _ hx => hx)

theorem State.Formed.execLockInterfaceRequest {req} (h : s.Formed) : Out.Formed (execLockInterfaceRequest req s) :=
  h.reply (fun _ hx => hx.frame)

theorem State.Formed.execGetDeviceInterfaceReport {req} (h : s.Formed) : Out.Formed (execGetDeviceInterfaceReport req s) :=
  h.reply (fun _ hx => hx)

theorem State.Formed.execGetDeviceInterfaceState (h : s.Formed) : Out.Formed (execGetDeviceInterfaceState s) :=
  h.reply (fun _ hx => hx)

theorem State.Formed.execStartInterfaceRequest (h : s.Formed) : Out.Formed (execStartInterfaceRequest s) :=
  h.reply (fun _ hx => hx.frame)

theorem State.Formed.execStopInterfaceRequest (h : s.Formed) : Out.Formed (execStopInterfaceRequest s) :=
  h.reply (fun _ hs => .ite hs hs.scrub)

theorem State.Formed.execUnsupportedRequest {req} (h : s.Formed) : Out.Formed (execUnsupportedRequest req s) := h.answer

/-! ### Sys2Proof/Machine/Plan.lean -/

theorem State.Formed.noteReady (h : s.Formed) : s.noteReady.Formed := by
  refine h.withGroups fun g hg => ?_
  obtain ⟨u, hu, rfl⟩ := List.mem_map.1 hg
  exact (h.group hu).frame

theorem State.Formed.nextExec (h : s.Formed) : s.nextExec.Formed := h.noteReady

/-! ### Sys2Proof/Machine/Exec.lean and Sys2Proof/Machine/Step.lean -/

theorem State.Formed.exec (h : s.Formed) (i : Instr) : Out.Formed (exec i s) := by
  cases i with
  | clause => exact h.execClause
  | region => exact h.execRegion
  | nop => exact h.execNop
  | trap => exact h.execTrap
  | brk => exact h.execBrk
  | rdsr => exact h.execRdsr
  | wrsr => exact h.execWrsr
  | mov => exact h.execMov
  | movi => exact h.execMovi
  | moviW => exact h.execMoviW
  | moviHi => exact h.execMoviHi
  | umov => exact h.execUmov
  | umovBc => exact h.execUmovBc
  | umovLn => exact h.execUmovLn
  | hget => exact h.execHget
  | hput => exact h.execHput
  | bra => exact h.execBra
  | braDv => exact h.execBraDv
  | brx => exact h.execBrx
  | call => exact h.execCall
  | calli => exact h.execCalli
  | callt => exact h.execCallt
  | ret => exact h.execRet
  | exit => exact h.execExit
  | rejoin => exact h.execRejoin
  | mjoin => exact h.execMjoin
  | mset => exact h.execMset
  | mget => exact h.execMget
  | yield => exact h.execYield
  | iadd => exact h.execIadd
  | iadd3 => exact h.execIadd3
  | isub => exact h.execIsub
  | imul => exact h.execImul
  | imulh => exact h.execImulh
  | imad => exact h.execImad
  | imadw => exact h.execImadw
  | iabs => exact h.execIabs
  | ineg => exact h.execIneg
  | imin => exact h.execImin
  | imax => exact h.execImax
  | isad => exact h.execIsad
  | lea => exact h.execLea
  | addc => exact h.execAddc
  | subc => exact h.execSubc
  | andb => exact h.execAndb
  | orb => exact h.execOrb
  | xorb => exact h.execXorb
  | notb => exact h.execNotb
  | tlog => exact h.execTlog
  | shl => exact h.execShl
  | shr => exact h.execShr
  | sar => exact h.execSar
  | funl => exact h.execFunl
  | funr => exact h.execFunr
  | rot => exact h.execRot
  | bfe => exact h.execBfe
  | bfi => exact h.execBfi
  | bmsk => exact h.execBmsk
  | popc => exact h.execPopc
  | clz => exact h.execClz
  | ctz => exact h.execCtz
  | brev => exact h.execBrev
  | bysel => exact h.execBysel
  | isetp => exact h.execIsetp
  | fsetp => exact h.execFsetp
  | hsetp2 => exact h.execHsetp2
  | sel => exact h.execSel
  | pset => exact h.execPset
  | p2v => exact h.execP2v
  | v2p => exact h.execV2p
  | fadd => exact h.execFadd
  | fsub => exact h.execFsub
  | fmul => exact h.execFmul
  | ffma => exact h.execFfma
  | fmin => exact h.execFmin
  | fmax => exact h.execFmax
  | fdiv => exact h.execFdiv
  | fsqrt => exact h.execFsqrt
  | frcp => exact h.execFrcp
  | frsq => exact h.execFrsq
  | fex2 => exact h.execFex2
  | flg2 => exact h.execFlg2
  | fsin => exact h.execFsin
  | fcos => exact h.execFcos
  | ftanh => exact h.execFtanh
  | fclass => exact h.execFclass
  | hadd2 => exact h.execHadd2
  | hmul2 => exact h.execHmul2
  | hfma2 => exact h.execHfma2
  | hmin2 => exact h.execHmin2
  | hmax2 => exact h.execHmax2
  | cvt => exact h.execCvt
  | cvth => exact h.execCvth
  | frnd => exact h.execFrnd
  | qnt => exact h.execQnt
  | dqnt => exact h.execDqnt
  | idiv => exact h.execIdiv
  | irem => exact h.execIrem
  | ld => exact h.execLd
  | st => exact h.execSt
  | ldsp => exact h.execLdsp
  | stsp => exact h.execStsp
  | ldc => exact h.execLdc
  | atom => exact h.execAtom
  | red => exact h.execRed
  | fence => exact h.execFence
  | pref => exact h.execPref
  | shfl => exact h.execShfl
  | vote => exact h.execVote
  | ballot => exact h.execBallot
  | gred => exact h.execGred
  | gscan => exact h.execGscan
  | garg => exact h.execGarg
  | matchOp => exact h.execMatchOp
  | elect => exact h.execElect
  | bxch => exact h.execBxch
  | acopy c cb => exact h.execAcopy (cb := cb)
  | dcmp => exact h.execDcmp
  | fwait => exact h.execFwait
  | ftest => exact h.execFtest
  | fcancel => exact h.execFcancel
  | waitc => exact h.execWaitc
  | qpush => exact h.execQpush
  | qpop => exact h.execQpop
  | qtryPush => exact h.execQtryPush
  | qtryPop => exact h.execQtryPop
  | mres => exact h.execMres
  | mrel => exact h.execMrel
  | mldw => exact h.execMldw
  | mzero => exact h.execMzero
  | mma => exact h.execMma
  | mmas => exact h.execMmas
  | mst => exact h.execMst
  | mcommit => exact h.execMcommit
  | bar => exact h.execBar
  | bara => exact h.execBara
  | barw => exact h.execBarw
  | wbar => exact h.execWbar
  | flushpt => exact h.execFlushpt
  | dlaunch => exact h.execDlaunch
  | fput => exact h.execFput
  | fget => exact h.execFget
  | fatom => exact h.execFatom
  | coll => exact h.execColl
  | reconf => exact h.execReconf
  | tgset => exact h.execTgset
  | issueArbitration => exact h.execIssueArbitration
  | pipIssue => exact h.execPipIssue
  | ejectSoftTimeout => exact h.execEjectSoftTimeout
  | ejectHardTimeout => exact h.execEjectHardTimeout
  | longLatencyComplete => exact h.execLongLatencyComplete
  | pageWalk => exact h.execPageWalk
  | faultResolved => exact h.execFaultResolved
  | faultUnresolvable => exact h.execFaultUnresolvable
  | bindingResolved => exact h.execBindingResolved
  | bindingFailed => exact h.execBindingFailed
  | shootdownStart => exact h.execShootdownStart
  | sddropClear => exact h.execSddropClear
  | shootdownAck => exact h.execShootdownAck
  | flushComplete => exact h.execFlushComplete
  | flushFaultResolved => exact h.execFlushFaultResolved
  | copyChunkComplete => exact h.execCopyChunkComplete
  | copyComplete => exact h.execCopyComplete
  | dcmpJobComplete => exact h.execDcmpJobComplete
  | matrixCommandStart => exact h.execMatrixCommandStart
  | matrixCommandComplete => exact h.execMatrixCommandComplete
  | scrubStep => exact h.execScrubStep
  | deviceReset => exact State.Formed.execDeviceReset
  | watchdogExpiry => exact h.execWatchdogExpiry
  | notify => exact h.execNotify
  | nopPacket => exact h.execNopPacket
  | launchPacket => exact h.execLaunchPacket
  | waitSignalPacket => exact h.execWaitSignalPacket
  | setSignalPacket => exact h.execSetSignalPacket
  | imageSavePacket => exact h.execImageSavePacket
  | imageLoadPacket => exact h.execImageLoadPacket
  | dirtyHarvestPacket => exact h.execDirtyHarvestPacket
  | planLoadPacket => exact h.execPlanLoadPacket
  | invalidPacket => exact h.execInvalidPacket
  | packetComplete => exact h.execPacketComplete
  | blockClaim => exact h.execBlockClaim
  | blockMigrate => exact h.execBlockMigrate
  | blockImageOut => exact h.execBlockImageOut
  | blockRetire => exact h.execBlockRetire
  | childAdmission => exact h.execChildAdmission
  | preempt => exact h.execPreempt
  | prooferClauseLimit => exact h.execProoferClauseLimit
  | remoteResend => exact h.execRemoteResend
  | flitRead => exact h.execFlitRead
  | flitWrite => exact h.execFlitWrite
  | flitAtomic => exact h.execFlitAtomic
  | flitReadReply => exact h.execFlitReadReply
  | flitWriteAck => exact h.execFlitWriteAck
  | flitCollectiveData => exact h.execFlitCollectiveData
  | flitAtomicReply => exact h.execFlitAtomicReply
  | bufferRelease => exact h.execBufferRelease
  | bufferReleaseForced => exact h.execBufferReleaseForced
  | retryAfter => exact h.execRetryAfter
  | staleReject => exact h.execStaleReject
  | ready => exact h.execReady
  | go => exact h.execGo
  | abort => exact h.execAbort
  | collectiveRestart => exact h.execCollectiveRestart
  | linkProbe => exact h.execLinkProbe
  | linkFrame => exact h.execLinkFrame
  | replayTimeout => exact h.execReplayTimeout
  | trainingFrame => exact h.execTrainingFrame
  | portDown => exact h.execPortDown
  | rerouteTimeout => exact h.execRerouteTimeout
  | switchReply => exact h.execSwitchReply
  | throttleTick => exact h.execThrottleTick
  | hostBar4Read => exact h.execHostBar4Read
  | hostBar4Write => exact h.execHostBar4Write
  | hostAtomicop => exact h.execHostAtomicop
  | registerWrite => exact h.execRegisterWrite
  | debugControlWrite => exact h.execDebugControlWrite
  | readReg => exact h.execReadReg
  | writeReg => exact h.execWriteReg
  | dbgStep => exact h.execDbgStep
  | dbgResume => exact h.execDbgResume
  | getVersion => exact h.execGetVersion
  | getCapabilities => exact h.execGetCapabilities
  | negotiateAlgorithms => exact h.execNegotiateAlgorithms
  | getDigests => exact h.execGetDigests
  | getCertificate => exact h.execGetCertificate
  | challenge => exact h.execChallenge
  | getMeasurements => exact h.execGetMeasurements
  | keyExchange => exact h.execKeyExchange
  | finish => exact h.execFinish
  | keyUpdate => exact h.execKeyUpdate
  | vendorDefinedRequest => exact h.execVendorDefinedRequest
  | ideQuery => exact h.execIdeQuery
  | ideKeyProg => exact h.execIdeKeyProg
  | ideKSetGo => exact h.execIdeKSetGo
  | ideKSetStop => exact h.execIdeKSetStop
  | lockInterfaceRequest => exact h.execLockInterfaceRequest
  | getDeviceInterfaceReport => exact h.execGetDeviceInterfaceReport
  | unsupportedRequest => exact h.execUnsupportedRequest
  | unassignedOpcode => exact h.execUnassignedOpcode
  | frameTime => exact h.execFrameTime
  | clusterPowerGate => exact h.execClusterPowerGate
  | reconfDrainDone => exact h.execReconfDrainDone
  | reconfDrainTimeout => exact h.execReconfDrainTimeout
  | readyTimeout => exact h.execReadyTimeout
  | reconfLightTimeout => exact h.execReconfLightTimeout
  | heartbeat => exact h.execHeartbeat
  | endSession => exact h.execEndSession
  | spdmSessionLoss => exact h.execSpdmSessionLoss
  | ideIntegrityFailure => exact h.execIdeIntegrityFailure
  | getTdispVersion => exact h.execGetTdispVersion
  | getTdispCapabilities => exact h.execGetTdispCapabilities
  | getDeviceInterfaceState => exact h.execGetDeviceInterfaceState
  | startInterfaceRequest => exact h.execStartInterfaceRequest
  | stopInterfaceRequest => exact h.execStopInterfaceRequest

/-! The step that the state plans. -/

theorem State.Formed.nextStep (h : s.Formed) : s.nextStep.Formed := by
  unfold State.nextStep
  split
  next e => exact h.withAgenda fun i hi => h.agenda i (e ▸ List.mem_cons_of_mem _ hi)
  · split
    · exact h.nextExec
    · split
      · split
        · exact State.Formed.nextExec h.frame
        · exact h.rotate
      · dsimp only
        split
        · exact h.noteReady.fetchNext
        · exact h.noteReady.dropRun

theorem State.Formed.step (h : s.Formed) : Out.Formed (step s) := by
  have hn := h.tick.nextStep
  unfold Machine.step
  split
  next e => exact State.Formed.exec (e ▸ hn : Next.Formed (.exec ..)) _
  next e => exact (e ▸ hn : Next.Formed (.done _))

/-- Settles O10: each function of the model that gives a state keeps the forms, so `exec` does, and so does `step`, whose plan
keeps them. -/
theorem stepsKeepTheForms : Obligations.StepsKeepTheForms :=
  ⟨fun i _ _ h e => (h.exec i).next e, fun _ _ h e => h.step.next e⟩

end Sys2Proof.Machine
end

section
/-! The instruction word (01 R14, R15, R35, R38): its fields are read back from the word they make up, an opcode of R38's list
has no instruction, and the words of the spec's examples. A well-formed load may name `v0` as its index, which its word cannot:
that refutes the round trip. -/

namespace Sys2Proof

theorem getLsbD_bit1 (b : Bool) (i : Nat) : (bit1 b).getLsbD i = (decide (i = 0) && b) := by
  cases b <;> simp [bit1]

/-- The fields put together as a word are the fields read from it (R15). -/
theorem Raw.ofWord_toWord (r : Raw) : Raw.ofWord r.toWord = r := by
  obtain ⟨⟩ := r
  simp only [Raw.ofWord, Raw.toWord, Raw.mk.injEq, BitVec.getLsbD_append, getLsbD_bit1]
  refine ⟨?_, ?_, by simp, ?_, ?_, ?_, ?_, by simp, ?_, by simp, by simp, by simp, by simp, ?_⟩
  all_goals
    refine BitVec.eq_of_getLsbD_eq fun i hi => ?_
    simp only [BitVec.getLsbD_extractLsb', BitVec.getLsbD_append]
    grind

theorem opcode_ofWord (w : BitVec 96) : (Raw.ofWord w).opcode.toNat = (w >>> 88).toNat := by
  simp only [Raw.ofWord, BitVec.extractLsb'_toNat, BitVec.toNat_ushiftRight]
  have := w.isLt
  omega

/-- The common fields of an instruction are read back from its word fields (R15). -/
theorem common_mkRaw (op fn : BitVec 8) (c : Common) (d a b : BitVec 12) (cw : BitVec 32) :
    (mkRaw op fn c d a b cw).common = .ok c := by
  obtain ⟨gneg, guard, bnd, fsel, ra, rb, yld⟩ := c
  cases fsel <;> rfl

/-- An opcode of R38's list has no instruction. -/
theorem decodeRaw_unassigned {r : Raw} (h : unassigned r.opcode.toNat = true) : decodeRaw r = .error .illegalOp := by
  unfold decodeRaw
  split
  case h_141 => rfl
  all_goals
    next e =>
      rw [e] at h
      cases h

/-- The decoder reads from a word that is made of fields what it reads from the fields. -/
theorem decode_toWord {r : Raw} (h : unassigned r.opcode.toNat = false) : decode r.toWord = decodeRaw r := by
  have ho : (r.toWord >>> 88).toNat = r.opcode.toNat := by rw [← opcode_ofWord, Raw.ofWord_toWord]
  rw [decode, ho, if_neg (by simp [h]), Raw.ofWord_toWord]

theorem decode_nop (c : Common) : decode (mkRaw 0x03 0x00 c 0 0 0 0).toWord = .ok (.nop c) := by
  rw [decode_toWord rfl]
  show decNop _ = _
  simp only [decNop, common_mkRaw]
  rfl

/-- A load whose index is named as `v0` (04 R82 leaves an index out where its field is zero, so that `v0` can be none). -/
def ldByV0 : Instr :=
  .ld ⟨false, 15, false, .none, false, false, false⟩ .i32 0 (.v 1) (.v 4) (some (.v 0)) ⟨false, .weak, false, .th, 0⟩

/-- Refutes O1: `Instr.wf` lets a load have `v0` as its index (only PREF and GARG exclude it), but the field of `v0` is zero, and
a zero field is decoded as no index (04 R82), so that the word of `ldByV0` decodes to the load without an index. The same holds
of the indices of ST, LDSP, STSP and LDC. -/
theorem not_decodeOfEncodeIsTheInstruction : ¬ Obligations.DecodeOfEncodeIsTheInstruction := by
  unfold Obligations.DecodeOfEncodeIsTheInstruction
  intro h
  have hw : ldByV0.wf = true := by decide
  have he : encode ldByV0 = some 0x702078008020000000000000 := by decide
  exact absurd (h _ _ hw he) (by decide)

/-- Settles O2: each of the nine words is decoded by evaluation. -/
theorem workedWordsDecode : Obligations.WorkedWordsDecode := by
  unfold Obligations.WorkedWordsDecode
  decide

end Sys2Proof
end

section
/-! What a step plans, and what each kind of plan comes to (01 R14, R25); the meanings that are no issued instruction's: the headers
(01 R25-R33), unassigned opcodes (01 R38), and the events that end what a kernel waits for (04 R104, R105, 12 R295). -/

namespace Sys2Proof.Machine

section step
variable {s t : State} {cx : Ctx} {r : Run} {rest : List Run}

theorem step_of_exec {i : Instr} (h : s.tick.nextStep = .exec i t) : step s = exec i t := by rw [step, h]

theorem step_of_done (h : s.tick.nextStep = .done t) : step s = .next t := by rw [step, h]

theorem nextStep_agenda {i : Instr} {is : List Instr} (h : s.agenda = i :: is) :
    s.nextStep = .exec i { s with agenda := is } := by
  rw [State.nextStep, h]

/-- With nothing on the agenda, the word of a first run that does not wait is fetched, if its context stands. -/
theorem nextStep_run (ha : s.agenda = []) (hr : s.runs = r :: rest) (hs : r.stalled = false) (hc : s.noteReady.ctx? = some cx) :
    s.nextStep = s.noteReady.fetchNext cx := by
  simp [State.nextStep, ha, hr, hs, hc]

/-- A first run whose context does not stand leaves. -/
theorem nextStep_stray (ha : s.agenda = []) (hr : s.runs = r :: rest) (hs : r.stalled = false) (hc : s.noteReady.ctx? = none) :
    s.nextStep = .done { s.noteReady with runs := rest } := by
  have hd : s.noteReady.dropRun = { s.noteReady with runs := rest } := by
    rw [State.dropRun, show s.noteReady.runs = r :: rest from hr, List.drop_one, List.tail_cons]
  simp [State.nextStep, ha, hr, hs, hc, hd]

/-- A first run that waits goes last, while another does not wait. -/
theorem nextStep_rotate (ha : s.agenda = []) (hr : s.runs = r :: rest) (hs : r.stalled = true)
    (hq : ∃ q ∈ rest, q.stalled = false) : s.nextStep = .done { s with runs := rest ++ [r] } := by
  have hn : s.runs.all (·.stalled) = false := by simpa [hr, hs] using hq
  simp only [State.nextStep, ha, hr, hs, if_true, hr ▸ hn, Bool.false_eq_true, if_false, State.rotate]

/-- With no run that does not wait, the waiting runs try again after the event that is due next. -/
theorem nextStep_event (ha : s.agenda = []) (hs : ∀ r ∈ s.runs, r.stalled = true) :
    s.nextStep = State.nextExec { s with runs := s.runs.map (fun r => { r with stalled := false }) } := by
  cases hr : s.runs with
  | nil =>
    have e : s = { s with runs := [] } := by rw [← hr]
    have hn : s.nextStep = s.nextExec := by rw [State.nextStep, ha, hr]
    exact hn.trans (congrArg State.nextExec e)
  | cons r rest =>
    have h1 : r.stalled = true := hs r (by simp [hr])
    have hn : s.runs.all (·.stalled) = true := by simpa using hs
    simp only [State.nextStep, ha, hr, h1, if_true, hr ▸ hn]

/-- What the fetch of a sound word that decodes comes to (R14, R25). -/
theorem fetchNext_word {w : BitVec 96} {i : Instr} (hb : (s.forgetPass cx).breakHits cx = [])
    (hsz : (cx.run.pc - cx.launch.lr.codeaddr).toNat < cx.launch.lr.codesize.toNat)
    (hw : (s.forgetPass cx).fetchWord cx.run.core cx.launch.pasid cx.run.pc = (t, .word w false))
    (hh : cx.run.start = true → (Raw.ofWord w).opcode = 0x01#8) (hi : decode w = .ok i) : s.fetchNext cx = .exec i t := by
  have hst : (cx.run.start && (Raw.ofWord w).opcode != 0x01#8) = false := by
    cases hs : cx.run.start
    · rfl
    · simp [hh hs]
  simp only [State.fetchNext, hb, hw, hi, hst, if_neg (Nat.not_le.2 hsz), List.isEmpty_nil, Bool.not_true, Bool.false_eq_true,
    if_false]

end step

/-- Settles O3: `nextStep` has one plan in each of the five cases, and `step` performs what is planned. -/
theorem stepRunsTheInstructionItFetches : Obligations.StepRunsTheInstructionItFetches := by
  unfold Obligations.StepRunsTheInstructionItFetches
  intro s
  refine ⟨fun i rest ha => step_of_exec (nextStep_agenda ha), ?_, ?_, ?_, ?_⟩
  · intro r rest cx s' w i ha hr hs hc hb hsz hw hh hi
    exact step_of_exec ((nextStep_run ha hr hs hc).trans (fetchNext_word hb hsz hw hh hi))
  · exact fun r rest ha hr hs hc => step_of_done (nextStep_stray ha hr hs hc)
  · exact fun r rest ha hr hs hq => step_of_done (nextStep_rotate ha hr hs hq)
  · rintro ha hs u rfl
    exact step_of_exec (nextStep_event ha hs)

/-! Headers. -/

/-- A clause whose wait mask's flags are clear and whose selections fit starts. -/
theorem execClause_starts {s s' : State} {cx : Ctx} {fx fy : BitVec 4} {wait : BitVec 12} {body : List (BitVec 96)}
    (hc : s.ctx? = some cx) (hs : cx.run.start = true) (hk : s.checkClause cx (clauseForm fx fy) = (s', .good body))
    (hw : waitDone cx.flags wait = true) (hf : selectionsFit cx.flags fx fy body = true) :
    execClause fx fy wait s = .next (s'.modRun (fun r =>
      { r with hdr := r.pc, pc := r.pc + 12, fx := fx, fy := fy, start := false, stalled := false })).rotate := by
  simp only [execClause, hc, hs, hk, hw, hf, Bool.not_true, Bool.false_eq_true, Bool.and_self, if_true, if_false]

/-- REGION of a record in the table that reads clean: the run's open regions end and the record's opens in each of its threads. -/
theorem execRegion_opens {s s' : State} {cx : Ctx} {bnd : Bool} {off : BitVec 32} {x : Nat} (hc : s.ctx? = some cx)
    (ha : off.toNat % 16 = 0) (hl : off.toNat + 80 ≤ cx.launch.lr.regsize.toNat)
    (hp : s.peekWords cx.run.core cx.launch.pasid ((cx.launch.lr.regaddr.toNat + off.toNat) % 2 ^ 57) 20 = (s', .ok (x, false)))
    (hr : regionRes0 x = true) :
    execRegion bnd off s =
      let y : Nat × State := (s'.endRegion cx.run.ref cx.run.lanes).fresh
      .next ((y.2.modThreads (fun t => t.ref == cx.run.ref && cx.run.lanes.getLsbD t.lane)
        (fun t => { t with region := some (regionOf x cx.run.hdr t y.1) })).goOnRun cx.run
          ⟨false, 15, bnd, .none, false, false, false⟩) := by
  have hb : (off.toNat % 16 != 0 || decide (off.toNat + 80 > cx.launch.lr.regsize.toNat)) = false := by
    simp [ha, hl]
  simp only [execRegion, hc, hb, hp, hr, Bool.not_true, Bool.false_eq_true, if_false]

/-- Settles O22: the two headers, each on the path where nothing stops it. -/
theorem clauseAndRegionHeadersComplete : Obligations.ClauseAndRegionHeadersComplete := by
  unfold Obligations.ClauseAndRegionHeadersComplete
  refine ⟨fun s s' cx fx fy wait body hc hs hk hw hf => ?_, fun s s' cx bnd off x hc ha hl hp hr => ?_⟩
  · rw [exec_clause, execClause_starts hc hs hk _ hf]
    exact flagsClear_of 12 hw
  · exact execRegion_opens hc ha hl hp hr

/-! Unassigned opcodes. -/

/-- Settles O6: the listed opcodes are those that the decoder calls unassigned, and none of them has an instruction. -/
theorem unassignedOpcodesTrap : Obligations.UnassignedOpcodesTrap := by
  unfold Obligations.UnassignedOpcodesTrap
  refine fun w => ⟨fun hl => ?_, ?_⟩
  · have hu : unassigned (w >>> 88).toNat = true := by
      simp only [unassigned, Bool.or_eq_true, Bool.and_eq_true, beq_iff_eq, decide_eq_true_eq]
      omega
    refine ⟨by rw [decode, if_pos hu], fun s cx hc hs => ?_⟩
    rw [← opcode_ofWord] at hu
    simp [exec_unassignedOpcode, execUnassignedOpcode, hc, decodeRaw_unassigned hu, hs]
  · rintro (rfl | rfl)
    · left; decide
    · simp

/-! The end of long-latency work. -/

section binding
variable {s s1 : State} {launch k pa : Nat} {l : Launch} {w seen : Bool}

/-- An entry that is being resolved, whose page is mapped, is written, and the threads that await it execute their CALLT again. -/
theorem writeBinding_resolving {target : Option (BitVec 32)} (hl : s.launch? launch = some l) (hk : k < l.lr.bindcount.toNat)
    (ht : s.translate (clusterOf (s.launchCore launch)) l.pasid (bindAddr l.lr k) .write true = (s1, .ok pa w seen))
    (hb : Binding.ofNat ((s1.recallWords (lineOf pa) (wordMask pa 8)).mem.le pa 8) = .resolving) :
    s.writeBinding launch k target =
      let at_ : State := s1.recallWords (lineOf pa) (wordMask pa 8)
      let h : Nat := at_.mem.le (pa + 4) 4
      let t : State := match target with
        | some t => at_.writeHome pa (leBytes t.toNat 4 ++ leBytes (2 ^ 31) 4)
        | none => at_.writeHome (pa + 4) (leBytes (h - h / 2 ^ 30 % 2 * 2 ^ 30 + 2 ^ 29) 4)
      t.modThreads (fun x => ((t.launches.filter (sharesTable l)).map (·.id)).contains x.ref.launch && awaits k x)
        (fun x => { x with cond := .issuable }) := by
  simp only [State.writeBinding, hl, if_neg (Nat.not_le.2 hk), ht, hb] <;> rfl

end binding

/-- Settles O44: each event on the path where its condition holds; both binding events are `writeBinding`. -/
theorem longLatencyWorkCompletes : Obligations.LongLatencyWorkCompletes := by
  unfold Obligations.LongLatencyWorkCompletes
  intro s s1 launch k pa target l w seen
  refine ⟨fun op i hi => ?_, fun f hl hf he hn => ?_, fun f x hl hf hx => ?_, fun hl hk ht hb => ?_, fun hl hk ht hb => ?_⟩
  · simp only [exec_longLatencyComplete, execLongLatencyComplete, hi]
  · simp [exec_flushComplete, execFlushComplete, hl, hf, he, hn]
  · simp [exec_flushFaultResolved, execFlushFaultResolved, hl, hf, hx]
  · rw [exec_bindingResolved, execBindingResolved, writeBinding_resolving hl hk ht hb]
  · rw [exec_bindingFailed, execBindingFailed, writeBinding_resolving hl hk ht hb]

end Sys2Proof.Machine
end

section
/-! What a run does after its instruction (12 R287, R288), and the instructions of chapter 01 and 14 under `Clear` (01 R37, 14 R344,
R345, 12 R298, 08 R182). -/

namespace Sys2Proof.Machine

variable {s : State} {cx : Ctx} {c : Common}

section advance
variable {r : Run} {rs : List Run}

theorem ctx_run (hr : s.runs = r :: rs) (hc : s.ctx? = some cx) : cx.run = r := by
  simp only [State.ctx?, hr, State.ctxOf, Option.bind_eq_bind, Option.bind_eq_some_iff, Option.some.injEq] at hc
  obtain ⟨_, -, _, -, _, -, rfl⟩ := hc
  rfl

theorem goOnRun_advance (hr : s.runs = r :: rs) : s.goOnRun r c = s.advance c := by simp [State.goOnRun, hr]

/-- Before the last word of its clause the run goes on by 12 bytes, and lets the others issue. -/
theorem advance_within (hr : s.runs = r :: rs) (hs : ∀ t ∈ s.threads, t.stepping = false) (hb : c.bnd = false) :
    s.advance c = { s with
      runs := rs ++ [{ r with pc := r.pc + 12, start := false, yld := r.yld || c.yld, stalled := false }] } := by
  have hn : s.threads.any (fun t => t.ref == r.ref && r.lanes.getLsbD t.lane && t.stepping) = false :=
    any_none fun t ht => by rw [hs t ht, Bool.and_false]
  simp only [State.advance, State.modRun, State.rotate, hr, hb, hn, Bool.or_self, Bool.false_eq_true, if_false]

/-- After the last word of a clause the run leaves, its threads stand at the next word, and its group's threads age. -/
theorem advance_last (hr : s.runs = r :: rs) (hs : ∀ t ∈ s.threads, t.stepping = false) (hb : c.bnd = true) :
    s.advance c = { s with
      runs := rs
      groups := if r.pip then s.groups else modify (·.ref == r.ref)
        (fun g => { g with yielded := r.yld || c.yld, readySince := none, returned := false }) s.groups
      threads := modify (fun t => t.ref == r.ref && r.lanes.getLsbD t.lane)
        (fun t => { t with pc := r.pc + 12, resume := none, cond := if r.pip then .ejected else .issuable })
        (if r.pip then s.threads else s.threads.map (ageThread r.ref r.lanes)) } := by
  have hn : s.threads.any (fun t => t.ref == r.ref && r.lanes.getLsbD t.lane && t.stepping) = false :=
    any_none fun t ht => by rw [hs t ht, Bool.and_false]
  cases hp : r.pip <;>
    simp [State.advance, State.modRun, State.endClause, State.dropRun, State.place, State.modThreads, Run.resume, hr, hb, hn, hp]

end advance

/-! Issuing. -/

/-- An instruction that no thread of the run executes passes them all by (R16). -/
theorem issue_skipped {n : Need} (hc : s.ctx? = some cx) (hp : privTrap n cx = none) (hd : s.damage = [])
    (he : cx.exec n.common = []) (hg : ∀ t ∈ cx.threads, n.recallsGuard t = false ∧ pending s.inflight t n.guard = false)
    (pre own : Ctx → Thread → Option Trap) (act : Ctx → List Thread → State → Act) :
    issue n pre own act s = .next (s.advance n.common) := by
  have h1 := any_none fun t ht => (hg t ht).1
  have h2 := any_none fun t ht => (hg t ht).2
  simp only [issue, issueOn, meetRegs_clean hd, hc, hp, he, h1, h2, List.isEmpty_nil, Bool.false_eq_true, if_false, if_true]

/-- An act that is done under Clear, by an instruction without checks of its own that ends no region: the run goes on. -/
theorem issue_done {n : Need} (h : Clear n s cx) (he : n.ends = false) {act : Ctx → List Thread → State → Act} {s' : State}
    (ha : act cx (cx.exec n.common) s = .done s') : issue n noTrap noTrap act s = .next (s'.goOnRun cx.run n.common) := by
  rw [issue_clear h (noTrap_none cx _) (noTrap_none cx _), ha, Act.out, he]
  rfl

theorem execNop_clear (h : Clear (regNeed c [] []) s cx) : execNop c s = .next (s.goOnRun cx.run c) := by
  unfold execNop
  exact issue_done h rfl rfl

theorem execRdsr_clear {d : Opnd} {sr : SReg} (hk : sr ≠ .clock) (h : Clear (regNeed c [nm d sr.wide] []) s cx) :
    execRdsr c d sr s = .next (s.wrote cx c (fun t => [⟨d, sr.wide, readSr s cx t sr⟩])) := by
  rw [execRdsr, if_neg (by simpa using hk)]
  exact issue_done h rfl rfl

theorem execRdsr_clock {d : Opnd} {s' : State} (h : Clear (regNeed c [nm d true] []) s cx)
    (hs : s.launched cx c { dst := some (d, true), vals := (cx.exec c).map (fun t => (t.lane, s.clock)) } = some s') :
    execRdsr c d .clock s = .next s' := by
  rw [execRdsr, if_pos (by decide)]
  exact longOp_clear h (fun s _ _ => s.clock) hs

section wrsr
variable {a : Opnd} {k : BitVec 32}

theorem execWrsr_trappc (h : Clear { common := c, reads := [nm a true], recallFirst := true } s cx) :
    execWrsr c .trappc a k s = .next ((s.modThreads (fun t => t.ref == cx.run.ref && (cx.exec c).any (·.lane == t.lane))
      (fun t => { t with trappc := readOp cx.group t k .sint true a })).goOnRun cx.run c) := by
  unfold execWrsr
  exact issue_done h rfl rfl

theorem execWrsr_trapcause (h : Clear { common := c, reads := [nm a false], recallFirst := true } s cx) :
    execWrsr c .trapcause a k s = .next ((s.modThreads (fun t => t.ref == cx.run.ref && (cx.exec c).any (·.lane == t.lane))
      (fun t => { t with trapcause := loWord (readOp cx.group t k .sint false a) &&& 0xFFFF0FFF })).goOnRun cx.run c) := by
  unfold execWrsr
  exact issue_done h rfl rfl

theorem execWrsr_etgen {t : Thread} {ts : List Thread}
    (h : Clear { common := c, reads := [nm a false], privileged := true, recallFirst := true } s cx) (ht : cx.exec c = t :: ts) :
    execWrsr c .etgen a k s = .next ((s.modBlock cx.run.ref.launch cx.run.ref.blk (fun b =>
      { b with etgen := loWord (readOp cx.group t k .sint false a) })).goOnRun cx.run c) := by
  unfold execWrsr
  exact issue_done h rfl (by simp only [ht]; rfl)
end wrsr

theorem execMset_clear {d a : Opnd} {k : BitVec 32}
    (h : Clear { common := c, writes := [nm d false], reads := [nm a true], recallFirst := true } s cx) :
    execMset c d a k s = .next (s.wrote cx c (fun t => [⟨d, true, readOp cx.group t k .sint true a⟩])) := by
  unfold execMset
  exact issue_done h rfl rfl

theorem execMget_clear {d a : Opnd}
    (h : Clear { common := c, writes := [nm d true], reads := [nm a false], recallFirst := true } s cx) :
    execMget c d a s = .next (s.wrote cx c (fun t => [⟨d, true, readOp cx.group t 0 .uint false a⟩])) := by
  unfold execMget
  exact issue_done h rfl rfl

/-- UMOV.LN, where every named lane that executes has its source settled and sound. -/
theorem execUmovLn_clear {wide : Bool} {d a b : Opnd} {k : BitVec 32}
    (h : Clear { common := c, writes := [nm d wide], reads := [nm b false], named := [nm a wide] } s cx)
    (hs : ∀ t ∈ cx.exec c, ∀ u, laneNamed cx.group (cx.exec c) cx.launch.lr.width b k t = some u →
      pending s.inflight u [nm a wide] = false ∧ poisoned cx.group u (nm a wide) = false) :
    execUmovLn c wide d a b k s = .next (s.wrote cx c (fun t => [⟨d, wide,
      match laneNamed cx.group (cx.exec c) cx.launch.lr.width b k t with
      | some u => readOp cx.group u k .sint wide a
      | none => 0⟩])) := by
  have h1 : (cx.exec c).any (fun t => (laneNamed cx.group (cx.exec c) cx.launch.lr.width b k t).any
      (fun u => pending s.inflight u [nm a wide])) = false :=
    any_none fun t ht => by
      cases hu : laneNamed cx.group (cx.exec c) cx.launch.lr.width b k t with
      | none => rfl
      | some u => exact (hs t ht u hu).1
  have h2 : (cx.exec c).filter (fun t => (laneNamed cx.group (cx.exec c) cx.launch.lr.width b k t).any
      (fun u => poisoned cx.group u (nm a wide))) = [] := by
    refine List.filter_eq_nil_iff.2 fun t ht => ?_
    cases hu : laneNamed cx.group (cx.exec c) cx.launch.lr.width b k t with
    | none => simp
    | some u => simp [(hs t ht u hu).2]
  refine issue_done h rfl ?_
  dsimp only
  rw [h1, h2]
  rfl

/-- Settles O23: each instruction under `Clear` is its act, after which the run goes on. -/
theorem specialRegistersAndMasks : Obligations.SpecialRegistersAndMasks := by
  unfold Obligations.SpecialRegistersAndMasks
  intro s cx c wide d a b k sr
  refine ⟨execNop_clear, fun hk h => ?_, fun h s' hs => execRdsr_clock h hs, execWrsr_trappc, execWrsr_trapcause,
    fun h t ts ht => execWrsr_etgen h ht, execMset_clear, execMget_clear, execUmovLn_clear⟩
  rw [exec_rdsr, execRdsr_clear hk h]
  cases sr <;> rfl

/-- Settles O5: whether some thread executes NOP or none, the state is that in which the run has gone on. -/
theorem nopHasNoEffect : Obligations.NopHasNoEffect := by
  unfold Obligations.NopHasNoEffect
  refine fun c => ⟨⟨rfl, decode_nop c⟩, ?_⟩
  intro s cx r rs hr hc hq hs own
  have hx : exec (.nop c) s = .next (s.advance c) := by
    rcases hq with h | ⟨hp, hd, he, hg⟩
    · rw [exec_nop, execNop_clear h, ctx_run hr hc, goOnRun_advance hr]
    · rw [exec_nop, execNop]
      exact issue_skipped hc hp hd he hg ..
  rw [hx]
  cases hb : c.bnd
  · rw [advance_within hr hs hb, if_pos rfl]
  · rw [advance_last hr hs hb, if_neg (show ¬true = false by decide)]
    rfl

end Sys2Proof.Machine
end

section
/-! Results (01 R19, R21, R23, 08 R179): a register written reads back and the others are as they were; what errors under written
registers leave (02 R58, R59); the threads of a run whose clause ends (12 R287). -/

namespace Sys2Proof.Machine

/-! Registers, read after they are written. -/

theorem getLsbD_setBit {n : Nat} (x : BitVec n) {i : Nat} (b : Bool) (j : Nat) :
    (setBit x i b).getLsbD j = if j = i ∧ i < n then b else x.getLsbD j := by
  have ht : (BitVec.ofNat n 1 <<< i).getLsbD j = (decide (i < n) && decide (i = j)) := BitVec.getLsbD_twoPow i j
  have hx := x.getLsbD_of_ge j
  unfold setBit
  cases b <;>
    simp only [BitVec.getLsbD_or, BitVec.getLsbD_and, BitVec.getLsbD_not, ht, if_true, Bool.false_eq_true, if_false] <;> grind

section thread
variable (t : Thread) (x : BitVec 32) (n : Nat)

/-- The register files that a thread reads are in canonical form: its own and its pip context's. -/
def Thread.filesWf (t : Thread) : Prop := t.vregs.wf = true ∧ ∀ e, t.pip = some e → e.vregs.wf = true

variable {t}
theorem Thread.filesWf.setV (h : t.filesWf) (i : Nat) : (t.setV i x).filesWf := by
  obtain ⟨hv, hp⟩ := h
  unfold Thread.setV
  split
  next p e => exact ⟨hv, fun q hq => by cases hq; exact Store.set_wf _ _ (hp p e)⟩
  next e => exact ⟨Store.set_wf _ _ hv, hp⟩

theorem v_setV_self (h : t.filesWf) (i : Nat) : (t.setV i x).v i = x := by
  obtain ⟨hv, hp⟩ := h
  cases e : t.pip with
  | none => simp [Thread.setV, Thread.v, e, Store.get_set_self, hv]
  | some p => simp [Thread.setV, Thread.v, e, Store.get_set_self, hp p e]

theorem v_setV_other {i : Nat} (h : n ≠ i) : (t.setV i x).v n = t.v n := by
  cases e : t.pip <;> simp [Thread.setV, Thread.v, e, Store.get_set_other, h]

theorem p_setV (i : Nat) : (t.setV i x).p = t.p := by
  funext n
  cases e : t.pip <;> simp [Thread.setV, Thread.p, e]

theorem setV_rest (i : Nat) : { t.setV i x with vregs := t.vregs, vpoison := t.vpoison, pip := t.pip } = t := by
  unfold Thread.setV
  split <;> rfl

theorem setV_handles (i : Nat) : (t.setV i x).handles = t.handles := by
  unfold Thread.setV
  split <;> rfl

theorem v_setP (i : Nat) (b : Bool) : (t.setP i b).v = t.v := by
  funext n
  unfold Thread.setP
  split
  · rfl
  · cases e : t.pip <;> simp [Thread.v, e]

theorem p_setP_self {i : Nat} (h : i < 15) (b : Bool) : (t.setP i b).p i = b := by
  have hi : i ≠ 15 := by omega
  cases e : t.pip <;> simp [Thread.setP, Thread.p, e, hi, getLsbD_setBit, h, -BitVec.getLsbD_eq_getElem]

theorem p_setP_other {i : Nat} (b : Bool) (h : n ≠ i) : (t.setP i b).p n = t.p n := by
  unfold Thread.setP
  split
  · rfl
  · cases e : t.pip <;> simp [Thread.p, e, h, getLsbD_setBit]

theorem setP_rest (i : Nat) (b : Bool) : { t.setP i b with preds := t.preds, pip := t.pip } = t := by
  unfold Thread.setP
  split
  · rfl
  · split <;> rfl

theorem setP_files (i : Nat) (b : Bool) : (t.setP i b).vregs = t.vregs ∧ (t.setP i b).handles = t.handles := by
  unfold Thread.setP
  split
  · exact ⟨rfl, rfl⟩
  · split <;> exact ⟨rfl, rfl⟩

end thread

/-- A write keeps a thread's own register files in canonical form. -/
theorem write_files {t : Thread} (hv : t.vregs.wf = true) (hh : t.handles.wf = true) (o : Opnd) (wide : Bool) (x : BitVec 64) :
    (t.write o wide x).vregs.wf = true ∧ (t.write o wide x).handles.wf = true := by
  have set {u : Thread} (h : u.vregs.wf = true) (i : Nat) (y : BitVec 32) : (u.setV i y).vregs.wf = true := by
    unfold Thread.setV
    split
    · exact h
    · exact Store.set_wf _ _ h
  unfold Thread.write
  split
  · split
    · exact ⟨set (set hv _ _) _ _, by simpa only [setV_handles] using hh⟩
    · exact ⟨set hv _ _, by simpa only [setV_handles] using hh⟩
  · rw [(setP_files ..).1, (setP_files ..).2]
    exact ⟨hv, hh⟩
  · exact ⟨hv, Store.set_wf _ _ hh⟩
  · exact ⟨hv, hh⟩

/-- A vector register or pair that is written reads back (R19). -/
theorem v_write {t : Thread} (h : t.filesWf) (i : BitVec 8) (x : BitVec 64) (n : Nat) :
    (t.write (.v i) false x).v i.toNat = x.setWidth 32 ∧ (t.write (.v i) true x).v i.toNat = x.setWidth 32 ∧
    (t.write (.v i) true x).v (i.toNat + 1) = (x >>> 32).setWidth 32 ∧
    (n ≠ i.toNat → (t.write (.v i) false x).v n = t.v n) ∧
    (n ≠ i.toNat → n ≠ i.toNat + 1 → (t.write (.v i) true x).v n = t.v n) := by
  simp only [Thread.write, if_true, Bool.false_eq_true, if_false]
  refine ⟨v_setV_self _ h _, ?_, v_setV_self _ (h.setV _ _) _, v_setV_other _ _, fun h0 h1 => ?_⟩
  · rw [v_setV_other _ _ (by omega)]
    exact v_setV_self _ h _
  · rw [v_setV_other _ _ h1, v_setV_other _ _ h0]

theorem p_write {t : Thread} (p q : BitVec 4) (x : BitVec 64) :
    (p.toNat < 15 → (t.write (.p p) false x).p p.toNat = x.getLsbD 0) ∧
    (q ≠ p → (t.write (.p p) false x).p q.toNat = t.p q.toNat) :=
  ⟨fun h => p_setP_self h _, fun h => p_setP_other _ _ fun e => h (BitVec.eq_of_toNat_eq e)⟩

theorem v_write_rest (t : Thread) (i : BitVec 8) (x : BitVec 64) (wide : Bool) :
    { t.write (.v i) wide x with vregs := t.vregs, vpoison := t.vpoison, pip := t.pip } = t ∧
    (t.write (.v i) wide x).p = t.p := by
  cases wide
  · exact ⟨setV_rest _ _, p_setV _ _⟩
  · refine ⟨?_, (p_setV _ _).trans (p_setV _ _)⟩
    have h1 := setV_rest (t := t) (loWord x) i.toNat
    have h2 := setV_rest (t := t.setV i.toNat (loWord x)) (hiWord x) (i.toNat + 1)
    exact (congrArg (fun u : Thread => { u with vregs := t.vregs, vpoison := t.vpoison, pip := t.pip }) h2).trans h1

/-- A handle that is written reads back, and every other is as it was. -/
theorem handles_write {t : Thread} (hh : t.handles.wf = true) (p q : BitVec 4) (x : BitVec 64) :
    (t.write (.h p) true x).handles.get p.toNat = x ∧
    (q ≠ p → (t.write (.h p) true x).handles.get q.toNat = t.handles.get q.toNat) :=
  ⟨Store.get_set_self _ _ hh, fun h => Store.get_set_other _ fun e => h (BitVec.eq_of_toNat_eq e)⟩

/-- A uniform register or pair that is written reads back (R19). -/
theorem sregs_write {g : Group} (h : g.sregs.wf = true) (i : Fin 192) (x : BitVec 64) (n : Nat) :
    (g.write (.s i) false x).sregs.get i.val = x.setWidth 32 ∧ (g.write (.s i) true x).sregs.get i.val = x.setWidth 32 ∧
    (g.write (.s i) true x).sregs.get (i.val + 1) = (x >>> 32).setWidth 32 ∧
    (n ≠ i.val → (g.write (.s i) false x).sregs.get n = g.sregs.get n) ∧
    (n ≠ i.val → n ≠ i.val + 1 → (g.write (.s i) true x).sregs.get n = g.sregs.get n) := by
  simp only [Group.write, Group.setS, if_true, Bool.false_eq_true, if_false]
  refine ⟨Store.get_set_self _ _ h, ?_, Store.get_set_self _ _ (Store.set_wf _ _ h), Store.get_set_other _, fun h0 h1 => ?_⟩
  · rw [Store.get_set_other _ (by omega)]
    exact Store.get_set_self _ _ h
  · rw [Store.get_set_other _ h1, Store.get_set_other _ h0]

theorem masks_write {g : Group} (h : g.masks.wf = true) (p : BitVec 3) (x : BitVec 64) (n : Nat) :
    (g.write (.m p) true x).masks.get p.toNat = x ∧
    (n ≠ p.toNat → (g.write (.m p) true x).masks.get n = g.masks.get n) :=
  ⟨Store.get_set_self _ _ h, Store.get_set_other _⟩

theorem groupWrite_files {g : Group} (hs : g.sregs.wf = true) (hm : g.masks.wf = true) (o : Opnd) (wide : Bool) (x : BitVec 64) :
    (g.write o wide x).sregs.wf = true ∧ (g.write o wide x).masks.wf = true := by
  unfold Group.write
  split
  · split
    · exact ⟨Store.set_wf _ _ (Store.set_wf _ _ hs), hm⟩
    · exact ⟨Store.set_wf _ _ hs, hm⟩
  · exact ⟨hs, Store.set_wf _ _ hm⟩
  · exact ⟨hs, hm⟩

/-! Errors under written registers (02 R58, R59). -/

/-- What finding errors in registers changes of a state: the poison of registers, the errors that stand, and the error log. -/
structure OnlyPoison (s o : State) : Prop where
  rest : { o with threads := s.threads, groups := s.groups, damage := s.damage, errHead := s.errHead, errLog := s.errLog
                  corrections := s.corrections } = s
  threads : o.threads.map (fun t => { t with vpoison := [] }) = s.threads.map (fun t => { t with vpoison := [] })
  groups : o.groups.map (fun g => { g with spoison := [] }) = s.groups.map (fun g => { g with spoison := [] })

variable {s o u : State}

theorem OnlyPoison.refl (s : State) : OnlyPoison s s := ⟨rfl, rfl, rfl⟩

theorem OnlyPoison.trans (h : OnlyPoison s o) (k : OnlyPoison o u) : OnlyPoison s u :=
  ⟨(congrArg (fun x : State => { x with threads := s.threads, groups := s.groups, damage := s.damage, errHead := s.errHead
                                        errLog := s.errLog, corrections := s.corrections }) k.rest).trans h.rest,
    k.threads.trans h.threads, k.groups.trans h.groups⟩

theorem OnlyPoison.foldl {α : Type} {f : State → α → State} (hf : ∀ s x, OnlyPoison s (f s x)) (l : List α) (s : State) :
    OnlyPoison s (l.foldl f s) := by
  induction l generalizing s with
  | nil => exact .refl s
  | cons x l ih => exact (hf s x).trans (ih _)

/-- The place of a register of the pool, of a thread or of a group. -/
def ErrPlace.isReg : ErrPlace → Bool
  | .vreg .. | .sreg .. => true
  | _ => false

theorem modify_map_eq {α β : Type} (p : α → Bool) {f : α → α} {g : α → β} (h : ∀ x, g (f x) = g x) (l : List α) :
    (modify p f l).map g = l.map g := by
  simp only [modify, List.map_map]
  refine List.map_congr_left fun x _ => ?_
  simp only [Function.comp_apply]
  split
  · exact h x
  · rfl

theorem OnlyPoison.poisonAt {p : ErrPlace} (h : p.isReg = true) (s : State) : OnlyPoison s (s.poisonAt p) := by
  cases p with
  | vreg r lane i =>
    refine ⟨rfl, ?_, rfl⟩
    rw [State.poisonAt, modThread_threads, modify_map_eq]
    exact fun _ => rfl
  | sreg r i =>
    refine ⟨rfl, rfl, ?_⟩
    rw [State.poisonAt, modGroup_groups, modify_map_eq]
    exact fun _ => rfl
  | _ => cases h

theorem OnlyPoison.log (s : State) (k : ErrKind) (cause : Nat) (pasid : BitVec 20) (wh : BitVec 64) (n pc : BitVec 32) :
    OnlyPoison s (s.log k cause pasid wh n pc) := ⟨rfl, rfl, rfl⟩

theorem OnlyPoison.meet {d : Damage} (h : d.place.isReg = true) (s : State) (pasid : BitVec 20) (why : ErrKind) :
    OnlyPoison s (s.meet pasid why d) := by
  have hd : OnlyPoison s { s with damage := s.damage.filter (· != d) } := ⟨rfl, rfl, rfl⟩
  unfold State.meet
  dsimp only
  split
  · exact ⟨rfl, rfl, rfl⟩
  · exact hd.trans ((OnlyPoison.poisonAt h _).trans (OnlyPoison.log ..))

theorem OnlyPoison.meetAll {p : ErrPlace → Bool} (h : ∀ x, p x = true → x.isReg = true) (s : State) (pasid : BitVec 20)
    (why : ErrKind) : OnlyPoison s (s.meetAll pasid why p) := by
  unfold State.meetAll
  have hl : ∀ d ∈ s.damage.filter (fun d => p d.place), d.place.isReg = true := fun d hd => h _ (List.mem_filter.1 hd).2
  generalize s.damage.filter (fun d => p d.place) = l at hl
  induction l generalizing s with
  | nil => exact .refl s
  | cons d l ih =>
    exact (OnlyPoison.meet (hl d List.mem_cons_self) s pasid why).trans (ih _ fun e he => hl e (List.mem_cons_of_mem _ he))

theorem OnlyPoison.writeOver {whole touched : ErrPlace → Bool} (h : ∀ x, touched x = true → x.isReg = true) (s : State) :
    OnlyPoison s (s.writeOver whole touched) := by
  unfold State.writeOver
  split
  · exact .trans (o := { s with damage := s.damage.filter (fun d => !whole d.place) }) ⟨rfl, rfl, rfl⟩ (.meetAll h ..)
  · exact .refl s

theorem inVregs_isReg {r : GroupRef} {lane : Nat} {m : BitVec 256} {whole : Bool} (x : ErrPlace)
    (h : ErrPlace.inVregs r lane m whole x = true) : x.isReg = true := by
  cases x with
  | vreg => rfl
  | _ => cases h

theorem inSregs_isReg {r : GroupRef} {m : BitVec 192} {whole : Bool} (x : ErrPlace)
    (h : ErrPlace.inSregs r m whole x = true) : x.isReg = true := by
  cases x with
  | sreg => rfl
  | _ => cases h

theorem OnlyPoison.overVregs (s : State) (ref : GroupRef) (lane : Nat) (m : BitVec 256) : OnlyPoison s (s.overVregs ref lane m) :=
  .writeOver inVregs_isReg s

theorem OnlyPoison.overSregs (s : State) (ref : GroupRef) (m : BitVec 192) : OnlyPoison s (s.overSregs ref m) :=
  .writeOver inSregs_isReg s

theorem OnlyPoison.overRegs (s : State) (ref : GroupRef) (ex : List Thread) (f : Thread → List Wr) :
    OnlyPoison s (s.overRegs ref ex f) := by
  have hv := OnlyPoison.foldl (fun s (t : Thread) => OnlyPoison.overVregs s ref t.lane (vregsOf (f t)))
    (ex.filter (·.pip.isNone)) s
  cases ex with
  | nil => exact hv
  | cons t ts => exact hv.trans (.overSregs ..)

theorem overRegs_unhurt (h : s.damage = []) (ref : GroupRef) (ex : List Thread) (f : Thread → List Wr) :
    s.overRegs ref ex f = s := by
  have hv : (ex.filter (·.pip.isNone)).foldl (fun (s : State) t => s.overVregs ref t.lane (vregsOf (f t))) s = s := by
    induction ex.filter (·.pip.isNone) with
    | nil => rfl
    | cons t l ih => rwa [List.foldl_cons, State.overVregs, writeOver_unhurt h]
  unfold State.overRegs
  dsimp only
  rw [hv]
  split
  · rfl
  · exact writeOver_unhurt h _ _

/-- Results on whose per-group writes the executing threads agree (R23). -/
theorem writeAll_agreed {ref : GroupRef} {ex : List Thread} {f : Thread → List Wr} {u : List Wr} (he : ex ≠ [])
    (hu : ∀ x ∈ ex, (f x).filter (perGroup ·.o) = u) :
    s.writeAll ref ex f = { s.overRegs ref ex f with
      threads := modify (fun x => x.ref == ref && ex.any (·.lane == x.lane)) (fun x => x.apply (f x)) (s.overRegs ref ex f).threads
      groups := if u.isEmpty then (s.overRegs ref ex f).groups
        else modify (·.ref == ref) (·.apply u) (s.overRegs ref ex f).groups } := by
  obtain ⟨t, ts, rfl⟩ := List.exists_cons_of_ne_nil he
  have hs : (ts.map (fun t => (f t).filter (perGroup ·.o))).all (· == u) = true := by
    simp only [List.all_map, List.all_eq_true, Function.comp_apply, beq_iff_eq]
    exact fun x hx => hu x (List.mem_cons_of_mem _ hx)
  simp only [State.writeAll, List.map_cons, hu t List.mem_cons_self, hs, if_true]
  split <;> rfl

/-! The end of a clause. -/

variable {c : Common} {r : Run} {rs : List Run}

/-- A member of a changed list that meets the test is a changed member. -/
theorem mem_modify {α : Type} {p : α → Bool} {f : α → α} {l : List α} {y : α} (hy : y ∈ modify p f l)
    (h : p y = true) :
    ∃ x ∈ l, p x = true ∧ y = f x := by
  obtain ⟨x, hx, rfl⟩ := List.mem_map.1 hy
  by_cases hpx : p x = true
  · exact ⟨x, hx, hpx, if_pos hpx⟩
  · rw [if_neg hpx] at h
    exact absurd h hpx

theorem ageThread_issued {ref : GroupRef} {lanes : BitVec 64} {t : Thread} (h : t.ref = ref) (hl : lanes.getLsbD t.lane = true) :
    ageThread ref lanes t = { t with aging := 0, deferred := false, clauses := t.clauses + 1 } := by
  simp [ageThread, h, hl]

theorem ageThread_place (ref : GroupRef) (lanes : BitVec 64) (t : Thread) :
    (ageThread ref lanes t).ref = t.ref ∧ (ageThread ref lanes t).lane = t.lane := by
  unfold ageThread
  split
  · split <;> exact ⟨rfl, rfl⟩
  · exact ⟨rfl, rfl⟩

/-- After the last word of its clause a group's run stands at the next word, its threads issuable and of no age (R287). -/
theorem advance_last_threads (hr : s.runs = r :: rs) (hs : ∀ t ∈ s.threads, t.stepping = false) (hb : c.bnd = true)
    (hp : r.pip = false) {t : Thread} (ht : t ∈ (s.advance c).threads) (href : t.ref = r.ref)
    (hl : r.lanes.getLsbD t.lane = true) :
    t.pc = r.pc + 12 ∧ t.resume = none ∧ t.cond = .issuable ∧ t.aging = 0 := by
  rw [advance_last hr hs hb, hp] at ht
  obtain ⟨v, hv, hpv, rfl⟩ := mem_modify ht (by rw [href, hl, beq_self_eq_true, Bool.and_self])
  obtain ⟨u, -, rfl⟩ := List.mem_map.1 hv
  obtain ⟨h1, h2⟩ := ageThread_place r.ref r.lanes u
  rw [Bool.and_eq_true, beq_iff_eq, h1, h2] at hpv
  exact ⟨rfl, rfl, rfl, by rw [ageThread_issued hpv.1 hpv.2]⟩

/-- Settles O9: the lemmas above, clause by clause. -/
theorem resultsAreWrittenAndNothingElse : Obligations.ResultsAreWrittenAndNothingElse := by
  unfold Obligations.ResultsAreWrittenAndNothingElse
  refine ⟨?_, ?_, ?_, ?_, ?_⟩
  · intro s ref ex f u o
    obtain ⟨hr, ht, hg⟩ := OnlyPoison.overRegs s ref ex f
    exact ⟨fun h => overRegs_unhurt h .., hr, ht, hg, writeAll_agreed⟩
  · exact fun t g w ws => ⟨rfl, rfl, rfl, rfl⟩
  · intro t i p q x n hv hh hp
    obtain ⟨h1, h2, h3, h4, h5⟩ := v_write ⟨hv, hp⟩ i x n
    obtain ⟨h6, h7⟩ := p_write (t := t) p q x
    obtain ⟨h8, h9⟩ := handles_write hh p q x
    exact ⟨h1, h2, h3, h4, h5, v_write_rest t i x, h6, h7, rfl, setP_rest _ _, v_setP _ _, h8, h9, rfl,
      fun o wide => write_files hv hh o wide x⟩
  · intro g i p x n hs hm
    obtain ⟨h1, h2, h3, h4, h5⟩ := sregs_write hs i x n
    obtain ⟨h6, h7⟩ := masks_write hm p x n
    exact ⟨h1, h2, h3, h4, h5, fun wide => by cases wide <;> rfl, h6, h7, rfl, fun o wide => groupWrite_files hs hm o wide x⟩
  · intro s c r rs hr hs
    refine ⟨advance_within hr hs, fun hb hp => ⟨?_, ?_, fun t => advance_last_threads hr hs hb hp⟩⟩
    · rw [advance_last hr hs hb]
    · rw [advance_last hr hs hb]

end Sys2Proof.Machine
end

section
/-! The names of the machine's runs, launches, blocks and groups. The issuing run's context stands or falls with these alone,
and neither the storage, nor a walk of the tables, nor a fetch changes them. -/

namespace Sys2Proof.Machine

/-- The names of the runs, launches, blocks and groups that a state holds. -/
structure Roster where
  runs : List GroupRef
  launches : List Nat
  blocks : List (Nat × Nat)
  groups : List GroupRef

def State.roster (s : State) : Roster :=
  ⟨s.runs.map (·.ref), s.launches.map (·.id), s.blocks.map (fun b => (b.launch, b.idx)), s.groups.map (·.ref)⟩

/-- The first run's launch, block and group are among the names. -/
def Roster.stands (k : Roster) : Bool :=
  match k.runs with
  | [] => false
  | r :: _ =>
    k.launches.any (· == r.launch) && k.blocks.any (fun b => b.1 == r.launch && b.2 == r.blk) && k.groups.any (· == r)

theorem isSome_find?_map {α β : Type} {p : β → Bool} {f : α → β} (l : List α) :
    (l.find? (fun x => p (f x))).isSome = (l.map f).any p := by
  rw [List.any_map, Bool.eq_iff_iff, List.find?_isSome, List.any_eq_true]
  rfl

theorem isSome_ctx? (s : State) : s.ctx?.isSome = s.roster.stands := by
  unfold State.ctx? State.roster Roster.stands
  cases s.runs with
  | nil => rfl
  | cons r _ =>
    have hl : (s.launch? r.ref.launch).isSome = _ := isSome_find?_map (p := (· == r.ref.launch)) s.launches
    have hb : (s.block? r.ref.launch r.ref.blk).isSome = _ :=
      isSome_find?_map (p := fun b : Nat × Nat => b.1 == r.ref.launch && b.2 == r.ref.blk)
        (f := fun b : Block => (b.launch, b.idx)) s.blocks
    have hg : (s.group? r.ref).isSome = _ := isSome_find?_map (p := (· == r.ref)) s.groups
    simp only [List.map_cons, ← hl, ← hb, ← hg, State.ctxOf, Option.bind_eq_bind]
    cases s.launch? r.ref.launch <;> cases s.block? r.ref.launch r.ref.blk <;> cases s.group? r.ref <;> rfl

theorem State.isSome_ctx?_of_roster {s t : State} (h : t.roster = s.roster) (hc : s.ctx?.isSome) : t.ctx?.isSome := by
  rw [isSome_ctx?, h, ← isSome_ctx?, hc]

theorem map_modify {α β : Type} {p : α → Bool} {f : α → α} {g : α → β} (h : ∀ x, g (f x) = g x) (l : List α) :
    (modify p f l).map g = l.map g := by
  rw [modify, List.map_map]
  refine List.map_congr_left fun x _ => ?_
  by_cases hx : p x <;> simp [hx, h]

section rules
variable {s t : State} {n : Roster}

theorem State.roster_foldl {α : Type} {f : State → α → State} (hf : ∀ s x, (f s x).roster = s.roster) (l : List α) :
    (l.foldl f s).roster = s.roster := by
  induction l generalizing s with
  | nil => rfl
  | cons x l ih => rw [List.foldl_cons, ih, hf]

theorem State.roster_ite {c : Prop} [Decidable c] (hs : s.roster = n) (ht : t.roster = n) :
    (if c then s else t).roster = n := by
  split
  · exact hs
  · exact ht

theorem State.roster_fst {β : Type} {x : State × β} {y : β} (e : x = (t, y)) : t.roster = x.1.roster := by rw [e]

@[simp] theorem State.roster_modSlice {pline f} : (s.modSlice pline f).roster = s.roster := rfl
@[simp] theorem State.roster_modL1 {core pline f} : (s.modL1 core pline f).roster = s.roster := rfl
@[simp] theorem State.roster_log {k cause pasid wh count pc} : (s.log k cause pasid wh count pc).roster = s.roster := rfl
@[simp] theorem State.roster_putHome {pa bs} : (s.putHome pa bs).roster = s.roster := rfl

theorem State.roster_modBlock {l b f} (h : ∀ x, ((f x).launch, (f x).idx) = (x.launch, x.idx) := by exact fun _ => rfl) :
    (s.modBlock l b f).roster = s.roster := by
  simp only [State.roster, State.modBlock, map_modify (g := fun x : Block => (x.launch, x.idx)) h]

theorem State.roster_modGroup {r f} (h : ∀ x, (f x).ref = x.ref := by exact fun _ => rfl) :
    (s.modGroup r f).roster = s.roster := by
  simp only [State.roster, State.modGroup, map_modify h]

end rules

/-! The storage. -/

section storage
variable {s : State}

@[simp] theorem State.roster_poisonAt {p} : (s.poisonAt p).roster = s.roster := by
  cases p with rw [State.poisonAt]
  | scratch | tile => exact State.roster_modBlock
  | sreg => exact State.roster_modGroup
  | half => rw [State.roster, State.roster]
  | slice | l1 | vreg | weights => rfl

@[simp] theorem State.roster_meet {pasid why d} : (s.meet pasid why d).roster = s.roster := by
  unfold State.meet
  dsimp only
  split
  · rfl
  · exact State.roster_log.trans State.roster_poisonAt

@[simp] theorem State.roster_meetAll {pasid why p} : (s.meetAll pasid why p).roster = s.roster :=
  State.roster_foldl (fun _ _ => State.roster_meet) _

@[simp] theorem State.roster_writeOver {whole touched} : (s.writeOver whole touched).roster = s.roster :=
  State.roster_ite State.roster_meetAll rfl

@[simp] theorem State.roster_overSlice {pline whole touched} : (s.overSlice pline whole touched).roster = s.roster :=
  State.roster_writeOver

@[simp] theorem State.roster_visitL1 {core pline off n pasid why} : (s.visitL1 core pline off n pasid why).roster = s.roster :=
  State.roster_meetAll

@[simp] theorem State.roster_spoil {pa} : (s.spoil pa).roster = s.roster := State.roster_ite rfl rfl

@[simp] theorem State.roster_wordHome {l w} : (s.wordHome l w).roster = s.roster := by
  unfold State.wordHome
  split
  · exact State.roster_ite State.roster_spoil rfl
  · exact State.roster_foldl (fun _ _ => State.roster_ite State.roster_putHome rfl) _

@[simp] theorem State.roster_wordsHome {l ws} : (s.wordsHome l ws).roster = s.roster :=
  (State.roster_foldl (fun _ _ => State.roster_ite State.roster_wordHome rfl) _).trans State.roster_overSlice

@[simp] theorem State.roster_recallWords {pline ws} : (s.recallWords pline ws).roster = s.roster := by
  unfold State.recallWords
  split
  · rfl
  · split
    · rfl
    · refine State.roster_ite rfl ?_
      dsimp only
      split <;> simp

@[simp] theorem State.roster_evictSlice {pline} : (s.evictSlice pline).roster = s.roster := by
  unfold State.evictSlice
  dsimp only
  split
  · simp
  · exact State.roster_meetAll.trans State.roster_recallWords

@[simp] theorem State.roster_touchSlice {pline pasid why} : (s.touchSlice pline pasid why).roster = s.roster := by
  unfold State.touchSlice
  refine State.roster_ite rfl (State.roster_meetAll.trans (State.roster_ite rfl (State.roster_ite rfl ?_)))
  dsimp only
  split
  · exact State.roster_evictSlice
  · rfl

@[simp] theorem State.roster_visitLines {pasid why n pa k} : (s.visitLines pasid why n pa k).roster = s.roster := by
  induction n generalizing s pa k with
  | zero => rfl
  | succ n ih => exact State.roster_ite rfl (ih.trans (by simp))

@[simp] theorem State.roster_visit {pa n pasid why} : (s.visit pa n pasid why).roster = s.roster := State.roster_visitLines

@[simp] theorem State.roster_writeHome {pa bs} : (s.writeHome pa bs).roster = s.roster := by simp [State.writeHome]

end storage

/-! Walks of the tables. -/

section walks
variable {s : State}

@[simp] theorem State.roster_walk {va e n} : (s.walk va e n).1.roster = s.roster := by
  induction n generalizing s e with
  | zero =>
    unfold State.walk
    dsimp only
    split <;> split <;> simp
  | succ n ih =>
    unfold State.walk
    dsimp only
    split
    · simp
    · simp
    · exact ih.trans State.roster_visit

@[simp] theorem State.roster_walkFrom {p va} : (s.walkFrom p va).1.roster = s.roster := by
  unfold State.walkFrom
  split
  · rfl
  · exact State.roster_walk

@[simp] theorem State.roster_markDirty {p va} : (s.markDirty p va).roster = s.roster := by
  unfold State.markDirty
  split
  · rfl
  · exact State.roster_ite rfl (by simp)

@[simp] theorem State.roster_installTlb {e} : (s.installTlb e).roster = s.roster := by
  unfold State.installTlb
  dsimp only
  split
  · rfl
  · split <;> rfl

@[simp] theorem State.roster_setAD {l wr} : (s.setAD l wr).1.roster = s.roster := by
  unfold State.setAD
  dsimp only
  generalize l.e ||| 32 ||| (if wr = true then 64 else 0) = e
  split
  · rfl
  · split <;> simp

/-- The recursion is taken level by level, as for `State.Formed.walkTry`. -/
@[simp] theorem State.roster_walkTry {cluster pasid va acc kernel n} :
    (s.walkTry cluster pasid va acc kernel n).1.roster = s.roster := by
  delta State.walkTry
  refine brecOn_keeps (P := fun k : State → State × Xlat => ∀ s, (k s).1.roster = s.roster) (fun n b ih s => ?_) n s
  delta State.walkTry._f
  split
  · rfl
  next m =>
    have again := ih m rfl
    have hv : (if pasid.toNat < 2 ^ ptLog s then s.visit (ptBase s + 32 * pasid.toNat) 32 else s).roster = s.roster :=
      State.roster_ite State.roster_visit rfl
    obtain ⟨walk, ew, hw⟩ : ∃ f, f = State.walkFrom ∧ ∀ s p, (f s p va).1.roster = s.roster :=
      ⟨_, rfl, fun _ _ => State.roster_walkFrom⟩
    obtain ⟨set, ea, ha⟩ : ∃ f, f = State.setAD ∧ ∀ s l w, (f s l w).1.roster = s.roster :=
      ⟨_, rfl, fun _ _ _ => State.roster_setAD⟩
    rw [← ew, ← ea]
    dsimp only
    split
    · exact hv
    next p _ =>
      split
      next e => exact (State.roster_fst e).trans ((hw _ p).trans hv)
      next e =>
        have hs := (State.roster_fst e).trans ((hw _ p).trans hv)
        split
        · exact hs
        · split
          · exact hs
          · split
            next e' => exact (again _).trans ((State.roster_fst e').trans ((ha _ _ _).trans hs))
            next e' =>
              have hd := (State.roster_fst e').trans ((ha _ _ _).trans hs)
              exact State.roster_installTlb.trans (State.roster_ite (State.roster_markDirty.trans hd) hd)

@[simp] theorem State.roster_translate {cluster pasid va acc kernel} :
    (s.translate cluster pasid va acc kernel).1.roster = s.roster := by
  unfold State.translate
  split
  · dsimp only
    split
    all_goals
      split
      · rfl
      · exact State.roster_walkTry
  · exact State.roster_walkTry

end walks

/-! Fetches, and what an instruction reads before its checks. -/

section fetches
variable {s : State}

@[simp] theorem State.roster_peek32 {core pasid acc va} : (s.peek32 core pasid acc va).1.roster = s.roster := by
  unfold State.peek32
  dsimp only
  split
  next e =>
    have ht := (State.roster_fst e).trans State.roster_translate
    split
    · exact State.roster_visitL1.trans ht
    · exact State.roster_visit.trans ht
  next e => exact (State.roster_fst e).trans State.roster_translate

@[simp] theorem State.roster_fetch32 {core pasid va} : (s.fetch32 core pasid va).1.roster = s.roster := State.roster_peek32

@[simp] theorem State.roster_fetchWord {core pasid pc} : (s.fetchWord core pasid pc).1.roster = s.roster := by
  have h1 {s t : State} {va y} (e : s.fetch32 core pasid va = (t, y)) : t.roster = s.roster :=
    (State.roster_fst e).trans State.roster_fetch32
  unfold State.fetchWord
  dsimp only
  split
  next e =>
    split
    next e1 => split <;> next e2 => exact (h1 e2).trans ((h1 e1).trans (h1 e))
    next e1 => exact (h1 e1).trans (h1 e)
    next e1 => exact (h1 e1).trans (h1 e)
  next e => exact h1 e
  next e => exact h1 e

@[simp] theorem State.roster_forgetPass {c} : (s.forgetPass c).roster = s.roster := State.roster_ite rfl rfl

@[simp] theorem State.roster_meetRegs {n} : (s.meetRegs n).roster = s.roster := by
  unfold State.meetRegs
  split
  · rfl
  · exact State.roster_ite rfl State.roster_meetAll

end fetches

end Sys2Proof.Machine
end

section
/-! Every event is answered by a next state, whatever the state holds, and every instruction where a run issues. So is every
step: a plan is an event, or an instruction whose run's context stood when its word was fetched. -/

namespace Sys2Proof.Machine

section answers
variable {s : State}

theorem issue_safe {n pre own act} (h : s.ctx?.isSome) : Safe (issue n pre own act s) :=
  issueOn_next (State.isSome_ctx?_of_roster State.roster_meetRegs h) pre own act

theorem vecOp_safe {c writes reads f} (h : s.ctx?.isSome) : Safe (vecOp c writes reads f s) := issue_safe h

theorem atomOp_safe {c ty op d a b mc isRed} (h : s.ctx?.isSome) : Safe (atomOp c ty op d a b mc isRed s) := by
  unfold atomOp
  dsimp only
  split
  · exact issue_safe h
  · exact issue_safe h

theorem waitLocked_safe {o : Out} (h : Safe o) : Safe (waitLocked s o) := by
  obtain ⟨t, rfl⟩ := h
  unfold waitLocked
  dsimp only
  split
  · exact ⟨_, rfl⟩
  · exact ⟨_, rfl⟩

/-! Threads that arrive change the group's bookkeeping and the run's lanes alone. -/

@[simp] theorem State.roster_arriveAgain {ref pc lanes} : (s.arriveAgain ref pc lanes).roster = s.roster :=
  State.roster_ite rfl State.roster_modGroup

theorem State.roster_modRun {f} (hf : ∀ r, (f r).ref = r.ref := by exact fun _ => rfl) : (s.modRun f).roster = s.roster := by
  unfold State.modRun
  split
  · rfl
  next r rs e => simp [State.roster, e, hf]

@[simp] theorem State.roster_gather {cx} : (s.gather cx).roster = s.roster := by
  rw [State.gather, State.mergeHeld]
  exact (State.roster_modRun).trans State.roster_arriveAgain

@[simp] theorem State.roster_passBy {cx c mask} : (s.passBy cx c mask).roster = s.roster := by
  unfold State.passBy
  refine State.roster_ite rfl ?_
  dsimp only
  split
  · exact State.roster_modGroup
  · exact State.roster_ite ((State.roster_modGroup).trans State.roster_modGroup) State.roster_modGroup

theorem lanesOp_safe {c writes reads msk f} (h : s.ctx?.isSome) : Safe (lanesOp c writes reads msk f s) := by
  obtain ⟨cx, hc⟩ := Option.isSome_iff_exists.1 h
  simp only [lanesOp, hc]
  split
  · exact ⟨_, rfl⟩
  · split
    · exact ⟨_, rfl⟩
    · split
      · exact ⟨_, rfl⟩
      · exact issue_safe (State.isSome_ctx?_of_roster State.roster_gather h)

theorem execMjoin_safe {c a} (h : s.ctx?.isSome) : Safe (execMjoin c a s) := by
  obtain ⟨cx, hc⟩ := Option.isSome_iff_exists.1 h
  simp only [execMjoin, hc]
  refine issue_safe (State.isSome_ctx?_of_roster (State.roster_ite State.roster_arriveAgain ?_) h)
  exact State.roster_passBy.trans State.roster_arriveAgain

/-- The instructions that are not issued as the others are: the headers, and a word that is no instruction's. -/
theorem headers_safe (h : s.ctx?.isSome) :
    (∀ fx fy wait, Safe (execClause fx fy wait s)) ∧ (∀ bnd off, Safe (execRegion bnd off s)) ∧
      ∀ w, Safe (execUnassignedOpcode w s) := by
  obtain ⟨cx, hc⟩ := Option.isSome_iff_exists.1 h
  refine ⟨fun fx fy wait => ?_, fun bnd off => ?_, fun w => ?_⟩
  · simp only [execClause, hc]
    repeat' split
    all_goals exact ⟨_, rfl⟩
  · simp only [execRegion, hc]
    repeat' split
    all_goals exact ⟨_, rfl⟩
  · simp only [execUnassignedOpcode, hc]
    repeat' split
    all_goals exact ⟨_, rfl⟩

/-- An event answers a next state in each of its cases. -/
theorem exec_safe_of_event {i : Instr} (h : encode i = none) : Safe (exec i s) := by
  cases i with
  | bindingResolved | bindingFailed | shootdownStart | sddropClear | notify | nopPacket | launchPacket | waitSignalPacket
  | setSignalPacket | imageSavePacket | imageLoadPacket | dirtyHarvestPacket | planLoadPacket | flitRead | flitWrite
  | flitAtomic | flitReadReply | flitWriteAck | flitCollectiveData | flitAtomicReply | retryAfter | staleReject | ready | go
  | abort | collectiveRestart | linkProbe | debugControlWrite | readReg | writeReg | dbgStep | dbgResume | unsupportedRequest
  | reconfDrainDone | spdmSessionLoss | ideIntegrityFailure | throttleTick | getVersion | getCapabilities
  | negotiateAlgorithms | getDigests | getCertificate | challenge | keyExchange | finish | keyUpdate | vendorDefinedRequest
  | ideQuery | ideKeyProg | ideKSetGo | ideKSetStop | lockInterfaceRequest | getDeviceInterfaceReport | heartbeat | endSession
  | getTdispVersion | getTdispCapabilities | getDeviceInterfaceState | startInterfaceRequest | stopInterfaceRequest =>
    exact ⟨_, rfl⟩
  | issueArbitration | pipIssue | pageWalk | shootdownAck | bufferRelease | hostBar4Read | hostBar4Write | clusterPowerGate
  | ejectSoftTimeout | ejectHardTimeout | longLatencyComplete | faultResolved | faultUnresolvable | flushComplete
  | flushFaultResolved | matrixCommandStart | matrixCommandComplete | scrubStep | watchdogExpiry | invalidPacket | blockClaim
  | blockMigrate | blockImageOut | blockRetire | childAdmission | prooferClauseLimit | remoteResend | bufferReleaseForced
  | linkFrame | replayTimeout | trainingFrame | portDown | rerouteTimeout | switchReply | registerWrite | getMeasurements
  | frameTime | reconfDrainTimeout | readyTimeout | reconfLightTimeout | deviceReset | hostAtomicop =>
    simp only [exec, execIssueArbitration, execPipIssue, execPageWalk, execShootdownAck, execBufferRelease,
      execHostBar4Read, execHostBar4Write, execClusterPowerGate, execEjectSoftTimeout, execEjectHardTimeout,
      execLongLatencyComplete, execFaultResolved, execFaultUnresolvable, execFlushComplete, execFlushFaultResolved,
      execMatrixCommandStart, execMatrixCommandComplete, execScrubStep, execWatchdogExpiry, execInvalidPacket, execBlockClaim,
      execBlockMigrate, execBlockImageOut, execBlockRetire, execChildAdmission, execProoferClauseLimit, execRemoteResend,
      execBufferReleaseForced, execLinkFrame, execReplayTimeout, execTrainingFrame, execPortDown, execRerouteTimeout,
      execSwitchReply, execRegisterWrite, execGetMeasurements, execFrameTime, execReconfDrainTimeout, execReadyTimeout,
      execReconfLightTimeout, execDeviceReset, execHostAtomicop]
    repeat' split
    all_goals exact ⟨_, rfl⟩
  | copyChunkComplete | copyComplete | dcmpJobComplete | preempt =>
    simp only [exec, execCopyChunkComplete, execCopyComplete, execDcmpJobComplete, execPreempt]
    refine waitLocked_safe ?_
    repeat' split
    all_goals exact ⟨_, rfl⟩
  | packetComplete =>
    simp only [exec, execPacketComplete]
    split
    · exact ⟨_, rfl⟩
    · split
      · exact ⟨_, rfl⟩
      · exact waitLocked_safe ⟨_, rfl⟩
  | _ => nomatch h

/-- Where a run issues, an instruction answers: all but the headers are `issue` with a need and an act, most of them writes
of registers. -/
theorem exec_safe_of_context {i : Instr} (hi : encode i ≠ none) (h : s.ctx?.isSome) : Safe (exec i s) := by
  obtain ⟨hclause, hregion, hword⟩ := headers_safe h
  cases i with
  | mov | movi | moviW | moviHi | umov | umovBc | hget | hput | iadd | iadd3 | isub | imul | imulh | imad | imadw | iabs
  | ineg | imin | imax | isad | lea | addc | subc | andb | orb | xorb | notb | tlog | shl | shr | sar | funl | funr | rot
  | bfe | bfi | bmsk | popc | clz | ctz | brev | bysel | isetp | fsetp | hsetp2 | sel | pset | p2v | fadd | fsub | fmul | ffma
  | fmin | fmax | fclass | hadd2 | hmul2 | hfma2 | hmin2 | hmax2 | cvt | frnd | idiv | irem =>
    simp only [exec, execMov, execMovi, execMoviW, execMoviHi, execUmov, execUmovBc, execHget, execHput, execIadd,
      execIadd3, execIsub, execImul, execImulh, execImad, execImadw, execIabs, execIneg, execImin, execImax, execIsad,
      execLea, execAddc, execSubc, execAndb, execOrb, execXorb, execNotb, execTlog, execShl, execShr, execSar, execFunl,
      execFunr, execRot, execBfe, execBfi, execBmsk, execPopc, execClz, execCtz, execBrev, execBysel, execIsetp, execFsetp,
      execHsetp2, execSel, execPset, execP2v, execFadd, execFsub, execFmul, execFfma, execFmin, execFmax, execFclass,
      execHadd2, execHmul2, execHfma2, execHmin2, execHmax2, execCvt, execFrnd, execIdiv, execIrem, intOp1, intOp2, intOp3,
    carryOp, bitOp2, shiftOp, countOp, fpOp2, packedOp2]
    exact vecOp_safe h
  | nop | trap | brk | wrsr | umovLn | bra | braDv | brx | call | calli | callt | ret | exit | rejoin | mset | mget | yield
  | v2p | fdiv | fsqrt | frcp | frsq | fex2 | flg2 | fsin | fcos | ftanh | qnt | dqnt | ld | st | ldsp | stsp | ldc | fence
  | pref | acopy | dcmp | fwait | ftest | fcancel | waitc | qpush | qpop | qtryPush | qtryPop | mres | mrel | mldw | mzero
  | mma | mmas | mst | mcommit | bar | bara | barw | wbar | flushpt | dlaunch | fput | fget | fatom | coll | reconf | tgset =>
    simp only [exec, execNop, execTrap, execBrk, execWrsr, execUmovLn, execBra, execBraDv, execBrx, execCall, execCalli,
      execCallt, execRet, execExit, execRejoin, execMset, execMget, execYield, execV2p, execFdiv, execFsqrt, execFrcp,
      execFrsq, execFex2, execFlg2, execFsin, execFcos, execFtanh, execQnt, execDqnt, execLd, execSt, execLdsp, execStsp,
      execLdc, execFence, execPref, execAcopy, execDcmp, execFwait, execFtest, execFcancel, execWaitc, execQpush, execQpop,
      execQtryPush, execQtryPop, execMres, execMrel, execMldw, execMzero, execMma, execMmas, execMst, execMcommit, execBar,
      execBara, execBarw, execWbar, execFlushpt, execDlaunch, execFput, execFget, execFatom, execColl, execReconf, execTgset,
    branchOp, callOp, slotOp, fun1, longOp, memOp, matrixOp, mmaOp, fabCopy, engineOp]
    exact issue_safe h
  | shfl | vote | ballot | gred | gscan | garg | matchOp | elect | bxch =>
    simp only [exec, execShfl, execVote, execBallot, execGred, execGscan, execGarg, execMatchOp, execElect, execBxch]
    exact lanesOp_safe h
  | rdsr =>
    simp only [exec, execRdsr]
    split
    · exact issue_safe h
    · exact issue_safe h
  | cvth =>
    simp only [exec, execCvth]
    split
    · exact vecOp_safe h
    · exact vecOp_safe h
  | atom => exact atomOp_safe h
  | red => exact atomOp_safe h
  | mjoin => exact execMjoin_safe h
  | clause => exact hclause _ _ _
  | region => exact hregion _ _
  | unassignedOpcode => exact hword _
  | _ => exact absurd rfl hi

theorem exec_safe {i : Instr} (h : encode i = none ∨ s.ctx?.isSome) : Safe (exec i s) := by
  by_cases hi : encode i = none
  · exact exec_safe_of_event hi
  · exact exec_safe_of_context hi (h.resolve_left hi)

end answers

/-! The events that a state makes due. -/

/-- A list of events: none of them has a word. -/
def Events (l : List Instr) : Prop := ∀ i ∈ l, encode i = none

section due
variable {s : State}

theorem Events.append {l m : List Instr} (hl : Events l) (hm : Events m) : Events (l ++ m) :=
  List.forall_mem_append.2 ⟨hl, hm⟩

theorem Events.map {α : Type} {f : α → Instr} (hf : ∀ x, encode (f x) = none) (l : List α) : Events (l.map f) :=
  List.forall_mem_map.2 fun x _ => hf x

theorem Events.filterMap {α : Type} {f : α → Option Instr} (hf : ∀ x, ∀ i ∈ f x, encode i = none) (l : List α) :
    Events (l.filterMap f) := by
  intro i hi
  obtain ⟨x, _, hx⟩ := List.mem_filterMap.1 hi
  exact hf x i hx

theorem Events.flatMap {α : Type} {f : α → List Instr} (hf : ∀ x, Events (f x)) (l : List α) : Events (l.flatMap f) := by
  intro i hi
  obtain ⟨x, _, hx⟩ := List.mem_flatMap.1 hi
  exact hf x i hx

theorem Events.nil : Events [] := List.forall_mem_nil _

theorem Events.one {i : Instr} (h : encode i = none) : Events [i] := List.forall_mem_singleton.2 h

theorem Events.ite {c : Prop} [Decidable c] {l m : List Instr} (hl : Events l) (hm : Events m) :
    Events (if c then l else m) := by
  split
  · exact hl
  · exact hm

theorem dueIssue_events : Events s.dueIssue := .append (.map (fun _ => rfl) _) (.map (fun _ => rfl) _)

theorem dueHeld_events : Events s.dueHeld := .ite .nil (.map (fun _ => rfl) _)

theorem dueFlights_events : Events s.dueFlights := .map (fun _ => rfl) _

theorem dueFlushes_events : Events s.dueFlushes := .map (fun _ => rfl) _

theorem dueCmd_event {c : Cmd} : ∀ i ∈ s.dueCmd c, encode i = none := by
  intro i hi
  unfold State.dueCmd at hi
  split at hi
  · split at hi
    · cases hi
    · split at hi
      · cases hi; rfl
      · split at hi
        · cases hi
        · obtain ⟨x, _, rfl⟩ := Option.mem_map.1 hi
          rfl
  · split at hi
    · cases hi; rfl
    · cases hi
  · cases hi

theorem duePair_event {p : Pair} : ∀ i ∈ s.duePair p, encode i = none := by
  intro i hi
  unfold State.duePair at hi
  split at hi
  · cases hi
  · split at hi
    · cases hi
    · split at hi
      · cases hi; rfl
      · split at hi
        · split at hi
          · cases hi; rfl
          · cases hi
        · cases hi; rfl

theorem packetEvent_event {q op} : encode (packetEvent q op) = none := by
  unfold packetEvent
  split <;> rfl

theorem dueQueue_event {q : QueueRef} : ∀ i ∈ s.dueQueue q, encode i = none := by
  intro i hi
  unfold State.dueQueue at hi
  split at hi
  · cases hi; exact packetEvent_event
  · cases hi; rfl
  · cases hi; rfl
  · cases hi

theorem duePackets_events : Events s.duePackets :=
  .append (.map (fun _ => rfl) _) (.ite (.filterMap (fun _ => dueQueue_event) _) .nil)

theorem dueProofer_events : Events s.dueProofer := by
  refine .flatMap (fun l => .append ?_ (.ite (.one rfl) .nil)) _
  split
  · exact .ite (.map (fun _ => rfl) _) .nil
  · exact .nil

theorem dueMaint_events : Events s.dueMaint := .map (fun _ => rfl) _

theorem dueLaunch_events {l : Launch} : Events (s.dueLaunch l) :=
  .append (.append (.append (.map (fun _ => rfl) _) (.ite (.map (fun _ => rfl) _) .nil)) (.map (fun _ => rfl) _))
    (.ite (.one rfl) .nil)

theorem dueMoves_events : Events s.dueMoves := by
  refine .flatMap (fun m => .flatMap (fun b => ?_) _) _
  split
  · exact .nil
  · exact .map (fun _ => rfl) _

theorem dueChildren_events : Events s.dueChildren := .map (fun _ => rfl) _

theorem dueTxns_events : Events s.dueTxns := by
  refine .filterMap (fun t i hi => ?_) _
  split at hi
  · split at hi
    · cases hi; rfl
    · cases hi
  · split at hi
    · cases hi; rfl
    · split at hi
      · cases hi; rfl
      · cases hi
  · cases hi

theorem duePorts_events : Events s.duePorts := .flatMap (fun _ => .ite (.one rfl) (.ite (.one rfl) (.ite (.one rfl) .nil))) _

theorem dueTopology_events : Events s.dueTopology :=
  .append (.append (.append (.ite (.one rfl) .nil) (.ite (.one rfl) .nil)) (.ite (.one rfl) .nil)) (.ite (.one rfl) .nil)

theorem dueTimeouts_events : Events s.dueTimeouts := .append (.map (fun _ => rfl) _) (.map (fun _ => rfl) _)

theorem due_events : Events s.due :=
  dueIssue_events.append dueHeld_events |>.append dueFlights_events |>.append dueFlushes_events
    |>.append (.filterMap (fun _ => dueCmd_event) _) |>.append (.filterMap (fun _ => duePair_event) _)
    |>.append duePackets_events |>.append dueProofer_events |>.append dueMaint_events
    |>.append (.flatMap (fun _ => dueLaunch_events) _) |>.append dueMoves_events |>.append dueChildren_events
    |>.append dueTxns_events |>.append duePorts_events |>.append dueTopology_events |>.append dueTimeouts_events

theorem nextEvent_event : encode s.nextEvent = none := by
  have hd := due_events (s := s)
  unfold State.nextEvent
  split
  · rfl
  next e hs => exact hd e (by simp [hs])
  next e l _ hs =>
    rw [List.getD_eq_getElem?_getD]
    cases hg : (e :: l)[Config.choice s.freeCtr % (l.length + 1)]? with
    | none => exact hd e (by simp [hs])
    | some i => exact hd i (hs ▸ List.mem_of_getElem? hg)

end due

/-! The plan. -/

section plan
variable {s : State}

/-- A plan that is carried out: an event, or an instruction where a run issues. -/
def Next.Answered : Next → Prop
  | .exec i s => encode i = none ∨ s.ctx?.isSome
  | .done _ => True

theorem nextExec_answered : s.nextExec.Answered := .inl nextEvent_event

theorem fetchNext_answered {cx : Ctx} (h : s.ctx?.isSome) : (s.fetchNext cx).Answered := by
  have hw {t : State} {core pasid pc y} (e : (s.forgetPass cx).fetchWord core pasid pc = (t, y)) : t.ctx?.isSome :=
    State.isSome_ctx?_of_roster ((State.roster_fst e).trans (State.roster_fetchWord.trans State.roster_forgetPass)) h
  unfold State.fetchNext
  dsimp only
  split
  · trivial
  · split
    · trivial
    · split
      · trivial
      · trivial
      next e =>
        split
        · trivial
        · split
          · trivial
          · split
            · exact .inr (hw e)
            · split
              · split <;> trivial
              · split
                · exact .inr (hw e)
                · trivial

theorem nextStep_answered (h : Events s.agenda) : s.nextStep.Answered := by
  unfold State.nextStep
  split
  next i rest e => exact .inl (h i (by simp [e]))
  · split
    · exact nextExec_answered
    · split
      · split
        · exact nextExec_answered
        · trivial
      · dsimp only
        split
        next e => exact fetchNext_answered (Option.isSome_iff_exists.2 ⟨_, e⟩)
        · trivial

end plan

/-- Settles O4: what the state plans is done, or is carried out by `exec`, which then answers. -/
theorem everyStepAnswers : Obligations.EveryStepAnswers := by
  unfold Obligations.EveryStepAnswers
  intro s hs
  have hn : s.tick.nextStep.Answered := nextStep_answered hs
  unfold step
  split
  next e => exact exec_safe (e ▸ hn : Next.Answered (.exec ..))
  · exact ⟨_, rfl⟩

end Sys2Proof.Machine
end

section
/-! Memory in canonical form (02 R51, R54): bytes written in a row read back (O11), the cells determine the list, and a number's
little-endian bytes stand for it (00 R7). The state at reset (O12). -/

namespace Sys2Proof.Machine

theorem Store.get_cons_self {n : Nat} (a : Nat) (v : BitVec n) (r : Store n) : Store.get ((a, v) :: r) a = v := if_pos rfl

theorem Store.get_cons_other {n : Nat} {a j : Nat} (v : BitVec n) (r : Store n) (hj : j ≠ a) :
    Store.get ((a, v) :: r) j = Store.get r j := if_neg (Ne.symm hj)

/-- Nothing below the first key is listed: a cell that is not zero stands at or above it. -/
theorem Store.head_le {n : Nat} {lo : Option Nat} {a b : Nat} {w : BitVec n} {r : Store n}
    (h : Store.wfFrom lo ((b, w) :: r) = true) (ha : Store.get ((b, w) :: r) a ≠ 0) : b ≤ a := by
  obtain ⟨-, hw, hr⟩ := (Store.wfFrom_cons ..).1 h
  by_contra hlt
  exact ha (Store.get_below ((Store.wfFrom_cons ..).2 ⟨belowKey_some.2 (Nat.lt_of_not_le hlt), hw, hr⟩) (Nat.le_refl a))

/-- Lists in canonical form that read alike are equal: each begins at the least cell that is not zero. -/
theorem Store.ext_wfFrom {n : Nat} {lo : Option Nat} {m k : Store n} (hm : Store.wfFrom lo m = true)
    (hk : Store.wfFrom lo k = true) (h : ∀ j, Store.get m j = Store.get k j) : m = k := by
  induction m generalizing lo k with
  | nil =>
    cases k with
    | nil => rfl
    | cons q k =>
      obtain ⟨b, w⟩ := q
      exact absurd ((Store.get_cons_self b w k).symm.trans (h b).symm) ((Store.wfFrom_cons ..).1 hk).2.1
  | cons p m ih =>
    obtain ⟨a, v⟩ := p
    obtain ⟨-, hv, hmr⟩ := (Store.wfFrom_cons ..).1 hm
    have hma := Store.get_cons_self a v m
    cases k with
    | nil => exact absurd (hma.symm.trans (h a)) hv
    | cons q k =>
      obtain ⟨b, w⟩ := q
      obtain ⟨-, hw, hkr⟩ := (Store.wfFrom_cons ..).1 hk
      have hkb := Store.get_cons_self b w k
      have hba : b ≤ a := Store.head_le hk (by rwa [← h, hma])
      have hab : a ≤ b := Store.head_le hm (by rwa [h, hkb])
      obtain rfl : a = b := Nat.le_antisymm hab hba
      obtain rfl : v = w := by rw [← hma, h, hkb]
      rw [ih hmr hkr fun j => ?_]
      rcases Nat.lt_or_ge a j with hj | hj
      · rw [← Store.get_cons_other v m hj.ne', h, Store.get_cons_other v k hj.ne']
      · rw [Store.get_below hmr hj, Store.get_below hkr hj]

/-- Bytes written in a row read back: the first is not touched by the writes of the others. -/
theorem Store.bytes_setBytes {s : Store 8} (a : Nat) (bs : List Byte) (h : Store.wf s = true) :
    Store.bytes (Store.setBytes s a bs) a bs.length = bs := by
  induction bs generalizing s a with
  | nil => rfl
  | cons b r ih =>
    have first : Store.get (Store.setBytes (Store.set s a b) (a + 1) r) a = b := by
      rw [Store.get_setBytes_other r (.inl (Nat.lt_succ_self a)), Store.get_set_self a b h]
    rw [Store.setBytes, List.length_cons, Store.bytes, first, ih (a + 1) (Store.set_wf a b h)]

/-- The low byte, and 256 times what the other bytes stand for (00 R7). -/
theorem leNat_leBytes (x n : Nat) : leNat (leBytes x n) = x % 256 ^ n := by
  induction n generalizing x with
  | zero => exact (Nat.mod_one x).symm
  | succ n ih => rw [leBytes, leNat, ih, BitVec.toNat_ofNat, Nat.pow_succ' (m := 256), Nat.mod_mul]

theorem putHome_bytes {s : State} (pa : Nat) (bs : List Byte) (h : s.memWf = true) :
    (s.putHome pa bs).mem.bytes pa bs.length = bs := Store.bytes_setBytes pa bs h

/-- What recalling the words under a write leaves home is written over (02 R54). -/
theorem writeHome_bytes {s : State} (pa : Nat) (bs : List Byte) (h : s.memWf = true) :
    (s.writeHome pa bs).mem.bytes pa bs.length = bs :=
  putHome_bytes pa bs (overSlice_memWf _ _ _ (recallWords_memWf _ _ (touchSlice_memWf _ _ _ h)))

/-- Settles O11: the rules of one cell, of bytes in a row and of a write at home. -/
theorem memoryKeepsItsFormAndReadsBack : Obligations.MemoryKeepsItsFormAndReadsBack :=
  ⟨fun _ a _ x bs h => ⟨Store.set_wf a x h, Store.get_set_self a x h, Store.get_set_other x, Store.setBytes_wf a bs h,
      Store.bytes_setBytes a bs h, Store.get_setBytes_other bs⟩,
    fun _ _ hm hk h => Store.ext_wfFrom hm hk h,
    fun _ pa bs h => ⟨writeHome_memWf pa bs h, writeHome_bytes pa bs h⟩,
    leNat_leBytes⟩

/-- Every port is down at reset (log 21). -/
theorem reset_ports_down : ∀ p ∈ State.reset.ports, p.st = .down := by
  intro p hp
  obtain ⟨i, -, rfl⟩ := List.mem_map.1 hp
  rfl

/-- Settles O12: the fields as `State.reset` gives them, and the lemmas on its stores and its ports. -/
theorem resetStateIsTheSpecs : Obligations.ResetStateIsTheSpecs :=
  ⟨rfl, reset_formed, fun _ => rfl, rfl, rfl, rfl, rfl, rfl, rfl, rfl, rfl, rfl, rfl, rfl, rfl, rfl, rfl, rfl, rfl,
    reset_ports_down, rfl, rfl⟩

end Sys2Proof.Machine
end

section
/-! Walks, shoot-downs, power gating and the ends of logged faults (03 R65-R80): each event on the path where it takes effect. -/

namespace Sys2Proof.Machine

variable {s s1 : State} {cluster entry : Nat}

/-- A write request is performed where it is served (15 R375). -/
theorem hostWrite_served {t : Bool} (h : s.serve t false = .served) (f : State → State) : s.hostWrite t f = f s := by
  rw [State.hostWrite, h]

/-! The clusters. -/

section walk
variable {pasid : BitVec 20} {va : BitVec 57} {acc : Access} {x : Xlat}

/-- A walk that fails, and need not wait for a harvest or the locked interface, is kept as failed (R73). -/
theorem execPageWalk_fault {k : FaultKind} (hc : cluster < Config.clusters s.part) (hg : s.gated.contains cluster = false)
    (hw : s.walkFor cluster pasid va.toNat acc true = (s1, .fault k)) (hb : s.hostBarred s1 = false) :
    execPageWalk cluster pasid va acc s = .next (s1.noteWalk cluster pasid va.toNat acc false) := by
  simp [execPageWalk, Nat.not_le.2 hc, hg, hw, hb, -List.contains_eq_mem]

theorem execPageWalk_goes (hc : cluster < Config.clusters s.part) (hg : s.gated.contains cluster = false)
    (hw : s.walkFor cluster pasid va.toNat acc true = (s1, x)) (hx : ∀ k, x ≠ .fault k) :
    execPageWalk cluster pasid va acc s = .next (s1.noteWalk cluster pasid va.toNat acc true) := by
  cases x with
  | fault k => exact absurd rfl (hx k)
  | ok | bad => simp [execPageWalk, Nat.not_le.2 hc, hg, hw, -List.contains_eq_mem]

end walk

theorem execShootdownAck_next {m : MaintOp} (hc : cluster < Config.clusters s.part)
    (hm : nextMaint cluster [] s.maint = some m) :
    execShootdownAck cluster s = .next { (s.performMaint cluster m.op) with
      maint := ackOne cluster m (s.performMaint cluster m.op).maint }.completeMaint := by
  simp only [execShootdownAck, if_neg (Nat.not_le.2 hc), hm]

/-- The operation once the power controller has acknowledged it for a cluster: if it has begun, once (R77). -/
def MaintOp.ackedFor (cluster : Nat) (m : MaintOp) : MaintOp :=
  if m.acked.contains cluster || !m.op.begun then m else { m with acked := cluster :: m.acked }

/-- A cluster that is on, and whose placed blocks are all the agents', goes off (R77). -/
theorem execClusterPowerGate_off (hc : cluster < Config.clusters s.part) (hg : s.gated.contains cluster = false)
    (hb : ∀ b ∈ s.blocks, b.life = .placed → clusterOf b.core ≠ cluster ∨ (s.launch? b.launch).any (·.agent) = true) :
    execClusterPowerGate cluster true s = .next { (s.shoot 2 0 0 0 cluster) with
      gated := cluster :: (s.shoot 2 0 0 0 cluster).gated
      maint := (s.shoot 2 0 0 0 cluster).maint.map (MaintOp.ackedFor cluster) }.completeMaint := by
  have hn : s.blocks.any (fun b =>
      b.life == .placed && clusterOf b.core == cluster && !(s.launch? b.launch).any (·.agent)) = false := by
    refine any_none fun b hm => ?_
    by_cases hp : b.life = .placed
    · rcases hb b hm hp with h | h
      · simp [h]
      · rw [h, Bool.not_true, Bool.and_false]
    · simp [hp]
  simp only [execClusterPowerGate, if_neg (Nat.not_le.2 hc), hg, hn, Bool.not_true, Bool.or_self, Bool.false_eq_true, if_false]
  rfl

theorem execClusterPowerGate_on (hc : cluster < Config.clusters s.part) :
    execClusterPowerGate cluster false s = .next { s with gated := s.gated.filter (· != cluster) } := by
  simp only [execClusterPowerGate, if_neg (Nat.not_le.2 hc), Bool.not_false, if_true]

/-! The shoot-down register. -/

theorem execSddropClear_served {w : BitVec 64} {t : Bool} (h : s.serve t false = .served) :
    execSddropClear w t s = .next { s with sdDrop := s.sdDrop && !w.getLsbD 32 } := by
  rw [execSddropClear, hostWrite_served h]
  cases w.getLsbD 32
  · rw [Bool.not_false, Bool.and_true]
    rfl
  · rw [Bool.not_true, Bool.and_false]
    rfl

/-! Logged faults. -/

/-- An entry that still stands in the log leaves it, for what is then made of its work. -/
def leaveLog (work : State → LogEntry → State) (s : State) (e : LogEntry) : State :=
  if s.oplog.any (·.id == e.id) then work (s.dropEntries [e]) e else s

section fault
variable {e : LogEntry}

theorem execFaultUnresolvable_held (he : s.oplog.find? (·.id == entry) = some e) (hk : e.kind = .held) :
    execFaultUnresolvable entry s = .next s := by
  simp [execFaultUnresolvable, he, hk]

theorem execFaultUnresolvable_givesUp (hr : s.ready = true) (he : s.oplog.find? (·.id == entry) = some e)
    (hk : e.kind ≠ .held) :
    execFaultUnresolvable entry s = .next ((s.sameRequest e).foldl (leaveLog State.giveUp) s) := by
  simp only [execFaultUnresolvable, he, hr, beq_false_of_ne hk, Bool.not_true, Bool.or_self, Bool.false_eq_true, if_false]
  rfl

theorem execFaultResolved_held (he : s.oplog.find? (·.id == entry) = some e) (hk : e.kind = .held)
    (hh : s.harvesting e.pasid = true) : execFaultResolved entry s = .next s := by
  simp [execFaultResolved, he, hk, hh]

/-- What lives elsewhere is asked for; with nothing of it to come, the logged work is done again (R80, 14 R366). -/
theorem execFaultResolved_follows {away : List Nat} (hr : s.ready = true) (he : s.oplog.find? (·.id == entry) = some e)
    (hk : e.kind ≠ .held ∨ s.harvesting e.pasid = false) (ha : away = (s.sameRequest e).flatMap LogEntry.away)
    (hf : away.foldl (fun (s : State) va => s.follow e.pasid va) s = s1) (hb : s.askedHost s1 = false) :
    execFaultResolved entry s = .next (if away.any (fun va => (s1.pageFor e.pasid va).isSome) then s1
      else (s.sameRequest e).foldl (leaveLog State.retry) s1) := by
  have hn : (e.kind == .held && s.harvesting e.pasid) = false := by
    rcases hk with h | h
    · rw [beq_false_of_ne h, Bool.false_and]
    · rw [h, Bool.and_false]
  subst ha hf
  simp only [execFaultResolved, he, hr, hn, hb, Bool.not_true, Bool.or_self, Bool.false_eq_true, if_false]
  split <;> rfl

end fault

/-- Settles O45: each event on the path where its condition holds. -/
theorem addressSpaceEventsComplete : Obligations.AddressSpaceEventsComplete := by
  unfold Obligations.AddressSpaceEventsComplete
  intro s cluster w t pasid va acc entry
  refine ⟨fun hc => ⟨fun hg s1 x hw => ⟨?_, fun hx => ?_⟩, fun m hm => ?_, fun hg hb => ?_, ?_⟩, fun ht => ⟨?_, ?_⟩,
    fun hr e he => ⟨fun hk => ⟨?_, fun hh => ?_⟩, fun hk => ?_, fun hk away s1 ha hf hb => ?_⟩⟩
  · rintro k rfl hb
    exact execPageWalk_fault hc hg hw hb
  · exact execPageWalk_goes hc hg hw hx
  · exact execShootdownAck_next hc hm
  · exact execClusterPowerGate_off hc hg hb
  · exact execClusterPowerGate_on hc
  · rw [exec_shootdownStart, execShootdownStart, hostWrite_served ht]
  · exact execSddropClear_served ht
  · exact execFaultUnresolvable_held he hk
  · exact execFaultResolved_held he hk hh
  · exact execFaultUnresolvable_givesUp hr he hk
  · exact execFaultResolved_follows hr he hk ha hf hb

end Sys2Proof.Machine
end

section
/-! Requests that are sent again or given up, and the short flits of the link and of collectives (11 R251, R256, R263, R276). -/

namespace Sys2Proof.Machine

variable {s : State} {txn port : Nat} {f : ShortFlit}

/-! Requests in flight. -/

section request
variable {t : Txn} {since : Nat}

theorem execRemoteResend_due {c : BitVec 64} (ht : s.txns.find? (·.id == txn) = some t) (hc : t.resendAt = some c)
    (hd : c.toNat ≤ s.clock.toNat) : execRemoteResend txn s = .next (s.resend t) := by
  simp only [execRemoteResend, ht, hc, if_pos hd]

theorem execRemoteResend_path (ht : s.txns.find? (·.id == txn) = some t) (hr : t.resendAt = none) (hl : t.lost = some since)
    (hp : (s.pathTo t.dst (flitOffset t.flit)).isSome = true) : execRemoteResend txn s = .next (s.resend t) := by
  simp only [execRemoteResend, ht, hr, hl, hp, Option.isSome_some, Bool.and_self, if_true]

theorem lostPath_iff : s.lostPath since = true ↔ since + 1000 * microsecond ≤ s.time := by
  rw [State.lostPath, decide_eq_true_iff, ge_iff_le]

/-- A request without a path is given up when it has had none for 1 ms (R263). -/
theorem execRerouteTimeout_givesUp (ht : s.txns.find? (·.id == txn) = some t) (hr : t.resendAt = none)
    (hl : t.lost = some since) (hp : s.pathTo t.dst (flitOffset t.flit) = none) (hs : since + 1000 * microsecond ≤ s.time) :
    execRerouteTimeout txn s = .next (s.failTxn t).runReconf := by
  have hg : (t.lost.any s.lostPath && t.resendAt.isNone && (s.pathTo t.dst (flitOffset t.flit)).isNone) = true := by
    rw [hl, hr, hp, Option.any_some, lostPath_iff.2 hs]
    rfl
  rw [execRerouteTimeout, ht]
  simp only [hg, if_true]

theorem execRerouteTimeout_early (ht : s.txns.find? (·.id == txn) = some t) (hl : t.lost = some since)
    (hs : s.time < since + 1000 * microsecond) : execRerouteTimeout txn s = .next s := by
  have hw : s.lostPath since = false := Bool.eq_false_iff.2 fun h => Nat.not_le.2 hs (lostPath_iff.1 h)
  have hn : (t.lost.any s.lostPath && t.resendAt.isNone && (s.pathTo t.dst (flitOffset t.flit)).isNone) = false := by
    rw [hl, Option.any_some, hw, Bool.false_and, Bool.false_and]
  rw [execRerouteTimeout, ht]
  simp only [hn, Bool.false_eq_true, if_false]

end request

/-! Short flits at a port that is up. -/

/-- A short flit for this device frees its entry and takes effect. -/
theorem takeShort_here {type : Nat} (hp : s.portUp port = true) (ht : hdrType f.hdr = type) (hd : hdrDst f.hdr = s.devid)
    (act : State → State) : s.takeShort port type f act = act (s.oweCredit port type) := by
  simp [State.takeShort, hp, ht, hd]

theorem execBufferRelease_up (hp : s.portUp port = true) (ht : hdrType f.hdr = 0x10) :
    execBufferRelease port f s = .next (s.modPort port (fun p => { p with
      credits := (List.range 4).map (fun c => p.credits.getD c 0 + (f.body.extractLsb' (4 * c) 4).toNat)
      depths := (List.range 16).map (fun i => (f.body.extractLsb' (16 + 4 * i) 4).toNat) })) := by
  simp only [execBufferRelease, hp, ht, Bool.not_true, bne_self_eq_false, Bool.or_self, Bool.false_eq_true, if_false]

section restart
variable {s1 : State} {l : Launch} {tm : Team} {seq : Nat} (hp : s.portUp port = true) (ht : hdrType f.hdr = 0x14)
  (hd : hdrDst f.hdr = s.devid) (h1 : s1 = s.oweCredit port 0x14) (hq : seq = (f.body.extractLsb' 0 32).toNat)
include hp ht hd h1

theorem execCollectiveRestart_stray (hl : s1.restartLaunch f = none) : execCollectiveRestart port f s = .next s1 := by
  rw [execCollectiveRestart, takeShort_here hp ht hd, ← h1, hl]

include hq

/-- A restart for a team's collective is left where the collective is past; otherwise its bit 32 tells a failure from a restart
(R276, R277). -/
theorem execCollectiveRestart_team (hl : s1.restartLaunch f = some l) (hm : l.lr.team = some tm) :
    execCollectiveRestart port f s = .next (
      if seq < l.collseq && (s1.coll? l.id seq).isNone then s1
      else if f.body.getLsbD 32 then
        ((s1.openColl l.id seq).modColl l.id seq (fun x => { x with failed := true })).pumpColl l.id seq
      else s1.modColl l.id seq (·.restart (tm.ranks.findIdx (· == hdrSrc f.hdr)) (hdrSrc f.hdr))) := by
  subst hq
  rw [execCollectiveRestart, takeShort_here hp ht hd, ← h1]
  simp only [hl, hm]

end restart

/-- Settles O56: each event on the path where its condition holds; the three restarts are the three branches of the one rule. -/
theorem requestsAreSentAgainOrGivenUp : Obligations.RequestsAreSentAgainOrGivenUp := by
  unfold Obligations.RequestsAreSentAgainOrGivenUp
  intro s txn port t f l tm
  refine ⟨fun ht => ⟨fun c hc hd => ?_, fun since hr hl => ⟨fun hp => ?_, fun hp hs => ?_, fun hs => ?_⟩⟩,
    fun hp => ⟨fun ht => ?_, fun hd => ⟨fun ht => ?_, fun s1 seq ht h1 hq => ⟨fun hl => ?_, fun hl hm => ⟨fun ho => ?_, ?_⟩⟩⟩⟩⟩
  · exact execRemoteResend_due ht hc hd
  · exact execRemoteResend_path ht hr hl hp
  · exact execRerouteTimeout_givesUp ht hr hl hp hs
  · exact execRerouteTimeout_early ht hl hs
  · exact execBufferRelease_up hp ht
  · rw [exec_linkProbe, execLinkProbe, takeShort_here hp ht hd]
  · exact execCollectiveRestart_stray hp ht hd h1 hl
  · have hn : (seq < l.collseq && (s1.coll? l.id seq).isNone) = false := by
      rcases ho with h | h
      · simp [Nat.not_lt.2 h]
      · simp [Option.isNone_eq_false_iff.2 h]
    rw [exec_collectiveRestart, execCollectiveRestart_team hp ht hd h1 hq hl hm, hn]
    exact ⟨fun hb => by rw [hb]; rfl, fun hb => by rw [hb]; rfl⟩
  · intro hs hc
    rw [exec_collectiveRestart, execCollectiveRestart_team hp ht hd h1 hq hl hm, hc]
    simp [hs]

end Sys2Proof.Machine
end

section
/-! Accesses that are performed (04 R84): when every request of an instruction is served, it binds what they bring (01 R27), and a
memory instruction under `Clear` is the act that makes them. -/

namespace Sys2Proof.Machine

variable {s s1 : State} {cx : Ctx} {c : Common}

/-- An access that is performed at once: it has stored, or brought a value. -/
def Got.Served (g : Got) : Prop := g = .done ∨ ∃ x, g = .val x

section results
variable {res : List (MemReq × Got)} (h : ∀ r ∈ res, r.2.Served)
include h

theorem filterMap_served {α : Type} {f : MemReq × Got → Option α} (hd : ∀ q, f (q, .done) = none)
    (hv : ∀ q x, f (q, .val x) = none) : res.filterMap f = [] := by
  refine List.filterMap_eq_nil_iff.2 fun ⟨q, g⟩ hr => ?_
  obtain rfl | ⟨x, rfl⟩ := h _ hr
  · exact hd q
  · exact hv q x

theorem trapsOf_served : trapsOf res = [] := filterMap_served h (fun _ => rfl) fun _ _ => rfl
theorem droppedOf_served : droppedOf res = [] := filterMap_served h (fun _ => rfl) fun _ _ => rfl
theorem faultsOf_served : faultsOf res = [] := filterMap_served h (fun _ => rfl) fun _ _ => rfl
theorem farsOf_served : farsOf res = [] := filterMap_served h (fun _ => rfl) fun _ _ => rfl

end results

section accesses
variable {w : Site} {result : Bool}

/-- What lies in a peer aperture is served by no access of this device (11 R267). -/
theorem aperture_of_accessOne {q : MemReq} (h : (s.accessOne w result q).2.Served) : aperture q.va.toNat = none := by
  unfold State.accessOne at h
  dsimp only at h
  split at h
  · split at h <;> rcases h with h | ⟨_, h⟩ <;> cases h
  · assumption

theorem aperture_of_accessAll {qs : List MemReq} {res : List (MemReq × Got)} (ha : s.accessAll w result qs = (s1, res))
    (h : ∀ r ∈ res, r.2.Served) : ∀ q ∈ qs, aperture q.va.toNat = none := by
  induction qs generalizing s res with
  | nil => simp
  | cons q qs ih =>
    obtain ⟨rfl, rfl⟩ := Prod.mk.inj ha
    refine List.forall_mem_cons.2 ⟨aperture_of_accessOne (h _ (List.mem_cons_self ..)), ?_⟩
    exact ih rfl fun r hr => h r (List.mem_cons_of_mem _ hr)

theorem behindFar_near {ref : GroupRef} {q : MemReq} (h : aperture q.va.toNat = none) : s.behindFar ref q = false := by
  rw [State.behindFar, h]

end accesses

/-! The act of a memory instruction. -/

/-- A scope that an order code asks for, if any, covers more than the core (R97, R127). -/
def Ctx.widens (cx : Ctx) (s : State) : Option Scope → Bool
  | some sc => s.wider sc cx.block cx.run.ref
  | none => false

theorem widens_acqScope (mc : MemCtl) :
    cx.widens s (acqScope mc) = (mc.order.isAcquire && s.wider mc.scope cx.block cx.run.ref) := by
  unfold acqScope
  cases mc.order.isAcquire <;> rfl

theorem widens_relScope (mc : MemCtl) :
    cx.widens s (relScope mc) = (mc.order.isRelease && s.wider mc.scope cx.block cx.run.ref) := by
  unfold relScope
  cases mc.order.isRelease <;> rfl

theorem acqScope_isSome (mc : MemCtl) : (acqScope mc).isSome = mc.order.isAcquire := by
  unfold acqScope
  cases mc.order.isAcquire <;> rfl

theorem relScope_isSome (mc : MemCtl) : (relScope mc).isSome = mc.order.isRelease := by
  unfold relScope
  cases mc.order.isRelease <;> rfl

/-- The threads whose accesses are made: the first alone for a uniform destination (R84, R85). -/
def MemPlan.who (p : MemPlan) (ex : List Thread) : List Thread :=
  if p.dst.any (·.1.isUni) then ex.take 1 else ex

/-- The state in which the accesses are made: after the release and the promotion (R97, R121). -/
def MemPlan.ready (p : MemPlan) (cx : Ctx) (s : State) : State :=
  let s1 := s.releaseAt cx.site (cx.widens s p.release)
  if p.rp then s1.promote.acquireAt cx.site true else s1

/-- What follows the accesses that were all performed: the values are bound to the instruction in flight, or, without a destination, the
run goes on. -/
def MemPlan.bind (p : MemPlan) (cx : Ctx) (ex : List Thread) (vs : List (Nat × BitVec 64)) (s : State) : Act :=
  match p.dst with
  | none => .done (if p.ends then s.endRegion cx.run.ref (lanesOf (ex.map (·.lane))) else s)
  | some d =>
    match s.fly cx p.c (lanesOf (ex.map (·.lane))) { dst := some d, vals := vs, ends := p.ends } with
    | some (_, s) => .done s
    | none => .stall

/-- Accesses that are all performed: the acquire follows them, then the values are bound. -/
theorem memAct_served {p : MemPlan} {mk : Thread → MemReq} {ex : List Thread} {res : List (MemReq × Got)}
    (hq : (p.release.isSome || p.acquire.isSome) = true → ∀ t ∈ ex, s.remoteWait t = false)
    (ha : (p.ready cx s).accessAll cx.site p.result ((p.who ex).map mk) = (s1, res)) (hv : ∀ r ∈ res, r.2.Served)
    (hb : (p.ready cx s).hostBarred s1 = false) :
    memAct p mk cx ex s = p.bind cx ex (valsOf res) (s1.acquireAt cx.site (cx.widens s p.acquire)) := by
  have h1 : ((p.release.isSome || p.acquire.isSome) && ex.any s.remoteWait) = false := by
    cases ho : p.release.isSome || p.acquire.isSome
    · rfl
    · exact any_none (hq ho)
  have h2 : (p.who ex).any (fun t => s.behindFar cx.run.ref (mk t)) = false :=
    any_none fun t ht => behindFar_near (aperture_of_accessAll ha hv _ (List.mem_map_of_mem ht))
  have hw : (if (match p.dst with | some (o, _) => o.isUni | none => false) = true then ex.take 1 else ex) = p.who ex := by
    obtain ⟨_, dst, _⟩ := p
    cases dst <;> rfl
  unfold memAct
  extract_lets w wide once who released ready before lanes c
  have e1 : wide = cx.widens s := by
    funext sc
    cases sc <;> rfl
  have e2 : who = p.who ex := hw
  have e3 : ready = p.ready cx s := by
    simp only [ready, released, e1]
    rfl
  have e4 : before = p.ready cx s := e3
  clear_value who wide before ready
  subst e1 e2 e3 e4
  simp only [h1, h2, show w = cx.site from rfl, ha, hb, trapsOf_served hv, droppedOf_served hv, faultsOf_served hv,
    farsOf_served hv, Bool.or_self, Bool.false_eq_true, if_false, List.isEmpty_nil, Bool.and_self, if_true]
  rfl

/-- What the reads of threads that trap leave behind is nothing to an instruction that is clear. -/
theorem Clear.noted {n : Need} (h : Clear n s cx) (f : Ctx → List (Nat × Trap) → State → State) :
    Clear { n with noted := f } s cx :=
  ⟨h.stands, h.allowed, h.unhurt, h.decided, h.executes, h.stays, h.kept, h.settled, h.drained, h.logged, h.unheld, h.sound⟩

theorem alignTrap_none {q : MemReq} (h : q.va.toNat % q.op.size = 0) : alignTrap q = none := by simp [alignTrap, h]

/-- A global-memory instruction under `Clear`, its checks passed, is its accesses. -/
theorem memOp_clear {n : Need} {p : MemPlan} {ea : Group → Thread → BitVec 64} {mk : Group → Thread → MemReq}
    (h : Clear { n with ordered := true, afterLog := true, hold := fun cx t => topoHold s cx (ea cx.group t) } s cx)
    (hp : ∀ t ∈ cx.exec n.common, topoTrap s cx (ea cx.group t) = none ∧
      (mk cx.group t).va.toNat % (mk cx.group t).op.size = 0 ∧ accessTrap s cx p.result (mk cx.group t) = none) :
    memOp n p ea mk s = (memAct p (mk cx.group) cx (cx.exec n.common) s).out n s cx := by
  unfold memOp
  refine issue_clear (h.noted _) (fun t ht => (hp t ht).1) (fun t ht => ?_) _
  obtain ⟨-, ha, hx⟩ := hp t ht
  rw [alignTrap_none ha, hx]
  rfl

/-- Values bound to an instruction that goes in flight: it is launched. -/
theorem fly_launched {n : Need} {f : Flight} {s0 s' : State} (hc : n.common = c) (he : n.ends = false)
    (hs : s.launched cx c f = some s') :
    Act.out n s0 cx (match s.fly cx c (lanesOf ((cx.exec c).map (·.lane))) f with
      | some (_, u) => .done u
      | none => .stall) = .next s' := by
  obtain ⟨i, u, hf, rfl⟩ := launched_fly hs
  simp only [hf, Act.out, hc, he, Bool.false_eq_true, if_false]

variable {s' : State} {ty : Ty} {scale : BitVec 2} {d a : Opnd} {idx : Option Opnd} {mc : MemCtl} {res : List (MemReq × Got)}

theorem served_of_val (h : ∀ r ∈ res, ∃ x, r.2 = .val x) : ∀ r ∈ res, r.2.Served := fun r hr => .inr (h r hr)

theorem served_of_done (h : ∀ r ∈ res, r.2 = .done) : ∀ r ∈ res, r.2.Served := fun r hr => .inl (h r hr)

/-- The act of an instruction with a destination whose accesses all bring values: it is launched with them. -/
theorem memAct_launched {n : Need} {p : MemPlan} {mk : Thread → MemReq} {o : Opnd × Bool} (hd : p.dst = some o)
    (hc : n.common = p.c) (he : n.ends = false)
    (hq : (p.release.isSome || p.acquire.isSome) = true → ∀ t ∈ cx.exec p.c, s.remoteWait t = false)
    (ha : (p.ready cx s).accessAll cx.site p.result ((p.who (cx.exec p.c)).map mk) = (s1, res)) (hv : ∀ r ∈ res, ∃ x, r.2 = .val x)
    (hb : (p.ready cx s).hostBarred s1 = false)
    (hs : (s1.acquireAt cx.site (cx.widens s p.acquire)).launched cx p.c { dst := some o, vals := valsOf res, ends := p.ends } =
      some s') :
    (memAct p mk cx (cx.exec n.common) s).out n s cx = .next s' := by
  rw [hc, memAct_served hq ha (served_of_val hv) hb]
  rw [MemPlan.bind, hd]
  exact fly_launched hc he hs

/-- The act of an instruction without a destination whose accesses are all performed: the run goes on. -/
theorem memAct_goes {n : Need} {p : MemPlan} {mk : Thread → MemReq} (hd : p.dst = none) (hc : n.common = p.c)
    (he : n.ends = false) (hp : p.ends = false)
    (hq : (p.release.isSome || p.acquire.isSome) = true → ∀ t ∈ cx.exec p.c, s.remoteWait t = false)
    (ha : (p.ready cx s).accessAll cx.site p.result ((cx.exec p.c).map mk) = (s1, res)) (hv : ∀ r ∈ res, r.2.Served)
    (hb : (p.ready cx s).hostBarred s1 = false) :
    (memAct p mk cx (cx.exec n.common) s).out n s cx = .next ((s1.acquireAt cx.site (cx.widens s p.acquire)).goOnRun cx.run p.c) := by
  have hw : p.who (cx.exec p.c) = cx.exec p.c := by
    rw [MemPlan.who, hd]
    rfl
  rw [hc, memAct_served hq (hw.symm ▸ ha) hv hb, MemPlan.bind, hd, hp]
  simp only [Act.out, he, hc, Bool.false_eq_true, if_false]

/-! LD and LDC. -/

section ldc
variable {lr : Bool} {base : BitVec 64}

/-- The checks of an offset that is aligned and inside leave what is found of the access itself (R83, R86). -/
theorem offset_inside {x n limit : Nat} {o : Option Trap} (ha : x % n = 0) (hi : x + n ≤ limit) :
    (if x % n != 0 then some misaligned else if x + n > limit then some accessViolation else o) = o := by
  rw [ha, if_neg (by decide), if_neg (Nat.not_lt.2 hi)]

/-- The need of an LDC (R88). -/
abbrev ldcNeed (c : Common) (ty : Ty) (d a : Opnd) (idx : Option Opnd) : Need :=
  { common := c, writes := [nm d ty.wide], reads := addrNames a false idx, ordered := true, afterLog := true }

theorem execLdc_memory (hl : constBase cx.launch lr = some base) (h : Clear (ldcNeed c ty d a idx) s cx)
    (hp : ∀ t ∈ cx.exec c, (effAddr cx.group t false a idx scale.toNat mc.offset).toNat % ty.size = 0 ∧
      (effAddr cx.group t false a idx scale.toNat mc.offset).toNat + ty.size ≤ constLimit cx.launch.lr lr ∧
      accessTrap s cx true (constReq base ty t (effAddr cx.group t false a idx scale.toNat mc.offset)) = none)
    (ha : s.accessAll cx.site true ((if d.isUni then (cx.exec c).take 1 else cx.exec c).map (fun t =>
      constReq base ty t (effAddr cx.group t false a idx scale.toNat mc.offset))) = (s1, res))
    (hv : ∀ r ∈ res, ∃ x, r.2 = .val x) (hb : s.hostBarred s1 = false)
    (hs : s1.launched cx c { dst := some (d, ty.wide), vals := valsOf res } = some s') :
    execLdc c ty lr scale d a idx mc s = .next s' := by
  unfold execLdc
  refine (issue_clear (h.noted _) (noTrap_none cx _) (fun t ht => ?_) _).trans ?_
  · obtain ⟨hal, hin, hx⟩ := hp t ht
    dsimp only
    rw [offset_inside hal hin, hl]
    exact hx
  · dsimp only
    rw [hl]
    exact memAct_launched rfl rfl rfl (fun hi => nomatch hi) ha hv hb hs

/-- A record without a place in memory is read as it was admitted (log 65). -/
theorem execLdc_record (hl : constBase cx.launch lr = none) (h : Clear (ldcNeed c ty d a idx) s cx)
    (hp : ∀ t ∈ cx.exec c, (effAddr cx.group t false a idx scale.toNat mc.offset).toNat % ty.size = 0 ∧
      (effAddr cx.group t false a idx scale.toNat mc.offset).toNat + ty.size ≤ constLimit cx.launch.lr lr)
    (hs : s.launched cx c { dst := some (d, ty.wide), vals := (cx.exec c).map (fun t => (t.lane, loadValue ty
      (fieldAt cx.launch.lr.bytes (effAddr cx.group t false a idx scale.toNat mc.offset).toNat ty.size))) } = some s') :
    execLdc c ty lr scale d a idx mc s = .next s' := by
  unfold execLdc
  refine (issue_clear (h.noted _) (noTrap_none cx _) (fun t ht => ?_) _).trans ?_
  · obtain ⟨hal, hin⟩ := hp t ht
    dsimp only
    rw [offset_inside hal hin, hl]
  · dsimp only
    rw [hl]
    exact fly_launched rfl rfl hs

end ldc

/-- Settles O30: LD and LDC are their accesses, launched with what these bring; of a record without a place in memory the bytes admitted
are bound. -/
theorem loadsBindWhatTheirAccessesBring : Obligations.LoadsBindWhatTheirAccessesBring := by
  unfold Obligations.LoadsBindWhatTheirAccessesBring
  intro s cx c ty scale d a idx mc
  refine ⟨fun s1 res s' h hp hq ⟨ha, hv, hb⟩ hs => ?_, fun lr b s1 res s' hl h hp ⟨ha, hv, hb⟩ hs => ?_, fun s' hr h hp hs => ?_⟩
  · rw [exec_ld, execLd]
    refine (memOp_clear ?_ ?_).trans (memAct_launched rfl rfl rfl ?_ ha hv hb ?_)
    · exact h
    · exact hp
    · exact fun hi => hq ((acqScope_isSome mc).symm.trans hi)
    · rwa [widens_acqScope]
  · exact execLdc_memory hl h hp ha hv hb hs
  · exact execLdc_record hr h hp hs

end Sys2Proof.Machine
end

section
/-! Stores, atomics and reductions (04 R92, R93, R98-R103): performed at once, or deferred in a deterministic launch. -/

namespace Sys2Proof.Machine

variable {s s1 s' : State} {cx : Ctx} {c : Common} {ty : Ty} {op : AtomOp} {scale : BitVec 2} {d a b : Opnd} {idx : Option Opnd}
  {mc : MemCtl} {res : List (MemReq × Got)}

theorem isDet_of_ctx (h : s.ctx? = some cx) : s.isDet = cx.launch.lr.det := by rw [State.isDet, h]

/-- The need of an atomic (R98, R99). -/
abbrev atomNeed (s : State) (c : Common) (ty : Ty) (op : AtomOp) (a b : Opnd) (mc : MemCtl) (writes : List Names) (ends : Bool) : Need :=
  { common := c, writes := writes, reads := [nm a true, atomNames op ty b], ordered := true, afterLog := true, ends := ends
    hold := fun cx t => topoHold s cx (effAddr cx.group t true a none 0 mc.offset) }

/-- A thread's request of an atomic. -/
abbrev atomReq (ty : Ty) (op : AtomOp) (a b : Opnd) (mc : MemCtl) (g : Group) (t : Thread) : MemReq :=
  ⟨t.lane, vaOf (effAddr g t true a none 0 mc.offset), .atom op ty, (atomData g t op ty b).1, (atomData g t op ty b).2⟩

/-- How an atomic's accesses are ordered, and what they write. -/
abbrev atomPlan (c : Common) (ty : Ty) (mc : MemCtl) (d : Option Opnd) : MemPlan :=
  { c := c, dst := d.map (fun o => (o, ty.wide)), result := d.isSome, release := relScope mc, acquire := acqScope mc
    rp := mc.rp, ends := d.isSome }

/-- Outside a deterministic launch an atomic is its accesses. -/
theorem atomOp_performed {o : Option Opnd} {isRed : Bool} (hdet : cx.launch.lr.det = false)
    (h : Clear (atomNeed s c ty op a b mc (nmOpt o ty.wide) false) s cx)
    (hp : ∀ t ∈ cx.exec c, topoTrap s cx (effAddr cx.group t true a none 0 mc.offset) = none ∧
      (atomReq ty op a b mc cx.group t).va.toNat % ty.size = 0 ∧ accessTrap s cx o.isSome (atomReq ty op a b mc cx.group t) = none) :
    atomOp c ty op o a b mc isRed s =
      (memAct (atomPlan c ty mc o) (atomReq ty op a b mc cx.group) cx (cx.exec c) s).out
        { common := c, writes := nmOpt o ty.wide, reads := [nm a true, atomNames op ty b] } s cx := by
  unfold atomOp
  rw [isDet_of_ctx h.stands, hdet]
  simp only [Bool.false_and, Bool.and_false, Bool.false_eq_true, if_false]
  refine memOp_clear ?_ ?_
  · exact h
  · exact hp

/-- The order code of an atomic asks for a release or an acquire. -/
theorem strong_of_scope (h : ((relScope mc).isSome || (acqScope mc).isSome) = true) : mc.order ≠ .weak := by
  rw [relScope_isSome, acqScope_isSome] at h
  intro hw
  rw [hw] at h
  exact absurd h (by decide)

/-- The state in which accesses after a release are made (R97, R121). -/
theorem ready_released {p : MemPlan} (hr : p.release = relScope mc) : p.ready cx s =
    let s1 := s.releaseAt cx.site (mc.order.isRelease && s.wider mc.scope cx.block cx.run.ref)
    if p.rp then s1.promote.acquireAt cx.site true else s1 := by
  rw [MemPlan.ready, hr, widens_relScope]

theorem atomOp_goes {isRed : Bool} (hdet : cx.launch.lr.det = false) (h : Clear (atomNeed s c ty op a b mc [] false) s cx)
    (hp : ∀ t ∈ cx.exec c, topoTrap s cx (effAddr cx.group t true a none 0 mc.offset) = none ∧
      (atomReq ty op a b mc cx.group t).va.toNat % ty.size = 0 ∧ accessTrap s cx false (atomReq ty op a b mc cx.group t) = none)
    (hq : mc.order ≠ .weak → ∀ t ∈ cx.exec c, s.remoteWait t = false)
    (ha : ((atomPlan c ty mc none).ready cx s).accessAll cx.site false ((cx.exec c).map (atomReq ty op a b mc cx.group)) = (s1, res))
    (hv : ∀ r ∈ res, ∃ x, r.2 = .val x) (hb : ((atomPlan c ty mc none).ready cx s).hostBarred s1 = false) :
    atomOp c ty op none a b mc isRed s =
      .next ((s1.acquireAt cx.site (mc.order.isAcquire && s.wider mc.scope cx.block cx.run.ref)).goOnRun cx.run c) := by
  rw [← widens_acqScope]
  exact (atomOp_performed (o := none) hdet h hp).trans
    (memAct_goes rfl rfl rfl rfl (fun hi => hq (strong_of_scope hi)) ha (served_of_val hv) hb)

theorem atomOp_launched {isRed : Bool} (hdet : cx.launch.lr.det = false)
    (h : Clear (atomNeed s c ty op a b mc [nm d ty.wide] false) s cx)
    (hp : ∀ t ∈ cx.exec c, topoTrap s cx (effAddr cx.group t true a none 0 mc.offset) = none ∧
      (atomReq ty op a b mc cx.group t).va.toNat % ty.size = 0 ∧ accessTrap s cx true (atomReq ty op a b mc cx.group t) = none)
    (hq : mc.order ≠ .weak → ∀ t ∈ cx.exec c, s.remoteWait t = false)
    (ha : ((atomPlan c ty mc (some d)).ready cx s).accessAll cx.site true
      (((atomPlan c ty mc (some d)).who (cx.exec c)).map (atomReq ty op a b mc cx.group)) = (s1, res))
    (hv : ∀ r ∈ res, ∃ x, r.2 = .val x) (hb : ((atomPlan c ty mc (some d)).ready cx s).hostBarred s1 = false)
    (hs : (s1.acquireAt cx.site (mc.order.isAcquire && s.wider mc.scope cx.block cx.run.ref)).launched cx c
      { dst := some (d, ty.wide), vals := valsOf res, ends := true } = some s') :
    atomOp c ty op (some d) a b mc isRed s = .next s' := by
  rw [← widens_acqScope] at hs
  exact (atomOp_performed (o := some d) hdet h hp).trans
    (memAct_launched rfl rfl rfl (fun hi => hq (strong_of_scope hi)) ha hv hb hs)

/-- The state in which a deterministic launch defers its atomics: after the release, the promotion and the acquire (R97, R121). -/
def detReady (cx : Ctx) (mc : MemCtl) (s : State) : State :=
  let s1 := s.releaseAt cx.site (mc.order.isRelease && s.wider mc.scope cx.block cx.run.ref)
  let s2 := if mc.rp then s1.promote else s1
  s2.acquireAt cx.site (mc.order.isAcquire && s2.wider mc.scope cx.block cx.run.ref)

/-- Entries are placed while the block's share and the threads' sequence numbers allow (R101, R102). -/
theorem detAct_places {hash : Bool} {mk : Thread → MemReq} {ex : List Thread}
    (hu : cx.block.detUsed + ex.length ≤ detShare cx.launch.lr) (hn : ∀ t ∈ ex, t.seq + 1 < 2 ^ 24) :
    ∃ s1, detAct hash op ty mk cx ex s = .done s1 := by
  have hf : ex.filter (fun t => decide (t.seq + 1 > 2 ^ 24 - 1)) = [] :=
    List.filter_eq_nil_iff.2 fun t ht => by have := hn t ht; simp only [decide_eq_true_eq]; omega
  unfold detAct
  rw [if_neg (Nat.not_lt.2 hu), hf]
  exact ⟨_, rfl⟩

/-- In a deterministic launch an atomic or a reduction places its entries in the flush log. -/
theorem atomOp_deferred {isRed : Bool} (hdet : cx.launch.lr.det = true) (h : Clear (atomNeed s c ty op a b mc [] isRed) s cx)
    (hu : cx.block.detUsed + (cx.exec c).length ≤ detShare cx.launch.lr) (hn : ∀ t ∈ cx.exec c, t.seq + 1 < 2 ^ 24)
    (hp : ∀ t ∈ cx.exec c, topoTrap s cx (effAddr cx.group t true a none 0 mc.offset) = none ∧
      (vaOf (effAddr cx.group t true a none 0 mc.offset)).toNat % ty.size = 0 ∧
      aperture (vaOf (effAddr cx.group t true a none 0 mc.offset)).toNat = none)
    (hq : mc.order ≠ .weak → ∀ t ∈ cx.exec c, s.remoteWait t = false) :
    ∃ s1, detAct mc.hash op ty (atomReq ty op a b mc cx.group) cx (cx.exec c) (detReady cx mc s) = .done s1 ∧
      atomOp c ty op none a b mc isRed s =
        .next ((if isRed then s1.endRegion cx.run.ref (lanesOf ((cx.exec c).map (·.lane))) else s1).goOnRun cx.run c) := by
  obtain ⟨s1, hs⟩ := detAct_places (s := detReady cx mc s) (mk := atomReq ty op a b mc cx.group) hu hn
  refine ⟨s1, hs, ?_⟩
  have hw : (((relScope mc).isSome || (acqScope mc).isSome) && (cx.exec c).any s.remoteWait) = false := by
    cases ho : (relScope mc).isSome || (acqScope mc).isSome
    · rfl
    · exact any_none (hq (strong_of_scope ho))
  unfold atomOp
  rw [isDet_of_ctx h.stands, hdet]
  simp only [Bool.true_and, Bool.and_true, if_true]
  refine (issue_clear h (fun t ht => (hp t ht).1) (fun t ht => ?_) _).trans ?_
  · obtain ⟨-, hal, hap⟩ := hp t ht
    rw [hal, hap]
    rfl
  · refine (congrArg (Act.out _ s cx) (?_ : _ = Act.done s1)).trans rfl
    dsimp only
    rw [hw, if_neg (by decide), ← hs]
    refine congrArg (detAct _ _ _ _ _ _) ?_
    unfold detReady relScope acqScope
    cases mc.order.isRelease <;> cases mc.order.isAcquire <;> rfl

/-- Settles O31: a store, an atomic without a destination and one with it are their accesses; in a deterministic launch the entries are
placed. -/
theorem storesAndAtomicsPerformTheirAccesses : Obligations.StoresAndAtomicsPerformTheirAccesses := by
  unfold Obligations.StoresAndAtomicsPerformTheirAccesses
  intro s cx c ty op scale d a b idx mc
  refine ⟨fun s1 res h hp hq ha hv hb => ?_, fun s1 res hdet h hp hq ha hv hb => ⟨?_, ?_⟩,
    fun s1 res s' hdet hd h hp hq ha hv hb hs => ?_, fun hdet hu hn hp hq => ⟨fun h => ?_, fun h => ?_⟩⟩
  · rw [exec_st, execSt]
    refine (memOp_clear ?_ ?_).trans (memAct_goes rfl rfl rfl rfl ?_ ?_ (served_of_done hv) ?_)
    · exact h
    · exact hp
    · exact fun hi => hq ((relScope_isSome mc).symm.trans ((Bool.or_false _).symm.trans hi))
    · rwa [ready_released rfl]
    · rwa [ready_released rfl]
  · rw [exec_atom, execAtom, if_pos (by decide)]
    refine atomOp_goes hdet h hp hq ?_ hv ?_
    all_goals rwa [ready_released rfl]
  · rw [exec_red, execRed]
    refine atomOp_goes hdet h hp hq ?_ hv ?_
    all_goals rwa [ready_released rfl]
  · rw [exec_atom, execAtom, if_neg (by simpa using hd)]
    refine atomOp_launched hdet h hp hq ?_ hv ?_ hs
    all_goals rwa [ready_released rfl]
  · exact atomOp_deferred hdet h hu hn hp hq
  · exact atomOp_deferred hdet h hu hn hp hq

end Sys2Proof.Machine
end

section
/-! Fences and prefetches (04 R95-R97, 05 R121), and the scratchpad (04 R88, R90, R94, 06 R141). -/

namespace Sys2Proof.Machine

variable {s : State} {cx : Ctx} {c : Common}

theorem execFence_clear {rp : Bool} {scope : Scope} {order : Order}
    (h : Clear { common := c, ordered := true, afterLog := true } s cx) (hq : ∀ t ∈ cx.exec c, s.remoteWait t = false) :
    execFence c rp scope order s = .next
      (let wide := s.wider scope cx.block cx.run.ref
      let s1 := if order.isRelease then s.releaseAt cx.site wide else s
      let s2 := if rp then s1.promote else s1
      (if order.isAcquire then s2.acquireAt cx.site wide else s2).goOnRun cx.run c) := by
  unfold execFence
  refine issue_done h rfl ?_
  dsimp only
  rw [any_none hq, if_neg (by decide)]

/-- Settles O33: under `Clear` each of the two is its act. -/
theorem fencesAndPrefetchesComplete : Obligations.FencesAndPrefetchesComplete := by
  unfold Obligations.FencesAndPrefetchesComplete
  intro s cx c rp slice scope order a idx off
  refine ⟨fun h hq => execFence_clear h hq, fun h => ?_⟩
  rw [exec_pref, execPref]
  exact issue_done h rfl rfl

/-! The scratchpad. -/

theorem overScratch_unhurt (hd : s.damage = []) (l b ea n : Nat) : s.overScratch l b ea n = s := writeOver_unhurt hd _ _

/-- With no error in the storage a store changes the block's bytes alone (R60). -/
theorem putSp_unhurt (hd : s.damage = []) (l b : Nat) (ws : List (Nat × List Byte)) :
    s.putSp l b ws = s.modBlock l b (fun x => ws.foldl (fun x w => x.put w.1 w.2) x) := by
  rw [State.putSp, List.foldl_fixed' fun w => overScratch_unhurt hd l b w.1 w.2.length]

theorem block?_of_ctx (h : s.ctx? = some cx) : s.block? cx.run.ref.launch cx.run.ref.blk = some cx.block := by
  unfold State.ctx? at h
  split at h
  · cases h
  · simp only [State.ctxOf, Option.bind_eq_bind, Option.bind_eq_some_iff, Option.some.injEq] at h
    obtain ⟨_, -, b, hb, _, -, rfl⟩ := h
    exact hb

section reads
variable {l k : Nat} {pasid : BitVec 20} {ty : Ty} {blk : Block} (hd : s.damage = []) (hb : s.block? l k = some blk)
include hd hb

theorem loadSp_sound {ea : Nat} (hp : blk.poisonedRange ea ty.size = false) :
    s.loadSp l k pasid ty ea = (s, some (loadValue ty (blk.scratch.le ea ty.size))) := by
  rw [State.loadSp, State.readSp, meetAll_unhurt hd, hb]
  simp only [hp]
  rfl

/-- What is present and not poisoned is read, and reading it changes nothing (R89). -/
theorem loadsSp_sound {ts : List Thread} {ea : Thread → Nat} (hp : ∀ t ∈ ts, blk.poisonedRange (ea t) ty.size = false) :
    s.loadsSp l k pasid ty (ts.map (fun t => (t.lane, ea t))) =
      (s, ts.map (fun t => (t.lane, some (loadValue ty (blk.scratch.le (ea t) ty.size))))) := by
  induction ts with
  | nil => rfl
  | cons t ts ih =>
    obtain ⟨h1, h2⟩ := List.forall_mem_cons.1 hp
    rw [List.map_cons, State.loadsSp, loadSp_sound hd hb h1]
    dsimp only
    rw [ih h2]
    rfl

end reads

theorem join_lookup_map {α : Type} {f : α → Nat} {v : α → BitVec 64} (l : List α) (i : Nat) :
    ((l.map (fun x => (f x, some (v x)))).lookup i).join = (l.map (fun x => (f x, v x))).lookup i := by
  induction l with
  | nil => rfl
  | cons x l ih =>
    rw [List.map_cons, List.map_cons, List.lookup_cons, List.lookup_cons]
    split
    · rfl
    · exact ih

theorem acquireAt_if (b wide : Bool) (w : Site) : (if b then s.acquireAt w wide else s) = s.acquireAt w (b && wide) := by
  cases b <;> rfl

theorem releaseAt_if (b wide : Bool) (w : Site) : (if b then s.releaseAt w wide else s) = s.releaseAt w (b && wide) := by
  cases b <;> rfl

variable {ty : Ty} {scale : BitVec 2} {d a : Opnd} {idx : Option Opnd} {mc : MemCtl}

/-- The offset in the scratchpad that a thread names (R82). -/
abbrev spOff (g : Group) (scale : BitVec 2) (a : Opnd) (idx : Option Opnd) (mc : MemCtl) (t : Thread) : Nat :=
  (effAddr g t false a idx scale.toNat mc.offset).toNat

theorem spTrap_inside {x : BitVec 64} {n : Nat} (h : x.toNat % n = 0 ∧ x.toNat + n ≤ cx.launch.lr.scratchBytes) :
    spTrap cx x n = none := offset_inside h.1 h.2

/-- Where a line is present and no earlier store of the thread in flight, its words are sound. -/
def SpReady (s : State) (cx : Ctx) (ty : Ty) (lane ea : Nat) : Prop :=
  cx.block.lineAbsent (ea / 128) = true ∨ stspAhead s.inflight cx.run.ref lane ea ty.size = true ∨
    cx.block.poisonedRange ea ty.size = false

/-- A lane that is not parked reads sound words. -/
theorem SpReady.sound {lane ea : Nat} (h : SpReady s cx ty lane ea) (hp : parked s cx ty lane ea = false) :
    cx.block.poisonedRange ea ty.size = false := by
  simp only [parked, spLine, Bool.or_eq_false_iff] at hp
  obtain ⟨⟨⟨ha, -⟩, -⟩, hs⟩ := hp
  rcases h with h | h | h
  · exact absurd (ha.symm.trans h) (by decide)
  · exact absurd (hs.symm.trans h) (by decide)
  · exact h

/-- No thread that an LDSP would serve meets poison. -/
theorem ldspCheck_none {lane ea : Nat} (hd : s.damage = []) (hc : s.ctx? = some cx) (h : SpReady s cx ty lane ea) :
    (!cx.block.lineAbsent (spLine ea) && !stspAhead s.inflight cx.run.ref lane ea ty.size &&
      (s.loadsSp cx.run.ref.launch cx.run.ref.blk cx.launch.pasid ty [(lane, ea)]).2.any (·.2.isNone)) = false := by
  rcases h with h | h | h
  · rw [spLine, h]
    rfl
  · rw [h, Bool.not_true, Bool.and_false, Bool.false_and]
  · simp only [State.loadsSp, loadSp_sound hd (block?_of_ctx hc) h]
    exact Bool.and_false _

/-- An LDSP whose offsets are inside: the lanes that are not parked are written what they read, and the others go in flight. -/
theorem execLdsp_clear (h : Clear { common := c, writes := [nm d ty.wide], reads := addrNames a false idx, ordered := true } s cx)
    (hq : mc.order.isAcquire = true → ∀ t ∈ cx.exec c, s.remoteWait t = false)
    (hi : ∀ t ∈ cx.exec c, (spOff cx.group scale a idx mc t % ty.size = 0 ∧
      spOff cx.group scale a idx mc t + ty.size ≤ cx.launch.lr.scratchBytes) ∧
        SpReady s cx ty t.lane (spOff cx.group scale a idx mc t)) :
    execLdsp c ty scale d a idx mc s =
      (let who := if d.isUni then (cx.exec c).take 1 else cx.exec c
      let wait := who.filter (fun t => parked s cx ty t.lane (spOff cx.group scale a idx mc t))
      let now := who.filter (fun t => !parked s cx ty t.lane (spOff cx.group scale a idx mc t))
      let vals := now.map (fun t => (t.lane, loadValue ty (cx.block.scratch.le (spOff cx.group scale a idx mc t) ty.size)))
      let s1 := s.writeAll cx.run.ref now (fun t => [⟨d, ty.wide, (vals.lookup t.lane).getD 0⟩])
      let s2 := s1.acquireAt cx.site (mc.order.isAcquire && s1.wider mc.scope cx.block cx.run.ref)
      let lines := ((wait.map (fun t => spOff cx.group scale a idx mc t / 128)).filter cx.block.lineAbsent).eraseDups
      Act.out { common := c } s cx (if wait.isEmpty then .done s2 else
        match s2.fly cx c (lanesOf (wait.map (·.lane)))
            { dst := some (d, ty.wide), wait := .ldsp ty lines (wait.map (fun t => (t.lane, spOff cx.group scale a idx mc t)))
              fences := mc.order.isAcquire, acq := if mc.order.isAcquire then some mc.scope else none } with
        | some (_, u) => .done (u.settle cx.run.ref.launch cx.run.ref.blk [] u.inflight)
        | none => .stall)) := by
  have hw : (mc.order.isAcquire && (cx.exec c).any s.remoteWait) = false := by
    cases ho : mc.order.isAcquire
    · rfl
    · exact any_none (hq ho)
  have hn : ∀ t ∈ (if d.isUni then (cx.exec c).take 1 else cx.exec c).filter
      (fun t => !parked s cx ty t.lane (spOff cx.group scale a idx mc t)),
      cx.block.poisonedRange (spOff cx.group scale a idx mc t) ty.size = false := by
    intro t ht
    obtain ⟨hm, hp⟩ := List.mem_filter.1 ht
    have hx : t ∈ cx.exec c := by
      split at hm
      · exact List.mem_of_mem_take hm
      · exact hm
    exact (hi t hx).2.sound (by simpa using hp)
  unfold execLdsp
  refine (issue_clear (h.noted _) (noTrap_none cx _) (fun t ht => ?_) _).trans ?_
  · obtain ⟨hin, hs⟩ := hi t ht
    dsimp only
    rw [spTrap_inside hin, ldspCheck_none h.unhurt h.stands hs]
    rfl
  · dsimp only
    rw [hw, if_neg (by decide), loadsSp_sound h.unhurt (block?_of_ctx h.stands) hn]
    simp only [join_lookup_map, acquireAt_if]
    rfl

/-- An STSP whose offsets are inside: it stores where every line is present and nothing of its threads is ahead of it, and goes in flight
where not. -/
theorem execStsp_clear
    (h : Clear { common := c, reads := nm d ty.wide :: addrNames a false idx, ordered := true, afterLog := mc.order.isRelease } s cx)
    (hq : mc.order.isRelease = true → ∀ t ∈ cx.exec c, s.remoteWait t = false)
    (hi : ∀ t ∈ cx.exec c, spOff cx.group scale a idx mc t % ty.size = 0 ∧
      spOff cx.group scale a idx mc t + ty.size ≤ cx.launch.lr.scratchBytes) :
    execStsp c ty scale d a idx mc s =
      (let u := s.releaseAt cx.site (mc.order.isRelease && s.wider mc.scope cx.block cx.run.ref)
      let ea := spOff cx.group scale a idx mc
      let data := (cx.exec c).map (fun t => (t.lane, ea t, readOp cx.group t 0 .uint ty.wide d))
      let lines := (((cx.exec c).map (fun t => ea t / 128)).filter cx.block.lineAbsent).eraseDups
      Act.out { common := c } s cx (
        if lines.isEmpty && !(cx.exec c).any (fun t => stspAhead u.inflight cx.run.ref t.lane (ea t) ty.size
            || ldspAhead u.inflight cx.run.ref t.lane (ea t) ty.size) then
          .done (u.putSp cx.run.ref.launch cx.run.ref.blk (data.map (fun x => (x.2.1, leBytes x.2.2.toNat ty.size))))
        else match u.fly cx c (lanesOf ((cx.exec c).map (·.lane))) { wait := .stsp ty.size lines data } with
          | some (_, u) => .done u
          | none => .stall)) := by
  have hw : (mc.order.isRelease && (cx.exec c).any s.remoteWait) = false := by
    cases ho : mc.order.isRelease
    · rfl
    · exact any_none (hq ho)
  unfold execStsp
  refine (issue_clear h (noTrap_none cx _) (fun t ht => spTrap_inside (hi t ht)) _).trans ?_
  dsimp only
  rw [hw, if_neg (by decide), releaseAt_if, List.map_map, List.any_map]
  rfl

/-- What has gone in flight is what the act answers. -/
theorem act_flown {o : Option (Nat × State)} {id : Nat} {u : State} (f : State → State) (h : o = some (id, u)) :
    (match o with
      | some (_, u) => Act.done (f u)
      | none => .stall) = .done (f u) := by rw [h]

/-- Settles O32: LDSP and STSP are their acts under `Clear`, of which the conditions on the lines choose the branch. -/
theorem scratchpadAccessesComplete : Obligations.ScratchpadAccessesComplete := by
  unfold Obligations.ScratchpadAccessesComplete
  intro s cx c ty scale d a idx mc ex r ea inside data absent who now wait vals s1 s2
  refine ⟨fun h hq hi => ?_, fun h hq hi u hu => ⟨fun hp => ?_, fun ha s' hs => ?_⟩, fun l b ws hd => putSp_unhurt hd l b ws⟩
  · have hx := execLdsp_clear (scale := scale) h hq hi
    refine ⟨fun hw => hx.trans ?_, fun hw id s' hs => hx.trans ?_⟩
    · exact congrArg (Act.out { common := c } s cx) (if_pos (List.isEmpty_iff.2 hw))
    · exact congrArg (Act.out { common := c } s cx)
        ((if_neg (mt List.isEmpty_iff.1 hw)).trans (act_flown (fun u => u.settle r.launch r.blk [] u.inflight) hs))
  · subst hu
    refine (execStsp_clear h hq hi).trans (congrArg (Act.out { common := c } s cx) (if_pos ?_))
    have hl : (ex.map (fun t => ea t / 128)).filter cx.block.lineAbsent = [] :=
      List.filter_eq_nil_iff.2 (by simpa using fun t ht => (hp t ht).1)
    have hb : ex.any (fun t => stspAhead _ r t.lane (ea t) ty.size || ldspAhead _ r t.lane (ea t) ty.size) = false :=
      any_none fun t ht => by rw [(hp t ht).2.1, (hp t ht).2.2, Bool.or_self]
    exact Bool.and_eq_true_iff.2 ⟨congrArg (fun l => l.eraseDups.isEmpty) hl, congrArg not hb⟩
  · subst hu
    refine (execStsp_clear h hq hi).trans ?_
    have hn (b : Bool) : ¬ ((absent ex).isEmpty && b) = true := fun he => ha (List.isEmpty_iff.1 (Bool.and_eq_true_iff.1 he).1)
    exact (congrArg (Act.out { common := c } s cx) (if_neg (hn _))).trans (fly_launched rfl rfl hs)

end Sys2Proof.Machine
end

section
/-! Bytes in a line of an L1 (04 R93, R117): what a store leaves in its line, and what is read of a line that holds the bytes (03 R74). -/

namespace Sys2Proof.Machine

/-! Bits of a mask. -/

theorem getLsbD_maskBits (w off n i : Nat) :
    (maskBits w off n).getLsbD i = (decide (i < w) && (decide (off ≤ i) && decide (i - off < n))) := by
  rw [maskBits, BitVec.getLsbD_ofNat, Nat.testBit_mul_two_pow, Nat.testBit_two_pow_sub_one]

theorem getLsbD_maskBits_inside {w off n i : Nat} (hw : off + n ≤ w) (h : off ≤ i) (h' : i < off + n) :
    (maskBits w off n).getLsbD i = true := by
  rw [getLsbD_maskBits]
  simp only [Bool.and_eq_true, decide_eq_true_eq]
  omega

theorem getLsbD_maskBits_outside {w off n i : Nat} (h : i < off ∨ off + n ≤ i) : (maskBits w off n).getLsbD i = false := by
  rw [getLsbD_maskBits]
  simp only [Bool.and_eq_false_iff, decide_eq_false_iff_not]
  omega

theorem allBits_of {w : Nat} {x : BitVec w} {i n : Nat} (h : ∀ j, j < n → x.getLsbD (i + j) = true) : allBits x i n = true := by
  induction n with
  | zero => rfl
  | succ n ih => rw [allBits, h n n.lt_succ_self, ih fun j hj => h j (Nat.lt_succ_of_lt hj), Bool.and_self]

theorem and_not_and {w : Nat} (x y : BitVec w) : x &&& ~~~y &&& y = 0 := by
  ext i hi
  simp

theorem Store.bytes_congr {m k : Store 8} {a b n : Nat} (h : ∀ i, i < n → Store.get m (a + i) = Store.get k (b + i)) :
    Store.bytes m a n = Store.bytes k b n := by
  induction n generalizing a b with
  | zero => rfl
  | succ n ih =>
    rw [Store.bytes, Store.bytes, show Store.get m a = Store.get k b from h 0 n.succ_pos]
    refine congrArg _ (ih fun i hi => ?_)
    rw [Nat.add_right_comm a, Nat.add_right_comm b]
    exact h (i + 1) (Nat.succ_lt_succ hi)

/-! A store into a line. -/

section store
variable {l : L1Line} {off i : Nat} {bs : List Byte}

theorem store_bytes (h : l.bytes.wf = true) : (l.store off bs).bytes.bytes off bs.length = bs := Store.bytes_setBytes off bs h

theorem store_wf (h : l.bytes.wf = true) : (l.store off bs).bytes.wf = true := Store.setBytes_wf off bs h

theorem store_inside (hf : off + bs.length ≤ 128) (h : off ≤ i) (h' : i < off + bs.length) :
    (l.store off bs).dirty.getLsbD i = true ∧ (l.store off bs).valid.getLsbD i = true := by
  simp only [L1Line.store, BitVec.getLsbD_or, getLsbD_maskBits_inside hf h h', Bool.or_true, and_self]

theorem store_outside (h : i < off ∨ off + bs.length ≤ i) :
    (l.store off bs).bytes.get i = l.bytes.get i ∧ (l.store off bs).dirty.getLsbD i = l.dirty.getLsbD i ∧
      (l.store off bs).valid.getLsbD i = l.valid.getLsbD i := by
  simp only [L1Line.store, BitVec.getLsbD_or, getLsbD_maskBits_outside h, Bool.or_false, and_self, and_true]
  exact Store.get_setBytes_other bs h

/-- A store of whole words leaves a sound copy of its bytes (R60). -/
theorem store_holds (hf : off + bs.length ≤ 128) (h4 : 4 ≤ bs.length) : (l.store off bs).holds off bs.length = true := by
  have hv : allBits (l.store off bs).valid off bs.length = true :=
    allBits_of fun j hj => (store_inside hf (Nat.le_add_right off j) (Nat.add_lt_add_left hj off)).2
  rw [L1Line.holds, hv, Bool.true_and, beq_iff_eq, L1Line.store]
  simp only [ge_iff_le, h4, decide_true, if_true]
  exact and_not_and _ _

theorem store_poison (h4 : 4 ≤ bs.length) : (l.store off bs).poison &&& lineWords off bs.length = 0 := by
  rw [L1Line.store]
  simp only [ge_iff_le, h4, decide_true, if_true]
  exact and_not_and _ _

end store

/-! Lines of a core's L1. -/

variable {s s1 : State} {w : Site} {va pa n : Nat} {bs : List Byte} {l : L1Line}

theorem modify_modify {α : Type} {p : α → Bool} {f g : α → α} (h : ∀ x, p (g x) = p x) (l : List α) :
    modify p f (modify p g l) = modify p (fun x => f (g x)) l := by
  rw [modify, modify, modify, List.map_map]
  refine List.map_congr_left fun x _ => ?_
  by_cases hx : p x = true <;> simp [hx, h]

theorem overL1_unhurt (hd : s.damage = []) (core p : Nat) (a b : BitVec 32) : s.overL1 core p a b = s := writeOver_unhurt hd _ _
theorem overSlice_unhurt (hd : s.damage = []) (p : Nat) (a b : BitVec 32) : s.overSlice p a b = s := writeOver_unhurt hd _ _
theorem visitL1_unhurt (hd : s.damage = []) (core p off n : Nat) (pasid : BitVec 20) (why : ErrKind) :
    s.visitL1 core p off n pasid why = s := meetAll_unhurt hd _ _ _

theorem is_of_l1? {core : Nat} {pasid : BitVec 20} (h : s.l1? core pasid va = some l) : l.is core pasid va = true :=
  List.find?_some (p := fun x : L1Line => x.is core pasid va) h

theorem names_of_l1? {core : Nat} {pasid : BitVec 20} (h : s.l1? core pasid va = some l) :
    l ∈ s.l1 ∧ l.core = core ∧ l.pasid = pasid ∧ l.vline = lineOf va := by
  have hi := is_of_l1? h
  simp only [L1Line.is, Bool.and_eq_true, beq_iff_eq] at hi
  obtain ⟨⟨hc, hp⟩, hv⟩ := hi
  exact ⟨List.mem_of_find?_eq_some h, hc, hp, hv⟩

/-- A site's line under a name takes bytes: it may be written and has been seen from then on (R93, R78). -/
def L1Line.take (x : L1Line) (w : Site) (va : Nat) (bs : List Byte) : L1Line :=
  if x.is w.core w.pasid va then L1Line.store { x with wperm := true, seen := true } (va % 128) bs else x

/-- The state in which a core's line takes them. -/
def State.takeAt (s : State) (w : Site) (va p : Nat) (bs : List Byte) : State :=
  { s with l1 := modify (fun x => x.core == w.core && x.pline == p) (·.take w va bs) s.l1 }

/-- A store to a line that stands under its name changes that line alone. -/
theorem storeL1_named (hd : s.damage = []) (h : s.l1? w.core w.pasid va = some l) (hp : l.pline = lineOf pa) :
    s.storeL1 w.core w.pasid va pa bs = s.takeAt w va l.pline bs := by
  rw [State.storeL1, State.nameLine, h]
  dsimp only
  rw [overL1_unhurt (by exact hd), ← hp]
  refine congrArg (fun ls => { s with l1 := ls }) ?_
  refine (modify_modify (fun x => by split <;> rfl) _).trans ?_
  refine congrArg (modify _ · s.l1) (funext fun x => ?_)
  cases hx : x.is w.core w.pasid va
  · simp only [L1Line.take, hx, Bool.false_eq_true, if_false]
  · simp only [L1Line.take, hx, if_true, Bool.or_true]
    exact if_pos hx

theorem lineOf_add {p off : Nat} (hp : p % 128 = 0) (ho : off < 128) : lineOf (p + off) = p := by
  unfold lineOf
  omega

theorem storeAt_hit (hw : w.pip = false) (hd : s.damage = []) (h : s.l1? w.core w.pasid va = some l) (hp : l.pline % 128 = 0)
    (ho : l.wperm = true) (hs : l.seen = true) : s.storeAt w va bs = (s.takeAt w va l.pline bs, .done) := by
  rw [State.storeAt, hw, h, Option.filter_some, ho, hs]
  exact congrArg (·, Got.done) (storeL1_named hd h (lineOf_add hp (Nat.mod_lt _ (by decide))).symm)

/-- A core's load of bytes that its line holds changes nothing. -/
theorem loadL1_held {wp seen : Bool} (hd : s.damage = []) (h : s.l1? w.core w.pasid va = some l) (hh : l.holds (va % 128) n = true)
    (hp : l.poison &&& lineWords (va % 128) n = 0) :
    s.loadL1 w.core w.pasid va pa n wp seen = (s, l.bytes.bytes (va % 128) n, false) := by
  rw [State.loadL1, h]
  dsimp only
  rw [if_pos hh, visitL1_unhurt hd, h]
  dsimp only
  rw [hp]
  rfl

theorem loadPart_hit (hw : w.pip = false) (hd : s.damage = []) (h : s.l1? w.core w.pasid va = some l)
    (hh : l.holds (va % 128) n = true) (hp : l.poison &&& lineWords (va % 128) n = 0) :
    s.loadPart w va n = (s, .ok (leNat (l.bytes.bytes (va % 128) n), false)) := by
  rw [State.loadPart, hw, h, Option.filter_some, hh]
  simp only [Bool.false_eq_true, if_false, if_true, loadL1_held hd h hh hp, State.notePoison]

theorem is_of_names {x y : L1Line} (h : x.names = y.names) (core : Nat) (pasid : BitVec 20) (va : Nat) :
    x.is core pasid va = y.is core pasid va := by
  simp only [Prod.mk.injEq] at h
  obtain ⟨hc, hp, hv, -⟩ := h
  rw [L1Line.is, L1Line.is, hc, hp, hv]

/-- The line under a name, once every L1 line has changed but for its names. -/
theorem l1?_map {core : Nat} {pasid : BitVec 20} {f : L1Line → L1Line} (hn : ∀ x, (f x).names = x.names)
    (hl : s1.l1 = s.l1.map f) : s1.l1? core pasid va = (s.l1? core pasid va).map f := by
  rw [State.l1?, hl, List.find?_map]
  exact congrArg (Option.map f <| s.l1.find? ·) (funext fun x => is_of_names (hn x) core pasid va)

/-- The line under a name, once the core's lines of its place have changed but for their names. -/
theorem l1?_modL1 {core : Nat} {pasid : BitVec 20} {f : L1Line → L1Line} (hn : ∀ x, (f x).names = x.names)
    (h : s.l1? core pasid va = some l) : (s.modL1 core l.pline f).l1? core pasid va = some (f l) := by
  have hk (x : L1Line) : (if x.core == core && x.pline == l.pline then f x else x).names = x.names := by
    split
    · exact hn x
    · rfl
  rw [l1?_map hk rfl, h, Option.map_some, if_pos]
  simp [(names_of_l1? h).2.1]

theorem names_take (x : L1Line) : (x.take w va bs).names = x.names := by
  unfold L1Line.take
  split <;> rfl

/-- The line under the name of what was stored, if it had one. -/
theorem l1?_takeAt (h : s.l1? w.core w.pasid va = some l) : (s.takeAt w va l.pline bs).l1? w.core w.pasid va =
    some (L1Line.store { l with wperm := true, seen := true } (va % 128) bs) := by
  refine (l1?_modL1 names_take h).trans ?_
  rw [L1Line.take, if_pos (is_of_l1? h)]

/-- A full aligned store is read back by the next load (R93). -/
theorem loadPart_stored (hw : w.pip = false) (hd : s.damage = [])
    (h : s.l1? w.core w.pasid va = some (l.store (va % 128) bs)) (hl : l.bytes.wf = true)
    (hf : va % 128 + bs.length ≤ 128) (h4 : 4 ≤ bs.length) : s.loadPart w va bs.length = (s, .ok (leNat bs, false)) := by
  rw [loadPart_hit hw hd h (store_holds hf h4) (store_poison h4), store_bytes hl]

/-- A line that nothing is held of. -/
def blankLine (w : Site) (va pa : Nat) (ok d : Bool) : L1Line :=
  ⟨w.core, w.pasid, lineOf va, lineOf pa, [], 0, 0, 0, 0, 0, ok, d⟩

end Sys2Proof.Machine
end

section
/-! Memory beside an access: bringing a line into its home slice leaves that line's bytes, in memory and in every L1, as they were (02
R54, R55). -/

namespace Sys2Proof.Machine

variable {s t u : State} {l : L1Line} {P Q a : Nat} {ws : BitVec 32}

/-- What every step of a fold keeps, the fold keeps. -/
theorem foldl_keeps {α β : Type} (g : State → β) {f : State → α → State} {xs : List α} (hf : ∀ s, ∀ x ∈ xs, g (f s x) = g s)
    (s : State) : g (xs.foldl f s) = g s := by
  induction xs generalizing s with
  | nil => rfl
  | cons x xs ih =>
    exact (ih (fun s y hy => hf s y (List.mem_cons_of_mem _ hy)) _).trans (hf s x (List.mem_cons_self ..))

/-! The words of a line that are written home change neither the L1 lines nor another line of memory. -/

theorem spoil_l1 (pa : Nat) : (s.spoil pa).l1 = s.l1 := by
  unfold State.spoil
  split <;> rfl

theorem spoil_mem (pa : Nat) : (s.spoil pa).mem = s.mem := by
  unfold State.spoil
  split <;> rfl

theorem wordHome_l1 (w : Nat) : (s.wordHome l w).l1 = s.l1 := by
  unfold State.wordHome
  dsimp only
  split
  · split
    · exact spoil_l1 _
    · rfl
  · refine foldl_keeps (·.l1) (fun s j _ => ?_) s
    split <;> rfl

theorem putHome_get {pa : Nat} {bs : List Byte} (h : a < pa ∨ pa + bs.length ≤ a) :
    (s.putHome pa bs).mem.get a = s.mem.get a := Store.get_setBytes_other bs h

theorem wordHome_get {w : Nat} (hw : w < 32) (hp : l.pline % 128 = 0) (ha : lineOf a ≠ l.pline) :
    (s.wordHome l w).mem.get a = s.mem.get a := by
  have hout : a < l.pline ∨ l.pline + 128 ≤ a := by
    by_contra hc
    exact ha (line_eq hp (by omega) (by omega))
  unfold State.wordHome
  dsimp only
  split
  · have hb : (s.putHome (l.pline + 4 * w) (l.bytes.bytes (4 * w) 4)).mem.get a = s.mem.get a :=
      putHome_get (by simp only [Store.bytes, List.length_cons, List.length_nil]; omega)
    split
    · rw [spoil_mem, hb]
    · exact hb
  · refine foldl_keeps (fun s => s.mem.get a) (fun s j hj => ?_) s
    have hj4 : j < 4 := List.mem_range.1 hj
    split
    · exact putHome_get (by simp only [List.length_cons, List.length_nil]; omega)
    · rfl

theorem wordsHome_l1 (hd : s.damage = []) : (s.wordsHome l ws).l1 = s.l1 := by
  unfold State.wordsHome
  rw [overSlice_unhurt hd]
  refine foldl_keeps (·.l1) (fun s w _ => ?_) s
  split
  · exact wordHome_l1 w
  · rfl

theorem wordsHome_get (hd : s.damage = []) (hp : l.pline % 128 = 0) (ha : lineOf a ≠ l.pline) :
    (s.wordsHome l ws).mem.get a = s.mem.get a := by
  unfold State.wordsHome
  rw [overSlice_unhurt hd]
  refine foldl_keeps (fun s => s.mem.get a) (fun s w hw => ?_) s
  split
  · exact wordHome_get (List.mem_range.1 hw) hp ha
  · rfl

/-- The physical lines of a state's L1 lines stand on multiples of 128 bytes. -/
abbrev State.OnLines (s : State) : Prop := ∀ x ∈ s.l1, x.pline % 128 = 0

theorem State.OnLines.names (h : s.OnLines) : Machine.OnLines (s.l1.map (·.names)) := fun _ hm => by
  obtain ⟨x, hx, rfl⟩ := List.mem_map.1 hm
  exact h x hx

/-- A state without an error, of whose soundness nothing is said. -/
theorem Apart.unsaid (hd : s.damage = []) : Apart (s.l1.map (·.names)) s.mem False s := .start s hd fun h => h.elim

/-! A line that is left alone. -/

/-- From one state to another a line's bytes in main memory and its lines in the L1s are as they were, and every L1 line keeps its names. -/
structure Beside (P : Nat) (s t : State) : Prop where
  mem : ∀ a, lineOf a = P → t.mem.get a = s.mem.get a
  lines : ∃ f : L1Line → L1Line, (∀ x, (f x).names = x.names) ∧ (∀ x, x.pline = P → f x = x) ∧ t.l1 = s.l1.map f

theorem Beside.of_eq (hm : t.mem = s.mem) (hl : t.l1 = s.l1) : Beside P s t :=
  ⟨fun _ _ => by rw [hm], id, fun _ => rfl, fun _ _ => rfl, by rw [hl, List.map_id]⟩

theorem Beside.trans (h : Beside P s t) (h' : Beside P t u) : Beside P s u := by
  obtain ⟨hm, f, hn, hf, hl⟩ := h
  obtain ⟨hm', f', hn', hf', hl'⟩ := h'
  refine ⟨fun a ha => (hm' a ha).trans (hm a ha), fun x => f' (f x), fun x => (hn' _).trans (hn x), fun x hx => ?_, ?_⟩
  · exact (congrArg f' (hf x hx)).trans (hf' x hx)
  · rw [hl', hl, List.map_map]
    rfl

/-- A change of the lines of another place in one core's L1. -/
theorem Beside.modL1 {core : Nat} {f : L1Line → L1Line} (hn : ∀ x, (f x).names = x.names) (hq : Q ≠ P) :
    Beside P s (s.modL1 core Q f) := by
  refine ⟨fun _ _ => rfl, fun x => if x.core == core && x.pline == Q then f x else x, fun x => ?_, fun x hx => if_neg ?_, rfl⟩
  · dsimp only
    split
    · exact hn x
    · rfl
  · simp [hx, hq.symm]

theorem Beside.modSlice (h : Beside P s t) {f : SliceLine → SliceLine} : Beside P s (t.modSlice Q f) := h.trans (.of_eq rfl rfl)

/-- Recalling the words of another line, or of this one where its owner holds no L1 line of it, leaves the line alone. -/
theorem Beside.recallWords (hd : s.damage = []) (hp : s.OnLines)
    (hq : Q ≠ P ∨ ∀ y, s.slices.find? (·.line == Q) = some y → ∀ x ∈ s.l1, x.pline = Q → y.owner ≠ some x.core) :
    Beside P s (s.recallWords Q ws) := by
  unfold State.recallWords
  split
  · exact .of_eq rfl rfl
  next y hy =>
    split
    · exact .of_eq rfl rfl
    next o ho =>
      dsimp only
      rw [visitL1_unhurt hd]
      split
      · exact .of_eq rfl rfl
      · refine Beside.modSlice ?_
        split
        · exact .of_eq rfl rfl
        next l hl =>
          have hm := List.mem_of_find?_eq_some hl
          have hi := List.find?_some hl
          simp only [Bool.and_eq_true, beq_iff_eq] at hi
          obtain ⟨rfl, rfl⟩ := hi
          have hne : l.pline ≠ P := hq.elim id fun h => absurd ho (h y hy l hm rfl)
          refine Beside.trans ⟨fun a ha => wordsHome_get hd (hp l hm) (ha ▸ hne.symm), ?_⟩ (.modL1 (fun _ => rfl) hne)
          exact ⟨id, fun _ => rfl, fun _ _ => rfl, by rw [wordsHome_l1 hd, List.map_id]⟩

theorem Beside.evictSlice (hd : s.damage = []) (hp : s.OnLines) (hq : Q ≠ P) :
    Beside P s (s.evictSlice Q) := by
  unfold State.evictSlice
  generalize BitVec.allOnes 32 = ws
  rw [meetAll_unhurt ((Apart.unsaid hd).recallWords hp.names Q ws).unhurt]
  refine Beside.trans (.recallWords (ws := ws) hd hp (.inl hq)) ?_
  dsimp only
  split <;> exact .of_eq rfl rfl

/-- Bringing a line into its home slice evicts another, if any. -/
theorem Beside.touchSlice (hd : s.damage = []) (hp : s.OnLines) (pasid : BitVec 20) (why : ErrKind) :
    Beside P s (s.touchSlice P pasid why) := by
  have made {t : State} (h : t.damage = [] ∧ Beside P s t) (b : List SliceLine) :
      Beside P s { t.meetAll pasid why (ErrPlace.inHalf P) with slices := b } := by
    rw [meetAll_unhurt h.1]
    exact h.2.trans (.of_eq rfl rfl)
  have hs (n : Nat) : ({ s with freeCtr := n } : State).damage = [] ∧ Beside P s { s with freeCtr := n } := ⟨hd, .of_eq rfl rfl⟩
  unfold State.touchSlice
  split
  · exact .of_eq rfl rfl
  next hn =>
    dsimp only
    refine made ?_ _
    split
    · exact hs s.freeCtr
    · split
      · exact hs s.freeCtr
      · simp only [State.choose]
        split
        next x hx =>
          have hm := (List.mem_filter.1 (List.mem_filter.1 (List.mem_of_getElem? hx)).1).1
          have hne : x.line ≠ P := fun he => hn (List.any_eq_true.2 ⟨x, hm, beq_iff_eq.2 he⟩)
          exact ⟨(((Apart.unsaid hd).counted (s.freeCtr + 1)).evictSlice hp.names x.line).unhurt,
            (hs (s.freeCtr + 1)).2.trans (.evictSlice hd hp hne)⟩
        · exact hs (s.freeCtr + 1)

/-- A read within a line brings in that line alone. -/
theorem visit_within {pa n : Nat} (hd : s.damage = []) (hp : s.OnLines) (h0 : 0 < n) (hn : pa % 128 + n ≤ 128)
    (pasid : BitVec 20) (why : ErrKind) : s.visit pa n pasid why = s.touchSlice (lineOf pa) pasid why := by
  have hk : min n (128 - pa % 128) = n := by omega
  rw [State.visit, State.visitLines, if_neg h0.ne']
  dsimp only
  rw [hk, meetAll_unhurt ((Apart.unsaid hd).touchSlice hp.names _ _ _).unhurt, Nat.sub_self, State.visitLines, if_pos rfl]

/-! What the parts of an access come to, in the terms of `Apart`. -/

section apart
variable {ns ns' : List (Nat × BitVec 20 × Nat × Nat)} {m : Memory} {sound : Prop} {w : Site} {va pa n core : Nat}

theorem Apart.mono (h : Apart ns m sound s) (hs : ∀ p ∈ ns, p ∈ ns') : Apart ns' m sound s :=
  ⟨h.unhurt, fun x hx => hs _ (h.lines x hx), fun a ha => h.same a fun p hp => ha p (hs p hp), h.home, h.slices, h.l1⟩

/-- A sound line that is new. -/
theorem Apart.addLine (h : Apart ns m sound s) (hl : l.poison = 0) : Apart (l.names :: ns) m sound { s with l1 := l :: s.l1 } := by
  obtain ⟨hu, hn, hm, hh, hsl, h1⟩ := h.mono (ns' := l.names :: ns) fun p hp => List.mem_cons_of_mem _ hp
  exact ⟨hu, List.forall_mem_cons.2 ⟨List.mem_cons_self .., hn⟩, hm, hh, hsl, fun c => List.forall_mem_cons.2 ⟨hl, h1 c⟩⟩

theorem Apart.sameLine (h : Apart ns m sound s) (ha : OnLines ns) : Apart ns m sound (s.sameLine w va pa) := by
  unfold State.sameLine
  split
  · split
    · exact h
    · exact h.dropLine ha _
  · exact h

theorem Apart.pushOwn (h : Apart ns m sound s) (ha : OnLines ns) : Apart ns m sound (s.pushOwn core P ws) := by
  unfold State.pushOwn
  rw [meetAll_unhurt h.unhurt]
  dsimp only
  split
  · exact h
  next l hl =>
    split
    · exact h
    · have hn := h.lines l (List.mem_of_find?_eq_some hl)
      exact h.wordsHome _ hn (ha _ hn) fun c => h.l1 c l (List.mem_of_find?_eq_some hl)

theorem Apart.takeWords (h : Apart ns m sound s) : Apart ns m sound (s.takeWords core P ws) := by
  rw [State.takeWords, overL1_unhurt h.unhurt]
  exact h.copyWords ..

theorem Apart.forget (h : Apart ns m sound s) : Apart ns m sound (s.forget core P ws) := by
  refine (h.modL1 core P (·.without ws) (fun _ => rfl) fun _ x hx => ?_).modSlice P _ fun x => ?_
  · simp [L1Line.without, hx]
  · split <;> rfl

theorem Apart.homeWords (h : Apart ns m sound s) (ha : OnLines ns) : Apart ns m sound (s.homeWords w pa ws) :=
  ((((((h.touchSlice ha _ _ _).recallOther ha _ _ _).pushOwn ha).forget).noteUse _ _).predicted _ _ _)

theorem Apart.settlePeek (h : Apart ns m sound s) (ha : OnLines ns) : Apart ns m sound (s.settlePeek w va pa n) := by
  unfold State.settlePeek
  dsimp only
  split
  · exact (h.touchSlice ha _ _ _).recallWords ha _ _
  · split
    · exact h.homeWords ha
    · split
      · exact ((h.pushOwn ha).takeWords).noteUse _ _
      · exact (((((h.touchSlice ha _ _ _).recallOther ha _ _ _).pushOwn ha).takeWords).noteUse _ _).predicted _ _ _

/-- In sound storage no word of a range is poisoned. -/
theorem Apart.poisonedRange (h : Apart ns m True s) (pa n : Nat) : s.poisonedRange pa n = false :=
  any_none fun a _ => h.poisonedHome trivial a

end apart

end Sys2Proof.Machine
end

section
/-! Accesses of main memory by one thread (04 R84, R89, R91, R93, 05 R127): stores and loads in the L1 and at home. -/

namespace Sys2Proof.Machine

variable {s s1 t z : State} {w : Site} {va pa n : Nat} {bs : List Byte} {l : L1Line} {wp seen : Bool}

/-- Some L1 holds a line of an address. -/
def State.InL1 (s : State) (a : Nat) : Prop := ∃ x ∈ s.l1, x.pline = lineOf a

/-- What is apart from a state's own L1 lines reads as it did where no L1 held a line. -/
theorem Apart.reads {sound : Prop} (h : Apart (s.l1.map (·.names)) s.mem sound t) {a : Nat} (ha : ¬ s.InL1 a) :
    t.mem.get a = s.mem.get a :=
  h.same a fun _ hp he => by
    obtain ⟨x, hx, rfl⟩ := List.mem_map.1 hp
    exact ha ⟨x, hx, he⟩

theorem Apart.isSound {ns : List (Nat × BitVec 20 × Nat × Nat)} {m : Memory} (h : Apart ns m True t) : t.Sound :=
  ⟨h.unhurt, h.home trivial, h.slices trivial, h.l1 trivial⟩

theorem State.LinesFit.onLines (h : s.LinesFit) : s.OnLines := fun x hx => (h.place x hx).1

/-! The line under a name. -/

/-- A core has one line at most under a name. -/
theorem State.LinesFit.eq_of_names {x y : L1Line} (h : s.LinesFit) (hx : x ∈ s.l1) (hy : y ∈ s.l1) (hc : y.core = x.core)
    (hp : y.pasid = x.pasid) (hv : y.vline = x.vline) : y = x := by
  obtain ⟨u, hu⟩ := List.length_eq_one_iff.1 (h.one x hx)
  have hl : lineOf x.vline = x.vline := line_eq (h.place x hx).2 (Nat.le_refl _) (by omega)
  have mem {v : L1Line} (hm : v ∈ s.l1) (h1 : v.core = x.core) (h2 : v.pasid = x.pasid) (h3 : v.vline = x.vline) : v = u := by
    have hv : v ∈ s.l1.filter (·.is x.core x.pasid x.vline) := List.mem_filter.2 ⟨hm, by simp [L1Line.is, h1, h2, h3, hl]⟩
    rw [hu] at hv
    exact List.mem_singleton.1 hv
  exact (mem hy hc hp hv).trans (mem hx rfl rfl rfl).symm

/-- A line of the name that stands for another physical line has left; the name then stands for the physical line, or for none. -/
theorem l1?_sameLine (hd : s.damage = []) (hf : s.LinesFit) (h : (s.sameLine w va pa).l1? w.core w.pasid va = some l) :
    s.sameLine w va pa = s ∧ l.pline = lineOf pa := by
  unfold State.sameLine at h ⊢
  split at h
  next k hk =>
    split at h
    next hp =>
      obtain rfl : k = l := Option.some.inj (hk.symm.trans h)
      exact ⟨if_pos hp, beq_iff_eq.1 hp⟩
    next hp =>
      exfalso
      obtain ⟨hm, hc, hps, hv⟩ := names_of_l1? h
      obtain ⟨y, hy, hn⟩ := List.mem_map.1 (((Apart.unsaid hd).dropLine hf.onLines.names k).lines l hm)
      obtain ⟨hkm, hkc, hkp, hkv⟩ := names_of_l1? hk
      simp only [Prod.mk.injEq] at hn
      obtain ⟨h1, h2, h3, h4⟩ := hn
      obtain rfl : y = k := hf.eq_of_names hkm hy (by rw [h1, hc, hkc]) (by rw [h2, hps, hkp]) (by rw [h3, hv, hkv])
      have := (List.mem_filter.1 hm).2
      simp [h1, h4] at this
  next hk => exact absurd (hk.symm.trans h) (by simp)

/-- Where no L1 holds the line, no name of a core stands for it. -/
theorem l1?_sameLine_absent (hd : s.damage = []) (hf : s.LinesFit) (hn : ¬ s.InL1 pa) :
    (s.sameLine w va pa).l1? w.core w.pasid va = none := by
  rw [Option.eq_none_iff_forall_ne_some]
  intro l h
  obtain ⟨he, hp⟩ := l1?_sameLine hd hf h
  rw [he] at h
  exact hn ⟨l, (names_of_l1? h).1, hp⟩

/-- A name without a line gets an empty one, for which a line may have to leave. -/
theorem nameLine_new (h : s.l1? w.core w.pasid va = none) :
    ∃ z, s.nameLine w.core w.pasid va pa wp seen = { z with l1 := blankLine w va pa wp seen :: z.l1 } ∧
      (∀ {ns m sound}, OnLines ns → Apart ns m sound s → Apart ns m sound z) ∧ (s.memWf = true → z.memWf = true) := by
  unfold State.nameLine
  rw [h]
  refine ⟨_, rfl, fun ha hs => Apart.roomL1 ?_ ha _, fun hw => roomL1_memWf _ ?_⟩
  · split
    · exact hs.dropLine ha _
    · exact hs
  · split
    · exact dropLine_memWf _ hw
    · exact hw

/-! Stores (R93). -/

/-- The bytes of a store into an empty line. -/
theorem storeL1_new (hz : s.nameLine w.core w.pasid va pa true true = { z with l1 := blankLine w va pa true true :: z.l1 })
    (hd : z.damage = []) : s.storeL1 w.core w.pasid va pa bs = { z with
      l1 := (blankLine w va pa true true).store (va % 128) bs :: modify (fun x => x.core == w.core && x.pline == lineOf pa)
        (fun x => if x.is w.core w.pasid va then x.store (va % 128) bs else x) z.l1 } := by
  have hi : (blankLine w va pa true true).is w.core w.pasid va = true := by simp [blankLine, L1Line.is]
  rw [State.storeL1, hz, overL1_unhurt (by exact hd), State.modL1, modify, List.map_cons, if_pos (by simp [blankLine]), if_pos hi]
  rfl

theorem storeAt_miss (hw : w.pip = false) (hh : (s.l1? w.core w.pasid va).filter (fun l => l.wperm && l.seen) = none)
    (ht : s.translate w.cluster w.pasid va .write (!w.agent) = (s1, .ok pa wp seen)) (hp : inHost pa = false) :
    s.storeAt w va bs = ((s1.sameLine w va pa).storeL1 w.core w.pasid va pa bs, .done) := by
  rw [State.storeAt, hw]
  simp only [Bool.false_eq_true, if_false, hh, ht, hp, Bool.false_and]

theorem sameLine_same (h : s.l1? w.core w.pasid va = some l) (hp : l.pline = lineOf pa) : s.sameLine w va pa = s := by
  rw [State.sameLine, h]
  exact if_pos (beq_iff_eq.2 hp)

theorem sameLine_none (h : s.l1? w.core w.pasid va = none) : s.sameLine w va pa = s := by rw [State.sameLine, h]

theorem storeAt_named (hw : w.pip = false) (hh : (s.l1? w.core w.pasid va).filter (fun l => l.wperm && l.seen) = none)
    (ht : s.translate w.cluster w.pasid va .write (!w.agent) = (s1, .ok pa wp seen)) (hp : inHost pa = false)
    (hd : s1.damage = []) (hl : s1.l1? w.core w.pasid va = some l) (hpl : l.pline = lineOf pa) :
    s.storeAt w va bs = (s1.takeAt w va (lineOf pa) bs, .done) := by
  rw [storeAt_miss hw hh ht hp, sameLine_same hl hpl, storeL1_named hd hl hpl, hpl]

/-- A core with room gets the line without another leaving. -/
theorem nameLine_room (h : s.l1? w.core w.pasid va = none) (ha : ∀ x ∈ s.l1, x.core = w.core → x.pline ≠ lineOf pa)
    (hr : (s.l1.filter (·.core == w.core)).length < 1536) :
    s.nameLine w.core w.pasid va pa wp seen = { s with l1 := blankLine w va pa wp seen :: s.l1 } := by
  have hn : s.l1.find? (fun l => l.core == w.core && l.pline == lineOf pa) = none :=
    List.find?_eq_none.2 fun x hx hc => by
      rw [Bool.and_eq_true, beq_iff_eq, beq_iff_eq] at hc
      exact ha x hx hc.1 hc.2
  rw [State.nameLine, h]
  dsimp only
  rw [hn]
  dsimp only
  rw [State.roomL1, if_pos hr]
  rfl

theorem storeAt_room (hw : w.pip = false) (hh : (s.l1? w.core w.pasid va).filter (fun l => l.wperm && l.seen) = none)
    (ht : s.translate w.cluster w.pasid va .write (!w.agent) = (s1, .ok pa wp seen)) (hp : inHost pa = false)
    (hd : s1.damage = []) (h : s1.l1? w.core w.pasid va = none) (ha : ∀ x ∈ s1.l1, x.core = w.core → x.pline ≠ lineOf pa)
    (hr : (s1.l1.filter (·.core == w.core)).length < 1536) :
    s.storeAt w va bs = ({ s1 with l1 := (blankLine w va pa true true).store (va % 128) bs :: s1.l1 }, .done) := by
  have hm : modify (fun x => x.core == w.core && x.pline == lineOf pa)
      (fun x => if x.is w.core w.pasid va then x.store (va % 128) bs else x) s1.l1 = s1.l1 := by
    refine (List.map_congr_left fun x hx => if_neg fun hc => ?_).trans (List.map_id _)
    rw [Bool.and_eq_true, beq_iff_eq, beq_iff_eq] at hc
    exact ha x hx hc.1 hc.2
  rw [storeAt_miss hw hh ht hp, sameLine_none h, storeL1_new (nameLine_room h ha hr) hd, hm]

/-- Whatever had to leave for it, a store leaves its bytes in a line under its name, and main memory as it was but for lines that some L1
held. -/
theorem storeL1_leaves (hd : s.damage = []) (hf : s.LinesFit) : ∃ t k,
    (s.sameLine w va pa).storeL1 w.core w.pasid va pa bs = t ∧ t.damage = [] ∧
      t.l1? w.core w.pasid va = some (L1Line.store k (va % 128) bs) ∧ k.pline = lineOf pa ∧ k.bytes.wf = true ∧
      ∀ a, ¬ s.InL1 a → t.mem.get a = s.mem.get a := by
  cases h : (s.sameLine w va pa).l1? w.core w.pasid va with
  | some l =>
    obtain ⟨he, hp⟩ := l1?_sameLine hd hf h
    rw [he] at h ⊢
    exact ⟨_, { l with wperm := true, seen := true }, storeL1_named hd h hp, hd, l1?_takeAt h, hp,
      hf.form l (names_of_l1? h).1, fun _ _ => rfl⟩
  | none =>
    obtain ⟨z, hz, hza, -⟩ := nameLine_new (pa := pa) (wp := true) (seen := true) h
    have ha := hza hf.onLines.names ((Apart.unsaid hd).sameLine hf.onLines.names)
    have hi : ((blankLine w va pa true true).store (va % 128) bs).is w.core w.pasid va = true := by
      simp [blankLine, L1Line.is, L1Line.store]
    exact ⟨_, blankLine w va pa true true, storeL1_new hz ha.unhurt, ha.unhurt, List.find?_cons_of_pos hi, rfl, rfl,
      fun _ => ha.reads⟩

/-- An ejected thread's store is performed at home (05 R127). -/
theorem storeAt_home (hw : w.pip = true)
    (ht : s.translate w.cluster w.pasid va .write (!w.agent) = (s1, .ok pa wp seen)) (hp : inHost pa = false) :
    s.storeAt w va bs = (s1.writeHome pa bs, .done) := by
  rw [State.storeAt, hw]
  simp only [if_true, ht, hp, Bool.false_and, Bool.false_eq_true, if_false]

theorem writeHome_get {a : Nat} (hd : s.damage = []) (hf : s.LinesFit) (ha : a < pa ∨ pa + bs.length ≤ a) (hn : ¬ s.InL1 a) :
    (s.writeHome pa bs).mem.get a = s.mem.get a := by
  have hr := ((Apart.unsaid hd).touchSlice hf.onLines.names (lineOf pa) 0 .deferred).recallWords hf.onLines.names (lineOf pa)
    (wordMask pa bs.length)
  rw [State.writeHome, putHome_get ha, overSlice_unhurt hr.unhurt, hr.reads hn]

end Sys2Proof.Machine
end

section
/-! Loads of main memory (04 R89, R91, 05 R127): what a fetch brings, and what it leaves as it was. -/

namespace Sys2Proof.Machine

variable {s s1 t z : State} {w : Site} {va pa n P : Nat} {l : L1Line} {wp seen : Bool}
  {ns : List (Nat × BitVec 20 × Nat × Nat)} {m : Memory}

/-- What an access leaves beside its own bytes: sound storage, and main memory as it was but for lines that some L1 held. -/
structure Kept (s t : State) : Prop where
  sound : t.Sound
  same : ∀ a, ¬ s.InL1 a → t.mem.get a = s.mem.get a

theorem Apart.kept (h : Apart (s.l1.map (·.names)) s.mem True t) : Kept s t := ⟨h.isSound, fun _ => h.reads⟩

theorem inL1_congr {a b : Nat} (h : lineOf a = lineOf b) : s.InL1 a ↔ s.InL1 b := by rw [State.InL1, State.InL1, h]

/-- A line that is new, and of which memory reads as it did, takes nothing from what is kept. -/
theorem Apart.kept_with (h : Apart (l.names :: s.l1.map (·.names)) s.mem True t) (hl : l.pline = lineOf pa)
    (hm : ∀ a, lineOf a = lineOf pa → t.mem.get a = s.mem.get a) : Kept s t := by
  refine ⟨h.isSound, fun a ha => ?_⟩
  by_cases hp : lineOf a = lineOf pa
  · exact hm a hp
  · refine h.same a (List.forall_mem_cons.2 ⟨fun he => hp (he.symm.trans hl), fun p hq he => ?_⟩)
    obtain ⟨x, hx, rfl⟩ := List.mem_map.1 hq
    exact ha ⟨x, hx, he⟩

theorem lineOf_within {i : Nat} (hn : pa % 128 + n ≤ 128) (hi : i < n) : lineOf (pa + i) = lineOf pa := by
  unfold lineOf
  omega

theorem Kept.bytes (h : Kept s t) (hn : pa % 128 + n ≤ 128) (hp : ¬ s.InL1 pa) : t.mem.bytes pa n = s.mem.bytes pa n :=
  Store.bytes_congr fun _ hi => h.same _ ((inL1_congr (lineOf_within hn hi)).not.2 hp)

/-- Cells written each with what a function has there. -/
theorem Store.get_foldl_set {g : Nat → BitVec 8} {is : List Nat} {b : Store 8} (hb : b.wf = true) (j : Nat) :
    (is.foldl (fun b i => b.set i (g i)) b).get j = if j ∈ is then g j else b.get j := by
  induction is generalizing b with
  | nil => rfl
  | cons i is ih =>
    rw [List.foldl_cons, ih (Store.set_wf i _ hb)]
    by_cases hj : j ∈ is
    · rw [if_pos hj, if_pos (List.mem_cons_of_mem _ hj)]
    · rw [if_neg hj]
      by_cases he : j = i
      · rw [he, Store.get_set_self _ _ hb, if_pos (List.mem_cons_self ..)]
      · rw [Store.get_set_other _ he, if_neg (by simp [he, hj])]

theorem Beside.l1? {core : Nat} {pasid : BitVec 20} (h : Beside P s t) (hl : s.l1? core pasid va = some l) (hp : l.pline = P) :
    t.l1? core pasid va = some l := by
  obtain ⟨f, hn, hf, he⟩ := h.lines
  rw [l1?_map hn he, hl, Option.map_some, hf l hp]

theorem Apart.onLines {sound : Prop} (h : Apart ns m sound s) (ha : OnLines ns) : s.OnLines := fun x hx => ha _ (h.lines x hx)

theorem lineOf_mod (a : Nat) : lineOf a % 128 = 0 := by
  unfold lineOf
  omega

theorem lineOf_lineOf (a : Nat) : lineOf (lineOf a) = lineOf a := lineOf_add (off := 0) (lineOf_mod a) (by decide)

theorem blankLine_is : (blankLine w va pa wp seen).is w.core w.pasid va = true := by simp [blankLine, L1Line.is]

/-- An empty line is filled from memory: with the bytes that stand there, in sound storage not poisoned. -/
theorem fillLine_blank (ha : OnLines ns) (hz : Apart ns m True z) (hs : s = { z with l1 := blankLine w va pa wp seen :: z.l1 }) :
    ∃ t k, s.fillLine w.core w.pasid va = t ∧ t.l1? w.core w.pasid va = some k ∧
      (∀ i, i < 128 → k.bytes.get i = z.mem.get (lineOf pa + i)) ∧ k.poison = 0 ∧
      Apart ((blankLine w va pa wp seen).names :: ns) m True t ∧ ∀ a, lineOf a = lineOf pa → t.mem.get a = z.mem.get a := by
  have hv : Apart ((blankLine w va pa wp seen).names :: ns) m True s := hs ▸ hz.addLine rfl
  have hns : OnLines ((blankLine w va pa wp seen).names :: ns) := List.forall_mem_cons.2 ⟨lineOf_mod pa, ha⟩
  have hon := hv.onLines hns
  have hl : s.l1? w.core w.pasid va = some (blankLine w va pa wp seen) := hs ▸ List.find?_cons_of_pos blankLine_is
  have hb := Beside.touchSlice (P := lineOf pa) hv.unhurt hon w.pasid .uncorrectable
  have hu := hv.touchSlice hns (lineOf pa) w.pasid .uncorrectable
  have hm : s.mem = z.mem := hs ▸ rfl
  have hp : lineOf pa % 128 + 128 ≤ 128 := by rw [lineOf_mod]
  unfold State.fillLine
  rw [hl]
  dsimp only
  rw [show (blankLine w va pa wp seen).pline = lineOf pa from rfl, visit_within hv.unhurt hon (by decide) hp, lineOf_lineOf,
    overL1_unhurt hu.unhurt]
  refine ⟨_, _, rfl, l1?_modL1 ?_ (hb.l1? hl rfl), fun i hi => ?_, ?_, hu.modL1 _ _ _ ?_ (fun c x hx => ?_),
    fun a he => (hb.mem a he).trans (by rw [hm])⟩
  · exact fun _ => rfl
  · have hg : i ∈ (List.range 128).filter (fun i => !(blankLine w va pa wp seen).valid.getLsbD i) := by
      simp [blankLine, hi]
    refine (Store.get_foldl_set (g := fun i => Store.get _ (lineOf pa + i)) rfl i).trans ((if_pos hg).trans ?_)
    rw [hb.mem _ (lineOf_add (lineOf_mod pa) hi), hm]
  · exact hu.brought trivial _ _ _
  · exact fun _ => rfl
  · dsimp only
    rw [hx]
    exact hu.brought c _ _ _

/-- A core's load of a line that no L1 holds brings memory's bytes, and leaves the rest as it was. -/
theorem loadL1_fetch (hs : s.Sound) (hf : s.LinesFit) (hn : ¬ s.InL1 pa) (ho : pa % 128 = va % 128) (hr : va % 128 + n ≤ 128) :
    ∃ t, (s.sameLine w va pa).loadL1 w.core w.pasid va pa n wp seen = (t, s.mem.bytes pa n, false) ∧ Kept s t := by
  have h0 := l1?_sameLine_absent (w := w) (va := va) hs.unhurt hf hn
  have hu := (Apart.start s hs.unhurt fun _ : True => hs).sameLine (w := w) (va := va) (pa := pa) hf.onLines.names
  obtain ⟨z, hz, hza, -⟩ := nameLine_new (pa := pa) (wp := wp) (seen := seen) h0
  have ha := hza hf.onLines.names hu
  obtain ⟨t, k, ht, hk, hb, hp, hta, htm⟩ := fillLine_blank hf.onLines.names ha hz
  have hsame (a : Nat) (he : lineOf a = lineOf pa) : z.mem.get a = s.mem.get a := ha.reads ((inL1_congr he).not.2 hn)
  refine ⟨t, ?_, hta.kept_with rfl fun a he => (htm a he).trans (hsame a he)⟩
  have hbytes : k.bytes.bytes (va % 128) n = s.mem.bytes pa n := by
    refine Store.bytes_congr fun i hi => ?_
    rw [hb _ (by omega), hsame _ (lineOf_add (lineOf_mod pa) (by omega))]
    congr 1
    unfold lineOf
    omega
  rw [State.loadL1, h0]
  dsimp only
  rw [ht, visitL1_unhurt hta.unhurt, hk]
  dsimp only
  rw [hbytes, hp]
  simp

theorem loadPart_miss (hw : w.pip = false) (hh : (s.l1? w.core w.pasid va).filter (·.holds (va % 128) n) = none)
    (ht : s.translate w.cluster w.pasid va .read (!w.agent) = (s1, .ok pa wp seen)) (hp : inHost pa = false) {bs : List Byte}
    (hl : (s1.sameLine w va pa).loadL1 w.core w.pasid va pa n wp seen = (t, bs, false)) :
    s.loadPart w va n = (t, .ok (leNat bs, false)) := by
  rw [State.loadPart, hw]
  simp only [Bool.false_eq_true, if_false, hh, ht, hp, Bool.false_and, hl, State.notePoison]

/-- An ejected thread's load brings what stands at home (05 R127). -/
theorem loadPart_home (hw : w.pip = true) (ht : s.translate w.cluster w.pasid va .read (!w.agent) = (s1, .ok pa wp seen))
    (hp : inHost pa = false) (hs : s1.Sound) (hf : s1.LinesFit) (hn : ¬ s1.InL1 pa) (hr : pa % 128 + n ≤ 128) :
    ∃ t, s.loadPart w va n = (t, .ok (s1.mem.le pa n, false)) ∧ Kept s1 t := by
  have ha := (((Apart.start s1 hs.unhurt fun _ : True => hs).touchSlice hf.onLines.names (lineOf pa) w.pasid .uncorrectable).recallWords
    hf.onLines.names (lineOf pa) (wordMask pa n)).visit hf.onLines.names pa n w.pasid .uncorrectable
  refine ⟨_, ?_, ha.kept⟩
  rw [State.loadPart, hw]
  simp only [if_true, ht, hp, Bool.false_and, Bool.false_eq_true, if_false, State.readPlace, State.readHome, ha.poisonedRange,
    State.notePoison, ha.kept.bytes hr hn]
  rfl

/-- A load that fetches: at home for an ejected thread, and into the L1 for another. -/
theorem loadPart_fetch (hh : (s.l1? w.core w.pasid va).filter (·.holds (va % 128) n) = none ∨ w.pip = true)
    (ht : s.translate w.cluster w.pasid va .read (!w.agent) = (s1, .ok pa wp seen)) (hp : inHost pa = false)
    (ho : pa % 128 = va % 128) (hr : va % 128 + n ≤ 128) (hs : s1.Sound) (hf : s1.LinesFit) (hn : ¬ s1.InL1 pa) :
    ∃ t, s.loadPart w va n = (t, .ok (s1.mem.le pa n, false)) ∧ Kept s1 t := by
  cases hw : w.pip with
  | true => exact loadPart_home hw ht hp hs hf hn (ho ▸ hr)
  | false =>
    obtain ⟨t, hl, hk⟩ := loadL1_fetch (w := w) (wp := wp) (seen := seen) hs hf hn ho hr
    exact ⟨t, loadPart_miss hw (hh.resolve_right (by simp [hw])) ht hp hl, hk⟩

end Sys2Proof.Machine
end

section
/-! Atomics (04 R98-R100): the words' current value is brought home, or, where the predictor places the atomic in the core, to a line that
the core then owns; the operation's value is left at home. -/

namespace Sys2Proof.Machine

variable {s s1 t : State} {w : Site} {va pa n core P : Nat} {l : L1Line} {ws : BitVec 32} {wp seen : Bool}
  {ns : List (Nat × BitVec 20 × Nat × Nat)} {m : Memory}

/-! A line that one core alone holds, with nothing to write home. -/

/-- The storage is sound apart from some lines; memory reads in a line as it did, no other core's L1 holds it, and the core's has
nothing of it to write home. -/
structure Own (ns : List (Nat × BitVec 20 × Nat × Nat)) (m : Memory) (core P : Nat) (s : State) : Prop where
  apart : Apart ns m True s
  line : ∀ a, lineOf a = P → s.mem.get a = m.get a
  mine : ∀ x ∈ s.l1, x.pline = P → x.core = core ∧ x.dirty = 0

theorem Own.beside (h : Own ns m core P s) (ha : Apart ns m True t) (hb : Beside P s t) : Own ns m core P t := by
  refine ⟨ha, fun a he => (hb.mem a he).trans (h.line a he), fun x hx hp => ?_⟩
  obtain ⟨f, hn, hf, hl⟩ := hb.lines
  rw [hl] at hx
  obtain ⟨y, hy, rfl⟩ := List.mem_map.1 hx
  have hyp : y.pline = P := (congrArg (fun k => k.2.2.2) (hn y)).symm.trans hp
  rw [hf y hyp]
  exact h.mine y hy hyp

/-- Nothing of a clean line is written home. -/
theorem dirtyWords_clean (hl : l.dirty = 0) : l.dirtyWords = 0 := by
  refine List.foldl_fixed' (fun w => if_neg ?_) _
  simp [L1Line.dirtyWord, hl, anyBit]

section rules
variable (h : Own ns m core P s)
include h

theorem Own.touchSlice (ha : OnLines ns) (pasid : BitVec 20) (why : ErrKind) : Own ns m core P (s.touchSlice P pasid why) :=
  h.beside (h.apart.touchSlice ha P pasid why) (.touchSlice h.apart.unhurt (h.apart.onLines ha) pasid why)

theorem Own.recallOther (ha : OnLines ns) : Own ns m core P (s.recallOther core P ws) := by
  refine h.beside (h.apart.recallOther ha core P ws) ?_
  unfold State.recallOther
  split
  next y hy =>
    split
    next hc =>
      refine .recallWords h.apart.unhurt (h.apart.onLines ha) (.inr fun z hz x hx hp ho => ?_)
      obtain rfl : y = z := Option.some.inj (hy.symm.trans hz)
      simp [ho, (h.mine x hx hp).1] at hc
    · exact .of_eq rfl rfl
  · exact .of_eq rfl rfl

theorem Own.modSlice {f : SliceLine → SliceLine} (hf : ∀ x, (f x).poison = x.poison) : Own ns m core P (s.modSlice P f) :=
  h.beside (h.apart.modSlice P f hf) (.of_eq rfl rfl)

theorem Own.noteUse : Own ns m core P (s.noteUse core P) := h.beside (h.apart.noteUse core P) (.of_eq rfl rfl)

theorem Own.predicted (cluster : Nat) (c : Bool) : Own ns m core P (s.predicted cluster P c) := by
  refine h.beside (h.apart.predicted cluster P c) (.of_eq (predicted_mem ..) ?_)
  unfold State.predicted
  split
  · rfl
  · dsimp only
    split
    · rfl
    · split <;> rfl

/-- A change of the core's line that leaves it clean. -/
theorem Own.modL1 {f : L1Line → L1Line} (hn : ∀ x, (f x).names = x.names) (hp : ∀ x, x.poison = 0 → (f x).poison = 0)
    (hd : ∀ x, x.dirty = 0 → (f x).dirty = 0) : Own ns m core P (s.modL1 core P f) := by
  refine ⟨h.apart.modL1 core P f hn fun _ => hp, h.line, fun x hx hq => ?_⟩
  obtain ⟨y, hy, rfl⟩ := List.mem_map.1 hx
  have hyn : (if y.core == core && y.pline == P then f y else y).names = y.names := by
    split
    · exact hn y
    · rfl
  have hyp : y.pline = P := (congrArg (fun k => k.2.2.2) hyn).symm.trans hq
  obtain ⟨hc, hy0⟩ := h.mine y hy hyp
  refine ⟨(congrArg (fun k => k.1) hyn).trans hc, ?_⟩
  dsimp only
  split
  · exact hd y hy0
  · exact hy0

theorem Own.takeWords : Own ns m core P (s.takeWords core P ws) := by
  rw [State.takeWords, overL1_unhurt h.apart.unhurt]
  refine h.modL1 (fun _ => rfl) (fun x hx => ?_) fun x hx => ?_
  · dsimp only
    rw [hx]
    exact h.apart.brought trivial _ _ _
  · dsimp only
    rw [hx]
    exact BitVec.zero_and

theorem Own.pushOwn : s.pushOwn core P ws = s := by
  unfold State.pushOwn
  rw [meetAll_unhurt h.apart.unhurt]
  dsimp only
  split
  · rfl
  next l hl =>
    have hi := List.find?_some hl
    rw [Bool.and_eq_true, beq_iff_eq, beq_iff_eq] at hi
    have hm := List.mem_of_find?_eq_some hl
    refine if_pos ?_
    rw [dirtyWords_clean (h.mine l hm hi.2).2, h.apart.l1 trivial l hm]
    simp

theorem Own.register (ha : OnLines ns) : Own ns m core P (s.register core P ws) := by
  unfold State.register
  refine Own.predicted (.modL1 (.noteUse (.modSlice (.recallOther (.touchSlice h ha _ _) ha) ?_)) ?_ ?_ ?_) _ _
  · exact fun _ => rfl
  · exact fun _ => rfl
  · exact fun _ hx => hx
  · exact fun _ hx => hx

end rules

/-- An atomic that the predictor places in the core settles on a line that is new there (R100). -/
theorem Own.ownWords (ha : OnLines ns) (h : Own ns m w.core (lineOf pa) t)
    (ht : (s.sameLine w va pa).nameLine w.core w.pasid va pa wp seen = t) : Own ns m w.core (lineOf pa) (s.ownWords w va pa ws wp seen) := by
  unfold State.ownWords
  dsimp only
  rw [ht]
  split
  · rw [h.pushOwn]
    exact h.takeWords.noteUse
  · have hr := (h.touchSlice ha w.pasid .uncorrectable).recallOther (ws := BitVec.allOnes 32) ha
    rw [hr.pushOwn]
    exact (hr.register ha).takeWords

/-- The line that is new under a name is the core's own. -/
theorem own_new (hs : s.Sound) (hf : s.LinesFit) (hn : ¬ s.InL1 pa) :
    ∃ t, (s.sameLine w va pa).nameLine w.core w.pasid va pa wp seen = t ∧
      Own ((blankLine w va pa wp seen).names :: s.l1.map (·.names)) s.mem w.core (lineOf pa) t := by
  have hu := (Apart.start s hs.unhurt fun _ : True => hs).sameLine (w := w) (va := va) (pa := pa) hf.onLines.names
  obtain ⟨z, hz, hza, -⟩ := nameLine_new (pa := pa) (wp := wp) (seen := seen) (l1?_sameLine_absent hs.unhurt hf hn)
  have ha := hza hf.onLines.names hu
  refine ⟨_, hz, ha.addLine rfl, fun a he => ha.reads ((inL1_congr he).not.2 hn), List.forall_mem_cons.2 ⟨fun _ => ⟨rfl, rfl⟩, ?_⟩⟩
  intro x hx hp
  obtain ⟨y, hy, he⟩ := List.mem_map.1 (ha.lines x hx)
  exact absurd ⟨y, hy, (congrArg (fun k => k.2.2.2) he).trans hp⟩ hn

/-! The words settled. -/

/-- Bringing an atomic's words home keeps what is beside them, the words among it. -/
theorem settleWords_kept (hs : s.Sound) (hf : s.LinesFit) (hn : ¬ s.InL1 pa) (h0 : 0 < n) (hr : pa % 128 + n ≤ 128) :
    Kept s ((s.settleWords w va pa n wp seen).visit pa n w.pasid) := by
  have ha := hf.onLines.names
  have hs0 := Apart.start s hs.unhurt fun _ : True => hs
  unfold State.settleWords
  dsimp only
  split
  · exact (((hs0.touchSlice ha _ _ _).recallWords ha _ _).visit ha pa n w.pasid _).kept
  · split
    · exact ((hs0.homeWords ha).visit ha pa n w.pasid _).kept
    · obtain ⟨t, ht, hown⟩ := own_new (w := w) (va := va) (wp := wp) (seen := seen) hs hf hn
      have hns : OnLines ((blankLine w va pa wp seen).names :: s.l1.map (·.names)) := List.forall_mem_cons.2 ⟨lineOf_mod pa, ha⟩
      have ho := hown.ownWords (ws := wordMask pa n) hns ht
      have hv := ho.touchSlice hns w.pasid .uncorrectable
      rw [visit_within ho.apart.unhurt (ho.apart.onLines hns) h0 hr]
      exact hv.apart.kept_with rfl hv.line

/-- So does finding the current value for a cas that fails (R99). -/
theorem settlePeek_kept (hs : s.Sound) (hf : s.LinesFit) : Kept s ((s.settlePeek w va pa n).visit pa n w.pasid) :=
  (((Apart.start s hs.unhurt fun _ : True => hs).settlePeek hf.onLines.names).visit hf.onLines.names pa n w.pasid _).kept

/-! Memory stays in canonical form. -/

theorem pushOwn_memWf (h : s.memWf = true) : (s.pushOwn core P ws).memWf = true := by
  have hm := meetAll_memWf 0 .uncorrectable (ErrPlace.l1Words core P ws false) h
  unfold State.pushOwn
  dsimp only
  split
  · exact hm
  · split
    · exact hm
    · exact wordsHome_memWf _ _ hm

theorem takeWords_memWf (h : s.memWf = true) : (s.takeWords core P ws).memWf = true := copyWords_memWf _ _ _ (overL1_memWf _ _ _ _ h)

theorem sameLine_memWf (h : s.memWf = true) : (s.sameLine w va pa).memWf = true := by
  unfold State.sameLine
  split
  · split
    · exact h
    · exact dropLine_memWf _ h
  · exact h

theorem forget_memWf (h : s.memWf = true) : (s.forget core P ws).memWf = true := h

theorem noteUse_memWf (h : s.memWf = true) : (s.noteUse core P).memWf = true := h

theorem predicted_memWf {cluster : Nat} {c : Bool} (h : s.memWf = true) : (s.predicted cluster P c).memWf = true :=
  memWf_of_eq h (predicted_mem ..)

theorem homeWords_memWf (h : s.memWf = true) : (s.homeWords w pa ws).memWf = true :=
  predicted_memWf (noteUse_memWf (forget_memWf (pushOwn_memWf (recallOther_memWf _ _ _ (touchSlice_memWf _ _ _ h)))))

theorem ownWords_memWf (h : s.memWf = true) : (s.ownWords w va pa ws wp seen).memWf = true := by
  have hv := nameLine_memWf w.core w.pasid va pa wp seen (sameLine_memWf (w := w) (va := va) (pa := pa) h)
  unfold State.ownWords
  dsimp only
  split
  · exact noteUse_memWf (takeWords_memWf (pushOwn_memWf hv))
  · exact takeWords_memWf (register_memWf _ _ _ (pushOwn_memWf (recallOther_memWf _ _ _ (touchSlice_memWf _ _ _ hv))))

theorem settleWords_memWf (h : s.memWf = true) : (s.settleWords w va pa n wp seen).memWf = true := by
  unfold State.settleWords
  dsimp only
  split
  · exact recallWords_memWf _ _ (touchSlice_memWf _ _ _ h)
  · split
    · exact homeWords_memWf h
    · exact ownWords_memWf h

/-! The atomic. -/

variable {op : AtomOp} {ty : Ty} {v cmp : BitVec 64} {result : Bool}

/-- The operation's value is left at home, and in the core's line where the core owns the words (R119). -/
def State.leaveValue (s : State) (w : Site) (va pa n : Nat) (x : BitVec 64) : State :=
  let s1 := s.putHome pa (leBytes x.toNat n)
  if w.pip then s1 else s1.copyWords w.core (lineOf pa) (wordMask pa n &&& (match s1.l1? w.core w.pasid va with
    | some l => l.owned
    | none => 0))

theorem State.Sound.poisonedRange (h : s.Sound) (pa n : Nat) : s.poisonedRange pa n = false :=
  (Apart.start s h.unhurt fun _ : True => h).poisonedRange pa n

/-- A cas goes on to its write where it finds its comparand (R99). -/
def casMatches (s : State) (w : Site) (va n : Nat) (cmp : BitVec 64) : Prop :=
  ∃ s1 pa wp seen, s.translate w.cluster w.pasid va .read (!w.agent) = (s1, .ok pa wp seen) ∧ inHost pa = false ∧
    BitVec.ofNat 64 (((s1.settlePeek w va pa n).visit pa n w.pasid).mem.le pa n) = cmp

/-- An atomic of main memory, its words not poisoned: the old value, and the operation's value left. -/
theorem atomAt_performs (hc : op ≠ .cas ∨ casMatches s w va ty.size cmp)
    (hw : s.translate w.cluster w.pasid va .write (!w.agent) = (s1, .ok pa wp seen)) (hp : inHost pa = false)
    (ht : (s1.settleWords w va pa ty.size wp seen).visit pa ty.size w.pasid = t) (hs : t.Sound) :
    s.atomAt w va op ty v cmp result = (t.leaveValue w va pa ty.size (atomNew op ty (BitVec.ofNat 64 (t.mem.le pa ty.size)) v cmp),
      .val (BitVec.ofNat 64 (t.mem.le pa ty.size))) := by
  unfold State.atomAt
  extract_lets n go host write
  have hgo : write s = (t.leaveValue w va pa ty.size (atomNew op ty (BitVec.ofNat 64 (t.mem.le pa ty.size)) v cmp),
      .val (BitVec.ofNat 64 (t.mem.le pa ty.size))) := by
    simp only [write, go, n, hw, hp, ht, hs.poisonedRange, Bool.false_eq_true, if_false]
    rfl
  rcases hc with hc | ⟨s2, p2, wp2, seen2, hr, hp2, hm⟩
  · rw [if_neg (by simpa using hc), hgo]
  · split
    · simp only [hr, hp2, hm, n, Bool.false_eq_true, if_false, beq_self_eq_true, Bool.true_or, if_true, hgo]
    · exact hgo

/-- A cas that finds another value writes nothing (R99). -/
theorem atomAt_fails {s3 : State} {p3 : Nat} {wp3 seen3 : Bool}
    (hr : s.translate w.cluster w.pasid va .read (!w.agent) = (s1, .ok pa wp seen)) (hp : inHost pa = false)
    (hw : s1.translate w.cluster w.pasid va .write (!w.agent) = (s3, .ok p3 wp3 seen3))
    (ht : (s1.settlePeek w va pa ty.size).visit pa ty.size w.pasid = t) (hs : t.Sound)
    (hm : BitVec.ofNat 64 (t.mem.le pa ty.size) ≠ cmp) :
    s.atomAt w va .cas ty v cmp result = (t, .val (BitVec.ofNat 64 (t.mem.le pa ty.size))) := by
  unfold State.atomAt
  extract_lets n go host write
  simp only [hr, hp, hw, ht, n, hs.poisonedRange, beq_false_of_ne hm, beq_self_eq_true, Bool.or_self, Bool.false_eq_true, if_false,
    if_true]

end Sys2Proof.Machine
end

section
/-! One access after another (04 R84), and what each comes to in the terms of the statement. -/

namespace Sys2Proof.Machine

variable {s s1 s2 t : State} {w : Site} {va pa p2 n : Nat} {l : L1Line} {bs : List Byte} {wp wp2 seen seen2 result : Bool}
  {op : AtomOp} {ty : Ty} {v cmp : BitVec 64}

section one
variable {q : MemReq} (ha : aperture q.va.toNat = none)
include ha

theorem accessOne_store {n : Nat} (ho : q.op = .store n) :
    s.accessOne w result q = s.storeAt w q.va.toNat (leBytes q.v.toNat n) := by
  simp only [State.accessOne, ha, ho]

theorem accessOne_atom (ho : q.op = .atom op ty) : s.accessOne w result q = s.atomAt w q.va.toNat op ty q.v q.cmp result := by
  simp only [State.accessOne, ha, ho]

theorem accessOne_load {x : Nat} (ho : q.op = .load ty) (hal : q.va.toNat % ty.size = 0)
    (hl : s.loadPart w q.va.toNat ty.size = (t, .ok (x, false))) : s.accessOne w result q = (t, .val (loadValue ty x)) := by
  simp only [State.accessOne, ha, ho, State.loadAt, hal, if_true, hl, Bool.false_eq_true, if_false]

end one

theorem leBytes_length (x n : Nat) : (leBytes x n).length = n := by
  induction n generalizing x with
  | zero => rfl
  | succ n ih => rw [leBytes, List.length_cons, ih]

theorem leaveValue_mem (x : BitVec 64) : (s.leaveValue w va pa n x).mem = (s.putHome pa (leBytes x.toNat n)).mem := by
  unfold State.leaveValue
  dsimp only
  split <;> rfl

/-- The value left at home reads back, and every other byte is as it was. -/
theorem leaveValue_le {x : BitVec 64} (h : s.memWf = true) : (s.leaveValue w va pa n x).mem.le pa n = x.toNat % 2 ^ (8 * n) := by
  have hb := putHome_bytes pa (leBytes x.toNat n) h
  rw [leBytes_length] at hb
  rw [leaveValue_mem, Store.le, hb, leNat_leBytes, show 256 = 2 ^ 8 from rfl, ← Nat.pow_mul]

theorem leaveValue_get {x : BitVec 64} {a : Nat} (h : a < pa ∨ pa + n ≤ a) : (s.leaveValue w va pa n x).mem.get a = s.mem.get a := by
  rw [leaveValue_mem, putHome_get (by rwa [leBytes_length])]

theorem size_pos (ty : Ty) : 0 < ty.size := by cases ty <;> decide

/-- An aligned access of a type's size lies within a line. -/
theorem size_within (h : va % ty.size = 0) (hp : pa % 128 = va % 128) : pa % 128 + ty.size ≤ 128 := by
  have hs : ty.size = 1 ∨ ty.size = 2 ∨ ty.size = 4 ∨ ty.size = 8 := by cases ty <;> decide
  rcases hs with hs | hs | hs | hs <;> rw [hs] at h ⊢ <;> omega

/-- An atomic brings the old value and leaves the new one at home (R98-R100). -/
theorem atomAt_leaves (hc : op ≠ .cas ∨ casMatches s w va ty.size cmp)
    (hw : s.translate w.cluster w.pasid va .write (!w.agent) = (s2, .ok p2 wp2 seen2)) (hp : inHost p2 = false)
    (ho : p2 % 128 = va % 128) (hal : va % ty.size = 0) (hs : s2.Sound) (hf : s2.LinesFit) (hm : s2.memWf = true)
    (hn : ¬ s2.InL1 p2) : ∃ t, s.atomAt w va op ty v cmp result = (t, .val (BitVec.ofNat 64 (s2.mem.le p2 ty.size))) ∧
      t.mem.le p2 ty.size = (atomNew op ty (BitVec.ofNat 64 (s2.mem.le p2 ty.size)) v cmp).toNat % 2 ^ (8 * ty.size) ∧
      ∀ a, a < p2 ∨ p2 + ty.size ≤ a → ¬ s2.InL1 a → t.mem.get a = s2.mem.get a := by
  have hr := size_within hal ho
  have hk := settleWords_kept (w := w) (va := va) (wp := wp2) (seen := seen2) hs hf hn (size_pos ty) hr
  have hwf := visit_memWf p2 ty.size w.pasid .uncorrectable
    (settleWords_memWf (w := w) (va := va) (pa := p2) (n := ty.size) (wp := wp2) (seen := seen2) hm)
  generalize ht : (s2.settleWords w va p2 ty.size wp2 seen2).visit p2 ty.size w.pasid = t at hk hwf
  have hb : t.mem.le p2 ty.size = s2.mem.le p2 ty.size := congrArg leNat (hk.bytes hr hn)
  have hat := atomAt_performs (v := v) (result := result) hc hw hp ht hk.sound
  rw [hb] at hat
  exact ⟨_, hat, leaveValue_le hwf, fun a ha hna => (leaveValue_get ha).trans (hk.same a hna)⟩

/-- A cas finds the value that stands in memory (R99). -/
theorem casMatches_of (ht : s.translate w.cluster w.pasid va .read (!w.agent) = (s1, .ok pa wp seen)) (hp : inHost pa = false)
    (ho : pa % 128 = va % 128) (hal : va % ty.size = 0) (hs : s1.Sound) (hf : s1.LinesFit) (hn : ¬ s1.InL1 pa)
    (hc : BitVec.ofNat 64 (s1.mem.le pa ty.size) = cmp) : casMatches s w va ty.size cmp := by
  refine ⟨s1, pa, wp, seen, ht, hp, ?_⟩
  have hb := (settlePeek_kept (w := w) (va := va) (pa := pa) (n := ty.size) hs hf).bytes (size_within hal ho) hn
  rw [Store.le, hb]
  exact hc

/-- A cas that fails brings the value and leaves it (R99). -/
theorem atomAt_leaves_failing {s3 : State} {p3 : Nat} {wp3 seen3 : Bool}
    (hr : s.translate w.cluster w.pasid va .read (!w.agent) = (s1, .ok pa wp seen)) (hp : inHost pa = false)
    (ho : pa % 128 = va % 128) (hal : va % ty.size = 0) (hs : s1.Sound) (hf : s1.LinesFit) (hn : ¬ s1.InL1 pa)
    (hc : BitVec.ofNat 64 (s1.mem.le pa ty.size) ≠ cmp)
    (hw : s1.translate w.cluster w.pasid va .write (!w.agent) = (s3, .ok p3 wp3 seen3)) :
    ∃ t, s.atomAt w va .cas ty v cmp result = (t, .val (BitVec.ofNat 64 (s1.mem.le pa ty.size))) ∧ Kept s1 t := by
  have hk := settlePeek_kept (w := w) (va := va) (pa := pa) (n := ty.size) hs hf
  generalize ht : (s1.settlePeek w va pa ty.size).visit pa ty.size w.pasid = t at hk
  have hb : t.mem.le pa ty.size = s1.mem.le pa ty.size := congrArg leNat (hk.bytes (size_within hal ho) hn)
  have hat := atomAt_fails (v := v) (result := result) hr hp hw ht hk.sound (by rwa [hb])
  rw [hb] at hat
  exact ⟨t, hat, hk⟩

/-- What a store leaves, whatever its line's room: its bytes, dirty, in a line under its name, to be read back, and main memory as it was
but for lines that some L1 held (R93). -/
theorem storeAt_leaves (hw : w.pip = false) (hh : (s.l1? w.core w.pasid va).filter (fun l => l.wperm && l.seen) = none)
    (ht : s.translate w.cluster w.pasid va .write (!w.agent) = (s1, .ok pa wp seen)) (hp : inHost pa = false)
    (hd : s1.damage = []) (hf : s1.LinesFit) (hr : va % 128 + bs.length ≤ 128) :
    ∃ t l, s.storeAt w va bs = (t, .done) ∧ t.damage = [] ∧ t.l1? w.core w.pasid va = some l ∧ l.pline = lineOf pa ∧
      l.bytes.bytes (va % 128) bs.length = bs ∧ (∀ i, i < bs.length → l.dirty.getLsbD (va % 128 + i) = true) ∧
      (∀ a, ¬ s1.InL1 a → t.mem.get a = s1.mem.get a) ∧
      (bs.length = 4 ∨ bs.length = 8 → va % bs.length = 0 → t.loadPart w va bs.length = (t, .ok (leNat bs, false))) := by
  obtain ⟨t, k, hs, htd, hl, hkp, hkw, hm⟩ := storeL1_leaves (w := w) (va := va) (pa := pa) (bs := bs) hd hf
  refine ⟨t, k.store (va % 128) bs, (storeAt_miss hw hh ht hp).trans (by rw [hs]), htd, hl, hkp, store_bytes hkw,
    fun i hi => (store_inside hr (Nat.le_add_right ..) (Nat.add_lt_add_left hi _)).1, hm,
    fun h4 _ => loadPart_stored hw htd hl hkw hr (by omega)⟩

/-- Settles O34: the accesses in a row; a line that takes bytes; stores and loads of one thread; atomics. -/
theorem accessesReadAndWriteTheirBytes : Obligations.AccessesReadAndWriteTheirBytes := by
  unfold Obligations.AccessesReadAndWriteTheirBytes
  refine ⟨fun s w r q qs => ⟨rfl, rfl, fun ha => ⟨fun n ho => accessOne_store ha ho, fun op ty ho => accessOne_atom ha ho,
      fun ty t x ho hal hl => accessOne_load ha ho hal hl⟩⟩,
    fun l off i bs hw hf => ⟨store_bytes hw, store_wf hw, store_outside, store_inside hf, rfl⟩,
    ?_, ?_⟩
  · intro s s1 w va n pa bs wp seen off put inL1 fresh hn h0 hr
    subst hn
    refine ⟨fun hw hd hf l hl => ⟨fun hwp hsn => ?_, fun hh hpo => ?_⟩,
      fun hw hh ht hp ho hd hf => ⟨fun l hl hpl => ?_, fun hl hal hrm => ?_, ?_⟩, fun hw ht hp ho hd hf hm => ?_,
      fun hh ht hp ho hs hf hi => ?_⟩
    · exact storeAt_hit hw hd hl (hf.place l (names_of_l1? hl).1).1 hwp hsn
    · exact loadPart_hit hw hd hl hh hpo
    · exact storeAt_named hw hh ht hp hd hl hpl
    · exact storeAt_room hw hh ht hp hd hl hal hrm
    · exact storeAt_leaves hw hh ht hp hd hf hr
    · exact ⟨_, storeAt_home hw ht hp, writeHome_bytes pa bs hm, fun a ha hna => writeHome_get hd hf ha hna⟩
    · obtain ⟨t, hl, hk⟩ := loadPart_fetch hh ht hp ho hr hs hf hi
      exact ⟨t, hl, hk.sound, hk.same⟩
  · intro s s1 s2 w va pa p2 op ty v cmp result wp wp2 seen seen2 n inL1 old hw hp ho hal hs hf hm hi
    refine ⟨fun hc => atomAt_leaves (hc.imp id ?_) hw hp ho hal hs hf hm hi, fun s3 p3 hop hr hp1 ho1 hs1 hf1 hi1 hc hw3 => ?_⟩
    · rintro ⟨hr, hp1, ho1, hs1, hf1, hi1, hc1⟩
      exact casMatches_of hr hp1 ho1 hal hs1 hf1 hi1 hc1
    subst hop
    obtain ⟨t, ht, hk⟩ := atomAt_leaves_failing (v := v) (result := result) hr hp1 ho1 hal hs1 hf1 hi1 hc hw3
    exact ⟨t, ht, hk.sound, hk.same⟩

end Sys2Proof.Machine
end

section
/-! Copies and decompression jobs (06 R132, R137-R148): they are entered and begin (O35); a copy moves chunk by chunk and completes,
and a job is done (O46). -/

namespace Sys2Proof.Machine

variable {s s1 s2 s' : State} {cx : Ctx} {c : Common} {d a : Opnd}

/-! ACOPY and DCMP enter their command. -/

section enter
variable {dims : BitVec 2} {dir : CopyDir} {bar : Option Opnd} {h : BitVec 64} {blk : Block}

/-- The need of an ACOPY (R137, R144): its descriptor, and the pair that names its barrier object. -/
abbrev acopyNeed (c : Common) (dims : BitVec 2) (d a : Opnd) (bar : Option Opnd) : CmdNeed :=
  { common := c, d := d, reads := (a, 5 + 3 * dims.toNat) :: nmOpt bar true, roles := copyRoles, cls := .copy }

/-- The need of a DCMP (R145): the register or the pair that holds its card's address. -/
abbrev dcmpNeed (c : Common) (sp : Bool) (d a : Opnd) : CmdNeed :=
  { common := c, d := d, reads := [nm a (!sp)], roles := copyRoles, cls := .copy }

/-- The directions that do not write the scratchpad cover no line of it (R137, R141). -/
theorem lines_of_direction (dir : CopyDir) (ls : List Nat) :
    (if CopyDir.to_ dir == .sp then ls else []) = if dir = .sp2g ∨ dir = .g2wb then [] else ls := by
  cases dir <;> rfl

/-- An ACOPY that may be issued enters its copy and hands out its handle (R132). -/
theorem execAcopy_issuable {cb : Bool} {obj : Option Nat} (ho : bar.map (fun o => pairWord (descOf cx.group o 2) 0) = obj)
    (hi : Issuable (acopyNeed c dims d a bar)
      (acopyTrap s cx (cx.exec c) (CopyDesc.of dims (descOf cx.group a (5 + 3 * dims.toNat))) dir obj)
      (s.queueFull cx.group.core 0) s cx h blk)
    (he : ((s.readied (acopyNeed c dims d a bar) cx blk).enterCopy cx (cx.exec c) dims dir obj
      (descOf cx.group a (5 + 3 * dims.toNat)) h) = s')
    (hb : s.hostBarred s' = false) :
    execAcopy c cb dims dir d a bar s = .next (s'.handed (acopyNeed c dims d a bar) cx h) := by
  subst ho
  unfold execAcopy
  refine engineOp_clear (b := blk) ?_ _ ?_ hb
  · exact hi
  · exact congrArg Act.done he

/-- The check of a card's address that is aligned and in reach (R146). -/
theorem dcmp_address {card : Nat} {lr : LaunchRec} {sp : Bool} (ha : card % 64 = 0) (hr : rangeBad lr sp card 64 = false) :
    (if card % 64 != 0 then some misaligned else if rangeBad lr sp card 64 then some accessViolation else none) = none := by
  rw [ha, hr]
  rfl

/-- A DCMP that may be issued, its card aligned and in reach, enters its job and hands out its handle (R132, R146). -/
theorem execDcmp_issuable {sp : Bool} {card : Nat} {e : Nat × State}
    (hc : (if sp then word (descOf cx.group a 1) 0 else pairWord (descOf cx.group a 2) 0) = card)
    (ha : card % 64 = 0) (hr : rangeBad cx.launch.lr sp card 64 = false)
    (hi : Issuable (dcmpNeed c sp d a) none (s.queueFull cx.group.core 1) s cx h blk)
    (he : (s.readied (dcmpNeed c sp d a) cx blk).addCmd cx (cx.exec c) (.dcmp sp (BitVec.ofNat 64 card)) [] h [] true = e)
    (hb : s.hostBarred (e.2.beginCmd e.1) = false) :
    execDcmp c sp d a s = .next ((e.2.beginCmd e.1).handed (dcmpNeed c sp d a) cx h) := by
  subst hc he
  rw [← dcmp_address ha hr] at hi
  unfold execDcmp
  refine engineOp_clear (b := blk) ?_ _ ?_ hb
  · exact hi
  · rfl

end enter

/-! A command begins (R144, R146). -/

/-- What a command that begins makes of what was read for it: a page fault holds it (R80), a place outside memory fails it (R46), a
poisoned word stops its context (R60), and what is sound is its own. -/
def State.beginWith {α : Type} (s : State) (k : Cmd) (pasid : BitVec 20) (own : α → State) : Eng (α × Bool) → State
  | .fault f va => s.chunkFault k pasid 0 f va
  | .bad => s.modCmd k.id (fun c => { c with failed := true })
  | .ok (x, poison) => if poison then s.stopEngine k else own x

section begins
variable {k : Cmd} {l : Launch} (hc : s.cmd? k.id = some k) (hl : s.launch? k.ref.launch = some l)

/-- Where a command of a launch present stands. -/
abbrev Cmd.siteIn (k : Cmd) (l : Launch) : EngSite := ⟨k.ref.launch, k.ref.blk, k.core, l.pasid⟩

include hl in
theorem cmdSite_present : s.cmdSite k = some (k.siteIn l) := by rw [State.cmdSite, hl, Option.map_some]

include hc hl

/-- A command that has begun does not begin again. -/
theorem beginCmd_begun (he : k.early = false) : s.beginCmd k.id = s := by
  simp only [State.beginCmd, hc, cmdSite_present hl, hl, he, Bool.not_false, Bool.true_or, if_true]

section waiting
variable (he : k.early = true) (hf : k.failed = false) (hx : k.faulted = [])
include he hf hx

/-- The tag that its barrier's object holds is the copy's (R144). -/
theorem beginCmd_copy {dims : BitVec 2} {dir : CopyDir} {obj t0 : BitVec 64} {x : Eng (BitVec 64 × Bool)}
    (hk : k.kind = .copy dims dir (some (obj, t0))) (hr : s.readTag (k.siteIn l) obj.toNat = (s1, x)) :
    s.beginCmd k.id = s1.beginWith k l.pasid
      (fun tag => s1.modCmd k.id (fun c => { c with kind := .copy dims dir (some (obj, tag)), early := false })) x := by
  simp only [State.beginCmd, hc, cmdSite_present hl, hl, he, hf, hx, hk, hr, List.isEmpty_nil, Bool.not_true, Bool.or_self,
    Bool.false_eq_true, if_false]
  cases x <;> rfl

/-- The fields of its card are the job's, and the lines of its output lose their presence (R146). -/
theorem beginCmd_job {sp : Bool} {card : BitVec 64} {x : Eng (List Byte × Bool)} (hk : k.kind = .dcmp sp card)
    (hr : s.openCard (k.siteIn l) sp card.toNat = (s1, x)) :
    s.beginCmd k.id = s1.beginWith k l.pasid (fun bs => (s1.modCmd k.id (fun c =>
      { c with desc := (List.range 16).map (fun i => BitVec.ofNat 32 (fieldAt bs (4 * i) 4)), early := false })).jobLines k
        ((Card.ofBytes bs).outLines l.lr)) x := by
  simp only [State.beginCmd, hc, cmdSite_present hl, hl, he, hf, hx, hk, hr, List.isEmpty_nil, Bool.not_true, Bool.or_self,
    Bool.false_eq_true, if_false]
  cases x <;> rfl

end waiting
end begins

/-- Settles O35: both instructions are engine commands that may be issued; a command that begins makes of its tag or its card
what `State.beginWith` says. -/
theorem copyEngineCommandsEnter : Obligations.CopyEngineCommandsEnter := by
  unfold Obligations.CopyEngineCommandsEnter
  refine ⟨fun s cx c cb sp dims dir d a bar h b => ?_, fun s k l w hc hl hw => ?_⟩
  · intro n desc copy obj m lines reserves job card
    refine ⟨fun hi e he hb => ?_, fun ha hr hi e he hb => ?_⟩
    · rw [exec_acopy]
      refine execAcopy_issuable rfl hi ?_ hb
      rw [State.enterCopy, lines_of_direction, he]
      rfl
    · rw [exec_dcmp]
      exact execDcmp_issuable rfl ha hr hi he.symm hb
  · subst hw
    refine ⟨beginCmd_begun hc hl, fun he hf hx => ⟨fun dims dir obj t0 hk s1 x hr => ?_, fun sp card hk s1 x hr => ?_⟩⟩
    · rw [beginCmd_copy hc hl he hf hx hk hr]
      exact ⟨fun _ h => h ▸ rfl, fun h => h ▸ rfl, fun _ _ h => h ▸ rfl⟩
    · rw [beginCmd_job hc hl he hf hx hk hr]
      exact ⟨fun _ h => h ▸ rfl, fun h => h ▸ rfl, fun _ _ h => h ▸ rfl⟩

/-! Copies and jobs in the engines. -/

/-- Work that asks nothing of the host that it may not ask is done (15 R375). -/
theorem waitLocked_next (h : s.hostBarred s' = false) : waitLocked s (.next s') = .next s' := by
  simp only [waitLocked, h, Bool.false_eq_true, if_false]

section engines
variable {cmd : Nat} {k : Cmd} {w : EngSite} (hc : s.cmd? cmd = some k)

section copies
variable {dims : BitVec 2} {dir : CopyDir} {bar : Option (BitVec 64 × BitVec 64)} {chunk : Nat}

/-- A chunk that nothing holds may move (R135, R142). -/
theorem mayMove_of {m : CopyDesc} (he : k.early = false) (hf : k.failed = false) (hn : chunk < m.chunks) (hr : k.resume ≤ chunk)
    (hd : chunk ∉ k.chunks) (hx : chunk ∉ k.faulted) (hw : inWindow k.resume k.chunks chunk = true)
    (hy : k.cancel = true → chunk ∈ k.flying) : k.mayMove m chunk = true := by
  simp only [Cmd.mayMove, Bool.and_eq_true, Bool.or_eq_true, Bool.not_eq_true', decide_eq_true_eq, List.contains_eq_mem,
    decide_eq_false_iff_not]
  refine ⟨⟨⟨⟨⟨⟨⟨he, hf⟩, hn⟩, hr⟩, hd⟩, hx⟩, hw⟩, ?_⟩
  cases hk : k.cancel
  · exact .inl rfl
  · exact .inr (hy hk)

/-- The chunks of a copy that are still to move once another has (R141). -/
def Cmd.leftAfter (k : Cmd) (m : CopyDesc) (chunk : Nat) : List Nat :=
  (List.range m.chunks).filter (fun j => !(k.chunks.contains j || j = chunk || j < k.resume))

/-- A chunk whose words are copied is marked moved; in the scratchpad the lines that no other chunk writes land (R141). -/
theorem moveChunk_copied {m : CopyDesc} {u : Unit}
    (hm : s.copyWordsOf w m dir (((k.chunks.filter (· > chunk)).flatMap (chunkWords m.total)).map (fun l => (m.at_ l).2))
      (chunkWords m.total chunk) = (s1, .ok u)) :
    s.moveChunk k w m dir chunk =
      if CopyDir.to_ dir == .sp then
        (s1.modCmd k.id (fun c => { c with chunks := chunk :: c.chunks })).landLines k (m.linesOf (k.leftAfter m chunk))
      else s1.modCmd k.id (fun c => { c with chunks := chunk :: c.chunks }) := by
  simp only [State.moveChunk, hm]
  rfl

/-- A copy is over that has failed, or was cancelled with what was in flight done or held, or has moved (R135, R139). -/
theorem copied_of (h : k.failed = true ∨ (k.cancel = true ∧ ∀ j ∈ k.flying, j ∈ k.chunks ∨ j ∈ k.faulted) ∨
    (k.cancel = false ∧ k.early = false ∧ k.moved dims = true)) : k.copied dims = true := by
  obtain hf | ⟨hx, hy⟩ | ⟨hx, he, hm⟩ := h
  · rw [Cmd.copied, hf, Bool.true_or]
  · simpa [Cmd.copied, hx] using .inr hy
  · simp [Cmd.copied, hx, he, hm]

include hc

/-- COPY_CHUNK_COMPLETE of a chunk that may move is its move (R142). -/
theorem execCopyChunkComplete_moves (hw : s.cmdSite k = some w) (hk : k.kind = .copy dims dir bar)
    (hm : k.mayMove (CopyDesc.of dims k.desc) chunk = true) (hq : s.quiesced k = false)
    (hs : s.moveChunk k w (CopyDesc.of dims k.desc) dir chunk = s2) (hb : s.hostBarred s2 = false) :
    execCopyChunkComplete cmd chunk s = .next s2 := by
  simp only [execCopyChunkComplete, hc, hw, hk, hm, hq, hs, Bool.not_true, Bool.or_self, Bool.false_eq_true, if_false]
  exact waitLocked_next hb

/-- COPY_COMPLETE of a copy that is over, none of its arrivals waiting for a fault, completes it (R144). -/
theorem execCopyComplete_ends (hk : k.kind = .copy dims dir bar) (ha : s.arrivalLogged cmd = false) (ho : k.copied dims = true)
    (hs : s2 = s.completeCopy k bar (k.moved dims && !k.cancel)) (hb : s.hostBarred s2 = false) :
    execCopyComplete cmd s = .next s2 := by
  simp only [execCopyComplete, hc, hk, ha, ho, ← hs, Bool.not_true, Bool.or_self, Bool.false_eq_true, if_false]
  exact waitLocked_next hb

end copies

section jobs
variable {sp : Bool} {card : BitVec 64} {l : Launch} (hw : s.cmdSite k = some w) (hk : k.kind = .dcmp sp card)
  (hl : s.launch? k.ref.launch = some l)
include hc hw hk hl

/-- DCMP_JOB_COMPLETE of a job that failed as it began completes with FAULT (R146). -/
theorem execDcmpJobComplete_failed (hf : k.failed = true) (hb : s.hostBarred (s.finishCmd cmd stFault) = false) :
    execDcmpJobComplete cmd s = .next (s.finishCmd cmd stFault) := by
  simp only [execDcmpJobComplete, hc, hw, hk, hl, hf, if_true]
  exact waitLocked_next hb

/-- DCMP_JOB_COMPLETE of a job whose card has been read completes with the status that the job runs to (R147, R148). -/
theorem execDcmpJobComplete_done {st : BitVec 3} (hf : k.failed = false) (he : k.early = false) (hx : k.faulted = [])
    (hq : s.quiesced k = false) (hj : s.doJob w sp card.toNat l.lr k.card k.cancel = (s1, .ok (some st)))
    (hb : s.hostBarred (s1.finishCmd cmd st) = false) : execDcmpJobComplete cmd s = .next (s1.finishCmd cmd st) := by
  simp only [execDcmpJobComplete, hc, hw, hk, hl, hf, he, hx, hq, hj, List.isEmpty_nil, Bool.not_true, Bool.or_self,
    Bool.false_eq_true, if_false]
  exact waitLocked_next hb

end jobs
end engines

/-- Settles O46: each event on the path where its condition holds. -/
theorem copiesMoveAndComplete : Obligations.CopiesMoveAndComplete := by
  unfold Obligations.CopiesMoveAndComplete
  intro s s1 s2 cmd chunk k w hc hw
  refine ⟨?_, fun dims dir bar hk ha ho hs hb => execCopyComplete_ends hc hk ha (copied_of ho) hs hb,
    fun sp card l hk hl hb => ⟨?_, ?_⟩⟩
  · intro dims dir bar u m hk hm hid he hf hn hr hd hx hwin hy hq hcopy hs hb
    subst hm hid
    have hmay := mayMove_of he hf hn hr hd hx hwin hy
    exact execCopyChunkComplete_moves hc hw hk hmay hq ((moveChunk_copied hcopy).trans hs.symm) hb
  · rintro hf rfl
    exact execDcmpJobComplete_failed hc hw hk hl hf hb
  · rintro st s3 hf he hx hq hj rfl
    exact execDcmpJobComplete_done hc hw hk hl hf he hx hq hj hb

end Sys2Proof.Machine
end

section
/-! Handles and counts (06 R133-R136): they are waited for, tested and cancelled (O36). -/

namespace Sys2Proof.Machine

variable {s s' : State} {cx : Ctx} {c : Common} {d a : Opnd}

/-- The need of an instruction that observes its threads' handles. -/
abbrev handleNeed (c : Common) (writes : List Names) (a : Opnd) : Need :=
  { common := c, writes := writes, reads := [nm a false], recallFirst := true }

/-- The handle that a thread's operand holds. -/
abbrev handleOf (cx : Ctx) (a : Opnd) (t : Thread) : BitVec 64 := readOp cx.group t 0 .uint false a

/-- FWAIT goes in flight, waiting for the handles of its threads (R134). -/
theorem execFwait_clear (h : Clear (handleNeed c [nm d false] a) s cx)
    (hs : s.launched cx c { dst := some (d, false), wait := .handle ((cx.exec c).map (fun t => (t.lane, handleOf cx a t)))
                            fences := true, acq := some (observeScope ((cx.exec c).map (fun t => (t.lane, handleOf cx a t)))) } =
      some s') : execFwait c d a s = .next s' :=
  (issue_clear h (noTrap_none cx _) (noTrap_none cx _) _).trans (fly_launched rfl rfl hs)

/-- FTEST tells which handles need not be waited for, and acquires where one is so (R134). -/
theorem execFtest_clear (h : Clear (handleNeed c [nm d false] a) s cx) :
    execFtest c d a s = .next
      (let ready (t : Thread) : Bool := cx.block.stale (handleOf cx a t) || !cx.block.pendingHandle (handleOf cx a t)
      let s1 := s.writeAll cx.run.ref (cx.exec c) (fun t => [⟨d, false, if ready t then 1 else 0⟩])
      (if (cx.exec c).any ready then s1.acquireAt cx.site (s1.wider
        (observeScope ((cx.exec c).map (fun t => (t.lane, handleOf cx a t)))) cx.block cx.run.ref) else s1).goOnRun cx.run c) :=
  issue_clear h (noTrap_none cx _) (noTrap_none cx _) _

/-- FCANCEL requests the cancellation of each executing thread's pending command (R134, R135). -/
theorem execFcancel_clear (h : Clear (handleNeed c [] a) s cx) :
    execFcancel c a s = .next (((cx.exec c).foldl (fun s t => match s.block? cx.block.launch cx.block.idx with
      | some b =>
        if b.stale (handleOf cx a t) || !b.pendingHandle (handleOf cx a t) then s else s.cancelHandle b (handleOf cx a t)
      | none => s) s).goOnRun cx.run c) :=
  issue_clear h (noTrap_none cx _) (noTrap_none cx _) _

/-- WAITC goes in flight, waiting for its class's count to be at most what its first thread asks (R136). -/
theorem execWaitc_clear {scope : Scope} {cls : EngClass} {t : Thread} {rest : List Thread} (h : Clear (handleNeed c [] a) s cx)
    (ht : cx.exec c = t :: rest)
    (hs : s.launched cx c { wait := .count cls (loWord (handleOf cx a t)), fences := true, acq := some scope } = some s') :
    execWaitc c scope cls a s = .next s' := by
  refine (issue_clear h (noTrap_none cx _) (noTrap_none cx _) _).trans ?_
  dsimp only
  rw [ht]
  dsimp only
  rw [← ht]
  exact fly_launched rfl rfl hs

/-- Settles O36: under `Clear` each of the four is its act. -/
theorem handlesAreWaitedTestedCancelled : Obligations.HandlesAreWaitedTestedCancelled := by
  unfold Obligations.HandlesAreWaitedTestedCancelled
  intro s s' cx c scope cls d a ex h hs over_ ready
  exact ⟨fun hc => ⟨execFwait_clear hc, execFtest_clear hc⟩,
    fun hc => ⟨execFcancel_clear hc, fun t rest ht hl => execWaitc_clear hc ht hl⟩⟩

end Sys2Proof.Machine
end

section
/-! Named scratchpad queues (06 R149-R151): QPUSH and QPOP join their queue's waiters and are served; the QTRY forms tell at
once what they did (O37). -/

namespace Sys2Proof.Machine

variable {s s1 u : State} {cx : Ctx} {c : Common} {d a b e : Opnd} {id : Nat}

/-- The need of a queue instruction (R151). -/
abbrev queueNeed (c : Common) (writes reads : List Names) (ends : Bool) : Need :=
  { common := c, writes := writes, reads := reads, recallFirst := true, ordered := true, afterLog := true, ends := ends }

/-- The values that the executing threads push. -/
abbrev pushVals (cx : Ctx) (c : Common) (b : Opnd) : List (Nat × BitVec 64) :=
  (cx.exec c).map (fun t => (t.lane, readOp cx.group t 0 .uint true b))

/-- The state that a push acts on: after its release (05 R110). -/
abbrev pushReleased (s : State) (cx : Ctx) : State := s.releaseAt cx.site (s.wider .blk cx.block cx.run.ref)

/-- A declared queue raises no trap (R150). -/
theorem queueTrap_declared (hq : queueOf cx a < cx.block.queues.length) : queueTrap cx a = none :=
  if_neg (Nat.not_le.2 hq)

/-- What is in flight in a queue's order lets the threads inside a region go on, and holds those outside any (R151). -/
theorem holdOutside_goes {n : Need} {s0 : State} (hn : n.common = c) (he : n.ends = false) :
    let out := lanesOf (((cx.exec c).filter (·.region.isNone)).map (·.lane))
    (out = 0 → (u.holdOutside cx c (cx.exec c) id).out n s0 cx = .next (u.goOnRun cx.run c)) ∧
    (out ≠ 0 → (u.holdOutside cx c (cx.exec c) id).out n s0 cx = .next (u.holdSome cx c out (.inflight id c.bnd))) := by
  refine ⟨fun h0 => ?_, fun h0 => ?_⟩
  · rw [State.holdOutside, if_pos h0]
    simp only [Act.out, he, hn, Bool.false_eq_true, if_false]
  · rw [State.holdOutside, if_neg h0]
    rfl

/-! QPUSH and QPOP. -/

/-- A QPUSH that may be in flight joins the pushers of its queue, which is served. -/
theorem execQpush_flies (hq : queueOf cx a < cx.block.queues.length)
    (h : Clear (queueNeed c [] [nm a false, nm b true] false) s cx)
    (hr : ∀ t ∈ cx.exec c, s.remoteWait t = false)
    (hf : (pushReleased s cx).fly cx c (lanesOf ((cx.exec c).map (·.lane)))
      { wait := .push (queueOf cx a) (pushVals cx c b), fences := true, ends := true } = some (id, s1)) :
    execQpush c a b s = (((s1.modBlock cx.run.ref.launch cx.run.ref.blk (·.modQueue (queueOf cx a) (fun q =>
      { q with pushers := q.pushers ++ [id] }))).settleQueue cx.run.ref.launch cx.run.ref.blk (queueOf cx a)).holdOutside cx c
        (cx.exec c) id).out (queueNeed c [] [nm a false, nm b true] false) s cx := by
  refine (issue_clear h (noTrap_none cx _) (fun _ _ => queueTrap_declared hq) _).trans ?_
  dsimp only
  rw [any_none hr, if_neg (by decide), hf]

/-- A QPOP that may be in flight joins the poppers of its queue, which is served. -/
theorem execQpop_flies (hq : queueOf cx a < cx.block.queues.length) (h : Clear (queueNeed c [nm d true] [nm a false] false) s cx)
    (hf : s.fly cx c (lanesOf ((cx.exec c).map (·.lane)))
      { dst := some (d, true), wait := .pop (queueOf cx a), fences := true, acq := some .blk, ends := true } = some (id, s1)) :
    execQpop c d a s = (((s1.modBlock cx.run.ref.launch cx.run.ref.blk (·.modQueue (queueOf cx a) (fun q =>
      { q with poppers := q.poppers ++ [id] }))).settleQueue cx.run.ref.launch cx.run.ref.blk (queueOf cx a)).holdOutside cx c
        (cx.exec c) id).out (queueNeed c [nm d true] [nm a false] false) s cx := by
  refine (issue_clear h (noTrap_none cx _) (fun _ _ => queueTrap_declared hq) _).trans ?_
  dsimp only
  rw [hf]

/-! The QTRY forms. -/

/-- A QTRY push writes which threads' pushes were performed. -/
theorem execQtryPush_clear {l : List (Nat × Bool)} (hq : queueOf cx a < cx.block.queues.length)
    (h : Clear (queueNeed c [nm d false] [nm a false, nm b true] true) s cx) (hr : ∀ t ∈ cx.exec c, s.remoteWait t = false)
    (hp : (pushReleased s cx).tryPushes cx (queueOf cx a) (pushVals cx c b) = (s1, l)) :
    execQtryPush c d a b s = .next (((s1.writeAll cx.run.ref (cx.exec c) (fun t =>
      [⟨d, false, if l.contains (t.lane, true) then 1 else 0⟩])).endRegion cx.run.ref
        (lanesOf ((cx.exec c).map (·.lane)))).goOnRun cx.run c) := by
  refine (issue_clear h (noTrap_none cx _) (fun _ _ => queueTrap_declared hq) _).trans ?_
  dsimp only
  rw [any_none hr, if_neg (by decide), hp]
  rfl

/-- The threads that a QTRY pop serves: the first alone for a uniform destination (R23). -/
abbrev popWho (cx : Ctx) (c : Common) (e : Opnd) : List Nat :=
  (if e.isUni then (cx.exec c).take 1 else cx.exec c).map (·.lane)

theorem popWho_own (he : e.isUni = false) : popWho cx c e = (cx.exec c).map (·.lane) := by
  simp only [popWho, he, Bool.false_eq_true, if_false]

theorem popWho_uniform (he : e.isUni = true) : popWho cx c e = ((cx.exec c).take 1).map (·.lane) := by
  simp only [popWho, he, if_true]

/-- The value that a QTRY pop brings a thread, among those that were taken. -/
abbrev popGot (e : Opnd) (l : List (Nat × BitVec 64)) (t : Thread) : Option (BitVec 64) :=
  (if e.isUni then l.head? else l.find? (·.1 == t.lane)).map (·.2)

/-- What a QTRY pop writes of its threads: whether each was served, and the value of one that was, where the destination is its
own. -/
abbrev popWrites (d e : Opnd) (l : List (Nat × BitVec 64)) (t : Thread) : List Wr :=
  ⟨d, false, if (popGot e l t).isSome then 1 else 0⟩ :: (match popGot e l t with
    | some x => if e.isUni then [] else [⟨e, true, x⟩]
    | none => [])

/-- The first value taken goes to a uniform destination. -/
def State.popUniform (s : State) (r : GroupRef) (e : Opnd) (l : List (Nat × BitVec 64)) : State :=
  match l.head? with
  | some (_, x) => if e.isUni then s.modGroup r (·.write e true x) else s
  | none => s

/-- A QTRY pop that meets no poisoned entry writes what it took, acquires where it took something, and ends its threads'
regions. -/
theorem execQtryPop_clear {l : List (Nat × BitVec 64)} (hq : queueOf cx a < cx.block.queues.length)
    (h : Clear (queueNeed c [nm d false, nm e true] [nm a false] true) s cx)
    (hp : s.tryPops cx (queueOf cx a) (popWho cx c e) = (s1, l, none))
    (hu : (s1.writeAll cx.run.ref (cx.exec c) (popWrites d e l)).popUniform cx.run.ref e l = u) :
    execQtryPop c d a e s = .next (((if l.isEmpty then u else u.acquireAt cx.site (u.wider .blk cx.block cx.run.ref)).endRegion
      cx.run.ref (lanesOf ((cx.exec c).map (·.lane)))).goOnRun cx.run c) := by
  subst hu
  refine (issue_clear (h.noted _) (noTrap_none cx _) (fun t _ => ?_) _).trans ?_
  · dsimp only
    rw [queueTrap_declared hq, hp]
    rfl
  · dsimp only
    rw [hp]
    rfl

/-- What a QTRY pop to its threads' own registers writes. -/
theorem popWrites_own (he : e.isUni = false) (l : List (Nat × BitVec 64)) :
    popWrites d e l = fun t => match l.find? (·.1 == t.lane) with
      | some (_, x) => [⟨d, false, 1⟩, ⟨e, true, x⟩]
      | none => [⟨d, false, 0⟩] := by
  funext t
  simp only [popWrites, popGot, he, Bool.false_eq_true, if_false]
  cases l.find? (·.1 == t.lane) <;> rfl

/-- A QTRY pop to its threads' own registers writes no uniform one. -/
theorem popUniform_own (he : e.isUni = false) (r : GroupRef) (l : List (Nat × BitVec 64)) : s.popUniform r e l = s := by
  unfold State.popUniform
  cases l.head? with
  | none => rfl
  | some x => simp only [he, Bool.false_eq_true, if_false]

/-- What a QTRY pop to a uniform register writes of its threads where it took a value. -/
theorem popWrites_uniform (he : e.isUni = true) (i : Nat) (x : BitVec 64) :
    popWrites d e [(i, x)] = fun _ => [⟨d, false, 1⟩] := by
  funext t
  simp [popWrites, popGot, he]

theorem popUniform_took (he : e.isUni = true) (r : GroupRef) (i : Nat) (x : BitVec 64) :
    s.popUniform r e [(i, x)] = s.modGroup r (·.write e true x) := if_pos he

theorem popWrites_nothing : popWrites d e [] = fun _ => [⟨d, false, 0⟩] := by
  funext t
  simp [popWrites, popGot]

/-- Settles O37: QPUSH and QPOP are what `holdOutside` makes of the served queue; the QTRY forms write what `tryPushes` and `tryPops`
answer. -/
theorem queueInstructionsServeInOrder : Obligations.QueueInstructionsServeInOrder := by
  unfold Obligations.QueueInstructionsServeInOrder
  intro s cx c d a b e ex lanes out r q need vals released quiet goes hq
  refine ⟨fun h hr id s1 hf => ?_, fun h id s1 hf => ?_, fun h hr s1 l hp => execQtryPush_clear hq h hr hp,
    fun he h s1 l hp => ?_, fun he h => ⟨fun s1 x i hp => ?_, fun s1 hp => ?_⟩⟩
  · rw [exec_qpush, execQpush_flies hq h hr hf]
    exact holdOutside_goes rfl rfl
  · rw [exec_qpop, execQpop_flies hq h hf]
    exact holdOutside_goes rfl rfl
  · exact execQtryPop_clear hq h (popWho_own he ▸ hp)
      ((popUniform_own he r l).trans (congrArg (s1.writeAll r ex) (popWrites_own he l)))
  · rw [exec_qtryPop, execQtryPop_clear hq h (popWho_uniform he ▸ hp) rfl, popWrites_uniform he, popUniform_took he]
    rfl
  · rw [exec_qtryPop, execQtryPop_clear hq h (popWho_uniform he ▸ hp) rfl, popWrites_nothing]
    rfl

end Sys2Proof.Machine
end

section
/-! Moves and integer arithmetic under `Clear` (08 R181, R182, R184-R186, R207, 06 R133): each is a register instruction whose value
is the statement's. -/

namespace Sys2Proof.Machine

variable {s : State} {cx : Ctx} {c : Common} {ty : Ty} {sat wide : Bool} {d a b e : Opnd} {k : BitVec 32}

/-- MOVI.HI writes the upper register of the pair, whichever file the pair is of. -/
theorem execMoviHi_clear (h : Clear (regNeed c [(upperHalf d, 1)] []) s cx) :
    execMoviHi c d k s = .next (s.wrote cx c (fun _ => [⟨upperHalf d, false, k.setWidth 64⟩])) :=
  vecOp_clear h _

/-- Settles O13: each move is a register instruction that writes its source; MOVI.HI names the upper register of the pair. -/
theorem movesWriteTheirSource : Obligations.MovesWriteTheirSource := by
  unfold Obligations.MovesWriteTheirSource
  intro s cx c wide d a k
  refine ⟨fun h => ⟨exec_mov.trans (vecOp_clear h _), exec_umov.trans (vecOp_clear h _), exec_umovBc.trans (vecOp_clear h _)⟩,
    fun h => exec_movi.trans (vecOp_clear h _), fun h => exec_moviW.trans (vecOp_clear h _), ?_, ?_,
    fun h => exec_hget.trans (vecOp_clear h _), fun h => exec_hput.trans (vecOp_clear h _)⟩
  · rintro i rfl h
    exact exec_moviHi.trans (execMoviHi_clear h)
  · rintro i rfl h
    exact exec_moviHi.trans (execMoviHi_clear h)

/-! Integer arithmetic (08 R184, R186). -/

theorem intOp1_clear (h : Clear (regNeed c [nm d ty.wide] [nm a ty.wide]) s cx) (f : Int → Int) :
    intOp1 c ty sat f d a k s = .next (s.wrote cx c (fun t => [⟨d, ty.wide, intResult ty sat (f (intSrc cx.group t k ty a))⟩])) :=
  vecOp_clear h _

theorem intOp2_clear (h : Clear (regNeed c [nm d ty.wide] [nm a ty.wide, nm b ty.wide]) s cx) (f : Int → Int → Int) :
    intOp2 c ty sat f d a b k s = .next (s.wrote cx c (fun t =>
      [⟨d, ty.wide, intResult ty sat (f (intSrc cx.group t k ty a) (intSrc cx.group t k ty b))⟩])) :=
  vecOp_clear h _

theorem intOp3_clear (h : Clear (regNeed c [nm d ty.wide] [nm a ty.wide, nm b ty.wide, nm e ty.wide]) s cx)
    (f : Int → Int → Int → Int) :
    intOp3 c ty sat f d a b e s = .next (s.wrote cx c (fun t =>
      [⟨d, ty.wide, intResult ty sat (f (intSrc cx.group t 0 ty a) (intSrc cx.group t 0 ty b) (intSrc cx.group t 0 ty e))⟩])) :=
  vecOp_clear h _

/-- IMADW's third source is a pair, read with the sign of the type. -/
theorem execImadw_clear (h : Clear (regNeed c [nm d true] [nm a false, nm b false, nm e true]) s cx) :
    execImadw c ty d a b e s = .next (s.wrote cx c (fun t => [⟨d, true, wrapInt 64
      (intSrc cx.group t 0 ty a * intSrc cx.group t 0 ty b + (if ty.isSigned then (readOp cx.group t 0 .sint true e).toInt
        else (readOp cx.group t 0 .uint true e).toNat))⟩])) := by
  unfold execImadw
  rw [vecOp_clear h]
  cases ty.isSigned <;> rfl

/-- Settles O14: each instruction is its integer function of one, two or three sources under `intResult`, but for IMADW and LEA. -/
theorem integerArithmeticResults : Obligations.IntegerArithmeticResults := by
  unfold Obligations.IntegerArithmeticResults
  intro s cx c ty sat wide sh d a b e k out mod v v0 gives
  refine ⟨fun h => ⟨exec_iadd.trans (intOp2_clear h _), exec_isub.trans (intOp2_clear h _), exec_imul.trans (intOp2_clear h _),
      exec_imulh.trans (intOp2_clear h _), exec_imin.trans (intOp2_clear h _), exec_imax.trans (intOp2_clear h _)⟩,
    fun h => ⟨exec_iadd3.trans (intOp3_clear h _), exec_imad.trans (intOp3_clear h _), ?_⟩,
    fun h => ⟨?_, exec_ineg.trans (intOp1_clear h _)⟩, fun h => exec_imadw.trans (execImadw_clear h),
    fun h => exec_lea.trans (vecOp_clear h _)⟩
  · simp only [exec_isad, execIsad, intOp3_clear h, Int.natCast_natAbs]
    rfl
  · simp only [exec_iabs, execIabs, intOp1_clear h, Int.natCast_natAbs]
    rfl

/-! Carries and divisions (08 R185, R207). -/

theorem tyBits_carryTy : tyBits (carryTy wide) = widthOf wide := by cases wide <;> rfl

/-- A source of ADDC and SUBC is its pattern, as a number of the form's width. -/
theorem intSrc_carryTy (g : Group) (t : Thread) :
    intSrc g t k (carryTy wide) a = ((readOp g t k .uint wide a).toNat % 2 ^ widthOf wide : Nat) := by
  have hx := (readOp g t k .uint true a).isLt
  cases wide
  · exact congrArg Nat.cast (BitVec.toNat_setWidth ..)
  · exact congrArg Nat.cast (Nat.mod_eq_of_lt hx).symm

theorem wrapInt_natCast (w n : Nat) : wrapInt w n = BitVec.ofNat 64 (n % 2 ^ w) := by
  unfold wrapInt
  norm_cast

theorem divide_fst (x y : Int) : (divide x y).1 = if y = 0 then -1 else x.tdiv y := by
  unfold divide
  split <;> rfl

theorem divide_snd (x y : Int) : (divide x y).2 = if y = 0 then x else x.tmod y := by
  unfold divide
  split
  · rfl
  · rw [Int.tmod_def, Int.mul_comm]

theorem wrapInt_add_add (w x y z : Nat) : wrapInt w ((x : Int) + y + z) = BitVec.ofNat 64 ((x + y + z) % 2 ^ w) := by
  rw [← wrapInt_natCast]
  push_cast
  rfl

theorem add_add_ge_two_pow (w x y z : Nat) : (x : Int) + y + z ≥ 2 ^ w ↔ x + y + z ≥ 2 ^ w := by norm_cast

theorem sub_sub_lt_zero (x y z : Nat) : (x : Int) - y - z < 0 ↔ x < y + z := by omega

/-- ADDC and SUBC: the exact integer's pattern, and the predicate that its carry gives. -/
theorem carryOp_clear (h : Clear (regNeed c [nm d wide, nm e false] [nm a wide, nm b wide, nm e false]) s cx)
    (f : Int → Int → Int → Int) (carry : Int → Bool) :
    carryOp c wide f carry d a b e s = .next (s.wrote cx c (fun t =>
      let u (o : Opnd) : Nat := (readOp cx.group t 0 .uint wide o).toNat % 2 ^ widthOf wide
      let r := f (u a) (u b) (readOp cx.group t 0 .uint false e).toNat
      [⟨d, wide, wrapInt (widthOf wide) r⟩, ⟨e, false, if carry r then 1 else 0⟩])) := by
  unfold carryOp
  rw [vecOp_clear h]
  simp only [intSrc_carryTy, tyBits_carryTy]

/-- Settles O15: the carry and the borrow are those of the exact integers, and `divide` gives both parts of a division. -/
theorem carryAndDivisionResults : Obligations.CarryAndDivisionResults := by
  unfold Obligations.CarryAndDivisionResults
  intro s cx c ty wide d a b e k w u carry v gives
  refine ⟨fun h => ⟨?_, ?_⟩, fun h => ⟨?_, ?_⟩⟩
  · simp only [exec_addc, execAddc, carryOp_clear h, tyBits_carryTy, wrapInt_add_add, add_add_ge_two_pow, decide_eq_true_eq]
    rfl
  · simp only [exec_subc, execSubc, carryOp_clear h, sub_sub_lt_zero, decide_eq_true_eq]
    rfl
  · simp only [exec_idiv, execIdiv, intOp2_clear h, divide_fst]
    rfl
  · simp only [exec_irem, execIrem, intOp2_clear h, divide_snd]
    rfl

end Sys2Proof.Machine
end

section
/-! Logic, shifts and bit fields (08 R188-R192): results that are put together bit by bit are read bit by bit, and the counts of
zeros are told by the bits they pass over. -/

namespace Sys2Proof.Machine

variable {s : State} {cx : Ctx} {c : Common} {ty : Ty} {wide : Bool} {d a b e : Opnd} {k : BitVec 32}

/-! Bits set one after the other. -/

/-- A fold over the numbers below n of which step k alone touches bit j, and makes it v. -/
theorem getLsbD_foldl_range {w : Nat} {step : BitVec w → Nat → BitVec w} {j k : Nat} {v : Bool} :
    ∀ {n : Nat} (x : BitVec w), (∀ r i, i < n → i ≠ k → (step r i).getLsbD j = r.getLsbD j) →
      (k < n → ∀ r, (step r k).getLsbD j = v) →
      ((List.range n).foldl step x).getLsbD j = if k < n then v else x.getLsbD j
  | 0, _, _, _ => rfl
  | n + 1, x, ho, hk => by
    rw [List.range_succ, List.foldl_concat]
    rcases eq_or_ne n k with rfl | hn
    · rw [hk n.lt_succ_self, if_pos n.lt_succ_self]
    · rw [ho _ n n.lt_succ_self hn, getLsbD_foldl_range x (fun r i hi => ho r i (by omega)) (fun h => hk (by omega))]
      exact if_congr (by omega) rfl rfl

theorem getLsbD_tableWord (tt : BitVec 8) (x y z : BitVec 32) {i : Nat} (hi : i < 32) :
    (tableWord tt x y z).getLsbD i =
      tt.getLsbD ((z.getLsbD i).toNat * 4 + (y.getLsbD i).toNat * 2 + (x.getLsbD i).toNat) := by
  unfold tableWord
  rw [getLsbD_foldl_range (k := i) _ (fun r n _ hn => ?_) (fun _ r => ?_), if_pos hi]
  · rw [getLsbD_setBit, if_neg (by omega)]
  · rw [getLsbD_setBit, if_pos ⟨rfl, hi⟩, table3]

theorem getLsbD_reverseBits {w : Nat} (hw : w ≤ 64) (x : BitVec 64) {i : Nat} (hi : i < w) :
    (reverseBits w x).getLsbD i = x.getLsbD (w - 1 - i) := by
  unfold reverseBits
  rw [getLsbD_foldl_range (k := w - 1 - i) _ (fun r n _ hn => ?_) (fun _ r => ?_), if_pos (by omega)]
  · rw [getLsbD_setBit, if_neg (by omega)]
  · rw [getLsbD_setBit, if_pos (by omega)]

theorem getLsbD_insertField {w : Nat} (hw : w ≤ 64) (x base : BitVec 64) (pos len : Nat) {i : Nat} (hi : i < w) :
    (insertField w x base pos len).getLsbD i =
      if pos ≤ i ∧ i < pos + len then x.getLsbD (i - pos) else base.getLsbD i := by
  unfold insertField
  have other {r : BitVec 64} {n : Nat} (hn : pos + n ≠ i) :
      (if pos + n < w then setBit r (pos + n) (x.getLsbD n) else r).getLsbD i = r.getLsbD i := by
    split
    · rw [getLsbD_setBit, if_neg (by omega)]
    · rfl
  by_cases hp : pos ≤ i
  · rw [getLsbD_foldl_range (k := i - pos) _ (fun r n _ hn => other (by omega)) (fun _ r => ?_)]
    · exact if_congr (by omega) rfl rfl
    · rw [if_pos (by omega), getLsbD_setBit, if_pos (by omega)]
  · rw [getLsbD_foldl_range (k := min len w) (v := false) _ (fun r n _ _ => other (by omega)) (fun h => absurd h (lt_irrefl _)),
      if_neg (lt_irrefl _), if_neg (by omega)]

/-- The ones of BMSK, as a bit of the pattern. -/
theorem getLsbD_ones (pos len i : Nat) :
    (if pos ≥ 32 then 0 else BitVec.ofNat 64 ((2 ^ min len 32 - 1) * 2 ^ pos % 2 ^ 32)).getLsbD i =
      decide (i < 32 ∧ pos ≤ i ∧ i < pos + len) := by
  split
  · simp only [BitVec.ofNat_eq_ofNat, BitVec.getLsbD_zero]
    grind
  · rw [BitVec.getLsbD_ofNat, Nat.testBit_mod_two_pow, Nat.testBit_mul_two_pow, Nat.testBit_two_pow_sub_one]
    grind

/-! Zeros counted. -/

theorem leadZeros_spec (x : BitVec 64) : ∀ w, leadZeros x w ≤ w ∧
    (∀ i, w - leadZeros x w ≤ i → i < w → x.getLsbD i = false) ∧
    (leadZeros x w < w → x.getLsbD (w - 1 - leadZeros x w) = true)
  | 0 => by simp [leadZeros]
  | w + 1 => by
    obtain ⟨hle, hz, ho⟩ := leadZeros_spec x w
    unfold leadZeros
    split
    next h => exact ⟨w.succ.zero_le, by omega, fun _ => h⟩
    next h =>
      refine ⟨by omega, fun i hi hw => ?_, fun hl => ?_⟩
      · rcases eq_or_ne i w with rfl | hn
        · simpa using h
        · exact hz i (by omega) (by omega)
      · rw [show w + 1 - 1 - (1 + leadZeros x w) = w - 1 - leadZeros x w by omega]
        exact ho (by omega)

theorem trailZeros_spec (w : Nat) (x : BitVec 64) : trailZeros w x ≤ w ∧
    (∀ i, i < trailZeros w x → x.getLsbD i = false) ∧ (trailZeros w x < w → x.getLsbD (trailZeros w x) = true) := by
  have hl : (List.range w).findIdx x.getLsbD ≤ w := by simpa using (List.range w).findIdx_le_length (p := x.getLsbD)
  have ht : trailZeros w x = (List.range w).findIdx x.getLsbD := by
    simpa [trailZeros, List.takeWhile_eq_take_findIdx_not] using hl
  rw [ht]
  refine ⟨hl, fun i hi => ?_, fun h => ?_⟩
  · simpa using List.not_of_lt_findIdx hi
  · have hb := List.findIdx_getElem (xs := List.range w) (p := x.getLsbD) (w := by simpa using h)
    rwa [List.getElem_range] at hb

/-! Bytes selected. -/

/-- A result byte of BYSEL, by the three cases of its selector byte (R192). -/
theorem ofNat_byteSelect (x : BitVec 64) (sel : Nat) :
    BitVec.ofNat 8 (byteSelect x sel) =
      if sel / 8 % 4 = 0 then BitVec.ofNat 8 (x.toNat / 2 ^ (8 * (sel % 8)) % 256)
      else if sel / 8 % 4 = 1 then (if x.toNat / 2 ^ (8 * (sel % 8)) % 256 ≥ 128 then 255 else 0)
      else if sel / 8 % 4 = 2 then 0 else 255 := by
  unfold byteSelect
  generalize sel / 8 % 4 = m
  match m with
  | 0 => rfl
  | 1 => exact apply_ite (BitVec.ofNat 8) ..
  | 2 => rfl
  | n + 3 => rfl

/-! The instructions under `Clear`. -/

theorem bitOp2_clear (h : Clear (regNeed c [nm d wide] [nm a wide, nm b wide]) s cx) (f : BitVec 64 → BitVec 64 → BitVec 64) :
    bitOp2 c wide f d a b k s = .next (s.wrote cx c (fun t =>
      [⟨d, wide, fit wide (f (readOp cx.group t k .sint wide a) (readOp cx.group t k .sint wide b))⟩])) :=
  vecOp_clear h _

theorem shiftOp_clear (h : Clear (regNeed c [nm d wide] [nm a wide, nm b false]) s cx) (f : BitVec 64 → Nat → BitVec 64) :
    shiftOp c wide f d a b k s = .next (s.wrote cx c (fun t =>
      [⟨d, wide, fit wide (f (readOp cx.group t k .sint wide a) (readOp cx.group t k .sint false b).toNat)⟩])) :=
  vecOp_clear h _

theorem countOp_clear (h : Clear (regNeed c [nm d false] [nm a wide]) s cx) (f : Nat → BitVec 64 → Nat) :
    countOp c wide f d a k s = .next (s.wrote cx c (fun t =>
      [⟨d, false, BitVec.ofNat 64 (f (widthOf wide) (readOp cx.group t k .sint wide a))⟩])) :=
  vecOp_clear h _

theorem widthOf_le : widthOf wide ≤ 64 := by cases wide <;> decide

/-- The field of BFE, its sign taken where the type is signed (R190). -/
theorem extractField_eq (ty : Ty) (x : Int) (pos len : Nat) :
    extractField ty x pos len =
      let n := min len (tyBits ty)
      let f := x / 2 ^ pos % 2 ^ n
      if n = 0 then 0 else wrapInt (tyBits ty) (if ty.isSigned ∧ f ≥ 2 ^ (n - 1) then f - 2 ^ n else f) := by
  unfold extractField
  simp only [Bool.and_eq_true, decide_eq_true_eq]

theorem execBfe_clear (h : Clear (regNeed c [nm d ty.wide] [nm a ty.wide, nm b false]) s cx) :
    execBfe c ty d a b k s = .next (s.wrote cx c (fun t => [⟨d, ty.wide,
      let n := (readOp cx.group t k .sint false b).toNat
      let len := min (n / 256 % 256) (tyBits ty)
      let f := intVal ty (readOp cx.group t k (tyWiden ty) ty.wide a) / 2 ^ (n % 256) % 2 ^ len
      if len = 0 then 0 else wrapInt (tyBits ty) (if ty.isSigned ∧ f ≥ 2 ^ (len - 1) then f - 2 ^ len else f)⟩])) := by
  unfold execBfe
  rw [vecOp_clear h]
  simp only [extractField_eq]
  rfl

/-- Settles O16: the results are functions of the sources as they stand; those that are put together bit by bit, or counted, are
read by the lemmas above. -/
theorem logicShiftAndBitFieldResults : Obligations.LogicShiftAndBitFieldResults := by
  unfold Obligations.LogicShiftAndBitFieldResults
  constructor
  · intro s cx c wide right tt d a b e k w x n y gives
    exact ⟨fun h => ⟨exec_andb.trans (bitOp2_clear h _), exec_orb.trans (bitOp2_clear h _), exec_xorb.trans (bitOp2_clear h _)⟩,
      fun h => exec_notb.trans (vecOp_clear h _),
      fun h => ⟨exec_shl.trans (shiftOp_clear h _), exec_shr.trans (shiftOp_clear h _), exec_sar.trans (shiftOp_clear h _),
        exec_rot.trans (shiftOp_clear h _)⟩,
      fun h => ⟨exec_funl.trans (vecOp_clear h _), exec_funr.trans (vecOp_clear h _),
        fun t => tableWord tt (y a t) (y b t) (y e t), exec_tlog.trans (vecOp_clear h _), fun _ _ => getLsbD_tableWord _ _ _ _⟩⟩
  · intro s cx c ty wide d a b e k w x x0 n n0
    refine ⟨fun h => exec_bfe.trans (execBfe_clear h),
      fun h => ⟨_, exec_bfi.trans (vecOp_clear h _), fun _ _ => getLsbD_insertField widthOf_le _ _ _ _⟩,
      fun h => ⟨_, exec_bmsk.trans (vecOp_clear h _), fun _ _ => getLsbD_ones ..⟩,
      fun h => ⟨fun t => popCount w (x a t), fun t => leadZeros (x a t) w, fun t => trailZeros w (x a t),
        exec_popc.trans (countOp_clear h _), exec_clz.trans (countOp_clear h _), exec_ctz.trans (countOp_clear h _),
        fun t => ⟨rfl, leadZeros_spec .., trailZeros_spec ..⟩⟩,
      fun h => ⟨_, exec_brev.trans (vecOp_clear h _), fun _ _ => getLsbD_reverseBits widthOf_le _⟩,
      fun h => ⟨fun t i => _, exec_bysel.trans (vecOp_clear h _), fun _ _ _ => ofNat_byteSelect ..⟩⟩

end Sys2Proof.Machine
end

section
/-! FP32 arithmetic, its long-latency functions, and packed half precision (08 R198-R202). -/

namespace Sys2Proof.Machine

variable {s s' : State} {cx : Ctx} {c : Common} {ty : Ty} {rm : Rm} {ftz : Bool} {d a b e : Opnd} {k : BitVec 32}

theorem fpOp2_clear (h : Clear (regNeed c [nm d false] [nm a false, nm b false]) s cx) (f : Nat → Nat → Nat) :
    fpOp2 c ftz f d a b k s = .next (s.wrote cx c (fun t =>
      [⟨d, false, BitVec.ofNat 64 (flush ftz (f (fpSrc cx.group t k ftz a) (fpSrc cx.group t k ftz b)))⟩])) :=
  vecOp_clear h _

/-- FMIN and FMAX, the NaNs first (R199). -/
theorem minMax_eq (f : Fmt) (isMax nan : Bool) (p q : Nat) :
    minMax f isMax nan p q =
      if (f.isNan p && f.isNan q) || (nan && (f.isNan p || f.isNan q)) then f.canonNan
      else if f.isNan p then q else if f.isNan q then p
      else if isMax then (if f.key p < f.key q then q else p) else if f.key q < f.key p then q else p := by
  unfold minMax
  cases f.isNan p <;> cases f.isNan q <;> cases nan <;> rfl

/-- Settles O17: each instruction is its function of patterns under `fpOp2`, FMIN and FMAX with their NaNs told apart. -/
theorem fp32ArithmeticResults : Obligations.Fp32ArithmeticResults := by
  unfold Obligations.Fp32ArithmeticResults
  intro s cx c rm ftz nan d a b e k x x0 pick gives
  have hm (isMax : Bool) : minMax fp32 isMax nan = pick isMax := funext fun p => funext fun q => minMax_eq fp32 isMax nan p q
  refine ⟨fun h => ⟨exec_fadd.trans (fpOp2_clear h _), exec_fsub.trans (fpOp2_clear h _), exec_fmul.trans (fpOp2_clear h _),
      ?_, ?_⟩,
    fun h => exec_ffma.trans (vecOp_clear h _), fun h => exec_fclass.trans (vecOp_clear h _)⟩
  · rw [exec_fmin, execFmin, hm]
    exact fpOp2_clear h _
  · rw [exec_fmax, execFmax, hm]
    exact fpOp2_clear h _

/-- A function of one operand goes in flight with its rounded values bound (08 R200). -/
theorem fun1_clear {f : Fun1} (h : Clear (regNeed c [nm d false] [nm a false]) s cx)
    (hs : s.launched cx c { dst := some (d, false), vals := (cx.exec c).map (fun t => (t.lane, BitVec.ofNat 64
      (flush ftz (roundDir (f.apply (fp32.value (fpSrc cx.group t k ftz a))) fp32 rm)))) } = some s') :
    fun1 f c rm ftz d a k s = .next s' :=
  longOp_clear h _ hs

/-- Settles O18: FDIV and the functions of one operand go in flight with their values bound. -/
theorem longLatencyFloatResults : Obligations.LongLatencyFloatResults := by
  unfold Obligations.LongLatencyFloatResults
  intro s cx c rm ftz d a b k x bound
  exact ⟨fun h s' hs => exec_fdiv.trans (longOp_clear h _ hs), fun h s' =>
    ⟨fun hs => exec_fsqrt.trans (fun1_clear h hs), fun hs => exec_frcp.trans (fun1_clear h hs),
      fun hs => exec_frsq.trans (fun1_clear h hs), fun hs => exec_fex2.trans (fun1_clear h hs),
      fun hs => exec_flg2.trans (fun1_clear h hs), fun hs => exec_fsin.trans (fun1_clear h hs),
      fun hs => exec_fcos.trans (fun1_clear h hs), fun hs => exec_ftanh.trans (fun1_clear h hs)⟩⟩

theorem halfFmt_eq (ty : Ty) : halfFmt ty = if ty = .f16 then fp16 else bf16 := by simp only [halfFmt, beq_iff_eq]

theorem packedOp2_clear (h : Clear (regNeed c [nm d false] [nm a false, nm b false]) s cx) (f : Nat → Nat → Nat) :
    packedOp2 c ty f d a b s = .next (s.wrote cx c (fun t => [⟨d, false,
      pack (fun i => f (elem (packedSrc cx.group t ty a) i) (elem (packedSrc cx.group t ty b) i))⟩])) :=
  vecOp_clear h _

/-- Settles O19: each instruction is its function of one element, in the format of the type. -/
theorem packedHalfResults : Obligations.PackedHalfResults := by
  unfold Obligations.PackedHalfResults
  intro s cx c ty rm nan d a b e f x v gives
  have hf : halfFmt ty = f := halfFmt_eq ty
  clear_value f
  subst hf
  exact ⟨fun h => ⟨exec_hadd2.trans (packedOp2_clear h _), exec_hmul2.trans (packedOp2_clear h _),
      exec_hmin2.trans (packedOp2_clear h _), exec_hmax2.trans (packedOp2_clear h _)⟩,
    fun h => exec_hfma2.trans (vecOp_clear h _)⟩

end Sys2Proof.Machine
end

section
/-! Comparison, selection and the moves of predicates (08 R193-R196). -/

namespace Sys2Proof.Machine

variable {s : State} {cx : Ctx} {c : Common} {d a b : Opnd} {k : BitVec 32}

/-- FSETP's rule, the unordered sources told apart (R194). -/
theorem floatCompare_eq (f : Fmt) (cmp : Cmp) (unord : Bool) (x y : Nat) :
    floatCompare f cmp unord x y = ((f.value x).cmp (f.value y)).elim (unord || cmp == .nan) (relHolds cmp) := by
  unfold floatCompare
  cases (f.value x).cmp (f.value y) <;> rfl

/-! P2V. -/

/-- The bits below n taken by p, as a number (R196). -/
def bitSum (p : Nat → Bool) (n : Nat) : Nat := (List.range n).foldl (fun x i => if p i then x + 2 ^ i else x) 0

theorem bitSum_succ (p : Nat → Bool) (n : Nat) : bitSum p (n + 1) = if p n then bitSum p n + 2 ^ n else bitSum p n := by
  simp only [bitSum, List.range_succ, List.foldl_concat]

theorem bitSum_lt (p : Nat → Bool) : ∀ n, bitSum p n < 2 ^ n
  | 0 => Nat.one_pos
  | n + 1 => by
    have h := bitSum_lt p n
    rw [bitSum_succ, pow_succ]
    split <;> omega

/-- Bit n of the sum to n + 1 is the one added, and those below are as they were. -/
theorem testBit_bitSum (p : Nat → Bool) (i : Nat) : ∀ n, (bitSum p n).testBit i = (decide (i < n) && p i)
  | 0 => by simp [bitSum]
  | n + 1 => by
    have h := testBit_bitSum p i n
    have hn := Nat.testBit_lt_two_pow (bitSum_lt p n)
    rw [bitSum_succ]
    rcases lt_trichotomy i n with hi | rfl | hi
    · split
      · rw [Nat.add_comm, Nat.testBit_two_pow_add_gt hi, h]
        simp [hi, show i < n + 1 by omega]
      · rw [h]
        simp [hi, show i < n + 1 by omega]
    · split
      next hp => rw [Nat.add_comm, Nat.testBit_two_pow_add_eq, hn, hp]; simp
      next hp => rw [hn]; simp [hp]
    · have hl := (bitSum_lt p (n + 1)).trans_le (Nat.pow_le_pow_right Nat.two_pos hi)
      rw [← bitSum_succ, Nat.testBit_lt_two_pow hl]
      simp [show ¬i < n + 1 by omega]

theorem execP2v_clear (h : Clear (regNeed c [nm d false] allPreds) s cx) :
    execP2v c d s = .next (s.wrote cx c (fun t => [⟨d, false, BitVec.ofNat 64 (bitSum t.p 15)⟩])) :=
  vecOp_clear h _

theorem getLsbD_ofNat_bitSum (p : Nat → Bool) (i : Nat) :
    (BitVec.ofNat 64 (bitSum p 15)).getLsbD i = (decide (i < 15) && p i) := by
  rw [BitVec.getLsbD_ofNat, testBit_bitSum]
  grind

/-! V2P. -/

/-- The predicates that V2P's mask names for some executing thread. -/
def namedPreds (cx : Ctx) (c : Common) (k : BitVec 32) (b : Opnd) : List Names :=
  allPreds.filter (fun n => (cx.exec c).any (fun t => (maskPreds cx.group k b t).contains n))

/-- The need of V2P: a thread of the vector pipe names the predicates as sources, an ejected one as destinations. -/
def v2pNeed (cx : Ctx) (c : Common) (k : BitVec 32) (a b : Opnd) : Need :=
  { common := c, writes := if cx.run.pip then namedPreds cx c k b else [],
    reads := [nm a false, nm b false] ++ (if cx.run.pip then [] else namedPreds cx c k b) }

theorem v2pNeed_eq : v2pNeed cx c k a b =
    if cx.run.pip then regNeed c (namedPreds cx c k b) [nm a false, nm b false]
    else regNeed c [] ([nm a false, nm b false] ++ namedPreds cx c k b) := by
  unfold v2pNeed
  cases cx.run.pip <;> rfl

/-- The mask names a live-in of the thread's region. -/
def namesLiveIn (cx : Ctx) (k : BitVec 32) (b : Opnd) (t : Thread) : Bool :=
  t.region.any (fun r => (maskPreds cx.group k b t).any r.names)

/-- V2P's own check (R196). -/
def v2pTrap (k : BitVec 32) (b : Opnd) (cx : Ctx) (t : Thread) : Option Trap :=
  if namesLiveIn cx k b t then some ⟨.regionViolation, 0, 0⟩ else none

/-- V2P's writes: each named predicate takes A's bit. -/
def v2pWrites (k : BitVec 32) (a b : Opnd) (cx : Ctx) (t : Thread) : List Wr :=
  (maskPreds cx.group k b t).map (fun n => ⟨n.1, false, match n.1 with
    | .p i => bit64 ((readOp cx.group t k .sint false a).getLsbD i.toNat)
    | _ => 0⟩)

theorem execV2p_eq (hc : s.ctx? = some cx) :
    execV2p c a b k s = issue (v2pNeed cx c k a b) noTrap (v2pTrap k b)
      (fun cx ex s => .done (s.writeAll cx.run.ref ex (v2pWrites k a b cx))) s := by
  unfold execV2p
  rw [hc]
  refine congrArg (fun own => issue _ noTrap own _ s) (funext fun cx => funext fun t => ?_)
  unfold v2pTrap namesLiveIn
  cases t.region <;> rfl

theorem traps_ite (p : Thread → Bool) (tr : Trap) (ts : List Thread) :
    traps (fun t => if p t then some tr else none) ts = (ts.filter p).map (fun t => (t.lane, tr)) := by
  induction ts with
  | nil => rfl
  | cons t ts ih =>
    cases h : p t <;> simpa [traps, h] using ih

/-- Under Clear, only a check of the instruction's own stops a thread: those that fail it trap. -/
theorem issue_own_traps {n : Need} (h : Clear n s cx) {own : Ctx → Thread → Option Trap} (act : Ctx → List Thread → State → Act)
    (hl : traps (own cx) (cx.exec n.common) ≠ []) :
    issue n noTrap own act s = .next ((n.noted cx (traps (own cx) (cx.exec n.common)) s).trapSome cx
      (traps (own cx) (cx.exec n.common))) := by
  have ht : traps (fun t => (commonTrap n cx t).orElse (fun _ => own cx t)) (cx.exec n.common) =
      traps (own cx) (cx.exec n.common) :=
    List.filterMap_congr fun t ht => by simp [h.sound t ht]
  rw [issue_reached h.reached (noTrap_none cx _), ht]
  obtain ⟨x, xs, hx⟩ := List.exists_cons_of_ne_nil hl
  rw [hx]

section v2p
variable (h : Clear (v2pNeed cx c k a b) s cx)
include h

/-- Threads whose mask names a live-in of their region trap (R196). -/
theorem execV2p_traps {bad : List (Nat × Trap)}
    (hb : bad = ((cx.exec c).filter (namesLiveIn cx k b)).map (fun t => (t.lane, ⟨.regionViolation, 0, 0⟩))) (hne : bad ≠ []) :
    execV2p c a b k s = .next (s.trapSome cx bad) := by
  have ht : traps (v2pTrap k b cx) (cx.exec c) = bad := hb ▸ traps_ite (namesLiveIn cx k b) _ _
  rw [execV2p_eq h.stands, issue_own_traps h _ (ht ▸ hne)]
  exact ht ▸ rfl

theorem execV2p_writes (hn : (cx.exec c).filter (namesLiveIn cx k b) = []) :
    execV2p c a b k s = .next (s.wrote cx c (v2pWrites k a b cx)) := by
  rw [execV2p_eq h.stands]
  refine issue_clear h (noTrap_none cx _) (fun t ht => ?_) _
  exact if_neg (List.filter_eq_nil_iff.1 hn t ht)

end v2p

/-- Settles O20: each instruction writes its result; the bits of P2V are those of a sum of powers, and V2P traps the threads whose
mask names a live-in of their region, or writes if there are none. -/
theorem comparisonAndSelectionResults : Obligations.ComparisonAndSelectionResults := by
  unfold Obligations.ComparisonAndSelectionResults
  intro s cx c ty cmp unord wide tt d a b e k bool v pr rel
  have hrel (p : Option Ordering) : p.elim (unord || cmp == .nan) (relHolds cmp) = rel p := by cases p <;> rfl
  refine ⟨fun h => exec_isetp.trans (vecOp_clear h _), fun h => ?_, fun h => ?_, fun h => ?_,
    fun h => exec_pset.trans (vecOp_clear h _),
    fun h => ⟨_, exec_p2v.trans (execP2v_clear h), fun t => getLsbD_ofNat_bitSum t.p⟩, ?_⟩
  · simp only [← hrel, ← floatCompare_eq]
    exact exec_fsetp.trans (vecOp_clear h _)
  · simp only [← hrel, ← floatCompare_eq]
    exact exec_hsetp2.trans (vecOp_clear h _)
  · rw [exec_sel, execSel, vecOp_clear h]
    simp only [pr, beq_iff_eq]
  · rintro named rfl n hn h bad hb
    rw [show n = v2pNeed cx c k a b from hn.trans v2pNeed_eq.symm] at h
    refine ⟨fun hne => exec_v2p.trans (execV2p_traps h hb hne), fun he => exec_v2p.trans (execV2p_writes h ?_)⟩
    exact List.map_eq_nil_iff.1 (hb.symm.trans he)

end Sys2Proof.Machine
end

section
/-! Conversion, rounding to integral and quantisation (08 R203-R206). -/

namespace Sys2Proof.Machine

variable {s : State} {cx : Ctx} {c : Common} {d a b : Opnd}

theorem tyFmt_eq (ty : Ty) : tyFmt ty = if ty = .f16 then fp16 else if ty = .bf16 then bf16 else fp32 := by cases ty <;> rfl

theorem elem_zero (x : Nat) : elem x 0 = x % 65536 := by rw [elem, pow_zero, Nat.div_one]
theorem elem_one (x : Nat) : elem x 1 = x / 65536 % 65536 := by rw [elem, pow_one]

/-- An integer result takes its register's width by its own sign (R203). -/
theorem extendInt_eq (ty : Ty) (x : Int) :
    extendInt ty x = wrapInt (if ty.wide then 64 else 32) (intVal ty (wrapInt (tyBits ty) x)) := by
  unfold extendInt
  cases ty.wide <;> rfl

/-- A slot that the launch binds is no fault of QNT's or DQNT's form. -/
theorem slotBad_bound {slot : BitVec 3} (hc : s.ctx? = some cx) (hs : (cx.launch.lr.slot slot).afmt ≠ .none) :
    slotBad s slot = false := by
  simp [slotBad, hc, hs]

/-- QNT and DQNT with a bound slot write what their function makes of its fields (08 R206). -/
theorem slotOp_clear {useB : Bool} {slot : BitVec 3} (h : Clear (regNeed c [nm d false] [nm a false, nm b false]) s cx)
    (hs : (cx.launch.lr.slot slot).afmt ≠ .none) (f : Slot → ElemFmt → Nat → Nat → BitVec 64) :
    slotOp f c useB slot d a b s = .next (s.wrote cx c (fun t =>
      let sl := cx.launch.lr.slot slot
      [⟨d, false, f sl (if useB then sl.bfmt else sl.afmt) (readOp cx.group t 0 .uint false a).toNat
        (readOp cx.group t 0 .uint false b).toNat⟩])) := by
  unfold slotOp
  rw [slotBad_bound h.stands hs]
  exact issue_done h rfl rfl

/-- Settles O21: the formats and the extension of R203 in the model's own words, clause by clause. -/
theorem conversionResults : Obligations.ConversionResults := by
  unfold Obligations.ConversionResults
  intro s cx c ty dty sty rm sat useB slot d a b x fl toF ext half q sl el
  have hfl (ty : Ty) : tyFmt ty = fl ty := tyFmt_eq ty
  have hto (ty : Ty) (v : Ex) : toFloat (fl ty) rm sat v = toF ty v := by cases v <;> rfl
  have hext (e : Int) : extendInt dty e = ext e := extendInt_eq dty e
  refine ⟨fun h => ?_, fun h => ?_, fun h => ?_, fun h => ?_, fun h hs => ⟨?_, ?_⟩⟩
  · simp only [exec_cvt, execCvt, vecOp_clear h, convert, tyValue, hfl, hto, hext]
    cases sty.isFloat <;> rfl
  · simp only [exec_cvth, execCvth, hfl, hto]
    exact vecOp_clear h _
  · simp only [exec_cvth, execCvth, vecOp_clear h, hfl, elem_zero, elem_one]
    rfl
  · simp only [exec_frnd, execFrnd, vecOp_clear h, hfl]
    rfl
  · exact exec_qnt.trans (slotOp_clear h hs _)
  · exact exec_dqnt.trans (slotOp_clear h hs _)

end Sys2Proof.Machine
end

section
/-! Moves, votes, reductions and the butterfly across the lanes of a group (09 R217-R222): under `Gathered` the writes are those of
`lanesOp`, and what remains is each instruction's function of the executing members. -/

namespace Sys2Proof.Machine

/-- Members that have gathered write what the instruction's function comes to in each of them. -/
theorem lanesOp_writes {c : Common} {w r : List Names} {msk : Option Opnd} {s : State} {cx cx' : Ctx}
    (h : Gathered c w r msk s cx cx') {f : Ctx → List Thread → Thread → List Wr} {g : Thread → List Wr}
    (hf : ∀ t, f cx' (cx'.exec c) t = g t) : lanesOp c w r msk f s = .next ((s.gather cx).wrote cx' c g) := by
  rw [lanesOp_gathered h, funext hf]

/-- The source of SHFL among the executing members: none where the mode names no lane, or where that lane does not execute. -/
theorem find?_shflSource (ex : List Thread) (src : Option Nat) :
    ex.find? (fun u => some u.lane == src) = src.bind (fun i => ex.find? (·.lane == i)) := by
  cases src with
  | none => exact List.find?_eq_none.2 fun _ _ h => by simp at h
  | some i => rfl

/-! The butterfly exchange. -/

/-- At a distance of one bit, that bit of the lane tells the upper lane of a pair from the lower. -/
theorem butterfly_two_pow (lane i : Nat) (a p m : BitVec 64) :
    butterfly lane (2 ^ i) a p m =
      if lane.testBit i then (a &&& ~~~(m <<< 2 ^ i)) ||| ((p &&& m) <<< 2 ^ i) else (a &&& ~~~m) ||| ((p >>> 2 ^ i) &&& m) := by
  unfold butterfly
  rw [Nat.and_two_pow]
  cases lane.testBit i with
  | false => rw [Bool.toNat_false, Nat.zero_mul]; rfl
  | true => rw [Bool.toNat_true, Nat.one_mul, if_neg (Nat.two_pow_pos i).ne', if_pos rfl]

/-- What a lane of BXCH takes at distance n, in a group of w lanes and a type of k bits, from its own value x, its mask m and the
value of its partner, if that executes (R222). -/
def exchanged (lane n w k : Nat) (x m : BitVec 64) : Option (BitVec 64) → BitVec 64
  | some p => if n != 0 && n == 2 ^ n.log2 && decide (n < w) && decide (n < k) then butterfly lane n x p m else x
  | none => x

theorem exchanged_two_pow {n i w k : Nat} {o : Option (BitVec 64)} {p : BitVec 64} (hn : n = 2 ^ i) (hw : 2 ^ i < w)
    (hk : 2 ^ i < k) (ho : o = some p) (lane : Nat) (x m : BitVec 64) :
    exchanged lane n w k x m o =
      if lane.testBit i then (x &&& ~~~(m <<< 2 ^ i)) ||| ((p &&& m) <<< 2 ^ i) else (x &&& ~~~m) ||| ((p >>> 2 ^ i) &&& m) := by
  subst hn ho
  rw [exchanged, if_pos (by simp [Nat.log2_two_pow, hw, hk]), butterfly_two_pow]

/-- A lane keeps its own value where its partner does not execute, or the distance is no single bit within both widths. -/
theorem exchanged_own {n w k : Nat} {o : Option (BitVec 64)} (h : o = none ∨ (∀ i, n ≠ 2 ^ i) ∨ w ≤ n ∨ k ≤ n) (lane : Nat)
    (x m : BitVec 64) : exchanged lane n w k x m o = x := by
  cases o with
  | none => rfl
  | some p =>
    refine if_neg fun hv => ?_
    simp only [Bool.and_eq_true, bne_iff_ne, beq_iff_eq, decide_eq_true_eq] at hv
    obtain ⟨⟨⟨-, hp⟩, hw⟩, hk⟩ := hv
    obtain h | h | h | h := h
    · cases h
    · exact h _ hp
    · exact hw.not_ge h
    · exact hk.not_ge h

theorem execBxch_gathered {s : State} {cx cx' : Ctx} {c : Common} {wide : Bool} {d a b e : Opnd}
    (h : Gathered c [nm d wide] [nm a wide, nm b false, nm e wide] none s cx cx') :
    execBxch c wide d a b e s = .next ((s.gather cx).wrote cx' c (fun t =>
      let n := (loWord (laneVal cx' .sint false b t)).toNat
      [⟨d, wide, fit wide (exchanged t.lane n cx'.launch.lr.width (if wide then 64 else 32) (laneVal cx' .sint wide a t)
        (laneVal cx' .sint wide e t)
        (((cx'.exec c).find? (·.lane == t.lane ^^^ n)).map (laneVal cx' .sint wide a)))⟩])) := by
  refine lanesOp_writes h fun t => ?_
  dsimp only
  cases (cx'.exec c).find? (·.lane == t.lane ^^^ (loWord (laneVal cx' .sint false b t)).toNat) <;> rfl

/-- Settles O25: each instruction's function of the executing members; the source of SHFL is named by its mode, and BXCH keeps its
own value unless its distance is valid and its partner executes. -/
theorem crossLaneMovesAndVotes : Obligations.CrossLaneMovesAndVotes := by
  unfold Obligations.CrossLaneMovesAndVotes
  intro s cx cx' c wide all mode vote d a b e msk s' ex v p n w at_ source
  have hsource (t : Thread) :
      ex.find? (fun u => some u.lane == shflSource mode t.lane (n t) w) = source t := by
    rw [find?_shflSource]
    cases mode with
    | idx => rfl
    | up => exact apply_ite (Option.bind · at_) ..
    | down => exact apply_ite (Option.bind · at_) ..
    | xor => rfl
  refine ⟨fun h => ?_, fun h => exec_vote.trans (lanesOp_gathered h _), fun h => exec_ballot.trans (lanesOp_gathered h _),
    fun h => exec_matchOp.trans (lanesOp_gathered h _), fun h => exec_elect.trans (lanesOp_gathered h _),
    fun h => ⟨_, exec_bxch.trans (execBxch_gathered h), fun t => ⟨fun i u hn hw hk hu => ?_, fun h => ?_⟩⟩⟩
  · refine exec_shfl.trans (lanesOp_writes h fun t => ?_)
    rw [← hsource]
    rfl
  · have ho : (at_ (t.lane ^^^ n t)).map (v wide a) = some (v wide a u) := by rw [hn, hu, Option.map_some]
    exact congrArg (fit wide) (exchanged_two_pow hn hw hk ho ..)
  · exact congrArg (fit wide) (exchanged_own (h.imp_left fun hn => Option.map_eq_none_iff.2 hn) ..)

/-- Settles O26: each instruction's function of the executing members; the winner of GARG is the model's own. -/
theorem groupReductionsFollowLaneTree : Obligations.GroupReductionsFollowLaneTree := by
  unfold Obligations.GroupReductionsFollowLaneTree
  intro s cx cx' c ty op excl nanwin hash isMin d a b msk s' ex val lanes all nums
  refine ⟨fun h => ⟨exec_gred.trans (lanesOp_gathered h _), exec_gscan.trans (lanesOp_gathered h _)⟩, fun h w hw => ?_⟩
  refine exec_garg.trans (lanesOp_writes h fun t => ?_)
  dsimp only
  split
  next w' hw' =>
    cases hw'.symm.trans hw
    rfl
  next hn => cases hn.symm.trans hw

end Sys2Proof.Machine
end

section
/-! The matrix engine's instructions (10 R227-R241): the pair's reservation and the commit (O38), and the commands that enter the
pair's queue (O39). -/

namespace Sys2Proof.Machine

variable {s s1 s' u : State} {cx : Ctx} {c : Common} {d a b : Opnd} {id : Nat}

/-- The need of an instruction of the matrix engine without a handle (R227-R229, R241). -/
abbrev pairNeed (c : Common) (writes : List Names) (roles : Option (List Nat)) : Need :=
  { common := c, writes := writes, roles := roles, recallFirst := true, ordered := true, afterLog := true }

/-! MRES and MREL. -/

/-- The block of the issuing run, as a pair's holder. -/
abbrev Ctx.asHolder (cx : Ctx) : Nat × Nat := (cx.block.launch, cx.block.idx)

/-- What MRES answers in each executing thread (R227). -/
abbrev mresFlight (cx : Ctx) (c : Common) (d : Opnd) (x : BitVec 64) : Flight :=
  { dst := some (d, false), vals := (cx.exec c).map (fun t => (t.lane, x)) }

section reserve
variable {p : Pair} (h : Clear (pairNeed c [nm d false] (some matrixRoles)) s cx) (hp : s.pair? cx.block.pair = some p)
include h hp

/-- The block of an MRES has the pair where it holds it or the pair was free, which it then takes (R227). -/
theorem execMres_decided {won : Bool} (hw : (p.holder == some cx.asHolder || p.holder.isNone) = won)
    (hg : (if p.holder.isNone then s.grantPair cx.block.pair cx.block.launch cx.block.idx else s) = s1)
    (hs : s1.launched cx c (mresFlight cx c d (if won then 1 else 0)) = some s') : execMres c d s = .next s' := by
  subst hw hg
  refine (issue_clear h (noTrap_none cx _) (noTrap_none cx _) _).trans ?_
  simp only [hp, Option.bind_some, Option.isSome_some, Bool.and_true]
  exact fly_launched rfl rfl hs

theorem execMres_own (hh : p.holder = some cx.asHolder) (hs : s.launched cx c (mresFlight cx c d 1) = some s') :
    execMres c d s = .next s' :=
  execMres_decided (won := true) h hp (by rw [hh, beq_self_eq_true, Bool.true_or]) (by rw [hh]; rfl) hs

theorem execMres_free (hh : p.holder = none)
    (hs : (s.grantPair cx.block.pair cx.block.launch cx.block.idx).launched cx c (mresFlight cx c d 1) = some s') :
    execMres c d s = .next s' :=
  execMres_decided (won := true) h hp (by rw [hh]; rfl) (by rw [hh]; rfl) hs

theorem execMres_taken {x : Nat × Nat} (hh : p.holder = some x) (hx : x ≠ cx.asHolder)
    (hs : s.launched cx c (mresFlight cx c d 0) = some s') : execMres c d s = .next s' :=
  execMres_decided (won := false) h hp (by simp [hh, hx]) (by rw [hh]; rfl) hs

end reserve

/-- MREL goes in flight until the reservation's commands are done (R228). -/
theorem execMrel_clear (h : Clear (pairNeed c [] (some matrixRoles)) s cx)
    (hs : s.launched cx c { wait := .drain, fences := true } = some s') : execMrel c s = .next s' :=
  (issue_clear h (noTrap_none cx _) (noTrap_none cx _) _).trans (fly_launched rfl rfl hs)

/-! MZERO and MCOMMIT. -/

theorem reservedTrap_none (hh : s.holdsPair cx = true) (t : Thread) : reservedTrap s cx t = none := if_pos hh

/-- An MZERO with a reservation and room enters the queue after its release, and is counted (R229, R235). -/
theorem execMzero_enters {i : BitVec 5} (h : Clear (pairNeed c [nm (.a i) false] (some matrixRoles)) s cx)
    (hh : s.holdsPair cx = true) (hf : pairFull s cx = false) (hr : ∀ t ∈ cx.exec c, s.remoteWait t = false) :
    execMzero c (.a i) s = .next ((((s.releaseAt cx.site (s.wider .blk cx.block cx.run.ref)).enqueueMatrix cx (cx.exec c) (.mzero i)
      [] 0 []).countCmd cx.run.ref .matrix true).goOnRun cx.run c) := by
  refine (issue_clear h (fun t _ => reservedTrap_none hh t) (noTrap_none cx _) _).trans ?_
  simp only [hf, any_none hr, Bool.or_self, Bool.false_eq_true, if_false]
  rfl

section commit
variable (h : Clear (pairNeed c [] none) s cx)
include h

/-- With a reservation an MCOMMIT that may be in flight takes its place in the queue (R241). -/
theorem execMcommit_queued (hh : s.holdsPair cx = true) (hf : pairFull s cx = false)
    (hs : s.fly cx c (lanesOf ((cx.exec c).map (·.lane))) { wait := .commit, fences := true, ends := true } = some (id, s1)) :
    execMcommit c s =
      ((s1.enqueueMatrix cx (cx.exec c) (.mcommit id) [] 0 []).holdOutside cx c (cx.exec c) id).out (pairNeed c [] none) s cx := by
  refine (issue_clear h (noTrap_none cx _) (noTrap_none cx _) _).trans ?_
  simp only [hh, hf, hs, Bool.false_eq_true, if_false, if_true]

/-- Without one it commits the block's tiles at once (R241). -/
theorem execMcommit_atOnce (hh : s.holdsPair cx = false)
    (hs : s.fly cx c (lanesOf ((cx.exec c).map (·.lane)))
      { vals := (cx.exec c).map (fun t => (t.lane, 0)), fences := true, ends := true } = some (id, s1)) :
    execMcommit c s =
      ((s1.modBlock cx.run.ref.launch cx.run.ref.blk (·.commit)).holdOutside cx c (cx.exec c) id).out (pairNeed c [] none) s cx := by
  refine (issue_clear h (noTrap_none cx _) (noTrap_none cx _) _).trans ?_
  simp only [hh, hs, Bool.false_eq_true, if_false]

end commit

/-- Settles O38: MRES by who holds the pair; the others are their acts under `Clear`, and of MCOMMIT what `holdOutside` makes. -/
theorem matrixReservationAndCommit : Obligations.MatrixReservationAndCommit := by
  unfold Obligations.MatrixReservationAndCommit
  intro s s' cx c d ex lanes out r me need ans goes
  refine ⟨fun h p hp => ⟨execMres_own h hp, execMres_free h hp, fun x => execMres_taken h hp⟩, execMrel_clear, ?_, ?_, ?_⟩
  · rintro h hh hf hr i rfl
    exact execMzero_enters h hh hf hr
  · intro h hh hf id s1 hs
    rw [exec_mcommit, execMcommit_queued h hh hf hs]
    exact holdOutside_goes rfl rfl
  · intro h hh id s1 hs
    rw [exec_mcommit, execMcommit_atOnce h hh hs]
    exact holdOutside_goes rfl rfl

/-! The commands with a handle. -/

section command
variable {h : BitVec 64} {k : Block} {slot : BitVec 3} {i : BitVec 5}

/-- The need of a matrix command with a handle (R229). -/
abbrev matrixNeed (s : State) (c : Common) (d : Opnd) (reads : List Names) (bad : Bool) (pre : Ctx → Thread → Option Trap) :
    CmdNeed :=
  { common := c, d := d, reads := reads, roles := matrixRoles, cls := .matrix, formBad := bad
    wide := fun cx => s.wider .blk cx.block cx.run.ref, pre := pre }

/-- A slot is judged in the issuing run's launch. -/
theorem slotUnfit_stands (hc : s.ctx? = some cx) (slot : BitVec 3) (fits : Slot → Bool) :
    slotUnfit s slot fits = ((cx.launch.lr.slot slot).afmt == .none || !fits (cx.launch.lr.slot slot)) := by
  rw [slotUnfit, hc]

/-- An MLDW or MST that may be issued clears the presence of the lines it writes, enters the queue with its descriptor and hands
out its handle. -/
theorem matrixOp_issuable {desc : Opnd} {n : Nat} {tile : List Names} {bad : Bool} {own : Ctx → List (BitVec 32) → Option Trap}
    {op : MatrixOp} {lines : List (BitVec 32) → List Nat} {need : CmdNeed}
    (hn : need = matrixNeed s c d ((desc, n) :: tile) bad (reservedTrap s))
    (hi : Issuable need (own cx (descOf cx.group desc n)) (pairFull s cx) s cx h k)
    (hu : u = ((s.readied need cx k).clearLines cx.run.ref.launch cx.run.ref.blk (lines (descOf cx.group desc n))).enqueueMatrix
      cx (cx.exec c) op (descOf cx.group desc n) h (lines (descOf cx.group desc n)))
    (hb : s.hostBarred u = false) :
    matrixOp c d desc n tile bad own op lines s = .next (u.handed need cx h) := by
  subst hn hu
  exact engineOp_clear hi _ rfl hb

/-- An MMA or MMAS that may be issued enters the queue with its descriptor and hands out its handle. -/
theorem mmaOp_issuable {sparse : Bool} {need : CmdNeed}
    (hn : need = matrixNeed s c d [(b, 5), (.a i, 1)] ((cx.launch.lr.slot slot).afmt == .none ||
      ((cx.launch.lr.slot slot).sparse != 0) != sparse) (tileTrap s (.a i)))
    (hi : Issuable need (mmaTrap cx (cx.launch.lr.slot slot) sparse (descOf cx.group b 5)) (pairFull s cx) s cx h k)
    (hu : u = (s.readied need cx k).enqueueMatrix cx (cx.exec c) (.mma slot sparse i) (descOf cx.group b 5) h [])
    (hb : s.hostBarred u = false) :
    mmaOp c sparse slot d (.a i) b s = .next (u.handed need cx h) := by
  subst hn hu
  rw [mmaOp, slotUnfit_stands hi.clear.stands]
  exact engineOp_clear hi _ rfl hb

/-- An MLDW that may be issued clears the presence of no line (R234). -/
theorem execMldw_issuable {need : CmdNeed}
    (hn : need = matrixNeed s c d [(a, 3)] ((cx.launch.lr.slot slot).afmt == .none || (cx.launch.lr.slot slot).bfmt == .none)
      (reservedTrap s))
    (hi : Issuable need (mldwTrap cx (cx.launch.lr.slot slot) (descOf cx.group a 3)) (pairFull s cx) s cx h k)
    (hu : u = ((s.readied need cx k).clearLines cx.run.ref.launch cx.run.ref.blk []).enqueueMatrix cx (cx.exec c) (.mldw slot)
      (descOf cx.group a 3) h [])
    (hb : s.hostBarred u = false) :
    execMldw c slot d a s = .next (u.handed need cx h) := by
  unfold execMldw
  refine matrixOp_issuable ?_ hi hu hb
  rw [hn, slotUnfit_stands hi.clear.stands, bne, Bool.not_not]

/-- An MST that may be issued clears the presence of the lines that its rows cover (R240). -/
theorem execMst_issuable {ty : Ty} {bias rs : Bool} {rm : Rm} {need : CmdNeed}
    (hn : need = matrixNeed s c d [(b, 4), nm (.a i) false] false (reservedTrap s))
    (hi : Issuable need (mstTrap cx ty bias rs (descOf cx.group b 4)) (pairFull s cx) s cx h k)
    (hu : u = ((s.readied need cx k).clearLines cx.run.ref.launch cx.run.ref.blk (mstLines ty (descOf cx.group b 4))).enqueueMatrix
      cx (cx.exec c) (.mst ty bias rs rm i) (descOf cx.group b 4) h (mstLines ty (descOf cx.group b 4)))
    (hb : s.hostBarred u = false) :
    execMst c ty bias rs rm d (.a i) b s = .next (u.handed need cx h) := by
  unfold execMst
  exact matrixOp_issuable hn hi hu hb

end command

/-- Settles O39: MLDW and MST are `matrixOp`, MMA and MMAS are `mmaOp`: each is an engine command that may be issued. -/
theorem matrixCommandsEnterTheirQueue : Obligations.MatrixCommandsEnterTheirQueue := by
  unfold Obligations.MatrixCommandsEnterTheirQueue
  intro s cx c slot ty bias rs rm d a b h k i ex sl base ld mm st rows
  exact ⟨fun hi u => execMldw_issuable rfl hi, fun hi u => mmaOp_issuable rfl hi, fun hi u => mmaOp_issuable rfl hi,
    fun hi u => execMst_issuable rfl hi⟩

end Sys2Proof.Machine
end

section
/-! The performance of matrix commands (10 R229, R230, R239-R243): the head of a pair's queue starts, and is performed (O47). -/

namespace Sys2Proof.Machine

variable {s u v : State} {pair : Nat} {p : Pair} {m : MatrixCmd} {rest : List MatrixCmd} {l : Launch} {b : Block}

/-- The head of a pair's queue has started. -/
def State.startHead (s : State) (pair : Nat) (m : MatrixCmd) (rest : List MatrixCmd) : State :=
  s.modPair pair (fun p => { p with queue := { m with started := true } :: rest })

/-- The head of a pair's queue, a commit, is taken from it and performed (R241). -/
def State.commitHead (s : State) (pair : Nat) (m : MatrixCmd) (rest : List MatrixCmd) : State :=
  (s.modPair pair (fun p => { p with queue := rest })).modBlock m.ref.launch m.ref.blk (·.commit)

/-- The tile that a command writes is opened (R242). -/
def State.openTile (s : State) (r : GroupRef) : Option (BitVec 5) → State
  | some t => s.modBlock r.launch r.blk (·.modTile t (·.open_))
  | none => s

section head
variable (hp : s.pair? pair = some p) (hq : p.queue = m :: rest)
include hp hq

section start
variable (hl : s.launch? m.ref.launch = some l) (hb : s.block? m.ref.launch m.ref.blk = some b)
include hl hb

/-- A commit at the head is performed, and the instruction that waits for it may complete (R241). -/
theorem execMatrixCommandStart_commit {op : Nat} (ho : m.op = .mcommit op) :
    execMatrixCommandStart pair s = .next { s.commitHead pair m rest with
      inflight := modify (·.id == op) (fun (i : Inflight) =>
        { i with wait := .ready, vals := (laneList i.lanes).map (fun x => (x, 0)) }) (s.commitHead pair m rest).inflight } := by
  simp only [execMatrixCommandStart, hp, hq, hl, hb, ho]
  rfl

section command
variable (ho : ∀ op, m.op ≠ .mcommit op)
include ho

/-- Any other command at the head stays as it is where it has started, waits for its operands or is held (R234, R238, R243). That
it is no commit picks the branch. -/
theorem execMatrixCommandStart_stays (hw : (m.started || !m.ready l.lr b || s.matrixHeld m) = true) :
    execMatrixCommandStart pair s = .next s := by
  simp only [execMatrixCommandStart, hp, hq, hl, hb]
  exact if_pos hw

/-- Else it starts, and its tile is opened (R242). -/
theorem execMatrixCommandStart_starts (hw : (m.started || !m.ready l.lr b || s.matrixHeld m) = false) :
    execMatrixCommandStart pair s = .next ((s.startHead pair m rest).openTile m.ref m.op.writes) := by
  simp only [execMatrixCommandStart, hp, hq, hl, hb]
  exact if_neg (Bool.eq_false_iff.1 hw)

end command
end start

/-- A started command that is not held is performed, the errors in what it reads having been found. -/
theorem execMatrixCommandComplete_started (hl : s.launch? m.ref.launch = some l) (hs : m.started = true)
    (hm : s.matrixHeld m = false) :
    execMatrixCommandComplete pair s = .next ((s.meetAll l.pasid .uncorrectable (m.readsAt l.lr p)).performMatrix pair m) := by
  simp only [execMatrixCommandComplete, hp, hq, hl, hs, hm, Bool.not_true, Bool.or_self, Bool.false_eq_true, if_false]

theorem execMatrixCommandComplete_held (hm : s.matrixHeld m = true) : execMatrixCommandComplete pair s = .next s := by
  simp only [execMatrixCommandComplete, hp, hq, hm, Bool.or_true, if_true]

end head

section perform
variable (hl : u.launch? m.ref.launch = some l) (hb : u.block? m.ref.launch m.ref.blk = some b) (hp : u.pair? pair = some p)
include hl hb hp

/-- A command that reads a poisoned word stops its context (R246). -/
theorem performMatrix_poisoned (hx : m.poisoned l.lr b p = true) : u.performMatrix pair m =
    (u.notePoison l.pasid 0 true).stopContext m.ref.launch .fatalDevice .memUncorrectable (whereThread m.ref 0) 0 := by
  simp only [State.performMatrix, hl, hb, hp, hx, if_true]

/-- Another is performed on the block and the pair, once what it writes whole has lost its errors, and completes with DONE. -/
theorem performMatrix_sound {b2 : Block} {p2 : Pair} (hx : m.poisoned l.lr b p = false) (hv : v = u.overMatrix l.lr b pair m)
    (hb2 : v.block? m.ref.launch m.ref.blk = some b2) (hp2 : v.pair? pair = some p2) : u.performMatrix pair m =
      ((v.modBlock m.ref.launch m.ref.blk (fun _ => (m.perform l.lr b2 p2).1)).modPair pair
        (fun _ => (m.perform l.lr b2 p2).2)).finishMatrix pair m stDone := by
  subst hv
  simp only [State.performMatrix, hl, hb, hp, hx, hb2, hp2, Bool.false_eq_true, if_false]

end perform

/-- Settles O47: the head of the queue by what it is; a started command's performance by whether it reads poison. -/
theorem matrixCommandsStartAndComplete : Obligations.MatrixCommandsStartAndComplete := by
  unfold Obligations.MatrixCommandsStartAndComplete
  intro s pair p m rest l b r hp hq hl hb
  refine ⟨?_, fun ho hm => ⟨?_, execMatrixCommandComplete_held hp hq hm⟩, ?_, ?_⟩
  · rintro op ho s1 rfl
    exact execMatrixCommandStart_commit hp hq hl hb ho
  · exact execMatrixCommandStart_stays hp hq hl hb ho (by rw [hm, Bool.or_true])
  · rintro ho hs hr hm s1 rfl
    rw [exec_matrixCommandStart, execMatrixCommandStart_starts hp hq hl hb ho (by rw [hs, hr, hm]; rfl)]
    exact ⟨fun hw => by rw [hw]; rfl, fun t hw => by rw [hw]; rfl⟩
  · rintro hs hm u b' p' rfl hlu hbu hpu
    rw [exec_matrixCommandComplete, execMatrixCommandComplete_started hp hq hl hs hm]
    exact ⟨fun hx v b2 p2 hv hb2 hp2 => congrArg _ (performMatrix_sound hlu hbu hpu hx hv hb2 hp2),
      fun hx => congrArg _ (performMatrix_poisoned hlu hbu hpu hx)⟩

end Sys2Proof.Machine
end

section
/-! The fabric's instructions (11 R264-R279): each enters its command and sends what may go, or sets the generation of its block
(O41). -/

namespace Sys2Proof.Machine

variable {s u : State} {cx : Ctx} {c : Common} {d a b : Opnd} {h : BitVec 64} {blk : Block} {need : CmdNeed}

/-! FPUT and FGET. -/

section copy
variable {kind : CmdKind} {desc : List (BitVec 32)} {ls : List Nat} {e : Nat × State}

/-- An FPUT or FGET that may be issued clears the presence of the lines that it writes, enters its command and sends what may go
(R268, R270). -/
theorem fabCopy_issuable (hn : need = fabNeed s c d [(a, 8)] .fabric) (hd : desc = descOf cx.group a 8)
    (hl : ls = if kind == .get then (FabDesc.of desc).lines (List.range (FabDesc.of desc).chunks) else [])
    (hi : Issuable need (fabDescTrap s cx (FabDesc.of desc))
      (s.queueFull cx.group.core 2 || s.runBusyAt cx (fabRanges (FabDesc.of desc))) s cx h blk)
    (he : e = ((s.readied need cx blk).clearLines cx.run.ref.launch cx.run.ref.blk ls).addCmd cx (cx.exec c) kind desc h ls)
    (hb : s.hostBarred (e.2.pumpFab e.1) = false) :
    fabCopy c kind d a s = .next ((e.2.pumpFab e.1).handed need cx h) := by
  subst hn hd hl he
  exact engineOp_clear hi _ rfl hb

end copy

/-! FATOM. -/

section fatom
variable {ty : Ty} {op : AtomOp} {mc : MemCtl} {ea : BitVec 64} {data : List (BitVec 32)}

/-- The address of an FATOM (R272). -/
abbrev fatomAt (cx : Ctx) (a : Opnd) (mc : MemCtl) : BitVec 64 :=
  BitVec.ofNat 64 (pairWord (descOf cx.group a 2) 0) + mc.offset.signExtend 64

/-- The result of an FATOM breaks no rule of its place where it has none, or where its place keeps the rule (R272). -/
theorem fatomRes_any {p : Nat → Bool} (hp : word data 4 ≠ 0xFFFFFFFF → p (word data 4) = false) :
    (fatomRes data).any p = false := by
  rw [fatomRes]
  split
  · rfl
  next hr => exact hp hr

/-- The scratchpad line that an FATOM's result is written to, if it has one (R272). -/
abbrev fatomLines (data : List (BitVec 32)) : List Nat := if word data 4 = 0xFFFFFFFF then [] else [word data 4 / 128]

/-- What an FATOM asks of its peer: its operands are of its type's width (R272). -/
def fatomReq (op : AtomOp) (ty : Ty) (x : BitVec 57) (data : List (BitVec 32)) : MemReq :=
  let operand (n : Nat) : BitVec 64 := BitVec.ofNat 64 (if ty.wide then n else n % 2 ^ 32)
  ⟨0, x, .atom op ty, operand (pairWord data 0), operand (pairWord data 2)⟩

/-- A command's request for an atomic goes to a device; it is the command's one transaction (R273). -/
def State.askAtomic (s : State) (id p off : Nat) (q : MemReq) : State :=
  let sent := s.sendFlit p 3 off 6 false (reqPayload q) none (some id) 0
  sent.2.modCmd id (fun c => { c with txns := [sent.1] })

/-- An FATOM that may be issued, at an aligned word of its window and with an aligned place for its result in reach, enters its
command and sends its request to the window's peer (R272, R273). -/
theorem execFatom_issuable {p off : Nat} {e : Nat × State}
    (hn : need = fabNeed s c d [nm a true, (b, 5)] .fabric) (hea : ea = fatomAt cx a mc) (hd : data = descOf cx.group b 5)
    (hi : Issuable need none (s.queueFull cx.group.core 2 || s.runBusyAt cx [((vaOf ea).toNat, ty.size)]) s cx h blk)
    (hal : (vaOf ea).toNat % ty.size = 0) (hwin : (s.inWindow (vaOf ea).toNat ty.size).isSome = true)
    (hres : word data 4 ≠ 0xFFFFFFFF → word data 4 % ty.size = 0 ∧ word data 4 + ty.size ≤ cx.launch.lr.scratchBytes)
    (hap : aperture (vaOf ea).toNat = some (p, off))
    (he : e = ((s.readied need cx blk).clearLines cx.run.ref.launch cx.run.ref.blk (fatomLines data)).addCmd cx (cx.exec c)
      (.fatom op ty mc.order mc.scope (vaOf ea)) data h (fatomLines data))
    (hu : u = e.2.askAtomic e.1 p off (fatomReq op ty (vaOf ea) data)) (hb : s.hostBarred u = false) :
    execFatom c ty op d a b mc s = .next (u.handed need cx h) := by
  have hmis : (fatomRes data).any (· % ty.size != 0) = false := fatomRes_any fun hr => by simp [(hres hr).1]
  have hout : (fatomRes data).any (fun r => decide (r + ty.size > cx.launch.lr.scratchBytes)) = false :=
    fatomRes_any fun hr => decide_eq_false (Nat.not_lt.2 (hres hr).2)
  subst hn hea hd
  unfold execFatom
  refine engineOp_clear (b := blk) ?_ _ ?_ hb
  · simpa only [hal, Option.isNone_eq_false_iff.2 hwin, hmis, hout, bne_self_eq_false, Bool.or_self, Bool.false_eq_true, if_false]
      using hi
  · subst hu he
    by_cases hr : word (descOf cx.group b 5) 4 = 0xFFFFFFFF
    · simp only [fatomRes, fatomLines, if_pos hr, hap]
      rfl
    · simp only [fatomRes, fatomLines, if_neg hr, hap]
      rfl

end fatom

/-! COLL. -/

/-- A COLL that may be issued takes its launch's next place in order and joins that collective (R274, R275). -/
theorem execColl_issuable {ty : Ty} {op : RedOp} {kind : CollKind} {t : Team} {desc : List (BitVec 32)} {e : Nat × State}
    (hn : need = fabNeed s c d [(a, 6)] .coll) (hd : desc = descOf cx.group a 6) (ht : cx.launch.lr.team = some t)
    (hi : Issuable need (collTrap s cx ty kind (CollDesc.of desc)) (s.queueFull cx.group.core 3) s cx h blk)
    (hl : (s.readied need cx blk).launch? cx.run.ref.launch = some cx.launch)
    (he : e = (s.readied need cx blk).addCmd cx (cx.exec c) (.coll ty op kind cx.launch.collseq) desc h [])
    (hu : u = ((e.2.modLaunch cx.run.ref.launch (fun l => { l with collseq := l.collseq + 1 })).joinColl cx.launch t
      cx.launch.collseq (collFn ty op kind) (word desc 4) e.1).pumpColl cx.run.ref.launch cx.launch.collseq)
    (hb : s.hostBarred u = false) : execColl c ty op kind d a s = .next (u.handed need cx h) := by
  subst hn hd
  unfold execColl
  refine engineOp_clear (b := blk) hi _ ?_ hb
  simp only [hl, Option.map_some, Option.getD_some, ht, hu, he]
  rfl

/-! RECONF and TGSET. -/

/-- The low word of an operand as a thread has it. -/
abbrev lowWord (cx : Ctx) (k : BitVec 32) (t : Thread) (o : Opnd) : BitVec 32 := loWord (readOp cx.group t k .sint false o)

/-- A RECONF that may be issued, of a slot and a generation that R279 allows and from the owner's launch, enters its command and
runs it when it is first. -/
theorem execReconf_issuable {k : BitVec 32} {t : Thread} {rest : List Thread}
    (hn : need = { common := c, d := d, reads := [nm a false, nm b false], roles := [0], cls := .fabric, ends := true })
    (ht : cx.threads = t :: rest) (hi : Issuable need none (s.queueFull cx.group.core 2) s cx h blk)
    (hslot : (lowWord cx k t a).toNat ≤ 63) (hgen : lowWord cx k t b ≠ 0) (hov : s.ownv = true) (how : cx.launch.pasid = s.owner)
    (hu : u = ((s.readied need cx blk).addCmd cx (cx.exec c) (.reconf (lowWord cx k t a).toNat (lowWord cx k t b)) [] h
      []).2.runReconf) (hb : s.hostBarred u = false) :
    execReconf c d a b k s = .next (u.handed need cx h) := by
  subst hn hu
  unfold execReconf
  refine engineOp_clear (b := blk) ?_ _ ?_ hb
  · simpa only [ht, hov, how, decide_eq_false (Nat.not_lt.2 hslot), decide_eq_false hgen, beq_self_eq_true, Bool.and_self,
      Bool.not_true, Bool.or_self, Bool.false_eq_true, if_false] using hi
  · simp only [ht]

/-- A TGSET that is clear gives its block the generation that its first executing thread has (R278). -/
theorem execTgset_clear {k : BitVec 32} {t : Thread} {rest : List Thread} (hx : cx.exec c = t :: rest)
    (hc : Clear { common := c, reads := [nm a false], recallFirst := true } s cx) :
    execTgset c a k s = .next ((s.modBlock cx.run.ref.launch cx.run.ref.blk
      (fun b => { b with etgen := lowWord cx k t a })).goOnRun cx.run c) := by
  refine (issue_clear hc (noTrap_none cx _) (noTrap_none cx _) _).trans ?_
  simp only [hx]
  rfl

/-- Settles O41: FPUT and FGET are `fabCopy`; each of the others is the engine command, or the act, of its own lemma. -/
theorem fabricCommandsEnter : Obligations.FabricCommandsEnter := by
  unfold Obligations.FabricCommandsEnter
  intro s cx c ty op rop kind d a b mc k h blk ex r fab copy desc getLines entered okCopy does rc val at0 fat data fatLines col
    cdesc seq
  refine ⟨fun hi => ⟨fun hb => ?_, fun hb => ?_⟩, fun hi hal hwin hres p off hap => ?_, fun t ht hi hl => ?_,
    fun t rest ht hi hslot hgen hov how hb => ?_, fun t rest hx hc => execTgset_clear hx hc⟩
  · exact fabCopy_issuable rfl rfl rfl hi rfl hb
  · exact fabCopy_issuable rfl rfl rfl hi rfl hb
  · intro e v sent hb
    have hva : (vaOf at0).toNat = at0.toNat % 2 ^ 57 := BitVec.toNat_setWidth ..
    rw [← hva] at hi hal hwin hap
    exact execFatom_issuable rfl rfl rfl hi hal hwin hres hap rfl rfl hb
  · intro e fn s0 s1 s2 hb
    exact execColl_issuable rfl rfl ht hi hl rfl rfl hb
  · exact execReconf_issuable rfl ht hi hslot hgen hov how rfl hb

end Sys2Proof.Machine
end

section
/-! Flits that arrive at a port (11 R261-R277; 03 R73): requests of a peer are served, refused, rejected or relayed (O54); replies
end the transactions that they answer (O55). -/

namespace Sys2Proof.Machine

variable {s s1 s2 : State} {port pa n : Nat} {f : Flit} {act : State → State}

/-! A flit at a port that is up. -/

section arrival
variable {type : Nat} (hp : s.portUp port = true) (ht : hdrType f.hdr = type)
include hp ht

theorem takeFlit_stale (hg : s.accepted.contains (flitGen f) = false) :
    s.takeFlit port type f act = (s.oweCredit port type).reject f.hdr := by
  simp only [State.takeFlit, hp, ht, hg, Bool.not_true, Bool.not_false, bne_self_eq_false, Bool.or_self, Bool.false_eq_true,
    if_false, if_true]

theorem takeFlit_elsewhere (hg : s.accepted.contains (flitGen f) = true) (hd : hdrDst f.hdr ≠ s.devid) :
    s.takeFlit port type f act = s.relay port type (.flit f) := by
  simp [State.takeFlit, hp, ht, hd, -List.contains_eq_mem, hg]

/-- A flit of an accepted generation for this device owes its entry's credit and takes effect (R256, R265). -/
theorem takeFlit_here (hg : s.accepted.contains (flitGen f) = true) (hd : hdrDst f.hdr = s.devid) :
    s.takeFlit port type f act = act (s.oweCredit port type) := by
  simp [State.takeFlit, hp, ht, hd, -List.contains_eq_mem, hg]

end arrival

/-! What the translation of its address makes of a request (R266, R73). -/

section served
variable {write : Bool} {perform : State → Nat → State}

theorem serveFlit_ok (h : s.serveAt port (flitOffset f) n write = (s1, .ok pa)) :
    s.serveFlit port f n write perform = perform s1 pa := by rw [State.serveFlit, h]

theorem serveFlit_retry (h : s.serveAt port (flitOffset f) n write = (s1, .retry)) :
    s.serveFlit port f n write perform = s1.retryAfter f := by rw [State.serveFlit, h]

theorem serveFlit_fatal (h : s.serveAt port (flitOffset f) n write = (s1, .fatal)) :
    s.serveFlit port f n write perform = s1.reject f.hdr := by rw [State.serveFlit, h]

end served

/-! Requests. -/

/-- The words read at their home slices go back with the poison of each (R267). -/
theorem replyWords_read {pasid : BitVec 20} {bs body : List Byte} {b psn : Bool}
    (hr : s.readHome pa (4 * n) pasid = (s2, bs, b))
    (hd : (psn, body) = dataPayload bs ((List.range n).map (fun i => s2.poisonedRange (pa + 4 * i) 4))) :
    s.replyWords f pasid pa (4 * n) = (s2.notePoison pasid pa psn).sendReply f 4 psn body := by
  simp only [State.replyWords, hr, Nat.mul_div_cancel_left n (Nat.zero_lt_succ 3), ← hd]

/-! A request for this device of an accepted generation (R267, R270, R273). -/

section request
variable (hp : s.portUp port = true) (hg : s.accepted.contains (flitGen f) = true) (hd : hdrDst f.hdr = s.devid)
include hp hg hd

section read
variable (ht : hdrType f.hdr = 1)
include ht

theorem execFlitRead_page (hl : flitLen f = 0) : execFlitRead port f s = .next ((s.oweCredit port 1).servePage f) := by
  rw [execFlitRead, takeFlit_here hp ht hg hd, if_pos hl]

theorem execFlitRead_words (hl : flitLen f ≠ 0) : execFlitRead port f s = .next ((s.oweCredit port 1).serveFlit port f
    (4 * flitLen f) false (fun s pa => s.replyWords f s.exportPasid pa (4 * flitLen f))) := by
  rw [execFlitRead, takeFlit_here hp ht hg hd, if_neg hl]

end read

theorem execFlitWrite_bytes {bs : List Byte} {ps : List Bool} (ht : hdrType f.hdr = 2) (hw : flitWritten f = (bs, ps)) :
    execFlitWrite port f s = .next ((s.oweCredit port 2).serveFlit port f bs.length true (fun s pa =>
      ((s.writeHome pa bs).spoilAll ((List.range ps.length).filterMap (fun i =>
        if ps.getD i false then some (pa + 4 * i) else none))).sendReply f 5 false [])) := by
  rw [execFlitWrite, takeFlit_here hp ht hg hd, hw]

section atomic
variable (ht : hdrType f.hdr = 3)
include ht

theorem execFlitAtomic_unknown (ha : flitAtom f = none) :
    execFlitAtomic port f s = .next ((s.oweCredit port 3).reject f.hdr) := by
  rw [execFlitAtomic, takeFlit_here hp ht hg hd, ha]

variable {op : AtomOp} {ty : Ty} {v cmp o : BitVec 64} {bs : List Byte} (ha : flitAtom f = some (op, ty, v, cmp))
include ha

theorem execFlitAtomic_retry (hs : (s.oweCredit port 3).serveAt port (flitOffset f) ty.size true = (s1, .retry)) :
    execFlitAtomic port f s = .next (s1.retryAfter f) := by
  simp only [execFlitAtomic, takeFlit_here hp ht hg hd, ha, serveFlit_retry hs]

theorem execFlitAtomic_fatal (hs : (s.oweCredit port 3).serveAt port (flitOffset f) ty.size true = (s1, .fatal)) :
    execFlitAtomic port f s = .next (s1.reject f.hdr) := by
  simp only [execFlitAtomic, takeFlit_here hp ht hg hd, ha, serveFlit_fatal hs]

variable (hs : (s.oweCredit port 3).serveAt port (flitOffset f) ty.size true = (s1, .ok pa))
include hs

/-- A poisoned word is told of, and nothing is written (R267). -/
theorem execFlitAtomic_poisoned (hr : s1.readPlace pa ty.size s1.exportPasid = (s2, bs, true)) :
    execFlitAtomic port f s = .next ((s2.notePoison s2.exportPasid pa true).sendReply f 7 true (leBytes 1 8)) := by
  simp only [execFlitAtomic, takeFlit_here hp ht hg hd, ha, serveFlit_ok hs, hr, if_true]

variable (hr : s1.readPlace pa ty.size s1.exportPasid = (s2, bs, false)) (ho : o = BitVec.ofNat 64 (leNat bs))
include hr ho

/-- On a sound word the operation is made and the old value goes back (R273). -/
theorem execFlitAtomic_made (hc : op ≠ .cas ∨ o = cmp) : execFlitAtomic port f s = .next
    ((s2.writeHome pa (leBytes (atomNew op ty o v cmp).toNat ty.size)).sendReply f 7 false (leBytes o.toNat 8)) := by
  have hn : (op == .cas && o != cmp) = false := by
    rcases hc with h | h
    · rw [beq_false_of_ne h, Bool.false_and]
    · rw [h, bne_self_eq_false, Bool.and_false]
  subst ho
  simp only [execFlitAtomic, takeFlit_here hp ht hg hd, ha, serveFlit_ok hs, hr, hn, Bool.false_eq_true, if_false]

/-- A failing compare-and-swap is a read alone (R273). -/
theorem execFlitAtomic_fails (hc : op = .cas) (hne : o ≠ cmp) : execFlitAtomic port f s = .next
    (((((s.oweCredit port 3).serveAt port (flitOffset f) ty.size false).1.readPlace pa ty.size
      (s.oweCredit port 3).exportPasid).1).sendReply f 7 false (leBytes o.toNat 8)) := by
  have hf : (op == .cas && o != cmp) = true := by
    rw [hc, beq_self_eq_true, Bool.true_and]
    exact bne_iff_ne.2 hne
  subst ho
  simp only [execFlitAtomic, takeFlit_here hp ht hg hd, ha, serveFlit_ok hs, hr, hf, Bool.false_eq_true, if_false, if_true]

end atomic

section collective
variable (ht : hdrType f.hdr = 6)
include ht

theorem execFlitCollectiveData_early (hl : (s.oweCredit port 6).teamLaunch (flitTag f) = none) :
    execFlitCollectiveData port f s = .next ((s.oweCredit port 6).retryAfter f) := by
  rw [execFlitCollectiveData, takeFlit_here hp ht hg hd, hl]

theorem execFlitCollectiveData_taken {l : Launch} {tm : Team} (hl : (s.oweCredit port 6).teamLaunch (flitTag f) = some l)
    (hm : l.lr.team = some tm) : execFlitCollectiveData port f s =
      .next (((s.oweCredit port 6).takeColl l tm f).sendReply f 5 false []) := by
  simp only [execFlitCollectiveData, takeFlit_here hp ht hg hd, hl, hm]

end collective
end request

/-- Each of the four requests is a flit of its type that arrives. -/
theorem request_arrives : ∀ x ∈ [(1, Instr.flitRead port f), (2, .flitWrite port f), (3, .flitAtomic port f),
    (6, .flitCollectiveData port f)], ∃ act, exec x.2 s = .next (s.takeFlit port x.1 f act) := by
  simp only [List.forall_mem_cons, List.not_mem_nil, false_imp_iff, implies_true, and_true]
  exact ⟨⟨_, rfl⟩, ⟨_, rfl⟩, ⟨_, rfl⟩, ⟨_, rfl⟩⟩

/-- Settles O54: a flit goes back or on before its type is looked at; of one for this device, each request on the path that the
translation of its address gives it. -/
theorem peerRequestsAreServed : Obligations.PeerRequestsAreServed := by
  unfold Obligations.PeerRequestsAreServed
  intro s s1 port pa f forms at_ asked hp
  refine ⟨fun x hx ht => ?_, fun hg hd => ⟨fun ht => ⟨fun hl => ?_, fun hl => ?_⟩, fun ht bs ps hw => ?_,
    fun ht => ⟨fun ha => ?_, fun op ty v cmp ha => ⟨fun hs s2 bs o => ⟨fun hr => ?_, fun hr ho => ⟨fun hc => ?_, fun hc hne => ?_⟩⟩,
      fun hs => ?_, fun hs => ?_⟩⟩, fun ht => ⟨fun hl => ?_, fun l tm hl hm => ?_⟩⟩⟩
  · obtain ⟨act, ha⟩ := request_arrives x hx
    rw [ha]
    exact ⟨fun hg => congrArg _ (takeFlit_stale hp ht hg), fun hg hd => congrArg _ (takeFlit_elsewhere hp ht hg hd)⟩
  · exact execFlitRead_page hp hg hd ht hl
  · rw [exec_flitRead, execFlitRead_words hp hg hd ht hl]
    refine ⟨fun hs s2 bs b psn body hr hb => ?_, fun hs => congrArg _ (serveFlit_retry hs), fun hs => congrArg _ (serveFlit_fatal hs)⟩
    rw [serveFlit_ok hs, replyWords_read hr hb]
  · rw [exec_flitWrite, execFlitWrite_bytes hp hg hd ht hw]
    refine ⟨fun hs bad hb => ?_, fun hs => congrArg _ (serveFlit_retry hs), fun hs => congrArg _ (serveFlit_fatal hs)⟩
    rw [serveFlit_ok hs, hb]
  · exact execFlitAtomic_unknown hp hg hd ht ha
  · exact execFlitAtomic_poisoned hp hg hd ht ha hs hr
  · exact execFlitAtomic_made hp hg hd ht ha hs hr ho hc
  · exact execFlitAtomic_fails hp hg hd ht ha hs hr ho hc hne
  · exact execFlitAtomic_retry hp hg hd ht ha hs
  · exact execFlitAtomic_fatal hp hg hd ht ha hs
  · exact execFlitCollectiveData_early hp hg hd ht hl
  · exact execFlitCollectiveData_taken hp hg hd ht hl hm

/-! Replies (R267, R270, R273): the transaction that a reply answers is over, and what asked for it goes on. -/

section reply
variable {t : Txn} {c : Cmd} {op cmd : Nat} (hp : s.portUp port = true) (hg : s.accepted.contains (flitGen f) = true)
  (hd : hdrDst f.hdr = s.devid)
include hp hg hd

section read
variable (ht : hdrType f.hdr = 4)
include ht

theorem execFlitReadReply_lone (hn : (s.oweCredit port 4).txnFor f.hdr = none) :
    execFlitReadReply port f s = .next (s.oweCredit port 4) := by
  rw [execFlitReadReply, takeFlit_here hp ht hg hd, hn]

variable (ha : (s.oweCredit port 4).txnFor f.hdr = some t)
include ha

theorem execFlitReadReply_value (ho : t.op = some op) (hb : (flitData f).2.any id = false) : execFlitReadReply port f s =
    .next (((s.oweCredit port 4).dropTxn t.id).arriveAndComplete op t.lane (remoteValue t (flitData f).1)).runReconf := by
  simp only [execFlitReadReply, takeFlit_here hp ht hg hd, ha, ho, hb, Bool.false_eq_true, if_false]

theorem execFlitReadReply_poisoned (ho : t.op = some op) (hb : (flitData f).2.any id = true) : execFlitReadReply port f s =
    .next (((s.oweCredit port 4).dropTxn t.id).trapFlight op (lanesOf [t.lane]) memUncorrectable).runReconf := by
  simp only [execFlitReadReply, takeFlit_here hp ht hg hd, ha, ho, hb, if_true]

theorem execFlitReadReply_piece (ho : t.op = none) (hm : t.cmd = some cmd)
    (hc : ((s.oweCredit port 4).dropTxn t.id).cmd? cmd = some c) : execFlitReadReply port f s =
    .next (((s.oweCredit port 4).dropTxn t.id).landPiece c t (flitData f).1 (flitData f).2).runReconf := by
  simp only [execFlitReadReply, takeFlit_here hp ht hg hd, ha, ho, hm, hc]

theorem execFlitReadReply_line (ho : t.op = none) (hm : t.cmd = none) : execFlitReadReply port f s =
    .next (((s.oweCredit port 4).dropTxn t.id).lineCame t.id (flitData f).1 (flitData f).2).runReconf := by
  simp only [execFlitReadReply, takeFlit_here hp ht hg hd, ha, ho, hm]

end read

section ack
variable (ht : hdrType f.hdr = 5)
include ht

theorem execFlitWriteAck_lone (hn : (s.oweCredit port 5).txnFor f.hdr = none) :
    execFlitWriteAck port f s = .next (s.oweCredit port 5) := by
  rw [execFlitWriteAck, takeFlit_here hp ht hg hd, hn]

variable (ha : (s.oweCredit port 5).txnFor f.hdr = some t)
include ha

theorem execFlitWriteAck_lane (ho : t.op = some op) : execFlitWriteAck port f s =
    .next (((s.oweCredit port 5).dropTxn t.id).arriveAndComplete op t.lane 0).runReconf := by
  simp only [execFlitWriteAck, takeFlit_here hp ht hg hd, ha, ho]

variable (ho : t.op = none) (hm : t.cmd = some cmd) (hc : ((s.oweCredit port 5).dropTxn t.id).cmd? cmd = some c)
include ho hm hc

theorem execFlitWriteAck_put (hk : c.kind = .put) : execFlitWriteAck port f s =
    .next (((s.oweCredit port 5).dropTxn t.id).fabDone cmd t.id ((FabDesc.of c.desc).chunkOf t)).runReconf := by
  simp only [execFlitWriteAck, takeFlit_here hp ht hg hd, ha, ho, hm, hc, hk]

/-- Of a command that is no FPUT the message alone is over: that it is none picks the branch. -/
theorem execFlitWriteAck_message (hk : c.kind ≠ .put) : execFlitWriteAck port f s =
    .next (((s.oweCredit port 5).dropTxn t.id).forgetTxn cmd t.id).runReconf := by
  simp only [execFlitWriteAck, takeFlit_here hp ht hg hd, ha, ho, hm, hc]

end ack

section atomic
variable (ht : hdrType f.hdr = 7)
include ht

theorem execFlitAtomicReply_lone (hn : (s.oweCredit port 7).txnFor f.hdr = none) :
    execFlitAtomicReply port f s = .next (s.oweCredit port 7) := by
  rw [execFlitAtomicReply, takeFlit_here hp ht hg hd, hn]

variable (ha : (s.oweCredit port 7).txnFor f.hdr = some t)
include ha

theorem execFlitAtomicReply_value (ho : t.op = some op) (hb : flitPsn f = false) : execFlitAtomicReply port f s =
    .next (((s.oweCredit port 7).dropTxn t.id).arriveAndComplete op t.lane (BitVec.ofNat 64 (fieldAt f.payload 0 8))).runReconf := by
  simp only [execFlitAtomicReply, takeFlit_here hp ht hg hd, ha, ho, hb, Bool.false_eq_true, if_false]

theorem execFlitAtomicReply_poisoned (ho : t.op = some op) (hb : flitPsn f = true) : execFlitAtomicReply port f s =
    .next (((s.oweCredit port 7).dropTxn t.id).poisonReplied op t.lane).runReconf := by
  simp only [execFlitAtomicReply, takeFlit_here hp ht hg hd, ha, ho, hb, if_true]

theorem execFlitAtomicReply_engine (ho : t.op = none) (hm : t.cmd = some cmd)
    (hc : ((s.oweCredit port 7).dropTxn t.id).cmd? cmd = some c) : execFlitAtomicReply port f s =
    .next (((s.oweCredit port 7).dropTxn t.id).fatomReplied c t.id (BitVec.ofNat 64 (fieldAt f.payload 0 8)) (flitPsn f)).runReconf := by
  simp only [execFlitAtomicReply, takeFlit_here hp ht hg hd, ha, ho, hm, hc, Option.bind_some]

end atomic
end reply

/-! Refusals and rejections (R73, R265). -/

section refusal
variable {sf : ShortFlit} {t : Txn} (hp : s.portUp port = true) (hd : hdrDst sf.hdr = s.devid)
include hp hd

section retry
variable (ht : hdrType sf.hdr = 0x11) (ha : (s.oweCredit port 0x11).txnFor sf.hdr = some t)
include ht ha

/-- A refusal before the 1,024th, or of a collective's message, sets the time of the next try (R73, R277). -/
theorem execRetryAfter_waits (hr : t.refused + 1 < 1024 ∨ hdrType t.flit.hdr = 6) :
    execRetryAfter port sf s = .next { s.oweCredit port 0x11 with
      txns := modify (fun (x : Txn) => x.id == t.id) (fun x => { x with
        refused := x.refused + 1
        resendAt := some ((s.oweCredit port 0x11).clock + BitVec.ofNat 64 (64 * (sf.body.extractLsb' 0 8).toNat)) })
        (s.oweCredit port 0x11).txns } := by
  have hn : (decide (t.refused + 1 ≥ 1024) && hdrType t.flit.hdr != 6) = false := by
    rcases hr with h | h
    · rw [decide_eq_false (Nat.not_le.2 h), Bool.false_and]
    · rw [h, bne_self_eq_false, Bool.and_false]
  simp only [execRetryAfter, takeShort_here hp ht hd, ha, hn, Bool.false_eq_true, if_false]

theorem execRetryAfter_fails (hr : 1024 ≤ t.refused + 1) (h6 : hdrType t.flit.hdr ≠ 6) :
    execRetryAfter port sf s = .next ((s.oweCredit port 0x11).failTxn t).runReconf := by
  have hy : (decide (t.refused + 1 ≥ 1024) && hdrType t.flit.hdr != 6) = true := by
    rw [decide_eq_true hr, Bool.true_and]
    exact bne_iff_ne.2 h6
  simp only [execRetryAfter, takeShort_here hp ht hd, ha, hy, if_true]

end retry

theorem execStaleReject_fails (ht : hdrType sf.hdr = 0x12) (ha : (s.oweCredit port 0x12).txnFor sf.hdr = some t) :
    execStaleReject port sf s = .next ((s.oweCredit port 0x12).failTxn t).runReconf := by
  rw [execStaleReject, takeShort_here hp ht hd, ha]

end refusal

/-- Settles O55: a reply without a transaction, of an instruction's lane, of a command, and of a page's line, in this order; then
the refusals. -/
theorem peerRepliesEndTheirTransactions : Obligations.PeerRepliesEndTheirTransactions := by
  unfold Obligations.PeerRepliesEndTheirTransactions
  intro s port op f sf t c arrives lone done short hp
  refine ⟨fun hg hd => ⟨⟨?_, ?_, ?_⟩, fun ho => ⟨?_, ?_, ?_⟩, fun cmd ho hm => ⟨?_, ?_, ?_⟩, ?_⟩, ?_, ?_⟩
  · exact execFlitReadReply_lone hp hg hd
  · exact execFlitWriteAck_lone hp hg hd
  · exact execFlitAtomicReply_lone hp hg hd
  · exact fun ⟨ht, ha⟩ => ⟨execFlitReadReply_value hp hg hd ht ha ho, execFlitReadReply_poisoned hp hg hd ht ha ho⟩
  · exact fun ⟨ht, ha⟩ => execFlitWriteAck_lane hp hg hd ht ha ho
  · exact fun ⟨ht, ha⟩ => ⟨execFlitAtomicReply_value hp hg hd ht ha ho, execFlitAtomicReply_poisoned hp hg hd ht ha ho⟩
  · exact fun ⟨ht, ha⟩ hc => execFlitReadReply_piece hp hg hd ht ha ho hm hc
  · exact fun ⟨ht, ha⟩ hc => ⟨execFlitWriteAck_put hp hg hd ht ha ho hm hc, execFlitWriteAck_message hp hg hd ht ha ho hm hc⟩
  · exact fun ⟨ht, ha⟩ hc => execFlitAtomicReply_engine hp hg hd ht ha ho hm hc
  · exact fun ho hm ⟨ht, ha⟩ => execFlitReadReply_line hp hg hd ht ha ho hm
  · exact fun ⟨ht, hd, ha⟩ => ⟨execRetryAfter_waits hp hd ht ha, execRetryAfter_fails hp hd ht ha⟩
  · exact fun ⟨ht, hd, ha⟩ => execStaleReject_fails hp hd ht ha

end Sys2Proof.Machine
end

section
/-! The link layer of a port (11 R248-R256): frames in, frame times, the timeouts of a port that is up, training (O57). -/

namespace Sys2Proof.Machine

/-- A port that trains does not begin to. -/
theorem training_beq_down {good idle : Nat} : (PortState.training good idle == .down) = false := rfl

section port
variable {s : State} {port : Nat} {p : Port} {bytes body : List Byte} {w : Nat} (hp : s.port? port = some p)
include hp

/-! A port that is up. -/

section up
variable (hu : p.st = .up)
include hu

theorem execLinkFrame_unreadable (hr : receive bytes = none) :
    execLinkFrame port bytes s = .next (s.modPort port (·.refuse)) := by
  simp only [execLinkFrame, hp, hu, hr, bne_self_eq_false, Bool.false_eq_true, if_false]

section readable
variable (hr : receive bytes = some (body, w))
include hr

/-- Idle and training frames bring their acknowledgement alone (R253). -/
theorem execLinkFrame_idle (hk : bits w 28 26 = 0 ∨ bits w 28 26 = 3) :
    execLinkFrame port bytes s = .next (s.modPort port (·.heard w)).runReconf := by
  have hi : (bits w 28 26 = 0 || bits w 28 26 = 3) = true := by simpa using hk
  simp only [execLinkFrame, hp, hu, hr, hi, bne_self_eq_false, Bool.false_eq_true, if_false, if_true]

section numbered
variable (h0 : bits w 28 26 ≠ 0) (h3 : bits w 28 26 ≠ 3)
include h0 h3

/-- What the numbered frame that is expected brings happens next, in order (R255). -/
theorem execLinkFrame_expected (hq : bits w 11 0 = p.expected) :
    execLinkFrame port bytes s = .next { ((s.modPort port (·.heard w)).modPort port (·.accept)) with
      agenda := (s.modPort port (·.heard w)).agenda ++ (itemsOf (bits w 28 26) body).filterMap (arrivalOf port) }.runReconf := by
  simp only [execLinkFrame, hp, hu, hr, h0, h3, hq, bne_self_eq_false, decide_false, Bool.or_self, Bool.false_eq_true, if_false,
    if_true]

theorem execLinkFrame_unexpected (hq : bits w 11 0 ≠ p.expected) :
    execLinkFrame port bytes s = .next ((s.modPort port (·.heard w)).modPort port (·.refuse)).runReconf := by
  simp only [execLinkFrame, hp, hu, hr, h0, h3, hq, bne_self_eq_false, decide_false, Bool.or_self, Bool.false_eq_true, if_false]

end numbered
end readable

/-- A release that has been owed for 63 frames is sent where a new frame may be (R252). -/
theorem execBufferReleaseForced_due (ho : p.owes = true) (hw : 63 ≤ p.owedWait) (hr : p.replay = [])
    (hn : p.unacked.length < 1024) :
    execBufferReleaseForced port s = .next ((s.modPort port (·.tick)).emitRelease port) := by
  have hd : p.releaseDue = true := by simp [Port.releaseDue, hu, ho, hw, hr, hn]
  simp only [execBufferReleaseForced, hp, hd, if_true]

/-- Every frame that has not been acknowledged in 4,096 frame times is sent again (R255). -/
theorem execReplayTimeout_late (hn : p.unacked ≠ []) (hw : 4096 ≤ p.ackWait) :
    execReplayTimeout port s =
      .next (s.modPort port (fun p => { p with replay := p.unacked.map (·.1), ackWait := 0 })) := by
  have hl : (p.st == .up && !p.unacked.isEmpty && decide (p.ackWait ≥ 4096)) = true := by simp [hu, hn, hw]
  simp only [execReplayTimeout, hp, hl, if_true]

theorem execFrameTime_up {s1 : State} (h1 : s1 = (s.unstrand.modPort port (·.tick)).emitUp port p) :
    execFrameTime port s = .next (s1.modPort port (fun q =>
      { q with slot := if q.st == .up then (p.slot + 1) % 16 else q.slot })).runReconf := by
  simp only [execFrameTime, hp, hu, h1]

end up

/-! A port that is down, or goes down. -/

theorem execPortDown_drops (hd : p.st ≠ .down) : execPortDown port s = .next (s.dropPort port) := by
  simp only [execPortDown, hp, beq_false_of_ne hd, Bool.false_eq_true, if_false]

section down
variable (hd : p.st = .down)
include hd

/-- A port of the plan that is down begins to train in a frame time (R256). -/
theorem execFrameTime_begins (hm : s.mayTrain port = true) :
    execFrameTime port s = .next ((s.modPort port (fun p =>
      { p with st := .training 0 0, trainGen := s.tgen })).emitTraining port 0 s.tgen p.fseq) := by
  simp only [execFrameTime, hp, hd, hm, if_true]

theorem execFrameTime_idle (hm : s.mayTrain port = false) : execFrameTime port s = .next s := by
  simp only [execFrameTime, hp, hd, hm, Bool.false_eq_true, if_false]

theorem execTrainingFrame_ignored (hm : s.mayTrain port = false) : execTrainingFrame port bytes s = .next s := by
  simp only [execTrainingFrame, hp, hd, hm, Bool.and_false, Bool.false_eq_true, if_false]

end down

/-! A port that trains (R256). -/

section training
variable {good idle : Nat} (ht : p.st = .training good idle)
include ht

theorem execFrameTime_training : execFrameTime port s = .next (s.unstrand.emitTraining port good p.trainGen p.fseq) := by
  simp only [execFrameTime, hp, ht]

theorem execTrainingFrame_unreadable (hr : receive bytes = none) : execTrainingFrame port bytes s =
    .next (s.modPort port (fun p => { p with st := .training (if good < 1024 then 0 else good) 0 })).runReconf := by
  simp only [execTrainingFrame, training_beq_down, Bool.false_and, Bool.false_eq_true, if_false, hp, ht, hr]

section readable
variable (hr : receive bytes = some (body, w))
include hr

theorem execTrainingFrame_training (hk : bits w 28 26 = 3) :
    execTrainingFrame port bytes s = .next (s.takeTraining port p good body).runReconf := by
  simp only [execTrainingFrame, training_beq_down, Bool.false_and, Bool.false_eq_true, if_false, hp, ht, hr, hk, if_true]

/-- An idle frame after 1,024 training frames is one more in a row; with the 64th the port comes up. -/
theorem execTrainingFrame_idle (hk : bits w 28 26 = 0) (hg : 1024 ≤ good) :
    execTrainingFrame port bytes s = .next (if idle + 1 ≥ 64 then (s.modPort port (·.comeUp)).unstrand
      else s.modPort port (fun p => { p with st := .training good (idle + 1) })).runReconf := by
  have h3 : bits w 28 26 ≠ 3 := by omega
  have hi : (decide (bits w 28 26 = 0) && decide (good ≥ 1024)) = true := by simp [hk, hg]
  simp only [execTrainingFrame, training_beq_down, Bool.false_and, Bool.false_eq_true, if_false, hp, ht, hr, h3, hi,
    if_true]

theorem execTrainingFrame_wrong (h3 : bits w 28 26 ≠ 3) (hk : bits w 28 26 ≠ 0 ∨ good < 1024) :
    execTrainingFrame port bytes s = .next (s.modPort port (fun p => { p with st := .training 0 0 })).runReconf := by
  have hi : (decide (bits w 28 26 = 0) && decide (good ≥ 1024)) = false := by
    rcases hk with h | h
    · rw [decide_eq_false h, Bool.false_and]
    · rw [decide_eq_false (Nat.not_le.2 h), Bool.and_false]
  simp only [execTrainingFrame, training_beq_down, Bool.false_and, Bool.false_eq_true, if_false, hp, ht, hr, h3, hi]

end readable
end training
end port

/-- Settles O57: each event by the state of its port, and a frame by what is read of it. -/
theorem linkLayerMovesFrames : Obligations.LinkLayerMovesFrames := by
  unfold Obligations.LinkLayerMovesFrames
  intro s port p bytes body w hp
  refine ⟨fun hu => ⟨?_, fun hr => ⟨?_, ?_, ?_⟩, ?_, ?_, ?_⟩, ?_, fun hd => ⟨?_, fun hm => ⟨?_, ?_⟩⟩,
    fun good idle ht => ⟨?_, ?_, fun hr => ⟨?_, fun hk hg => ⟨fun hi => ?_, fun hi => ?_⟩, ?_⟩⟩⟩
  · exact execLinkFrame_unreadable hp hu
  · exact execLinkFrame_idle hp hu hr
  · rintro h0 h3 hq s1 rfl
    exact execLinkFrame_expected hp hu hr h0 h3 hq
  · exact execLinkFrame_unexpected hp hu hr
  · exact execBufferReleaseForced_due hp hu
  · exact execReplayTimeout_late hp hu
  · exact fun s1 => execFrameTime_up hp hu
  · exact execPortDown_drops hp
  · exact execFrameTime_begins hp hd
  · exact execFrameTime_idle hp hd hm
  · exact execTrainingFrame_ignored hp hd hm
  · exact execFrameTime_training hp ht
  · exact execTrainingFrame_unreadable hp ht
  · exact execTrainingFrame_training hp ht hr
  · rw [exec_trainingFrame, execTrainingFrame_idle hp ht hr hk hg, if_pos hi]
  · rw [exec_trainingFrame, execTrainingFrame_idle hp ht hr hk hg, if_neg (Nat.not_le.2 hi)]
  · exact execTrainingFrame_wrong hp ht hr

end Sys2Proof.Machine
end

section
/-! Reconfiguration (11 R280-R282): the messages of the members, the bounds of its steps, the reply of the circuit switch (O58). -/

namespace Sys2Proof.Machine

variable {s s1 : State} {port : Nat} {f : ShortFlit} {t : Transition} {p : BitVec 1024} {bytes : List Byte}

/-! READY, GO and ABORT (R280 step 3). -/

section message
variable (hp : s.portUp port = true) (ht : hdrType f.hdr = 0x13) (hd : hdrDst f.hdr = s.devid)
include hp ht hd

theorem takeReady_here {kind : Nat} (hk : readyKind f = kind) (act : State → State) :
    s.takeReady port kind f act = act (s.oweCredit port 0x13) := by
  rw [State.takeReady, hk, takeShort_here hp ht hd, if_neg (by rw [bne_self_eq_false]; exact Bool.false_ne_true)]

variable (h1 : s1 = s.oweCredit port 0x13)
include h1

theorem execReady_kept {r : Nat × BitVec 32 × Nat} (hk : readyKind f = 0) (hr : r = (hdrSrc f.hdr, readyGen f, readyPlan f))
    (hn : s1.readies.contains r = false) :
    execReady port f s = .next { s1 with readies := s1.readies ++ [r] }.runReconf := by
  subst h1 hr
  simp only [execReady, takeReady_here hp ht hd hk, hn, Bool.false_eq_true, if_false]

theorem execGo_accepts (hk : readyKind f = 1) (hf : s1.transFor f [3] = some t) (hl : s1.planAt t.plan = some p) :
    execGo port f s =
      .next { s1 with trans := some { t with gone := true, changed := s1.changedPorts p, since := s1.time } }.runReconf := by
  subst h1
  simp only [execGo, takeReady_here hp ht hd hk, hf, hl, Option.map_some, Option.getD_some]

theorem execAbort_fails (hk : readyKind f = 2) (hf : s1.transFor f [2, 3] = some t) :
    execAbort port f s = .next (s1.failEarly t).runReconf := by
  subst h1
  simp only [execAbort, takeReady_here hp ht hd hk, hf]

end message

/-! A transition under way: what time and the switch bring (R281, R282). -/

theorem boundPast_iff {us : Nat} : s.boundPast t us = true ↔ t.since + us * microsecond ≤ s.time := by
  rw [State.boundPast, decide_eq_true_iff, ge_iff_le]

section transition
variable (ht : s.trans = some t)
include ht

theorem transAt_step {n : Nat} (hn : t.step = n) : s.transAt n = some t := by simp [State.transAt, ht, hn]

theorem execReconfDrainDone_drained (hn : t.step = 2) (hd : s.drained = true) :
    execReconfDrainDone s = .next s.runReconf := by
  simp only [execReconfDrainDone, transAt_step ht hn, hd, Option.isSome_some, Bool.and_self, if_true]

variable (hp : s.planAt t.plan = some p)
include hp

/-- drainbnd has passed in step 2 with the device not drained (R281). -/
theorem execReconfDrainTimeout_late (hn : t.step = 2) (hd : s.drained = false) (hl : s.boundPast t (planDrain p) = true) :
    execReconfDrainTimeout s = .next (s.failEarly t).runReconf := by
  have hx : (!s.drained && (s.planAt t.plan).any (fun p => s.boundPast t (planDrain p))) = true := by
    rw [hp, hd, Option.any_some, hl]
    rfl
  have h : s.drainLate = some t := by
    rw [State.drainLate, transAt_step ht hn, Option.filter_some]
    exact if_pos hx
  rw [execReconfDrainTimeout, h]

/-- readybnd has passed in step 3 at the coordinator, which misses a member (R280 step 3). -/
theorem execReadyTimeout_late (hn : t.step = 3) (hc : planCoord p = s.devid) (hg : t.gone = false)
    (hr : s.allReady t p = false) (hl : s.boundPast t (planReady p) = true) :
    execReadyTimeout s = .next ((s.sendAborts t p).failEarly t).runReconf := by
  have h : s.readyLate = some (t, p) := by simp [State.readyLate, transAt_step ht hn, hp, hc, hg, hr, hl]
  rw [execReadyTimeout, h]

/-- lightbnd has passed since the mark, which GO or the return to the old plan set (R281). -/
theorem execReconfLightTimeout_late (hs : t.step = 7 ∨ (t.gone = true ∧ t.step ≠ 2)) (hl : s.boundPast t (planLight p) = true) :
    execReconfLightTimeout s = .next (if t.step = 7 then s.endReconf t stError else s.failLate t).runReconf := by
  have hx : ((t.step = 7 || (t.gone && t.step != 2)) && (s.planAt t.plan).any (fun p => s.boundPast t (planLight p))) = true := by
    rw [hp, Option.any_some, hl, Bool.and_true]
    simpa using hs
  have h : s.lightLate = some t := by
    rw [State.lightLate, ht, Option.filter_some]
    exact if_pos hx
  rw [execReconfLightTimeout, h]

section switch
variable (hn : t.step = 6)
include hn

theorem execSwitchReply_good (hg : replyGood bytes = true) :
    execSwitchReply bytes s = .next { (s.retrain t.changed p t.new) with trans := some (t.light s.time) }.runReconf := by
  simp only [execSwitchReply, transAt_step ht hn, hp, hg, if_true]

theorem execSwitchReply_bad (hg : replyGood bytes = false) : execSwitchReply bytes s = .next (s.failLate t).runReconf := by
  simp only [execSwitchReply, transAt_step ht hn, hp, hg, Bool.false_eq_true, if_false]

end switch
end transition

/-- Settles O58: the three messages, and each happening of a transition in its step. -/
theorem reconfigurationEventsComplete : Obligations.ReconfigurationEventsComplete := by
  unfold Obligations.ReconfigurationEventsComplete
  intro s port f t p bytes s1 r late
  refine ⟨fun hu hty hd => ⟨?_, ?_, ?_⟩, fun ht => ⟨?_, fun hp => ⟨?_, ?_, ?_, ?_, fun hn => ⟨?_, ?_⟩⟩⟩⟩
  · exact fun hk hn => execReady_kept hu hty hd rfl hk rfl hn
  · exact execGo_accepts hu hty hd rfl
  · exact execAbort_fails hu hty hd rfl
  · exact execReconfDrainDone_drained ht
  · exact fun hn hd hl => execReconfDrainTimeout_late ht hp hn hd (boundPast_iff.2 hl)
  · exact fun hn hc hg hr hl => execReadyTimeout_late ht hp hn hc hg hr (boundPast_iff.2 hl)
  · intro hn hl
    rw [exec_reconfLightTimeout, execReconfLightTimeout_late ht hp (.inl hn) (boundPast_iff.2 hl), if_pos hn]
  · intro hn h2 hg hl
    rw [exec_reconfLightTimeout, execReconfLightTimeout_late ht hp (.inr ⟨hg, h2⟩) (boundPast_iff.2 hl), if_neg hn]
  · exact execSwitchReply_good ht hp hn
  · exact execSwitchReply_bad ht hp hn

end Sys2Proof.Machine
end

section
/-! Transfers of control (12 R290-R297, R301, R302): branches, YIELD, calls and returns under `Clear` (O27, O28). Each is an act that
places its threads itself. -/

namespace Sys2Proof.Machine

variable {s s' : State} {cx : Ctx} {c : Common} {a : Opnd} {off : BitVec 32}

/-- An act under `Clear` that places its threads itself. -/
theorem issue_over {n : Need} (h : Clear n s cx) {pre own : Ctx → Thread → Option Trap}
    (hp : ∀ t ∈ cx.exec n.common, pre cx t = none) (ho : ∀ t ∈ cx.exec n.common, own cx t = none)
    {act : Ctx → List Thread → State → Act} (ha : act cx (cx.exec n.common) s = .over s') : issue n pre own act s = .next s' := by
  rw [issue_clear h hp ho, ha]
  rfl

/-- Where a transfer sends threads that do not execute is nothing to it (R291). -/
theorem leave_congr {ex : List Thread} {f g : Thread → Thread} (h : ∀ t, ex.any (·.lane == t.lane) = true → f t = g t) :
    s.leave cx c ex f = s.leave cx c ex g := by
  have hfg : (fun t : Thread => if ex.any (·.lane == t.lane) then f t else { t with pc := cx.run.pc + 12, resume := none }.onward cx.run) =
      fun t => if ex.any (·.lane == t.lane) then g t else { t with pc := cx.run.pc + 12, resume := none }.onward cx.run :=
    funext fun t => if_ctx_congr Iff.rfl (h t) fun _ => rfl
  simp only [State.leave, hfg]

/-- The executing thread of a lane that executes. -/
theorem find_executing {ex : List Thread} {t : Thread} (h : ex.any (·.lane == t.lane) = true) :
    ∃ v ∈ ex, ex.find? (·.lane == t.lane) = some v := by
  obtain ⟨v, hv⟩ := Option.isSome_iff_exists.1 (List.find?_isSome.2 (List.any_eq_true.1 h))
  exact ⟨v, List.mem_of_find?_eq_some hv, hv⟩

/-! Targets (R290, R292). -/

theorem targetTrap_none {l : LaunchRec} {t : Nat} : targetTrap l t = none ↔ t % 12 = 0 ∧ t < l.codesize.toNat := by
  unfold targetTrap
  by_cases h : t % 12 = 0 <;> by_cases h' : t < l.codesize.toNat <;> simp [h, h', misaligned, accessViolation]

/-- An offset inside the code object, which is shorter than 2^32 bytes, is none before it. -/
theorem relOffset_of_inside (h : (cx.run.pc + off.signExtend 64 - cx.launch.lr.codeaddr).toNat < cx.launch.lr.codesize.toNat) :
    relOffset cx off = (cx.run.pc + off.signExtend 64 - cx.launch.lr.codeaddr).toNat := by
  have hm : (cx.run.pc + off.signExtend 64 - cx.launch.lr.codeaddr).msb = false := by
    rw [BitVec.msb_eq_false_iff_two_mul_lt]
    have := cx.launch.lr.codesize.isLt
    omega
  rw [relOffset, hm]
  exact if_neg Bool.false_ne_true

theorem codeaddr_add_offset (b x : BitVec 64) : b + BitVec.ofNat 64 (x - b).toNat = x := by
  rw [BitVec.ofNat_toNat, BitVec.setWidth_eq, BitVec.add_comm, BitVec.sub_add_cancel]

/-! Branches (R292, R301, R302) and YIELD (R297). -/

theorem branchOp_goes {reads : List Names} {target : Ctx → Thread → Nat} (h : Clear (regNeed c [] reads) s cx)
    (ht : ∀ t ∈ cx.exec c, target cx t % 12 = 0 ∧ target cx t < cx.launch.lr.codesize.toNat) :
    branchOp c reads target s = .next (s.leave cx c (cx.exec c) (fun t =>
      t.goTo cx.run (cx.launch.lr.codeaddr + BitVec.ofNat 64 (target cx t)))) := by
  unfold branchOp
  exact issue_over h (noTrap_none cx _) (fun t hm => targetTrap_none.2 (ht t hm)) rfl

/-- Every executing thread of a relative branch goes to its target. -/
def State.branched (s : State) (cx : Ctx) (c : Common) (off : BitVec 32) : State :=
  s.leave cx c (cx.exec c) (fun t => t.goTo cx.run (cx.run.pc + off.signExtend 64))

/-- The smaller side of a branch, which may be ejected (R301). -/
def Ctx.minority (cx : Ctx) (c : Common) : List Thread :=
  let rest := cx.threads.filter (fun t => !(cx.exec c).any (·.lane == t.lane))
  if (cx.exec c).length ≤ rest.length then cx.exec c else rest

section near
variable (hin : (cx.run.pc + off.signExtend 64 - cx.launch.lr.codeaddr).toNat % 12 = 0 ∧
  (cx.run.pc + off.signExtend 64 - cx.launch.lr.codeaddr).toNat < cx.launch.lr.codesize.toNat)
include hin

theorem codeaddr_add_relOffset : cx.launch.lr.codeaddr + BitVec.ofNat 64 (relOffset cx off) = cx.run.pc + off.signExtend 64 := by
  rw [relOffset_of_inside hin.2, codeaddr_add_offset]

theorem targetTrap_relOffset : targetTrap cx.launch.lr (relOffset cx off) = none := by
  rw [relOffset_of_inside hin.2]
  exact targetTrap_none.2 hin

theorem execBra_goes (h : Clear (regNeed c [] []) s cx) : execBra c off s = .next (s.branched cx c off) := by
  rw [execBra, branchOp_goes h fun _ _ => targetTrap_none.1 (targetTrap_relOffset hin), codeaddr_add_relOffset hin]
  rfl

/-- BRA_DV branches as BRA where its minority may not be ejected. -/
theorem execBraDv_stays (h : Clear (regNeed c [] []) s cx) (he : cx.run.pip = true ∨ s.mayEject cx (cx.minority c) = false) :
    execBraDv c off s = .next (s.branched cx c off) := by
  unfold execBraDv
  refine issue_over h (noTrap_none cx _) (fun _ _ => targetTrap_relOffset hin) ?_
  have hs : (cx.run.pip || !s.mayEject cx (cx.minority c)) = true := by
    rcases he with he | he <;> simp [he]
  dsimp only [Ctx.minority] at hs
  simp only [hs, if_true, codeaddr_add_relOffset hin]
  rfl

/-- BRA_DV ejects its minority under the record that fits, after the release of its writes (R302, 05 R127). -/
theorem execBraDv_ejects {e : EjectRec} {u : State} (h : Clear (regNeed c [] []) s cx) (hv : cx.run.pip = false)
    (hm : s.mayEject cx (cx.minority c) = true)
    (hw : ∀ t ∈ cx.minority c, loggedWait s.inflight t = false ∧ s.remoteWait t = false)
    (hf : s.findEject cx.run.core cx.launch.pasid cx.launch.lr.ejaddr (cx.run.pc - cx.launch.lr.codeaddr).toNat 33 0
      cx.launch.lr.ejcount.toNat = (s', .record e)) (hfit : e.fits cx.vregs cx.sregs = true)
    (hu : u = ((s'.branched cx c off).releaseCore cx.group.core).ejectAll cx e (cx.minority c)) :
    execBraDv c off s = .next (u.recallNamed cx.run.ref (u.awaited cx.run.ref)) := by
  unfold execBraDv
  refine issue_over h (noTrap_none cx _) (fun _ _ => targetTrap_relOffset hin) ?_
  have hq : (cx.minority c).any (fun t => loggedWait s.inflight t || s.remoteWait t) = false :=
    any_none fun t ht => by simp [hw t ht]
  dsimp only [Ctx.minority] at hm hq hu
  simp only [hv, hm, hq, hf, hfit, codeaddr_add_relOffset hin, Bool.not_true, Bool.or_self, Bool.false_eq_true, if_false, if_true]
  rw [hu]
  rfl

end near

theorem execYield_goes (h : Clear (regNeed c [] []) s cx) (hv : cx.run.pip = false) :
    execYield c s = .next ((s.leave cx { c with yld := true } (cx.exec c) (fun t =>
      { t with deferred := true }.goTo cx.run (cx.run.pc + 12))).clearDeferred cx.run.ref) := by
  unfold execYield
  refine issue_over h (noTrap_none cx _) (noTrap_none cx _) ?_
  simp only [hv, Bool.not_false, Bool.true_or, Bool.false_eq_true, if_false]

/-- Settles O27: each branch is its act, by the side on which its threads' ejection is decided. -/
theorem branchesSendTheirThreads : Obligations.BranchesSendTheirThreads := by
  unfold Obligations.BranchesSendTheirThreads
  intro s cx c a off
  refine ⟨fun h hin => execBra_goes hin h, fun h hin => branchOp_goes h hin, fun h hin he => execBraDv_stays hin h he, ?_,
    fun h hv => execYield_goes h hv⟩
  intro h hin hv hm hw s' e hf hfit u hu
  exact execBraDv_ejects hin h hv hm hw hf hfit hu

/-! Calls (R293, R295). -/

/-- The return offsets of some threads are stored, each at its thread's entry d. -/
def Ctx.Stores (cx : Ctx) (s s' : State) (ts : List Thread) : Prop :=
  ∃ res, s.accessAll cx.site false (ts.map (callReq cx)) = (s', res) ∧ (∀ r ∈ res, r.2 = .done) ∧ s.hostBarred s' = false

/-- The need of a call. -/
abbrev callNeed (s : State) (c : Common) (reads : List Names) : Need :=
  { common := c, reads := reads, ordered := true, afterLog := true, hold := fun cx t => topoHold s cx (stackAddr t t.d) }

theorem memAct_stores {ts : List Thread} (h : cx.Stores s s' ts) :
    memAct { c := c, dst := none, result := false } (callReq cx) cx ts s = .done s' := by
  obtain ⟨res, ha, hd, hb⟩ := h
  exact memAct_served (p := { c := c, dst := none, result := false }) (fun h => nomatch h) ha (served_of_done hd) hb

/-- A target at which a call does not trap lies inside the code object. -/
theorem inside_of_callTrap {t : Thread} {target : Nat} (h : callTrap s cx t target = none) :
    target % 12 = 0 ∧ target < cx.launch.lr.codesize.toNat := by
  refine targetTrap_none.1 ?_
  unfold callTrap at h
  cases ht : targetTrap cx.launch.lr target with
  | none => rfl
  | some tr => rw [ht] at h; cases h

theorem callOp_goes {reads : List Names} {target : Ctx → Thread → Nat} (h : Clear (callNeed s c reads) s cx)
    (hf : ∀ t ∈ cx.exec c, topoTrap s cx (stackAddr t t.d) = none ∧ callTrap s cx t (target cx t) = none)
    (hs : cx.Stores s s' (cx.exec c)) : callOp c reads target s = .next (s'.leave cx c (cx.exec c) (fun t =>
      { t with d := t.d + 1 }.goTo cx.run (cx.launch.lr.codeaddr + BitVec.ofNat 64 (target cx t)))) := by
  unfold callOp
  refine issue_over h (fun t ht => (hf t ht).1) (fun t ht => (hf t ht).2) ?_
  simp only [memAct_stores hs]

theorem execCall_goes (h : Clear (callNeed s c []) s cx) (hf : ∀ t ∈ cx.exec c, topoTrap s cx (stackAddr t t.d) = none ∧
      callTrap s cx t (cx.run.pc + off.signExtend 64 - cx.launch.lr.codeaddr).toNat = none)
    (hs : cx.Stores s s' (cx.exec c)) : execCall c off s = .next (s'.leave cx c (cx.exec c) (fun t =>
      { t with d := t.d + 1 }.goTo cx.run (cx.launch.lr.codeaddr +
        BitVec.ofNat 64 (cx.run.pc + off.signExtend 64 - cx.launch.lr.codeaddr).toNat))) := by
  obtain ⟨t, ts, he⟩ := List.exists_cons_of_ne_nil h.executes
  have hr := relOffset_of_inside (inside_of_callTrap (hf t (he ▸ List.mem_cons_self ..)).2).2
  rw [execCall, callOp_goes h (fun t ht => by rw [hr]; exact hf t ht) hs, hr]

/-- CALLT of threads on bound entries (R295): nothing is resolved, and each goes where g, a function of its lane's entry, says. -/
theorem execCallt_goes {k : BitVec 32} {s1 : State} {target : Thread → Nat} {g : Thread → Thread}
    (h : Clear (callNeed s c [nm a false]) s cx) (hq : ∀ t ∈ cx.exec c, s.remoteWait t = false)
    (hf : ∀ t ∈ cx.exec c, topoTrap s cx (stackAddr t t.d) = none ∧ calltTrap s cx t (bindIndex cx t a k) = none)
    (hb : (s.acquireAt cx.site true).bindings cx (fun t => bindIndex cx t a k) (cx.exec c) =
      (s1, (cx.exec c).map (fun t => (t, .ok (.bound (target t)))))) (hs : cx.Stores s1 s' (cx.exec c))
    (hg : ∀ t v, (cx.exec c).find? (·.lane == t.lane) = some v →
      g t = { t with d := t.d + 1 }.goTo cx.run (cx.launch.lr.codeaddr + BitVec.ofNat 64 (target v)))
    (h1 : s.hostBarred s1 = false) (h2 : s.hostBarred (s'.leave cx c (cx.exec c) g) = false) :
    execCallt c a k s = .next (s'.leave cx c (cx.exec c) g) := by
  unfold execCallt
  refine issue_over (h.noted _) (fun t ht => (hf t ht).1) (fun t ht => (hf t ht).2) ?_
  have hne : ((cx.exec c).map fun t => (t, target t)).isEmpty = false := by simpa using h.executes
  have hn (ts : List Thread) : ts.filterMap (fun _ => (none : Option Nat)) = [] := List.filterMap_eq_nil_iff.2 fun _ _ => rfl
  simp only [any_none hq, hb, h1, List.filterMap_map, Function.comp_def, List.filterMap_eq_map', hn, hne, List.map_map, List.map_id',
    memAct_stores hs, List.eraseDups_nil, State.resolveAll, List.foldl_map, List.foldl_fixed, List.find?_map, Bool.and_false,
    Bool.false_eq_true, if_false]
  rw [leave_congr (g := g), h2, if_neg Bool.false_ne_true]
  intro t ht
  obtain ⟨v, -, hv⟩ := find_executing ht
  simp only [hv, Option.map_some, hg t v hv]

/-! Returns (R293, R341). -/

/-- The need of a RET. -/
abbrev retNeed (s : State) (c : Common) : Need :=
  { common := c, ordered := true, afterLog := true
    hold := fun cx t => !t.handlerReturns && topoHold s cx (stackAddr t (t.d - 1)) }

/-- What keeps a thread in its handler where its `sr.trappc` is neither a clause start nor a resume point of the clause in which it
trapped (R341). -/
def State.handlerStuck (s : State) (cx : Ctx) (t : Thread) : Option Cause :=
  let o : Nat := (t.trappc - cx.launch.lr.codeaddr).toNat
  if o % 12 ≠ 0 then some .misaligned else if cx.launch.lr.codesize.toNat ≤ o then some .accessViolation
  else if s.isHeader cx.launch cx.run.core t.trappc || t.trapClause.any (fun k => decide
    ((k.hdr - cx.launch.lr.codeaddr).toNat < o ∧ o ≤ s.clauseLast cx.launch cx.run.core k.hdr)) then none else some .clauseForm

/-- Where a thread's handler returns to, by what keeps it there (R341): the double trap, or its `sr.trappc`. -/
theorem handlerGoes_cases (s : State) (cx : Ctx) (t : Thread) :
    (∃ k, s.handlerStuck cx t = some k ∧ k ≠ .memUncorrectable ∧ s.handlerGoes cx t = .double k) ∨
    (s.handlerStuck cx t = none ∧ (∀ k, s.handlerGoes cx t ≠ .double k) ∧ ∀ u : Thread, u.leaveHandler (s.handlerGoes cx t) =
      { u with inHandler := false, pc := t.trappc
               resume := if s.isHeader cx.launch cx.run.core t.trappc then none else t.trapClause }) := by
  unfold State.handlerStuck State.handlerGoes handlerRet
  generalize (t.trappc - cx.launch.lr.codeaddr).toNat = o
  by_cases h12 : o % 12 = 0
  · by_cases hin : cx.launch.lr.codesize.toNat ≤ o
    · simp [h12, hin]
    · cases hh : s.isHeader cx.launch cx.run.core t.trappc with
      | true => simp [h12, hin, Thread.leaveHandler]
      | false =>
        cases hc : t.trapClause with
        | none => simp [h12, hin]
        | some c =>
          by_cases hl : (c.hdr - cx.launch.lr.codeaddr).toNat < o ∧ o ≤ s.clauseLast cx.launch cx.run.core c.hdr <;>
            simp [h12, hin, hl, Thread.leaveHandler, -BitVec.toNat_sub]
  · simp [h12]

section goes
variable {t : Thread} {k : Cause}

theorem handlerGoes_of_stuck (h : s.handlerStuck cx t = some k) : k ≠ .memUncorrectable ∧ s.handlerGoes cx t = .double k := by
  obtain ⟨j, hj, hgo⟩ | ⟨hn, -⟩ := handlerGoes_cases s cx t
  · rw [h] at hj
    cases hj
    exact hgo
  · rw [h] at hn
    cases hn

theorem handlerGoes_of_unstuck (h : s.handlerStuck cx t = none) : (∀ k, s.handlerGoes cx t ≠ .double k) ∧
    ∀ u : Thread, u.leaveHandler (s.handlerGoes cx t) =
      { u with inHandler := false, pc := t.trappc
               resume := if s.isHeader cx.launch cx.run.core t.trappc then none else t.trapClause } := by
  obtain ⟨k, hk, -⟩ | ⟨-, hgo⟩ := handlerGoes_cases s cx t
  · rw [h] at hk
    cases hk
  · exact hgo

end goes

/-- Traps that no poison is the cause of leave no reads behind. -/
theorem noteReads_other {result : Bool} {mk : Thread → MemReq} {l : List (Nat × Trap)} (h : ∀ x ∈ l, x.2.cause ≠ .memUncorrectable) :
    noteReads result mk cx l s = s := by
  unfold noteReads
  refine List.foldlRecOn (motive := (· = s)) l _ rfl ?_
  rintro _ rfl x hx
  have hc : (x.2.cause == .memUncorrectable) = false := by simpa using h x hx
  simp only [hc, Bool.false_eq_true, if_false]
  split <;> rfl

section handler
variable (h : Clear (retNeed s c) s cx) (hr : ∀ t ∈ cx.exec c, t.handlerReturns = true)
include h hr

/-- A RET of threads in their handlers whose `sr.trappc` they may return to: each goes where g says, by its lane's executing thread. -/
theorem execRet_leavesHandler {g : Thread → Thread} (hs : ∀ t ∈ cx.exec c, s.handlerStuck cx t = none)
    (hg : ∀ t v, (cx.exec c).find? (·.lane == t.lane) = some v → g t = { t with
      inHandler := false, pc := v.trappc
      resume := if s.isHeader cx.launch cx.run.core v.trappc then none else v.trapClause }.onward cx.run) :
    execRet c s = .next ((s.goneOn cx.run.ref (cx.exec c)).leave cx c (cx.exec c) g) := by
  unfold execRet
  refine issue_over (h.noted _) (fun t ht => if_pos (hr t ht)) (fun t ht => ?_) ?_
  · rw [retTrap, if_pos (hr t ht)]
    split
    · exact absurd ‹_› ((handlerGoes_of_unstuck (hs t ht)).1 _)
    · rfl
  · have hn : (cx.exec c).filter (fun t => !t.handlerReturns) = [] := List.filter_eq_nil_iff.2 fun t ht => by simp [hr t ht]
    have hh : (cx.exec c).filter (·.handlerReturns) = cx.exec c := List.filter_eq_self.2 hr
    simp only [hn, hh, List.any_nil, List.map_nil, State.accessAll, trapsOf, faultsOf, farsOf, List.filterMap_nil, List.isEmpty_nil,
      State.sendReqs, List.foldl_nil, List.find?_map, Function.comp_def, Bool.not_true, Bool.and_false, Bool.false_eq_true, if_false,
      if_true]
    refine congrArg Act.over (leave_congr fun t ht => ?_)
    obtain ⟨v, hve, hv⟩ := find_executing ht
    simp only [hv, Option.map_some, (handlerGoes_of_unstuck (hs v hve)).2, hg t v hv]

/-- A RET of threads in their handlers whose `sr.trappc` keeps them there traps them. -/
theorem execRet_traps {k : Cause} (hs : ∀ t ∈ cx.exec c, s.handlerStuck cx t = some k) :
    execRet c s = .next (s.trapSome cx ((cx.exec c).map (fun t => (t.lane, ⟨k, 0, 0⟩)))) := by
  unfold execRet
  rw [issue_traps (g := fun _ => ⟨k, 0, 0⟩) (h.noted _) (fun t ht => if_pos (hr t ht)) fun t ht => ?_]
  · dsimp only
    rw [noteReads_other]
    intro x hx
    obtain ⟨t, ht, rfl⟩ := List.mem_map.1 (List.mem_filter.1 hx).1
    exact (handlerGoes_of_stuck (hs t ht)).1
  · rw [retTrap, if_pos (hr t ht), (handlerGoes_of_stuck (hs t ht)).2]

end handler

/-- What an access brings is listed beside its request. -/
theorem accessAll_requests {w : Site} {result : Bool} (qs : List MemReq) : (s.accessAll w result qs).2.map (·.1) = qs := by
  induction qs generalizing s with
  | nil => rfl
  | cons q qs ih => exact congrArg (q :: ·) ih

theorem modify_fixed {α : Type} {p : α → Bool} {f : α → α} (h : ∀ x, f x = x) (l : List α) : modify p f l = l := by
  simp [modify, h]

/-- Where no thread leaves its handler, every meeting awaits whom it awaited. -/
theorem goneOn_nil {ref : GroupRef} : s.goneOn ref [] = s := by
  simp [State.goneOn, State.modGroup, modify_fixed]

/-- Every executing thread of which an access brought a value has that value. -/
theorem valsOf_of_lane {w : Site} {result : Bool} {ex : List Thread} {mk : Thread → MemReq} {res : List (MemReq × Got)} {t : Thread}
    (hm : ∀ v ∈ ex, (mk v).lane = v.lane) (ha : s.accessAll w result (ex.map mk) = (s', res)) (hv : ∀ r ∈ res, ∃ x, r.2 = .val x)
    (ht : ex.any (·.lane == t.lane) = true) : ∃ p, (valsOf res).find? (·.1 == t.lane) = some p := by
  obtain ⟨v, hve, hl⟩ := List.any_eq_true.1 ht
  have hq : mk v ∈ res.map (·.1) := by
    have hr := accessAll_requests (s := s) (w := w) (result := result) (ex.map mk)
    rw [ha] at hr
    exact hr ▸ List.mem_map_of_mem hve
  obtain ⟨⟨q, got⟩, hr, rfl⟩ := List.mem_map.1 hq
  obtain ⟨x, rfl⟩ := hv _ hr
  refine Option.isSome_iff_exists.1 (List.find?_isSome.2 ⟨((mk v).lane, x), List.mem_filterMap.2 ⟨_, hr, rfl⟩, ?_⟩)
  rw [hm v hve]
  exact hl

/-- A RET whose load brings its offset: d is one less, and each thread goes where g says, by what its lane's load brought. -/
theorem execRet_goes {g : Thread → Thread} {res : List (MemReq × Got)} (h : Clear (retNeed s c) s cx)
    (hr : ∀ t ∈ cx.exec c, t.handlerReturns = false ∧ topoTrap s cx (stackAddr t (t.d - 1)) = none ∧ retTrap s cx t = none ∧
      s.behindFar cx.run.ref (retReq t) = false)
    (ha : s.accessAll cx.site true ((cx.exec c).map retReq) = (s', res)) (hv : ∀ r ∈ res, ∃ x, r.2 = .val x)
    (hg : ∀ t i x, (valsOf res).find? (·.1 == t.lane) = some (i, x) →
      g t = { t with d := t.d - 1 }.goTo cx.run (cx.launch.lr.codeaddr + (loWord x).setWidth 64)) :
    execRet c s = .next (s'.leave cx c (cx.exec c) g) := by
  simp only [imp_and, forall_and] at hr
  obtain ⟨hr, hp, ho, hb⟩ := hr
  unfold execRet
  refine issue_over (h.noted _) (fun t ht => ?_) ho ?_
  · rw [hr t ht, hp t ht]
    rfl
  · have hn : (cx.exec c).filter (fun t => !t.handlerReturns) = cx.exec c := List.filter_eq_self.2 fun t ht => by simp [hr t ht]
    have hh : (cx.exec c).filter (·.handlerReturns) = [] := List.filter_eq_nil_iff.2 fun t ht => by simp [hr t ht]
    have hs := served_of_val hv
    simp only [hn, hh, any_none hb, ha, trapsOf_served hs, faultsOf_served hs, farsOf_served hs, goneOn_nil,
      State.sendReqs, List.isEmpty_nil, List.map_nil, List.find?_nil, List.foldl_nil, Bool.not_true, Bool.and_false,
      Bool.false_eq_true, if_false, if_true]
    refine congrArg Act.over (leave_congr fun t ht => ?_)
    obtain ⟨⟨i, x⟩, hx⟩ := valsOf_of_lane (fun _ _ => rfl) ha hv ht
    simp only [hx, hg t i x hx]

/-- Settles O28: the calls and the returns each on the path where their accesses are performed, and the handler's return by what keeps
a thread there. -/
theorem callsAndReturnsUseReturnStack : Obligations.CallsAndReturnsUseReturnStack := by
  unfold Obligations.CallsAndReturnsUseReturnStack
  intro s cx c a off k
  refine ⟨fun s' h hf hs => execCall_goes h hf hs, fun s' h hf hs => callOp_goes h hf hs, ?_,
    fun h hr => ⟨fun hs => execRet_leavesHandler h hr hs fun t v hv => ?_, fun k hs => execRet_traps h hr hs⟩, ?_⟩
  · rintro s1 s' u target h hq hf hb hs rfl h1 h2
    exact execCallt_goes h hq hf hb hs (fun t v hv => by simp only [hv]) h1 h2
  · simp only [hv]
  · intro s' res h hr ha hv
    exact execRet_goes h hr ha hv fun t i x hx => by simp only [hx]

end Sys2Proof.Machine
end

section
/-! EXIT, MJOIN and REJOIN under `Clear` (12 R296, R299, R303, R304): threads leave, meet and hand back (O29). -/

namespace Sys2Proof.Machine

variable {s : State} {cx : Ctx} {c : Common} {m : BitVec 3}

/-- EXIT of threads with nothing in flight that the Proofer does not keep (R296). -/
theorem execExit_exits (h : Clear (regNeed c [] []) s cx)
    (hx : ∀ t ∈ cx.exec c, s.inFlight cx.run.ref t.lane = false ∧ s.keptAt cx (cx.exec c) t = false) :
    execExit c s = .next (((s.leave cx c (cx.exec c) (fun t =>
      if (cx.exec c).any (·.lane == t.lane) then
        { t with pc := cx.run.pc, resume := cx.run.resume, cond := .exited, pip := none, stepping := false }
      else t.stay cx.run (.held (if s.inFlight cx.run.ref t.lane then .exiting else .kept)))).endRegion cx.run.ref
        (lanesOf ((cx.exec c).map (·.lane)))).afterExit cx.run.ref) := by
  unfold execExit
  refine issue_over h (noTrap_none cx _) (noTrap_none cx _) ?_
  have hw : (cx.exec c).filter (fun t => s.inFlight cx.run.ref t.lane) = [] :=
    List.filter_eq_nil_iff.2 fun t ht => by simp [hx t ht]
  have hg : (cx.exec c).filter (fun t => !s.inFlight cx.run.ref t.lane && !s.keptAt cx (cx.exec c) t) = cx.exec c :=
    List.filter_eq_self.2 fun t ht => by simp [hx t ht]
  have hne : (cx.exec c).isEmpty = false := by simpa using h.executes
  simp only [hw, hg, hne, List.isEmpty_nil, Bool.not_true, Bool.and_false, Bool.false_eq_true, if_false]

/-- What an MJOIN acts on: its threads' arrivals noted, and those that pass it by while their guards can be read (R299, log 35). -/
def State.seenByJoin (s : State) (cx : Ctx) (c : Common) (m : BitVec 3) : State :=
  let sa := s.arriveAgain cx.run.ref cx.run.pc (lanesOf ((cx.threads.filter (fun t => t.pip.isNone || !t.guard c)).map (·.lane)))
  if cx.threads.any (fun t => pending sa.inflight t [(.p c.guard, 1)] || (regNeed c [] []).recallsGuard t) then sa
  else sa.passBy cx c (cx.group.masks.get m.toNat)

/-- The live threads that an MJOIN of mask register m awaits and that have not arrived (R299). -/
def State.missingAt (s : State) (cx : Ctx) (c : Common) (m : BitVec 3) : List Thread :=
  (s.liveAwaited cx.run.ref cx.run.pc (cx.group.masks.get m.toNat)).filter (fun t =>
    !((cx.exec c).any (·.lane == t.lane) || joined cx.group cx.run.pc m t))

/-- The threads held at the join go on behind it with those that execute it. -/
def State.joinedOn (s : State) (cx : Ctx) (c : Common) (m : BitVec 3) : State :=
  (((s.leave cx c (cx.exec c) (fun t => t.goTo cx.run (cx.run.pc + 12))).modThreads (fun t =>
    t.ref == cx.run.ref && t.cond == .held (.mjoin m) && t.pc == cx.run.pc) (·.goOn true)).stepStops).modGroup cx.run.ref
      (fun g => { g with passed := g.passed.filter (·.1 != cx.run.pc) })

section join
variable {cj : Ctx} (hc : s.ctx? = some cx)
  (h : Clear { common := c, reads := [nm (.m m) false], recallFirst := true, afterLog := true } (s.seenByJoin cx c m) cj)
  (hq : ∀ t ∈ cj.exec c, (cj.group.masks.get m.toNat).getLsbD t.lane = true ∧ (s.seenByJoin cx c m).remoteWait t = false)
include hc h hq

theorem execMjoin_meets (hm : (s.seenByJoin cx c m).missingAt cj c m = []) :
    execMjoin c (.m m) s = .next
      ((((s.seenByJoin cx c m).releaseAt cj.site ((s.seenByJoin cx c m).wider .grp cj.block cj.run.ref)).joinedOn cj c m).acquireAt
        cj.site ((s.seenByJoin cx c m).wider .grp cj.block cj.run.ref)) := by
  unfold execMjoin
  rw [hc]
  refine issue_over (s := s.seenByJoin cx c m) (h.noted _) (noTrap_none cj _) (fun t ht => if_pos (hq t ht).1) ?_
  dsimp only [State.missingAt] at hm
  simp only [any_none fun t ht => (hq t ht).2, maskOf, hm, List.isEmpty_nil, Bool.false_eq_true, if_false, if_true]
  rfl

theorem execMjoin_waits (hm : (s.seenByJoin cx c m).missingAt cj c m ≠ []) :
    execMjoin c (.m m) s = .next ((((s.seenByJoin cx c m).releaseAt cj.site
      ((s.seenByJoin cx c m).wider .grp cj.block cj.run.ref)).leave cj c (cj.exec c)
        (fun t => t.stay cj.run (.held (.mjoin m)))).recallNamed cj.run.ref
          (lanesOf (((s.seenByJoin cx c m).missingAt cj c m).map (·.lane)))) := by
  unfold execMjoin
  rw [hc]
  refine issue_over (s := s.seenByJoin cx c m) (h.noted _) (noTrap_none cj _) (fun t ht => if_pos (hq t ht).1) ?_
  have hne : ((s.seenByJoin cx c m).missingAt cj c m).isEmpty = false := by simpa using hm
  dsimp only [State.missingAt] at hne
  simp only [any_none fun t ht => (hq t ht).2, maskOf, hne, Bool.false_eq_true, if_false]
  rfl

end join

/-- REJOIN of an ejected thread with nothing in flight (R303): it hands its values back. -/
theorem execRejoin_returns (h : Clear (regNeed c [] []) s cx) (hv : cx.run.pip = true)
    (hx : ∀ t ∈ cx.exec c, s.inFlight cx.run.ref t.lane = false) (hf : ∀ i, i < 12 → cx.flags.get i = 0) :
    execRejoin c s = .next (((s.leave cx c (cx.exec c) (fun t => t.handBack (cx.run.pc + 12))).modGroup cx.run.ref
      (fun g => { g with returned := !g.parked })).joinCore cx.run.ref) := by
  unfold execRejoin
  refine issue_over h (noTrap_none cx _) (noTrap_none cx _) ?_
  have hl : (List.range 12).any (flagSet cx.flags) = false :=
    any_none fun i hi => by simp [flagSet, hf i (List.mem_range.1 hi)]
  have ho : (cx.exec c).foldl (fun (s : State) t => s.overVregs cx.run.ref t.lane ((t.pip.map (·.hbv)).getD 0)) s = s :=
    List.foldl_fixed' (fun t => writeOver_unhurt h.unhurt _ _) _
  simp only [hv, any_none hx, hl, ho, Bool.or_self, Bool.false_eq_true, if_false, if_true]

/-- REJOIN of vector-pipe threads that no thread is still out for (R304). -/
theorem execRejoin_goesOn (h : Clear (regNeed c [] []) s cx) (hv : cx.run.pip = false)
    (ho : s.stillOut cx.run.ref ((cx.run.pc - cx.launch.lr.codeaddr).setWidth 32) = false) :
    execRejoin c s = .next ((s.leave cx c (cx.exec c) (fun t => t.goTo cx.run (cx.run.pc + 12))).joinCore cx.run.ref) := by
  unfold execRejoin
  refine issue_over h (noTrap_none cx _) (noTrap_none cx _) ?_
  simp only [hv, ho, Bool.false_eq_true, if_false]

/-- Settles O29: EXIT; MJOIN by whether a thread is missing; REJOIN by the pipe of its run. -/
theorem joinsAndExitsMoveThreads : Obligations.JoinsAndExitsMoveThreads := by
  unfold Obligations.JoinsAndExitsMoveThreads
  intro s cx c m
  refine ⟨execExit_exits, fun cj hc h hq => ⟨execMjoin_meets hc h hq, execMjoin_waits hc h hq⟩, execRejoin_returns, execRejoin_goesOn⟩

end Sys2Proof.Machine
end

section
/-! TRAP and BRK (14 R343), the barriers and the wide meeting points (13 R327-R332) and DLAUNCH (13 R333) under `Clear`: O24, O40,
O42. -/

namespace Sys2Proof.Machine

variable {s s' : State} {cx : Ctx} {c : Common} {a : Opnd}

theorem execTrap_traps (h : Clear (regNeed c [] [nm a false]) s cx) :
    execTrap c a s = .next (s.trapSome cx ((cx.exec c).map (fun t =>
      (t.lane, ⟨.software, 0, (readOp cx.group t 0 .uint false a).toNat % 65536⟩)))) := by
  unfold execTrap
  exact issue_traps h (noTrap_none cx _) (fun _ _ => rfl) _

theorem execBrk_traps (h : Clear (regNeed c [] []) s cx) :
    execBrk c s = .next (s.trapSome cx ((cx.exec c).map (fun t => (t.lane, ⟨.breakpoint, 0, 0⟩)))) := by
  unfold execBrk
  exact issue_traps h (noTrap_none cx _) (fun _ _ => rfl) _

/-- Settles O24: the check of each fails for every executing thread. -/
theorem trapAndBreakTrapTheirThreads : Obligations.TrapAndBreakTrapTheirThreads := by
  unfold Obligations.TrapAndBreakTrapTheirThreads
  exact fun s cx c a => ⟨execTrap_traps, execBrk_traps⟩

/-! Barriers (R327, R328). -/

section barriers
variable {b : Option Opnd} {k : BitVec 32}

theorem barTrap_none {e : Nat} (hn : barOf cx a < cx.block.bars.length) (he : e ≤ cx.launch.lr.bsize) : barTrap cx a e = none := by
  simp [barTrap, hn, he]

/-- BAR once its threads have arrived: those whose phase is over leave their regions and acquire, the others are held (R328). -/
def State.pastBar (s : State) (cx : Ctx) (c : Common) (n : Nat) (wide : Bool) (ps : List (Nat × BitVec 32)) : State :=
  let now := s.barPhase cx.run.ref.launch cx.run.ref.blk n
  let wait := ps.filter (fun x => x.2 = now)
  let past := ps.filter (fun x => x.2 ≠ now)
  let s2 := s.endRegion cx.run.ref (lanesOf (past.map (·.1)))
  let s3 := if past.isEmpty then s2 else s2.acquireAt cx.site wide
  if wait.isEmpty then s3.goOnRun cx.run c else s3.holdSome cx c (lanesOf (wait.map (·.1))) (.bar n now c.bnd)

section arrivals
variable (hq : ∀ t ∈ cx.exec c, s.remoteWait t = false)
  (hn : barOf cx a < cx.block.bars.length ∧ ∀ t ∈ cx.exec c, expected cx b k t ≤ cx.launch.lr.bsize)
include hq hn

theorem execBar_arrives {ps : List (Nat × BitVec 32)} (h : Clear (barNeed c (nm a false :: nmOpt b false)) s cx)
    (hs : (s.releaseAt cx.site (s.wider .blk cx.block cx.run.ref)).arriveEach cx.run.ref (barOf cx a) (expected cx b k)
      (cx.exec c) = (s', ps)) :
    execBar c a b k s = .next (s'.pastBar cx c (barOf cx a) (s.wider .blk cx.block cx.run.ref) ps) := by
  unfold execBar
  rw [issue_clear h (noTrap_none cx _) (fun t ht => barTrap_none hn.1 (hn.2 t ht))]
  simp only [barNeed, any_none hq, hs, Bool.false_eq_true, if_false, State.pastBar]
  split <;> rfl

theorem execBara_arrives (h : Clear { barNeed c (nm a false :: nmOpt b false) with ends := true } s cx) :
    execBara c a b k s = .next ((((s.releaseAt cx.site (s.wider .blk cx.block cx.run.ref)).arriveEach cx.run.ref (barOf cx a)
      (expected cx b k) (cx.exec c)).1.endRegion cx.run.ref (lanesOf ((cx.exec c).map (·.lane)))).goOnRun cx.run c) := by
  unfold execBara
  rw [issue_clear h (noTrap_none cx _) (fun t ht => barTrap_none hn.1 (hn.2 t ht))]
  simp only [barNeed, any_none hq, Bool.false_eq_true, if_false]
  rfl

end arrivals

theorem execBarw_holds (h : Clear (barNeed c [nm a false]) s cx) (hn : barOf cx a < cx.block.bars.length) :
    execBarw c a s = .next (s.holdSome cx c (lanesOf ((cx.exec c).map (·.lane)))
      (.barw (barOf cx a) (s.barPhase cx.run.ref.launch cx.run.ref.blk (barOf cx a)) c.bnd)) := by
  unfold execBarw
  exact issue_over h (noTrap_none cx _) (fun _ _ => barTrap_none hn (Nat.zero_le _)) rfl

end barriers

/-! Wide meeting points (R330, R332). -/

/-- The executing threads release, end their regions and are held at a meeting point, which may be complete. -/
def State.metWide (s : State) (cx : Ctx) (c : Common) (h : Hold) : State :=
  let lanes := lanesOf ((cx.exec c).map (·.lane))
  (((s.releaseAt cx.site true).endRegion cx.run.ref lanes).holdSome cx c lanes h).settleWide cx.run.ref.launch

theorem meetWide_met {h : Ctx → Hold} (hq : ∀ t ∈ cx.exec c, s.remoteWait t = false) :
    meetWide c h cx (cx.exec c) s = .over (s.metWide cx c (h cx)) := by
  simp only [meetWide, any_none hq, Bool.false_eq_true, if_false, State.metWide]

theorem execWbar_meets {ext : WExt} (h : Clear { barNeed c [] with hold := fun cx _ => ext == .sys && fabHold s cx } s cx)
    (hq : ∀ t ∈ cx.exec c, s.remoteWait t = false) (hx : ext = .sys → fabTrap s cx = none ∧ cx.launch.lr.team ≠ none) :
    execWbar c ext s = .next (s.metWide cx c (.wbar (extentOf cx.launch.lr ext) c.bnd)) := by
  unfold execWbar
  refine issue_over h (fun _ _ => ?_) (fun _ _ => ?_) (meetWide_met hq)
  · exact ite_eq_right_iff.2 fun he => (hx (by simpa using he)).1
  · refine if_neg fun hn => ?_
    obtain ⟨he, ht⟩ := Bool.and_eq_true_iff.1 hn
    exact (hx (by simpa using he)).2 (by simpa using ht)

theorem execFlushpt_meets (h : Clear (barNeed c []) s cx) (hq : ∀ t ∈ cx.exec c, s.remoteWait t = false) :
    execFlushpt c s = .next (s.metWide cx c (.flushpt c.bnd)) := by
  unfold execFlushpt
  exact issue_over h (noTrap_none cx _) (noTrap_none cx _) (meetWide_met hq)

/-- Settles O40: each instruction on the path where its barrier is declared and nothing of its threads is outstanding at a peer. -/
theorem barriersHoldOrPassTheirThreads : Obligations.BarriersHoldOrPassTheirThreads := by
  unfold Obligations.BarriersHoldOrPassTheirThreads
  intro s cx c a b k ext
  exact ⟨fun h hq hn s1 ps hs => execBar_arrives hq hn h hs, fun h hq hn => execBara_arrives hq hn h, execBarw_holds,
    fun h hq hx => execWbar_meets h hq hx, execFlushpt_meets⟩

/-! DLAUNCH (R333). -/

section dlaunch
variable {d e : Opnd}

/-- What DLAUNCH asks (R333). -/
abbrev dlaunchNeed (c : Common) (d a e : Opnd) : Need :=
  { common := c, writes := [nm d false, nm e false], reads := [nm a true], recallFirst := true, ordered := true, afterLog := true }

/-- The flight of a DLAUNCH: status and P by whether the record was entered (R333). -/
def launchFlight (cx : Ctx) (c : Common) (d e : Opnd) (ok : Bool) : Flight :=
  { dst := some (d, false), dst2 := some e, vals := ((cx.exec c).map (·.lane)).map (fun i => (i, if ok then 0 else 1))
    val2 := ((cx.exec c).map (·.lane)).map (fun i => (i, ok)), ends := true }

/-- A record enters the pending-launch store (R334). -/
def State.addChild (s : State) (cx : Ctx) (c : Common) (a : Opnd) (bs : List Byte) : State :=
  { s with
    nextId := s.nextId + 1
    children := s.children ++ [⟨s.nextId, cx.run.ref.launch, BitVec.ofNat 64 (pairWord (descOf cx.group a 2) 0), bs,
      whereThread cx.run.ref (((cx.exec c).map (·.lane)).headD 0), (cx.run.pc - cx.launch.lr.codeaddr).setWidth 32, true⟩] }

variable {id : Nat} (h : Clear (dlaunchNeed c d a e) s cx) (ha : pairWord (descOf cx.group a 2) 0 % 64 = 0)
  (ho : recordOutside s (clusterOf cx.group.core) cx.launch.pasid (pairWord (descOf cx.group a 2) 0) 8 = false)
  (hq : ∀ t ∈ cx.exec c, s.remoteWait t = false)
include h ha ho hq

theorem execDlaunch_full (hf : (s.releaseAt cx.site true).children.length ≥ 4096)
    (hs : (s.releaseAt cx.site true).fly cx c (lanesOf ((cx.exec c).map (·.lane))) (launchFlight cx c d e false) = some (id, s')) :
    execDlaunch c d a e s = .next (s'.goOnRun cx.run c) := by
  unfold execDlaunch
  rw [issue_clear h (noTrap_none cx _) (fun _ _ => by simp [ha, ho])]
  simp only [launchFlight, Bool.false_eq_true, if_false] at hs
  simp only [any_none hq, childRoom, if_pos hf, hs, Bool.false_eq_true, if_false]
  rfl

theorem execDlaunch_enters {s1 : State} {bs : List Byte} (hf : (s.releaseAt cx.site true).children.length < 4096)
    (hr : (s.releaseAt cx.site true).readPieces ⟨cx.run.ref.launch, cx.run.ref.blk, cx.group.core, cx.launch.pasid⟩
      (pairWord (descOf cx.group a 2) 0) 8 = (s1, .ok (bs, false)))
    (hs : (s1.addChild cx c a bs).fly cx c (lanesOf ((cx.exec c).map (·.lane))) (launchFlight cx c d e true) = some (id, s')) :
    execDlaunch c d a e s = .next (s'.goOnRun cx.run c) := by
  unfold execDlaunch
  rw [issue_clear h (noTrap_none cx _) (fun _ _ => by simp [ha, ho])]
  simp only [launchFlight, State.addChild] at hs
  simp only [any_none hq, childRoom, if_neg (Nat.not_le.2 hf), hr, State.fresh, hs, Bool.false_eq_true, if_false]
  rfl

end dlaunch

/-- Settles O42: DLAUNCH by whether the store has room. -/
theorem deviceLaunchStoresItsRecord : Obligations.DeviceLaunchStoresItsRecord := by
  unfold Obligations.DeviceLaunchStoresItsRecord
  intro s s' cx c d a e ex lanes addr need s0 told w h ha ho hq id
  exact ⟨fun hf hs => execDlaunch_full h ha ho hq hf hs, fun hf s1 bs hr hs => execDlaunch_enters h ha ho hq hf hr hs⟩

end Sys2Proof.Machine
end

section
/-! The requests of the trust interface (15 R374-R381): each goes on or gets an error response (O59, O60), and what an interface that
falls leaves behind. -/

namespace Sys2Proof.Machine

variable {s : State}

/-! Requests and answers (R374). -/

/-- A request that is right is answered with its response and changes the state by f; one that is not gets an error response alone. -/
def Answers (s : State) (o : Out) (ok : Prop) (code : Nat) (q more : List Byte) (f : State → State) : Prop :=
  (ok → (Config.requestOk code q = true → o = .next (f (s.respond code q more))) ∧
    (Config.requestOk code q = false → o = .next (s.answer (.errorResponse .ofStandard)))) ∧
  (¬ ok → o = .next (s.answer (.errorResponse .ofStandard)))

theorem reply_answers {o : Out} {ok : Prop} {b : Bool} {code : Nat} {q more : List Byte} {f : State → State}
    (ho : o = s.reply code q b more f) (h : b = true ↔ ok) : Answers s o ok code q more f := by
  subst ho
  unfold Answers State.reply
  rw [← h]
  cases b <;> cases Config.requestOk code q <;> simp

theorem spdmVersion_iff {req : List Byte} : spdmVersion req = true ↔ fieldAt req 0 1 = 0x12 ∨ fieldAt req 0 1 = 0x13 := by
  simp [spdmVersion]

theorem slotKnown_iff {n : Nat} : slotKnown n = true ↔ n = 0 ∨ n = 1 := by simp [slotKnown]

theorem reached_iff {x : Spdm} : s.reached x = true ↔ x.rank ≤ s.spdm.rank := by simp [State.reached]

/-- A request that needs negotiated algorithms (R374). -/
theorem reached_version_iff {req : List Byte} : (s.reached .negotiated && spdmVersion req) = true ↔
    Spdm.rank .negotiated ≤ s.spdm.rank ∧ (fieldAt req 0 1 = 0x12 ∨ fieldAt req 0 1 = 0x13) := by
  rw [Bool.and_eq_true, reached_iff, spdmVersion_iff]

/-- A request that goes on from one state of the exchange (R374). -/
theorem spdm_version_iff {x : Spdm} {req : List Byte} : (s.spdm == x && spdmVersion req) = true ↔
    s.spdm = x ∧ (fieldAt req 0 1 = 0x12 ∨ fieldAt req 0 1 = 0x13) := by
  rw [Bool.and_eq_true, beq_iff_eq, spdmVersion_iff]

theorem and_slotKnown_iff {p : Prop} {b : Bool} {n : Nat} (h : b = true ↔ p) : (b && slotKnown n) = true ↔ p ∧ (n = 0 ∨ n = 1) := by
  rw [Bool.and_eq_true, h, slotKnown_iff]

theorem execGetMeasurements_answers {req m : List Byte} (hm : s.measured (fieldAt req 3 1) = some m) :
    Answers s (execGetMeasurements req s) (Spdm.rank .negotiated ≤ s.spdm.rank ∧ (fieldAt req 0 1 = 0x12 ∨ fieldAt req 0 1 = 0x13))
      0xE0 req (m ++ Config.identitySign (req ++ m)) id := by
  simp only [execGetMeasurements, hm]
  exact reply_answers rfl reached_version_iff

theorem execGetMeasurements_none {req : List Byte} (hm : s.measured (fieldAt req 3 1) = none) :
    execGetMeasurements req s = .next (s.answer (.errorResponse .ofStandard)) := by
  simp only [execGetMeasurements, hm]

theorem execSpdmSessionLoss_secure (h : s.spdm = .session) :
    execSpdmSessionLoss s = .next ({ s with spdm := .start } : State).fallIfLocked := by
  simp [execSpdmSessionLoss, State.loseSession, h]

theorem execSpdmSessionLoss_open (h : s.spdm ≠ .session) : execSpdmSessionLoss s = .next s := by simp [execSpdmSessionLoss, h]

/-- Settles O59: every request is a `reply` under the condition that its place in the order gives. -/
theorem spdmRequestsFollowTheirOrder : Obligations.SpdmRequestsFollowTheirOrder := by
  unfold Obligations.SpdmRequestsFollowTheirOrder
  intro s req err gives form slot known secure
  have key {o ok b code q more f} (ho : o = s.reply code q b more f) (h : b = true ↔ ok) : gives o ok code q more f :=
    reply_answers ho h
  refine ⟨?version, ?capabilities, ?algorithms, ?digests, ?certificate, ?challenge, ?measurements, execGetMeasurements_none,
    ?exchange, ?finish, ?update, ?heartbeat, ?vendor, ?ended, execSpdmSessionLoss_secure, execSpdmSessionLoss_open, rfl, ?other⟩
  case version => exact key (o := execGetVersion req s) rfl beq_iff_eq
  case capabilities => exact key (o := execGetCapabilities req s) rfl spdm_version_iff
  case algorithms => exact key (o := execNegotiateAlgorithms req s) rfl (by rw [Bool.and_eq_true, spdm_version_iff, and_assoc])
  case digests => exact key (o := execGetDigests req s) rfl reached_version_iff
  case certificate => exact key (o := execGetCertificate req s) rfl (and_slotKnown_iff reached_version_iff)
  case challenge => exact key (o := execChallenge req s) rfl (and_slotKnown_iff reached_version_iff)
  case measurements => exact fun m hm => execGetMeasurements_answers hm
  case exchange => exact key (o := execKeyExchange req s) rfl ((and_slotKnown_iff spdm_version_iff).trans and_assoc)
  case finish => exact key (o := execFinish req s) rfl spdm_version_iff
  case update => exact key (o := execKeyUpdate req s) rfl spdm_version_iff
  case heartbeat => exact key (o := execHeartbeat s) rfl beq_iff_eq
  case vendor => exact key (o := execVendorDefinedRequest req s) rfl reached_version_iff
  case ended => exact key (o := execEndSession s) rfl beq_iff_eq
  case other =>
    intro o ho
    simp only [List.mem_cons, List.not_mem_nil, or_false] at ho
    obtain rfl | rfl := ho <;> rfl

/-! What no access to the storage touches: the launches, and the work that the queues, the agents and the operand log hold. -/

/-- The launches, the packets, the pending children and the logged faults of a state. -/
structure Duties where
  launches : List Launch
  packets : List Packet
  children : List Child
  oplog : List LogEntry

def State.duties (s : State) : Duties := ⟨s.launches, s.packets, s.children, s.oplog⟩

section rules
variable {t : State} {n : Duties}

theorem State.duties_foldl {α : Type} {f : State → α → State} (hf : ∀ s x, (f s x).duties = s.duties) (l : List α) :
    (l.foldl f s).duties = s.duties := by
  induction l generalizing s with
  | nil => rfl
  | cons x l ih => rw [List.foldl_cons, ih, hf]

theorem State.duties_ite {c : Prop} [Decidable c] (hs : s.duties = n) (ht : t.duties = n) : (if c then s else t).duties = n := by
  split
  · exact hs
  · exact ht

theorem State.duties_log {k cause pasid wh count pc} : (s.log k cause pasid wh count pc).duties = s.duties := rfl
theorem State.duties_modSlice {pline f} : (s.modSlice pline f).duties = s.duties := rfl
theorem State.duties_modL1 {core pline f} : (s.modL1 core pline f).duties = s.duties := rfl
theorem State.duties_putHome {pa bs} : (s.putHome pa bs).duties = s.duties := rfl

end rules

theorem State.duties_poisonAt {p} : (s.poisonAt p).duties = s.duties := by
  cases p with rw [State.poisonAt]
  | half => rw [State.duties, State.duties]
  | slice | l1 | scratch | vreg | sreg | tile | weights => rfl

theorem State.duties_meet {pasid why d} : (s.meet pasid why d).duties = s.duties := by
  unfold State.meet
  dsimp only
  split
  · rfl
  · exact State.duties_log.trans State.duties_poisonAt

theorem State.duties_meetAll {pasid why p} : (s.meetAll pasid why p).duties = s.duties :=
  State.duties_foldl (fun _ _ => State.duties_meet) _

theorem State.duties_overSlice {pline whole touched} : (s.overSlice pline whole touched).duties = s.duties :=
  State.duties_ite State.duties_meetAll rfl

theorem State.duties_wordHome {l w} : (s.wordHome l w).duties = s.duties := by
  unfold State.wordHome
  split
  · exact State.duties_ite (State.duties_ite rfl rfl) rfl
  · exact State.duties_foldl (fun _ _ => State.duties_ite State.duties_putHome rfl) _

theorem State.duties_wordsHome {l ws} : (s.wordsHome l ws).duties = s.duties :=
  (State.duties_foldl (fun _ _ => State.duties_ite State.duties_wordHome rfl) _).trans State.duties_overSlice

theorem State.duties_recallWords {pline ws} : (s.recallWords pline ws).duties = s.duties := by
  unfold State.recallWords
  split
  · rfl
  · split
    · rfl
    · refine State.duties_ite rfl ?_
      dsimp only
      split
      · exact (State.duties_modSlice).trans State.duties_meetAll
      · exact State.duties_modSlice.trans (State.duties_modL1.trans (State.duties_wordsHome.trans State.duties_meetAll))

theorem State.duties_evictSlice {pline} : (s.evictSlice pline).duties = s.duties := by
  unfold State.evictSlice
  dsimp only
  split <;> exact State.duties_meetAll.trans State.duties_recallWords

theorem State.duties_touchSlice {pline pasid why} : (s.touchSlice pline pasid why).duties = s.duties := by
  unfold State.touchSlice
  refine State.duties_ite rfl (State.duties_meetAll.trans (State.duties_ite rfl (State.duties_ite rfl ?_)))
  dsimp only
  split
  · exact State.duties_evictSlice
  · rfl

theorem State.duties_writeHome {pa bs} : (s.writeHome pa bs).duties = s.duties :=
  State.duties_overSlice.trans (State.duties_recallWords.trans State.duties_touchSlice)

theorem State.duties_readQueues : s.readQueues.duties = s.duties :=
  State.duties_foldl (fun _ _ => State.duties_ite (State.duties_meetAll.trans State.duties_meetAll) State.duties_meetAll) _

theorem State.duties_haltQueues : s.haltQueues.duties = s.duties :=
  (State.duties_foldl (fun _ _ => State.duties_writeHome) _).trans State.duties_readQueues

/-! An interface that falls (R376). -/

/-- Once every context has stopped the agents' launches are the ones left. -/
theorem stopAll_agents : ∀ l ∈ s.stopAll.launches, l.agent = true := by
  intro l hl
  obtain ⟨hm, hk⟩ := List.mem_filter.1 hl
  by_contra ha
  have hid : l.id ∈ ((List.foldl (fun (s : State) l => s.stopWithDevice l.id) s
      (s.launches.filter (fun l => l.parent.isNone && !l.agent))).launches.filter (!·.agent)).map (·.id) :=
    List.mem_map_of_mem (List.mem_filter.2 ⟨hm, by simpa using ha⟩)
  simp [hid] at hk

theorem duties_dropWork : s.dropWork.duties = ⟨s.launches, [], [], []⟩ := rfl
theorem duties_silence : s.silence.duties = s.duties := rfl
theorem duties_withTdi {x : Tdi} : ({ s with tdi := x } : State).duties = s.duties := rfl

theorem enterError_duties : s.enterError.duties =
    ⟨({ s.spoilBuffers s.packets with packets := [] } : State).stopAll.launches, [], [], []⟩ := by
  unfold State.enterError
  exact duties_withTdi.trans (State.duties_log.trans (duties_silence.trans (State.duties_haltQueues.trans duties_dropWork)))

/-- The ports of a device that has fallen silent are out of service. -/
theorem silence_ports : ∀ p ∈ s.silence.ports, p.st = .down := by
  intro p hp
  obtain ⟨q, -, rfl⟩ := List.mem_map.1 hp
  rfl

/-- What R376 leaves of an interface that falls. -/
theorem enterError_leaves : s.enterError.tdi = .error ∧ (∀ l ∈ s.enterError.launches, l.agent = true) ∧ s.enterError.packets = [] ∧
    s.enterError.children = [] ∧ s.enterError.oplog = [] ∧ s.enterError.txns = [] ∧ s.enterError.agenda = [] ∧
    ∀ p ∈ s.enterError.ports, p.st = .down := by
  have hd := enterError_duties (s := s)
  rw [State.duties, Duties.mk.injEq] at hd
  obtain ⟨hl, hp, hc, ho⟩ := hd
  rw [hl]
  refine ⟨rfl, stopAll_agents, hp, hc, ho, ?_⟩
  unfold State.enterError
  generalize State.haltQueues _ = u
  exact ⟨rfl, rfl, silence_ports (s := u)⟩

theorem fallIfLocked_stays (h : s.tdi = .unlocked ∨ s.tdi = .error) : s.fallIfLocked = s := by
  obtain h | h := h <;> simp [State.fallIfLocked, h]

theorem fallIfLocked_falls (h : s.tdi = .locked ∨ s.tdi = .run) : s.fallIfLocked = s.enterError := by
  obtain h | h := h <;> simp [State.fallIfLocked, h]

theorem execIdeIntegrityFailure_falls (h : s.ide = true) :
    execIdeIntegrityFailure s = .next ({ s with ide := false } : State).fallIfLocked := by simp [execIdeIntegrityFailure, h]

theorem execIdeIntegrityFailure_idle (h : s.ide = false) : execIdeIntegrityFailure s = .next s := by
  simp [execIdeIntegrityFailure, h]

/-- Settles O60: every request is a `reply` under the condition that its place in the order gives; an interface falls by
`enterError`. -/
theorem interfaceRequestsMoveTheInterface : Obligations.InterfaceRequestsMoveTheInterface := by
  unfold Obligations.InterfaceRequestsMoveTheInterface
  intro s req err gives secure
  have key {o ok b code q more f} (ho : o = s.reply code q b more f) (h : b = true ↔ ok) : gives o ok code q more f :=
    reply_answers ho h
  have hs : (s.spdm == .session) = true ↔ secure := beq_iff_eq
  refine ⟨?query, ?prog, ?go, ?stop, ?version, ?capabilities, ?lock, ?report, ?state, ?start, ?stopped,
    execIdeIntegrityFailure_falls, execIdeIntegrityFailure_idle, fallIfLocked_stays,
    fun h => fallIfLocked_falls h ▸ enterError_leaves⟩
  case query => exact key (o := execIdeQuery req s) rfl hs
  case prog => exact key (o := execIdeKeyProg req s) rfl hs
  case go => exact key (o := execIdeKSetGo req s) rfl (by rw [Bool.and_eq_true, hs])
  case stop => exact key (o := execIdeKSetStop req s) rfl hs
  case version => exact key (o := execGetTdispVersion s) rfl hs
  case capabilities => exact key (o := execGetTdispCapabilities s) rfl hs
  case lock => exact key (o := execLockInterfaceRequest req s) rfl (by rw [Bool.and_eq_true, Bool.and_eq_true, hs, beq_iff_eq, and_assoc])
  case report => exact key (o := execGetDeviceInterfaceReport req s) rfl (by rw [Bool.and_eq_true, Bool.or_eq_true, hs, beq_iff_eq, beq_iff_eq])
  case state => exact key (o := execGetDeviceInterfaceState s) rfl hs
  case start => exact key (o := execStartInterfaceRequest s) rfl (by rw [Bool.and_eq_true, hs, beq_iff_eq])
  case stopped =>
    have hf : (fun s : State => if s.tdi = .unlocked then s else s.scrub) = fun s => if s.tdi == .unlocked then s else s.scrub := by
      simp only [beq_iff_eq]
    exact hf ▸ key (o := execStopInterfaceRequest s) rfl hs

end Sys2Proof.Machine
end

section
/-! The host's view of the device (15 R370-R378): BAR 4, the registers of BAR 0, the BAR registers (O52). -/

namespace Sys2Proof.Machine

variable {s : State} {addr len off : Nat} {t : Bool}

/-! BAR 4 (R371), by what R375 makes of the request. -/

section bar4
variable {data : List Byte} {op : HostAtomic} {wide : Bool} {v cmp : BitVec 64}

theorem execHostBar4Read_served (hf : addr + len ≤ Config.bar4Size s.part) (hs : s.serve t false = .served) :
    execHostBar4Read addr len t s = .next ((s.barLoad addr len).1.answer (.completion (s.barLoad addr len).2)) := by
  simp only [execHostBar4Read, if_neg (Nat.not_lt.2 hf), hs]

theorem execHostBar4Read_refused (hf : addr + len ≤ Config.bar4Size s.part) (hs : s.serve t false = .refused) :
    execHostBar4Read addr len t s = .next (s.answer .unsupported) := by
  simp only [execHostBar4Read, if_neg (Nat.not_lt.2 hf), hs]

theorem execHostBar4Read_ones (hf : addr + len ≤ Config.bar4Size s.part) (hs : s.serve t false = .ones) :
    execHostBar4Read addr len t s = .next (s.answer (.completion (List.replicate len 0xFF#8))) := by
  simp only [execHostBar4Read, if_neg (Nat.not_lt.2 hf), hs]

theorem execHostBar4Write_within (hf : addr + data.length ≤ Config.bar4Size s.part) :
    execHostBar4Write addr data t s = .next (s.hostWrite t (fun s => (s.barStore addr data).release)) := by
  rw [execHostBar4Write, if_neg (Nat.not_lt.2 hf)]

theorem hostWrite_refused (h : s.serve t false = .refused) (f : State → State) : s.hostWrite t f = s.answer .unsupported := by
  simp only [State.hostWrite, h]

theorem hostWrite_ones (h : s.serve t false = .ones) (f : State → State) : s.hostWrite t f = s := by
  simp only [State.hostWrite, h]

section atomics
variable (hf : addr + (if wide then 8 else 4) ≤ Config.bar4Size s.part)
include hf

/-- An AtomicOp on an aligned word below the capacity (R370). -/
theorem execHostAtomicop_made (hs : s.serve t false = .served) (ha : addr % (if wide then 8 else 4) = 0)
    (hc : addr < Config.cap s.part) :
    execHostAtomicop op wide addr v cmp t s =
      .next ((s.barAtomic op (if wide then 8 else 4) addr v cmp).1.release.answer
        (.completion (leBytes (s.barAtomic op (if wide then 8 else 4) addr v cmp).2.toNat (if wide then 8 else 4)))) := by
  simp only [execHostAtomicop, if_neg (Nat.not_lt.2 hf), hs, ha, bne_self_eq_false, Bool.false_eq_true, if_false,
    if_neg (Nat.not_le.2 hc)]

/-- An AtomicOp on an aligned word at or above the capacity (R371). -/
theorem execHostAtomicop_beyond (hs : s.serve t false = .served) (ha : addr % (if wide then 8 else 4) = 0)
    (hc : Config.cap s.part ≤ addr) :
    execHostAtomicop op wide addr v cmp t s =
      .next (s.answer (.completion (List.replicate (if wide then 8 else 4) 0xFF#8))) := by
  simp only [execHostAtomicop, if_neg (Nat.not_lt.2 hf), hs, ha, bne_self_eq_false, Bool.false_eq_true, if_false, ge_iff_le, hc,
    if_true]

theorem execHostAtomicop_refused (hs : s.serve t false = .refused) :
    execHostAtomicop op wide addr v cmp t s = .next (s.answer .unsupported) := by
  simp only [execHostAtomicop, if_neg (Nat.not_lt.2 hf), hs]

theorem execHostAtomicop_ones (hs : s.serve t false = .ones) :
    execHostAtomicop op wide addr v cmp t s =
      .next (s.answer (.completion (List.replicate (if wide then 8 else 4) 0xFF#8))) := by
  simp only [execHostAtomicop, if_neg (Nat.not_lt.2 hf), hs]

end atomics
end bar4

/-! BAR 0 (R372, R375). -/

section bar0
variable {w : BitVec 64}

theorem execRegisterWrite_served (h : s.serve t (off < 32) = .served) :
    execRegisterWrite .bar0 off w t s = .next (s.reachReg off w) := by simp only [execRegisterWrite, h]

theorem execRegisterWrite_refused (h : s.serve t (off < 32) = .refused) :
    execRegisterWrite .bar0 off w t s = .next (s.answer .unsupported) := by simp only [execRegisterWrite, h]

theorem execRegisterWrite_ones (h : s.serve t (off < 32) = .ones) : execRegisterWrite .bar0 off w t s = .next s := by
  simp only [execRegisterWrite, h]

end bar0

/-- Settles O52: each request by what the table of R375 makes of it. -/
theorem hostRequestsAreServedByTheTable : Obligations.HostRequestsAreServedByTheTable := by
  unfold Obligations.HostRequestsAreServedByTheTable
  intro s addr len off data op wide t v cmp w n fits no ones
  refine ⟨?served, ?refused, ?ones, execRegisterWrite_served, execRegisterWrite_refused, execRegisterWrite_ones, rfl, rfl⟩
  case served =>
    rintro ⟨hr, hw, ha⟩ hs
    refine ⟨execHostBar4Read_served hr hs, ?_, execHostAtomicop_made ha hs, execHostAtomicop_beyond ha hs⟩
    rw [exec_hostBar4Write, execHostBar4Write_within hw, hostWrite_served hs]
  case refused =>
    rintro ⟨hr, hw, ha⟩ hs
    refine ⟨execHostBar4Read_refused hr hs, ?_, execHostAtomicop_refused ha hs⟩
    exact (execHostBar4Write_within hw).trans (congrArg _ (hostWrite_refused hs _))
  case ones =>
    rintro ⟨hr, hw, ha⟩ hs
    refine ⟨execHostBar4Read_ones hr hs, ?_, execHostAtomicop_ones ha hs⟩
    rw [exec_hostBar4Write, execHostBar4Write_within hw, hostWrite_ones hs]

end Sys2Proof.Machine
end

section
/-! The debug block (15 R383-R389): its control word, and the commands that act on a thread (O53). -/

namespace Sys2Proof.Machine

variable {s : State} {w : BitVec 64} {t : Bool}

/-! The control word (R384). -/

theorem dbgWrite_open (hs : s.serve t false = .served) (ho : s.dbgOpen = true) (f : State → State) : s.dbgWrite t f = f s := by
  rw [State.dbgWrite, hostWrite_served hs, if_pos ho]

/-- The halt bit is among the fields that the control word takes. -/
theorem halts_iff : (w &&& 0x800000FFFFF00001).getLsbD 0 = w.getLsbD 0 := by simp

theorem setDbgCtl_halts (h : w.getLsbD 0 = true) : s.setDbgCtl w =
    ({ s with dbgCtl := w &&& 0x800000FFFFF00001 } : State).parkRuns ((w &&& 0x800000FFFFF00001).extractLsb' 20 20) :=
  if_pos (halts_iff.trans h)

theorem setDbgCtl_goes (h : ¬ w.getLsbD 0 = true) : s.setDbgCtl w = { s with dbgCtl := w &&& 0x800000FFFFF00001 } :=
  if_neg fun hf => h (halts_iff.symm.trans hf)

/-! A command on its thread (R385). -/

theorem dbgDo_fails (h : s.dbgThread w = none ∨ ∃ x, s.dbgThread w = some x ∧ s.dbgMay x = false)
    (f : Launch → Group → Thread → State → State × Bool) : s.dbgDo w f = { s with dbgErr := true } := by
  obtain h | ⟨x, hx, hm⟩ := h
  · simp only [State.dbgDo, h]
  · simp only [State.dbgDo, hx, hm, Bool.not_false, if_true]

/-- No thread of the vector pipe is recalled. -/
theorem recallThread_onPipe {r : GroupRef} {lane : Nat} {x : Thread} (ht : s.thread? r lane = some x) (hp : x.pip = none) :
    s.recallThread r lane = s := by
  simp only [State.recallThread, ht, hp, Option.isNone_none, if_true]

section acts
variable {x : Thread} {g : Group} {l : Launch} (hx : s.dbgThread w = some x) (hm : s.dbgMay x = true) (hp : x.pip = none)
  (ht : s.thread? x.ref x.lane = some x) (hg : s.group? x.ref = some g) (hl : s.launch? x.ref.launch = some l)
include hx hm hp ht hg hl

theorem dbgDo_acts (f : Launch → Group → Thread → State → State × Bool) :
    s.dbgDo w f = { (f l g x s).1 with dbgErr := !(f l g x s).2 } := by
  simp only [State.dbgDo, hx, hm, recallThread_onPipe ht hp, ht, hg, hl, Bool.not_true, Bool.false_eq_true, if_false]

section registers
variable {o : Opnd}

/-- READ_REG of a register that is no flag: its value, or 0 where it is poisoned (R389). -/
theorem dbgRead_register (hr : dbgReg l g w = some o) (ho : ∀ i, o ≠ .f i) (hd : s.damage = []) :
    s.dbgRead w = if poisoned g x (o, 1) then { s with dbgData := 0, dbgErr := true }
      else { s with dbgData := readOp g x 0 .uint false o, dbgErr := false } := by
  rw [State.dbgRead, dbgDo_acts hx hm hp ht hg hl]
  have hmeet : s.dbgMeet l x o = s := meetAll_clean hd ..
  cases o with
  | f i => exact absurd rfl (ho i)
  | _ =>
    simp only [hr, hmeet, ht, hg]
    split <;> rfl

theorem dbgRead_flag {i : Fin 12} (hr : dbgReg l g w = some (.f i)) :
    s.dbgRead w = { s with dbgData := if g.flags.get i.val ≠ 0 then 1 else 0, dbgErr := false } := by
  rw [State.dbgRead, dbgDo_acts hx hm hp ht hg hl]
  simp [hr, flagSet]

theorem dbgRead_none (hr : dbgReg l g w = none) : s.dbgRead w = { s with dbgErr := true } := by
  rw [State.dbgRead, dbgDo_acts hx hm hp ht hg hl]
  simp only [hr, Bool.not_false]

/-- WRITE_REG of a register that is no flag, in its group or in its thread (R385). -/
theorem dbgPut_register (hr : dbgReg l g w = some o) (ho : ∀ i, o ≠ .f i) (hd : s.damage = []) :
    s.dbgPut w = { (if perGroup o then s.modGroup x.ref (·.write o false s.dbgData)
      else s.modThread x.ref x.lane (·.write o false s.dbgData)) with dbgErr := false } := by
  rw [State.dbgPut, dbgDo_acts hx hm hp ht hg hl]
  cases o with
  | f i => exact absurd rfl (ho i)
  | _ => simp only [hr, overRegs_unhurt hd, Bool.not_true]

theorem dbgPut_flag {i : Fin 12} (hr : dbgReg l g w = some (.f i)) : s.dbgPut w = { s with dbgErr := true } := by
  rw [State.dbgPut, dbgDo_acts hx hm hp ht hg hl]
  simp only [hr, Bool.not_false]

theorem dbgPut_none (hr : dbgReg l g w = none) : s.dbgPut w = { s with dbgErr := true } := by
  rw [State.dbgPut, dbgDo_acts hx hm hp ht hg hl]
  simp only [hr, Bool.not_false]

end registers

theorem dbgStep_goes (ha : x.cond.acrossLanes = false) :
    s.dbgStep w = { (s.setGoing x (fun t => { t with stepping := true })) with dbgErr := false } := by
  rw [State.dbgStep, dbgDo_acts hx hm hp ht hg hl]
  simp only [ha, Bool.false_eq_true, if_false, Bool.not_true]

theorem dbgStep_across (ha : x.cond.acrossLanes = true) : s.dbgStep w = { s with dbgErr := true } := by
  rw [State.dbgStep, dbgDo_acts hx hm hp ht hg hl]
  simp only [ha, if_true, Bool.not_false]

theorem dbgResume_goes : s.dbgResume w =
    { (s.setGoing x (fun t => { t with stepping := false, pass := some t.pc })) with dbgErr := false } := by
  rw [State.dbgResume, dbgDo_acts hx hm hp ht hg hl]
  rfl

end acts

/-! The commands as the host writes them (R384). -/

section commands
variable (hs : s.serve t false = .served) (ho : s.dbgOpen = true)
include hs ho

theorem execDebugControlWrite_open : execDebugControlWrite w t s = .next (s.setDbgCtl w) :=
  congrArg _ (dbgWrite_open hs ho _)

theorem execReadReg_open (h : dbgOp w = 1) : execReadReg w t s = .next (s.dbgRead w) := by
  rw [execReadReg, if_pos h, dbgWrite_open hs ho]

theorem execWriteReg_open (h : dbgOp w = 2) : execWriteReg w t s = .next (s.dbgPut w) := by
  rw [execWriteReg, if_pos h, dbgWrite_open hs ho]

theorem execDbgStep_open (h : dbgOp w = 3) : execDbgStep w t s = .next (s.dbgStep w) := by
  rw [execDbgStep, if_pos h, dbgWrite_open hs ho]

theorem execDbgResume_open (h : dbgOp w = 4) : execDbgResume w t s = .next (s.dbgResume w) := by
  rw [execDbgResume, if_pos h, dbgWrite_open hs ho]

end commands

/-- Settles O53: the control word; a command without a thread; then each command on its thread, READ_REG and WRITE_REG by the register
they name. -/
theorem debugCommandsAct : Obligations.DebugCommandsAct := by
  unfold Obligations.DebugCommandsAct
  intro s w t fields halts hs ho
  refine ⟨fun h => ?_, fun h => ?_, ?_, ?_⟩
  · exact (execDebugControlWrite_open hs ho).trans (congrArg _ (setDbgCtl_halts h))
  · exact (execDebugControlWrite_open hs ho).trans (congrArg _ (setDbgCtl_goes h))
  · rintro hn y rfl
    exact ⟨fun h => (execReadReg_open hs ho h).trans (congrArg _ (dbgDo_fails hn _)),
      fun h => (execWriteReg_open hs ho h).trans (congrArg _ (dbgDo_fails hn _)),
      fun h => (execDbgStep_open hs ho h).trans (congrArg _ (dbgDo_fails hn _)),
      fun h => (execDbgResume_open hs ho h).trans (congrArg _ (dbgDo_fails hn _))⟩
  · intro x g l hx hm hp ht hg hl
    refine ⟨fun o hr => ⟨fun hf hd => ⟨fun h hq => ?_, fun h hq => ?_, fun h => ?_⟩, ?_⟩,
      fun hr => ⟨fun h => ?_, fun h => ?_⟩, fun h ha => ?_, fun h ha => ?_, fun h => ?_⟩
    · rw [exec_readReg, execReadReg_open hs ho h, dbgRead_register hx hm hp ht hg hl hr hf hd, hq, if_neg (by decide)]
    · rw [exec_readReg, execReadReg_open hs ho h, dbgRead_register hx hm hp ht hg hl hr hf hd, if_pos hq]
    · rw [exec_writeReg, execWriteReg_open hs ho h, dbgPut_register hx hm hp ht hg hl hr hf hd]
    · rintro i rfl
      refine ⟨fun h => ?_, fun h => ?_⟩
      · rw [exec_readReg, execReadReg_open hs ho h, dbgRead_flag hx hm hp ht hg hl hr]
      · rw [exec_writeReg, execWriteReg_open hs ho h, dbgPut_flag hx hm hp ht hg hl hr]
    · rw [exec_readReg, execReadReg_open hs ho h, dbgRead_none hx hm hp ht hg hl hr]
    · rw [exec_writeReg, execWriteReg_open hs ho h, dbgPut_none hx hm hp ht hg hl hr]
    · rw [exec_dbgStep, execDbgStep_open hs ho h, dbgStep_goes hx hm hp ht hg hl ha]
    · rw [exec_dbgStep, execDbgStep_open hs ho h, dbgStep_across hx hm hp ht hg hl ha]
    · rw [exec_dbgResume, execDbgResume_open hs ho h, dbgResume_goes hx hm hp ht hg hl]

end Sys2Proof.Machine
end

section
/-! A context that stops while an IMAGE_SAVE of it is under way (14 R346, R351): the buffer of the save is in main memory (O7). -/

namespace Sys2Proof.Machine

variable {s : State}

theorem freeBytes_mem (n : Nat) : (s.freeBytes n).1.mem = s.mem := by
  induction n generalizing s with
  | zero => rfl
  | succ n ih => exact ih (s := s.free.2)

/-- The first of some unspecified bytes. -/
theorem freeBytes_succ (n : Nat) : ∃ r, (s.freeBytes (n + 1)).2 = (Config.freeBits s.freeCtr).setWidth 8 :: r := ⟨_, rfl⟩

/-- A save that is cut short leaves unspecified bytes in a buffer in main memory (R346). -/
theorem spoilBuffers_saving {p : Packet} {ps : List Packet} (hs : p.saving = true)
    (hm : s.inMain (fieldAt p.bytes 16 8) = true ∧ fieldAt p.bytes 16 8 + fieldAt p.bytes 24 8 ≤ Config.cap s.part) :
    ∃ u : State, u.mem = s.mem.setBytes (fieldAt p.bytes 16 8) (s.freeBytes (fieldAt p.bytes 24 8)).2 ∧
      s.spoilBuffers (p :: ps) = u.spoilBuffers ps := by
  refine ⟨_, ?_, by rw [State.spoilBuffers, List.foldl_cons]; rfl⟩
  simp only [hs, hm, decide_true, Bool.and_self, if_true, freeBytes_mem]

/-- A packet that is no save under way keeps its buffer. -/
theorem spoilBuffers_other {p : Packet} {ps : List Packet} (hs : p.saving = false) :
    s.spoilBuffers (p :: ps) = s.spoilBuffers ps := by
  rw [State.spoilBuffers, List.foldl_cons]
  simp only [hs, Bool.false_and, Bool.false_eq_true, if_false]
  rfl

/-- A context whose root has a packet, the oldest of its queue, stops: the saves of that queue are cut short (R346, R351). -/
theorem stopContext_mem {id i : Nat} {k : ErrKind} {cause : Cause} {wh : BitVec 64} {pc : BitVec 32} {l : Launch} {q : QueueRef}
    (hl : s.launch? (s.root id) = some l) (hp : l.packet = some (q, i))
    (ho : ∀ p ∈ s.packets, p.q = q → i ≤ p.idx) :
    (s.stopContext id k cause wh pc).mem = ((s.removeLaunches (s.context id)).spoilBuffers (s.packets.filter (·.q == q))).mem := by
  have hn : (s.removeLaunches (s.context id)).packets.any (fun p => (p.q == q && p.result.isNone) && p.idx < i &&
      (fieldAt p.bytes 0 1 == 1 || fieldAt p.bytes 0 1 == 5)) = false := by
    refine any_none fun p hm => ?_
    by_cases hq : p.q = q
    · simp [Nat.not_lt.2 (ho p hm hq)]
    · simp [hq]
  simp only [State.stopContext, hl, hp, State.endSaves, hn, Bool.false_eq_true, if_false, if_true]
  rfl

/-- A fatal trap that no handler takes stops the context (R342). -/
theorem trapThread_stops {r : GroupRef} {lane : Nat} {tr : Trap} {pc : BitVec 64} {c : Option Resume} {t : Thread} {l : Launch}
    (ht : s.thread? r lane = some t) (hl : s.launch? r.launch = some l) (hb : tr.cause ≠ .breakpoint)
    (hh : handlerTakes l t tr = false) : s.trapThread r lane tr pc c =
      (s.modThread r lane (·.trapRegs tr pc c)).stopContext r.launch .fatalContext tr.cause (whereThread r lane)
        ((pc - l.lr.codeaddr).setWidth 32) := by
  simp only [State.trapThread, ht, hl, hh, beq_eq_false_iff_ne.2 hb, Bool.false_and, Bool.false_eq_true, if_false]

/-- A launch of a queue's first packet, in whose handler its one thread is. -/
def savedLaunch : Launch := { placedLaunch with packet := some (⟨1, 0⟩, 0) }
def savedThread : Thread := { Thread.fresh placedRef 0 0x100000 0 with inHandler := true }

/-- The LAUNCH of that packet, and the IMAGE_SAVE behind it, whose buffer is the first 64 KiB of main memory. -/
def launchPacket : Packet := ⟨⟨1, 0⟩, 0, 1#8 :: List.replicate 63 0#8, none⟩
def savePacket : Packet := ⟨⟨1, 0⟩, 1, 4#8 :: (List.replicate 23 0#8 ++ leBytes 65536 8 ++ List.replicate 32 0#8), none⟩

/-- The byte that the buffer takes first, and another one, which stands there before. -/
def spoiledByte : Byte := (Config.freeBits 0).setWidth 8
def keptByte : Byte := if spoiledByte = 0 then 1 else 0

theorem keptByte_ne : keptByte ≠ spoiledByte := by
  unfold keptByte
  split
  · next h => rw [h]; decide
  · next h => exact Ne.symm h

/-- A save is under way of a launch whose one thread is in its handler. -/
def savedState : State :=
  { State.reset with
    launches := [savedLaunch], threads := [savedThread], packets := [launchPacket, savePacket], mem := Store.set [] 0 keptByte }

/-- The trap registers of the thread are written as it traps again, and its context stops (R342). -/
def savedTrap : State := savedState.modThread placedRef 0 (·.trapRegs ⟨.illegalOp, 0, 0⟩ 0x100000 none)
def savedRemoved : State := savedTrap.removeLaunches (savedTrap.context 0)
def savedStop : State := savedState.trapThread placedRef 0 ⟨.illegalOp, 0, 0⟩ 0x100000 none

theorem savedStop_mem : ∃ r, savedStop.mem = savedState.mem.setBytes 0 (spoiledByte :: r) := by
  have ht : savedStop = savedTrap.stopContext 0 .fatalContext .illegalOp (whereThread placedRef 0) _ :=
    trapThread_stops (t := savedThread) (l := savedLaunch) rfl rfl (by decide) rfl
  have hs : savedStop.mem = (savedRemoved.spoilBuffers [launchPacket, savePacket]).mem :=
    (congrArg State.mem ht).trans
      (stopContext_mem (l := savedLaunch) (q := ⟨1, 0⟩) rfl rfl fun _ _ _ => Nat.zero_le _)
  obtain ⟨v, hv, he⟩ := spoilBuffers_saving (s := savedRemoved) (p := savePacket) (ps := [])
    (by decide) (by decide)
  obtain ⟨r, hr⟩ := freeBytes_succ (s := savedRemoved) 65535
  rw [hs, spoilBuffers_other (by decide), he]
  refine ⟨r, hv.trans ?_⟩
  exact congrArg _ hr

theorem savedStop_mem_ne : savedStop.mem ≠ savedState.mem := by
  intro h
  have hw : Store.wf savedState.mem = true := Store.set_wf 0 keptByte rfl
  obtain ⟨r, hr⟩ := savedStop_mem
  have hb : Store.get savedStop.mem 0 = spoiledByte := by
    rw [hr, Store.setBytes, Store.get_setBytes_other r (.inl (Nat.zero_lt_one)), Store.get_set_self 0 spoiledByte hw]
  rw [h] at hb
  exact keptByte_ne ((Store.get_set_self 0 keptByte rfl).symm.trans hb)

/-- Refutes O7: a context that stops while an IMAGE_SAVE of it is under way cuts the save short, and the save's buffer, which may lie
in main memory, then holds unspecified bytes (14 R346; log 123), where O7 has memory keep every byte. -/
theorem not_trapsEnterTheHandlerOrStop : ¬ Obligations.TrapsEnterTheHandlerOrStop := by
  unfold Obligations.TrapsEnterTheHandlerOrStop
  intro h
  obtain ⟨-, -, hstop⟩ := h savedState placedRef 0 ⟨.illegalOp, 0, 0⟩ 0x100000 none savedThread savedLaunch rfl rfl (by decide)
  obtain ⟨hm, -⟩ := hstop (fun hb => Cause.noConfusion hb.1) (fun ht => Bool.noConfusion ht.2.2.2) savedStop savedLaunch rfl rfl
  exact savedStop_mem_ne hm

end Sys2Proof.Machine
end

section
/-! Queues and their packets (13 R311-R314; 14 R351, R364; 03 R79): O49. -/

namespace Sys2Proof.Machine

variable {s s1 : State} {q : QueueRef} {e : QueueEntry} {i : Nat} {bs : List Byte}

/-! Notifications (R311). -/

section notify
variable {page off width : Nat} {w : BitVec 64} {t : Bool} (hs : s.serve t false = .served)
include hs

theorem execNotify_names (h : off = 0 ∧ width = 8 ∧ page < 65536) : execNotify page off width w t s =
    .next ((s.queuesOf page).foldl (fun (s : State) x => s.notifyQueue x.1 x.2 w) s.seeQueues) := by
  obtain ⟨rfl, rfl, hp⟩ := h
  rw [execNotify, hostWrite_served hs, if_neg (by simpa using hp)]

theorem execNotify_ignored (h : off ≠ 0 ∨ width ≠ 8) : execNotify page off width w t s = .next s := by
  rw [execNotify, hostWrite_served hs, if_pos (by simpa using .inl h)]

end notify

/-! The next packet of a queue is of the event's opcode (R312, R313). -/

section starts
variable (hn : s.nextPacket q = (s1, .packet e i bs))
include hn

theorem packet_starts {op : Nat} (ho : pkOpcode bs = op) (f : QueueEntry → Nat → List Byte → State → State) :
    s.packet q op f = f e i bs (s1.startPacket q e i bs) := by
  simp only [State.packet, hn, ho, if_true]

theorem execNopPacket_done (ho : pkOpcode bs = 0) :
    execNopPacket q s = .next ((s1.startPacket q e i bs).packetDone q i 0 0) := by rw [execNopPacket, packet_starts hn ho]

section launch
variable {s2 s3 : State} {r : Option (List Byte)} (ho : pkOpcode bs = 1)
  (hr : (s1.startPacket q e i bs).readRecord q.pasid (pkAddr bs) = (s2, r))
include ho hr

theorem execLaunchPacket_admits
    (ht : s2.takeOn q.pasid e.cls (some (q, i)) none (some (BitVec.ofNat 64 (pkAddr bs))) r = (s3, none)) :
    execLaunchPacket q s = .next s3 := by
  rw [execLaunchPacket, packet_starts hn ho]
  simp only [hr, ht]

theorem execLaunchPacket_refuses {reason : Nat}
    (ht : s2.takeOn q.pasid e.cls (some (q, i)) none (some (BitVec.ofNat 64 (pkAddr bs))) r = (s3, some reason)) :
    execLaunchPacket q s = .next (s3.packetDone q i 1 reason) := by
  rw [execLaunchPacket, packet_starts hn ho]
  simp only [hr, ht]

end launch

/-- WAIT_SIGNAL, SET_SIGNAL and PLAN_LOAD do at once what they can (R313). -/
theorem startWork_starts {op : Nat} (ho : pkOpcode bs = op) :
    s.startWork q op = (s1.startPacket q e i bs).perform ⟨q, i, bs, none⟩ := packet_starts hn ho _

theorem execWaitSignalPacket_performs (ho : pkOpcode bs = 2) :
    execWaitSignalPacket q s = .next ((s1.startPacket q e i bs).perform ⟨q, i, bs, none⟩) := by
  rw [execWaitSignalPacket, startWork_starts hn ho]

theorem execSetSignalPacket_performs (ho : pkOpcode bs = 3) :
    execSetSignalPacket q s = .next ((s1.startPacket q e i bs).perform ⟨q, i, bs, none⟩) := by
  rw [execSetSignalPacket, startWork_starts hn ho]

theorem execPlanLoadPacket_performs (ho : pkOpcode bs = 7) :
    execPlanLoadPacket q s = .next ((s1.startPacket q e i bs).perform ⟨q, i, bs, none⟩) := by
  rw [execPlanLoadPacket, startWork_starts hn ho]

theorem execImageSavePacket_begins (ho : pkOpcode bs = 4) :
    execImageSavePacket q s = .next ((s1.startPacket q e i bs).startSave ⟨q, i, bs, none⟩) := by
  rw [execImageSavePacket, packet_starts hn ho]

theorem execImageLoadPacket_begins (ho : pkOpcode bs = 5) :
    execImageLoadPacket q s = .next ((s1.startPacket q e i bs).startLoad e ⟨q, i, bs, none⟩) := by
  rw [execImageLoadPacket, packet_starts hn ho]

section harvest
variable (ho : pkOpcode bs = 6)
include ho

theorem execDirtyHarvestPacket_refused (hp : ((s1.startPacket q e i bs).pasidEntry q.pasid).all (!·.dt) = true) :
    execDirtyHarvestPacket q s = .next ((s1.startPacket q e i bs).packetDone q i 1 24) := by
  rw [execDirtyHarvestPacket, packet_starts hn ho]
  cases h : (s1.startPacket q e i bs).pasidEntry q.pasid with
  | none => rfl
  | some p =>
    rw [h, Option.all_some] at hp
    simp only [hp, if_true]

theorem execDirtyHarvestPacket_waits {p : PasidEntry} (hp : (s1.startPacket q e i bs).pasidEntry q.pasid = some p)
    (ht : p.dt = true) : execDirtyHarvestPacket q s = .next (State.beginHarvests { s1.startPacket q e i bs with
      maint := (s1.startPacket q e i bs).maint ++ [⟨.harvest q i q.pasid (BitVec.ofNat 36 (pkAddr bs / 4096)) none, []⟩] }) := by
  rw [execDirtyHarvestPacket, packet_starts hn ho]
  simp only [hp, ht, Bool.not_true, Bool.false_eq_true, if_false]

end harvest
end starts

/-! A packet or a ring that cannot be read (R314). -/

theorem execInvalidPacket_stops {op : Nat} (hn : s.nextPacket q = (s1, .invalid e op)) :
    execInvalidPacket q s = .next (s1.stopQueue e 1 op) := by simp only [execInvalidPacket, hn]

theorem execInvalidPacket_ringFault (hn : s.nextPacket q = (s1, .ringFault e)) :
    execInvalidPacket q s = .next (s1.free.2.stopQueue e 2 (s1.free.1.toNat % 2 ^ 32)) := by simp only [execInvalidPacket, hn]

/-! Completion (R312). -/

theorem execPacketComplete_works {p : Packet} {idx : Nat} (hp : s.packets.find? (fun p => p.q == q && p.idx == idx) = some p)
    (ht : s.tdi ≠ .error) (hr : (p.result.isSome || s.queuesRun) = true) (hl : s.signalLogged q idx = false)
    (hb : s.hostBarred (s.workOn p) = false) : execPacketComplete q idx s = .next (s.workOn p) := by
  have hw : (p.result.isNone && !s.queuesRun) = false := by
    rw [← Option.not_isSome, ← Bool.not_or, hr, Bool.not_true]
  simp only [execPacketComplete, hp, hw, hl, beq_eq_false_iff_ne.2 ht, Bool.or_self, Bool.false_eq_true, if_false]
  exact waitLocked_next hb

/-- Settles O49: notifications; the packets by their opcode; what a queue stops at; completion. -/
theorem queuesStartTheirPackets : Obligations.QueuesStartTheirPackets := by
  unfold Obligations.QueuesStartTheirPackets
  intro s s1 q e i bs page off width w t
  refine ⟨fun hs => ⟨execNotify_names hs, execNotify_ignored hs⟩, ?starts, ?_, fun op hn => execInvalidPacket_stops hn,
    execInvalidPacket_ringFault, fun p idx hp ht hr hl hb => execPacketComplete_works hp ht hr hl hb⟩
  case starts =>
    rintro hn st rfl
    refine ⟨execNopPacket_done hn, ?_, execWaitSignalPacket_performs hn, execSetSignalPacket_performs hn,
      execImageSavePacket_begins hn, execImageLoadPacket_begins hn, fun ho => ⟨execDirtyHarvestPacket_refused hn ho, ?_⟩,
      execPlanLoadPacket_performs hn⟩
    · rintro ho s2 r rec_ hr rfl s3
      exact ⟨execLaunchPacket_admits hn ho hr, fun reason => execLaunchPacket_refuses hn ho hr⟩
    · rintro p op hp ht rfl
      exact execDirtyHarvestPacket_waits hn ho hp ht
  · intro p new a x ha hs hx
    simp only [State.takeBitmap, ← ha, ← hs, ← hx]

end Sys2Proof.Machine
end

section
/-! What a pipe and a pip core issue next, and the two timeouts of an ejection (13 R325; 12 R302, R304, R306): O43. -/

namespace Sys2Proof.Machine

variable {s : State}

/-! The order of the candidates at a pipe (R325). -/

/-- The order of keys is the lexicographic order of lists of numbers. -/
theorem keyLt_iff : ∀ {a b : List Nat}, keyLt a b = true ↔ a < b
  | [], [] => by simp [keyLt]
  | [], _ :: _ => by simp [keyLt]
  | _ :: _, [] => by simp [keyLt]
  | _ :: as, _ :: bs => by simp [keyLt, List.cons_lt_cons_iff, keyLt_iff (a := as) (b := bs)]

theorem keyLt_false {a b : List Nat} : keyLt a b = false ↔ b ≤ a := by
  rw [← Bool.not_eq_true, keyLt_iff, not_lt]

section order
variable {now : Nat} {a b c : Candidate}

theorem not_ahead_of_ahead (h : Candidate.ahead now a b = true) : Candidate.ahead now b a = false :=
  keyLt_false.2 (keyLt_iff.1 h).le

/-- What does not go ahead of one that does not go ahead of a third does not go ahead of the third. -/
theorem not_ahead_trans (hab : Candidate.ahead now a b = false) (hbc : Candidate.ahead now b c = false) :
    Candidate.ahead now a c = false :=
  keyLt_false.2 ((keyLt_false.1 hbc).trans (keyLt_false.1 hab))

theorem not_ahead_self : Candidate.ahead now a a = false := keyLt_false.2 le_rfl

end order

/-- One of the candidates is picked, and none of them goes ahead of it. -/
theorem bestOf_cons (now : Nat) (c : Candidate) (cs : List Candidate) :
    ∃ d ∈ c :: cs, bestOf now (c :: cs) = some d ∧ ∀ x ∈ c :: cs, Candidate.ahead now x d = false := by
  induction cs generalizing c with
  | nil => exact ⟨c, List.mem_singleton_self c, rfl, by simp [not_ahead_self]⟩
  | cons b bs ih =>
    obtain ⟨d, hd, hb, hx⟩ := ih b
    by_cases ha : Candidate.ahead now d c = true
    · refine ⟨d, List.mem_cons_of_mem c hd, by rw [bestOf, hb]; exact if_pos ha, fun x hm => ?_⟩
      obtain rfl | hm := List.mem_cons.1 hm
      · exact not_ahead_of_ahead ha
      · exact hx x hm
    · refine ⟨c, List.mem_cons_self, by rw [bestOf, hb]; exact if_neg ha, fun x hm => ?_⟩
      obtain rfl | hm := List.mem_cons.1 hm
      · exact not_ahead_self
      · exact not_ahead_trans (hx x hm) (Bool.eq_false_iff.2 ha)

/-- The groups of class 3 are no candidates after a clause of class 3, while another group is ready (R325; log 89, DEDUCED). -/
theorem mem_candidates {core pipe : Nat} {c : Candidate} : c ∈ s.candidates core pipe ↔ c ∈ s.readyAt core pipe ∧
    (s.agentWaits core pipe = true → (∃ d ∈ s.readyAt core pipe, d.cls ≠ 3) → c.cls ≠ 3) := by
  simp only [State.candidates]
  split
  · next h =>
    obtain ⟨hw, ho⟩ := Bool.and_eq_true_iff.1 h
    have ho : ∃ d ∈ s.readyAt core pipe, d.cls ≠ 3 := by simpa using ho
    simp [hw, ho]
  · next h =>
    refine ⟨fun hc => ⟨hc, fun hw ho => absurd ?_ h⟩, And.left⟩
    simpa [hw] using ho

/-! ISSUE_ARBITRATION and PIP_ISSUE. -/

/-- A look at a group leaves a thread whose wait is not over as it is. -/
theorem mem_look {x : Thread} (hx : x ∈ s.threads) (hw : s.waitOver x = false) (ref : GroupRef) : x ∈ (s.look ref).threads := by
  refine List.mem_map.2 ⟨x, hx, ?_⟩
  simp only [hw, Bool.false_eq_true, if_false, ite_self]

section counted
variable {core pipe cls : Nat}

theorem countTurn_runs : (s.countTurn core pipe cls).runs = s.runs := by unfold State.countTurn; split <;> rfl
theorem countTurn_threads : (s.countTurn core pipe cls).threads = s.threads := by unfold State.countTurn; split <;> rfl
theorem countTurn_mem : (s.countTurn core pipe cls).mem = s.mem := by unfold State.countTurn; split <;> rfl
theorem countTurn_blocks : (s.countTurn core pipe cls).blocks = s.blocks := by unfold State.countTurn; split <;> rfl

end counted

theorem execIssueArbitration_busy {core pipe : Nat} (h : s.pipeFree false core pipe = false) :
    execIssueArbitration core pipe s = .next s := by simp only [execIssueArbitration, h, Bool.not_false, if_true]

theorem execIssueArbitration_picks {core pipe : Nat} (h : s.pipeFree false core pipe = true) {c : Candidate}
    (hc : bestOf s.clock.toNat (s.candidates core pipe) = some c) :
    ∃ gs, execIssueArbitration core pipe s =
      .next { (s.look c.g.ref).countTurn core pipe c.cls with
        groups := gs, runs := c.run :: ((s.look c.g.ref).countTurn core pipe c.cls).runs } := by
  simp only [execIssueArbitration, h, hc, Bool.not_true, Bool.false_eq_true, if_false]
  exact ⟨_, rfl⟩

/-- The thread whose turn is the longest past, of those that may issue. -/
theorem oldestTurn_cons (x : Thread × Pip × Group) (xs : List (Thread × Pip × Group)) :
    ∃ y ∈ x :: xs, oldestTurn (x :: xs) = some y ∧ ∀ z ∈ x :: xs, y.2.1.turn ≤ z.2.1.turn := by
  induction xs generalizing x with
  | nil => exact ⟨x, List.mem_singleton_self x, rfl, by simp⟩
  | cons b bs ih =>
    obtain ⟨y, hy, hb, hz⟩ := ih b
    by_cases ht : y.2.1.turn < x.2.1.turn
    · refine ⟨y, List.mem_cons_of_mem x hy, by rw [oldestTurn, hb]; exact if_pos ht, fun z hm => ?_⟩
      obtain rfl | hm := List.mem_cons.1 hm
      · exact ht.le
      · exact hz z hm
    · refine ⟨x, List.mem_cons_self, by rw [oldestTurn, hb]; exact if_neg ht, fun z hm => ?_⟩
      obtain rfl | hm := List.mem_cons.1 hm
      · exact le_rfl
      · exact (Nat.not_lt.1 ht).trans (hz z hm)

theorem execPipIssue_busy {cluster pip : Nat} (h : s.pipBusy cluster pip = true) : execPipIssue cluster pip s = .next s := by
  rw [execPipIssue, if_pos h]

theorem execPipIssue_serves {cluster pip : Nat} (h : s.pipBusy cluster pip = false) {x : Thread × Pip × Group}
    (hx : oldestTurn ((s.pipThreads cluster pip).filter s.pipReady) = some x) :
    ∃ f, execPipIssue cluster pip s = .next { s.modThread x.1.ref x.1.lane f with
      runs := newRun x.1.ref x.2.2.core pip true (lanesOf [x.1.lane]) x.1 :: s.runs } := by
  simp only [execPipIssue, State.pipNext, h, hx, Bool.false_eq_true, if_false]
  exact ⟨_, rfl⟩

/-! The timeouts of an ejection (R304). -/

theorem execEjectSoftTimeout_parks {ref : GroupRef} {g : Group} (hg : s.group? ref = some g) (hd : s.softDue g = true) :
    execEjectSoftTimeout ref s = .next (s.modGroup ref (fun g => { g with parked := true, softStart := none })) := by
  simp only [execEjectSoftTimeout, hg, hd, if_true]

theorem execEjectHardTimeout_recalls {ref : GroupRef} {lane : Nat} {t : Thread} (ht : s.thread? ref lane = some t)
    (hd : s.hardDue t = true) : execEjectHardTimeout ref lane s = .next (s.recallThread ref lane) := by
  simp only [execEjectHardTimeout, ht, hd, if_true]

/-- A free pipe with a candidate issues one that none goes ahead of. -/
theorem issueArbitration_next {core pipe : Nat} (hf : s.pipeFree false core pipe = true) (hc : s.candidates core pipe ≠ []) :
    ∃ t c, exec (.issueArbitration core pipe) s = .next t ∧ c ∈ s.candidates core pipe ∧ t.runs = c.run :: s.runs ∧
      t.threads = (s.look c.g.ref).threads ∧ t.mem = s.mem ∧ t.blocks = s.blocks ∧
      ∀ d ∈ s.candidates core pipe, Candidate.ahead s.clock.toNat d c = false := by
  obtain ⟨b, bs, hl⟩ := List.exists_cons_of_ne_nil hc
  obtain ⟨c, hm, hb, hd⟩ := bestOf_cons s.clock.toNat b bs
  rw [← hl] at hm hb hd
  obtain ⟨gs, he⟩ := execIssueArbitration_picks hf hb
  exact ⟨_, c, exec_issueArbitration.trans he, hm, congrArg _ countTurn_runs, countTurn_threads, countTurn_mem, countTurn_blocks, hd⟩

/-- A pip core that is not busy serves the ready context whose turn is the longest past. -/
theorem pipIssue_next {cluster pip : Nat} (hf : s.pipBusy cluster pip = false)
    (hc : (s.pipThreads cluster pip).filter s.pipReady ≠ []) :
    ∃ x ∈ (s.pipThreads cluster pip).filter s.pipReady, ∃ t r, exec (.pipIssue cluster pip) s = .next t ∧
      t.runs = r :: s.runs ∧ r.ref = x.1.ref ∧ r.lanes = lanesOf [x.1.lane] ∧ r.pc = x.1.pc ∧ r.pip = true ∧
      t.mem = s.mem ∧ ∀ y ∈ (s.pipThreads cluster pip).filter s.pipReady, x.2.1.turn ≤ y.2.1.turn := by
  obtain ⟨b, bs, hl⟩ := List.exists_cons_of_ne_nil hc
  obtain ⟨x, hm, hb, hd⟩ := oldestTurn_cons b bs
  rw [← hl] at hm hb hd
  obtain ⟨f, he⟩ := execPipIssue_serves hf hb
  exact ⟨x, hm, _, _, exec_pipIssue.trans he, rfl, rfl, rfl, rfl, rfl, rfl, hd⟩

/-- Settles O43: ISSUE_ARBITRATION, PIP_ISSUE, and the two timeouts. -/
theorem issueSlotsPickTheirRuns : Obligations.IssueSlotsPickTheirRuns := by
  unfold Obligations.IssueSlotsPickTheirRuns
  refine ⟨fun s core pipe => ⟨execIssueArbitration_busy, issueArbitration_next, fun x => mem_look, fun c => mem_candidates⟩,
    fun s cluster pip => ⟨execPipIssue_busy, pipIssue_next, ?_, ?_⟩⟩
  · exact fun ref g => execEjectSoftTimeout_parks
  · exact fun ref lane t => execEjectHardTimeout_recalls

end Sys2Proof.Machine
end

section
/-! Blocks come and go (13 R315, R321-R324, R331, R334; 06 R132; 10 R228): O50. -/

namespace Sys2Proof.Machine

variable {s : State} {launch blk core pair entry : Nat} {l : Launch} {b : Block}

/-! What an agent places next of a launch. -/

/-- A launch that is not placed as a whole. -/
theorem not_asWhole (hw : l.lr.admitall = false ∨ l.ticket ≠ 0) : (l.lr.admitall && decide (l.ticket = 0)) = false := by
  obtain h | h := hw <;> simp [h]

section placing
variable (ha : s.agentFor l = true) (hh : s.heldForAll l = false)
include ha hh

/-- An ADMIT_ALL grid is placed as a whole (R324; log 85, DEDUCED). -/
theorem toPlace_whole (hd : l.lr.admitall = true) (hs : l.started = false) (ht : l.ticket = 0) : s.toPlace l = .whole := by
  simp only [State.toPlace, ha, hh, hd, hs, ht, Bool.not_true, Bool.not_false, Bool.or_self, Bool.and_self, decide_true, if_true,
    Bool.false_eq_true, if_false]

/-- A launch that an image brought starts once every block that finds a place stands (log 127, DEDUCED). -/
theorem toPlace_start (hs : l.started = false) (hw : l.lr.admitall = false ∨ l.ticket ≠ 0) (hm : s.mayStart l = true) :
    s.toPlace l = .start := by
  simp only [State.toPlace, ha, hh, hs, not_asWhole hw, hm, Bool.not_true, Bool.not_false, Bool.and_true, Bool.or_self,
    Bool.false_eq_true, if_false, if_true]

/-- Until then its blocks are planted again. -/
theorem toPlace_out (hs : l.started = false) (hw : l.lr.admitall = false ∨ l.ticket ≠ 0) (hm : s.mayStart l = false) {o : Block}
    (ho : s.nextRecorded l = some o) : s.toPlace l = .out o := by
  simp only [State.toPlace, ha, hh, hs, not_asWhole hw, hm, ho, Bool.not_true, Bool.not_false, Bool.and_true, Bool.or_self,
    Bool.false_eq_true, if_false, if_true]

/-- With no block imaged out, the next block of the ticket is claimed (R315). -/
theorem toPlace_next (hs : l.started = true) (ho : s.outBlocks l = []) (ht : l.ticket < l.lr.nblk) : s.toPlace l = .next := by
  simp only [State.toPlace, ha, hh, hs, ho, ht, List.find?_nil, Bool.not_true, Bool.or_self, Bool.and_false, Bool.false_and,
    Bool.false_eq_true, if_false, if_true]

end placing

/-! BLOCK_CLAIM, by what is to be placed. -/

section claims
variable (hl : s.launch? launch = some l)
include hl

theorem execBlockClaim_whole (h : s.toPlace l = .whole) : execBlockClaim launch core pair s = .next (s.readCaps.claimAll l) := by
  simp only [execBlockClaim, hl, h]

theorem execBlockClaim_out {o : Block} (h : s.toPlace l = .out o) :
    execBlockClaim launch core pair s = .next (s.readCaps.tryPlant l o core pair) := by simp only [execBlockClaim, hl, h]

theorem execBlockClaim_next (h : s.toPlace l = .next) :
    execBlockClaim launch core pair s = .next (s.readCaps.claim l core pair) := by simp only [execBlockClaim, hl, h]

theorem execBlockClaim_start (h : s.toPlace l = .start) : execBlockClaim launch core pair s = .next (s.startReplanted launch) := by
  simp only [execBlockClaim, hl, h]

end claims

/-- A cohort that finds its places is claimed as a whole (R322; log 81, DEDUCED). -/
theorem claim_placed {ps : List (Nat × Nat)} (h : s.claimPlan l core pair = some ps) : s.claim l core pair =
    (s.modLaunch l.id (fun l => { l with ticket := l.ticket + ps.length })).placeBlocks l l.ticket ps := by
  simp only [State.claim, h]

theorem claim_none (h : s.claimPlan l core pair = none) : s.claim l core pair = s := by simp only [State.claim, h]

/-! A block moves, leaves, retires. -/

section block
variable (hl : s.launch? launch = some l) (hb : s.block? launch blk = some b)

include hl hb in
theorem execBlockMigrate_moves {m : Launch} (hm : m ∈ s.launches) (hp : s.lacksPlace m = true) (hv : s.mayMove m b = true)
    (ht : s.movesTo l b core pair = true) :
    execBlockMigrate launch blk core pair s = .next (s.startProofer launch [blk] (.move core pair)) := by
  have ha : s.launches.any (fun m => s.lacksPlace m && s.mayMove m b) = true :=
    List.any_eq_true.2 ⟨m, hm, by rw [hp, hv, Bool.and_self]⟩
  simp only [execBlockMigrate, hl, hb, ha, ht, Bool.and_self, if_true]

include hl hb in
theorem execBlockImageOut_leaves (ha : s.agentFor l = true) (hp : l.proofer = none) (hf : b.life = .placed)
    (hw : s.wantsRoom l = true) (ht : ∀ t ∈ s.blockThreads launch blk, t.atWide = true)
    (hx : ∃ t ∈ s.blockThreads launch blk, t.cond ≠ .exited) :
    execBlockImageOut launch blk s = .next (s.startProofer launch [blk] .out) := by
  have hall : (s.blockThreads launch blk).all (·.atWide) = true := List.all_eq_true.2 ht
  have hsome : (s.blockThreads launch blk).all (·.cond == .exited) = false := by
    obtain ⟨t, hm, hc⟩ := hx
    exact List.all_eq_false.2 ⟨t, hm, by simpa using hc⟩
  simp only [execBlockImageOut, hl, hb, ha, hp, hf, hw, hall, hsome, Option.isSome_none, bne_self_eq_false, Bool.not_true,
    Bool.or_self, Bool.false_eq_true, if_false]

include hb in
theorem execBlockRetire_retires (hr : s.retires b = true) : execBlockRetire launch blk s = .next (s.retire b) := by
  simp only [execBlockRetire, hb, hr, if_true]

end block

/-! CHILD_ADMISSION of a context's first pending child (R334). -/

section child
variable {c : Child} {r : Launch} {rec_ : Option (List Byte)} {s1 s3 : State}
  (hc : s.children.find? (·.id == entry) = some c) (hl : s.launch? c.parent = some l) (hr : s.launch? (s.root c.parent) = some r)
  (hy : s.ready = true) (ht : s.tdi ≠ .error) (hz : r.frozen = false) (hs : l.started = true)
  (hf : s.firstChild r.id = some c) (he : c.id = entry) (hrec : s.childRecord l.pasid c = (s1, rec_))

include hf he in
/-- No other child of the context goes before the first one. -/
theorem firstChild_goes : (s.firstChild r.id).any (·.id != entry) = false := by
  rw [hf, Option.any_some, he, bne_self_eq_false]

include hc hl hr hy ht hz hs hf he hrec

theorem execChildAdmission_admits
    (hadm : State.takeOn { s1 with children := s1.children.filter (·.id != entry) } l.pasid l.cls none (some l.id)
      (if c.stands then some c.addr else none) rec_ = (s3, none)) : execChildAdmission entry s = .next s3 := by
  simp only [execChildAdmission, hc, hl, hr, hy, hz, hs, firstChild_goes hf he, hrec, hadm, beq_eq_false_iff_ne.2 ht, Bool.not_true,
    Bool.or_self, Bool.false_eq_true, if_false]

theorem execChildAdmission_refuses {reason : Nat}
    (href : State.takeOn { s1 with children := s1.children.filter (·.id != entry) } l.pasid l.cls none (some l.id)
      (if c.stands then some c.addr else none) rec_ = (s3, some reason)) :
    execChildAdmission entry s = .next ((s3.log .childRefused reason l.pasid c.wh 1 c.pc).finishContext l.id) := by
  simp only [execChildAdmission, hc, hl, hr, hy, hz, hs, firstChild_goes hf he, hrec, href, beq_eq_false_iff_ne.2 ht, Bool.not_true,
    Bool.or_self, Bool.false_eq_true, if_false]

end child

/-- Settles O50: claiming and planting, moving, leaving, retiring, admission. -/
theorem blocksComeAndGo : Obligations.BlocksComeAndGo := by
  unfold Obligations.BlocksComeAndGo
  intro s launch blk core pair entry l b u hl
  refine ⟨execBlockClaim_whole hl, fun o => execBlockClaim_out hl, fun hn => ⟨fun ps hp => ?_, fun hp => ?_⟩,
    execBlockClaim_start hl, fun ha hh hs hw => ⟨toPlace_start ha hh hs hw, fun hm o => toPlace_out ha hh hs hw hm⟩,
    fun ha hh => toPlace_whole ha hh, fun ha hh => toPlace_next ha hh,
    fun hb => ⟨fun m hm => execBlockMigrate_moves hl hb hm, execBlockImageOut_leaves hl hb, execBlockRetire_retires hb⟩, ?child⟩
  · rw [exec_blockClaim, execBlockClaim_next hl hn, claim_placed hp]
  · rw [exec_blockClaim, execBlockClaim_next hl hn, claim_none hp]
  case child =>
    rintro c r rec_ s1 s2 hc rfl hr hy ht hz hs hf he hrec rfl s3 at_ rfl
    exact ⟨execChildAdmission_admits hc hl hr hy ht hz hs hf he hrec,
      fun reason => execChildAdmission_refuses hc hl hr hy ht hz hs hf he hrec⟩

end Sys2Proof.Machine
end

section
/-! The Proofer's actions (14 R347, R348, R351): O51. -/

namespace Sys2Proof.Machine

variable {s : State}

/-! PREEMPT (R348). -/

section preempt
variable {launch : Nat} {l : Launch} (hl : s.launch? launch = some l) (hr : s.ready = true) (ht : s.tdi ≠ .error)
include hl hr ht

theorem execPreempt_moves {p : Proofer} (hp : l.proofer = some p) (hb : s.hostBarred (s.proofMove l p) = false) :
    execPreempt launch s = .next (s.proofMove l p) := by
  simp only [execPreempt, hl, hr, hp, beq_eq_false_iff_ne.2 ht, Bool.not_true, Bool.or_self, Bool.false_eq_true, if_false]
  exact waitLocked_next hb

/-- A save begins that an IMAGE_SAVE waits for (R351). -/
theorem execPreempt_begins {p : Packet} (hn : l.proofer = none)
    (hp : s.packets.find? (fun p => pkOpcode p.bytes == 4 && p.result.isNone &&
      (s.saveTarget p.q).any (·.id == launch)) = some p) (hb : s.hostBarred (s.beginSave l p) = false) :
    execPreempt launch s = .next (s.beginSave l p) := by
  simp only [execPreempt, hl, hr, hn, hp, beq_eq_false_iff_ne.2 ht, Bool.not_true, Bool.or_self, Bool.false_eq_true, if_false]
  exact waitLocked_next hb

end preempt

/-! PROOFER_CLAUSE_LIMIT (R348 step 4). -/

section limit
variable {g : GroupRef} {lane : Nat} {l : Launch} {t : Thread} {p : Proofer} (hl : s.launch? g.launch = some l)
  (hg : s.thread? g lane = some t) (hp : l.proofer = some p) (h4 : p.step = 4) (hb : p.blocks.contains g.blk = true)
  (hc : t.canonical = false) (hn : 256 ≤ t.clauses) (hi : t.cond = .issuable) (hr : s.inRun t = false)

include hl hp h4 hb in
/-- The Proofer waits, in its step 4, for the threads of the block. -/
theorem proofer_awaits :
    ((s.launch? g.launch).bind (·.proofer)).any (fun p => p.step = 4 && p.blocks.contains g.blk) = true := by
  rw [hl, Option.bind_some, hp, Option.any_some, decide_eq_true h4, hb, Bool.and_self]

include hl hg hp h4 hb hc hn hi hr

theorem execProoferClauseLimit_rollsBack {r : Region} (hreg : t.region = some r) (he : s.endsSoon t = false) :
    execProoferClauseLimit g lane s = .next (s.rollBackAll t r) := by
  simp only [execProoferClauseLimit, hg, proofer_awaits hl hp h4 hb, hc, hi, hr, hreg, he, decide_eq_false (Nat.not_lt.2 hn),
    bne_self_eq_false, Bool.not_true, Bool.or_self, Bool.false_eq_true, if_false]

theorem execProoferClauseLimit_stands (hreg : t.region = none) : execProoferClauseLimit g lane s = .next (s.standFull t) := by
  simp only [execProoferClauseLimit, hg, proofer_awaits hl hp h4 hb, hc, hi, hr, hreg, decide_eq_false (Nat.not_lt.2 hn),
    bne_self_eq_false, Bool.not_true, Bool.or_self, Bool.false_eq_true, if_false]

end limit

/-- Settles O51: PREEMPT and PROOFER_CLAUSE_LIMIT. -/
theorem prooferActs : Obligations.ProoferActs := by
  unfold Obligations.ProoferActs
  intro s launch l hl
  refine ⟨fun hr ht => ⟨fun p => execPreempt_moves hl hr ht, fun p => execPreempt_begins hl hr ht⟩, ?_⟩
  rintro g lane t p rfl hg hp h4 hb hc hn hi hr
  exact ⟨fun r => execProoferClauseLimit_rollsBack hl hg hp h4 hb hc hn hi hr,
    execProoferClauseLimit_stands hl hg hp h4 hb hc hn hi hr⟩

end Sys2Proof.Machine
end
